-- ==== Sys2Proof/Word.lean ====
section
/-! DEFINITION. The word types of the device: 32-bit registers (R15), octets. -/
namespace Sys2Proof

/-- A register of BAR0 (R15). -/
abbrev Word := BitVec 32

/-- One octet. -/
abbrev Octet := BitVec 8

end Sys2Proof
end

