-- ==== Sys2Proof/Data.lean ====
section
/-! DEFINITION. The data that a command of the block brings in from outside: arguments of a descriptor, a received frame, a
measured instant, a message of the peer. Nothing here has a meaning yet. -/
namespace Sys2Proof

/-- Which command descriptor carries a command (Tables 13-3 and 13-4): its command ring, its index there,
its TAG and its descriptor ASN. The low 16 bits of `dindex` are the index; the bits above them are the model's own number of
the pass, which tells a descriptor from an earlier one at its index that is still pending (R387, log entry 78). -/
structure CmdRef where
  ring   : Nat
  dindex : Nat
  tag    : Word
  asn    : Nat
  deriving DecidableEq, Repr

/-- Arguments of `SCHED_SLOTFRAME_SET` (Table 14-4). -/
structure SfArgs where
  sfh    : Nat
  en     : Bool
  long   : Bool
  band   : Nat
  depth  : Nat
  length : Nat
  base   : Nat
  deriving DecidableEq, Repr

/-- One entry of `SCHED_CELLS_WRITE` (Table 14-4). -/
structure CellEntry where
  slot : Nat
  pos  : Nat
  word : Word
  deriving DecidableEq, Repr

/-- Arguments of `HERD_NODE_SET` (Table 14-4). -/
structure HerdSetArgs where
  index : Nat
  pinwe : BitVec 4
  pin   : BitVec 4
  force : BitVec 8
  rung  : Nat
  drop  : BitVec 8
  power : Int
  hint  : Nat
  deriving DecidableEq, Repr

/-- The optional cell of `NODE_INSERT` (Table 14-6). -/
structure InsertCell where
  sfh   : Nat
  pos   : Nat
  slot  : Nat
  chofs : Nat
  flags : BitVec 4
  deriving DecidableEq, Repr

/-- Arguments of `NODE_INSERT` (Table 14-6). -/
structure InsertArgs where
  eui   : Nat
  fcl   : Nat
  cls   : Nat
  vref  : Nat
  hpin  : Bool
  cell  : Option InsertCell
  deriving DecidableEq, Repr

/-- Arguments of `IMG_OPEN` (Table 14-7). -/
structure ImgOpenArgs where
  session : Nat
  objid   : Nat
  size    : Nat
  sym     : Nat
  profile : Nat
  sport   : Nat
  dport   : Nat
  dst     : Nat
  outAddr : Nat
  deriving DecidableEq, Repr

/-- Arguments of `SEC_CIPHER` (Table 14-10), and the octets that stand at the addresses it names: a HOST key, the nonce, the
additional data, the input, and the tag to verify. -/
structure CipherArgs where
  mode    : Nat
  dir     : Nat
  ksrc    : Nat
  gensel  : Nat
  tagLen  : Nat
  keyLen  : Nat
  karg    : Nat
  outAddr : Nat
  tagAddr : Nat
  key     : List Octet
  nonce   : List Octet
  aad     : List Octet
  input   : List Octet
  tag     : List Octet
  /-- the writes of its output and tag succeed on the bus (R410) -/
  outOk   : Bool
  deriving DecidableEq, Repr

/-- AADLEN. -/
def CipherArgs.aadLen (a : CipherArgs) : Nat := a.aad.length
/-- INLEN. -/
def CipherArgs.inLen (a : CipherArgs) : Nat := a.input.length

/-- A command descriptor as the device reads it from host memory (Table 13-3), with the argument buffer it names, the input
octets at each address its arguments name, in the order of the command's table, whether all were read without a PCIe error,
whether the writes of its output succeed (R410), and, of a command that blows fuses, whether they read back as programmed
(R320, R423). -/
structure RawDesc where
  octets : List Octet
  buf    : List Octet
  data   : List (List Octet)
  busOk  : Bool
  outOk  : Bool
  fuseOk : Bool
  deriving DecidableEq, Repr

/-- The key a received frame was secured under, as the inputs of its derivation (Table 11-3, Table 09-7). -/
inductive KeyId where
  | node  (master gen eui vref : Nat)
  | bcast (master gen pan : Nat)
  | bad
  deriving DecidableEq, Repr

/-- A 6P message (R243, R244): request (command code; cell options, NumCells and cell list of ADD and DELETE) or response
(return code), with what the device reads. -/
inductive SixpMsg where
  | request  (version sfid seq cmd opts num : Nat) (cells : List (Nat × Nat))
  | response (seq code : Nat) (cells : List (Nat × Nat))
  deriving DecidableEq, Repr

/-- The receive metadata of Table 05-5. Frequencies in Hz, levels in 0.25 dB, symbol-rate offset in 0.01 ppm. -/
structure RxMeta where
  /-- 0 to 127 narrowband, 128 to 143 wideband -/
  chSlot  : Nat
  profile : Nat
  /-- the decoded mode: FSK FEC (bits 1:0), DW (2), mode switch (3); OFDM MCS (2:0); Eland SPREAD (1:0); FCS length (15:8) -/
  mode    : Nat
  /-- timebase at the timestamp point in units of 1.25 ns (R35) -/
  tick    : Nat
  port    : Nat
  single  : Bool
  snr1Q   : Int
  snr2Q   : Int
  rssiQ   : Int
  cfoHz   : Int
  rateOfs : Int
  /-- bits corrected -/
  fec     : Nat
  deriving DecidableEq, Repr

/-- The timestamp in whole ns. -/
def RxMeta.ts (m : RxMeta) : Nat := m.tick * 5 / 4
/-- SNR of the port chosen. -/
def RxMeta.snrQ (m : RxMeta) : Int := if m.port % 2 = 0 then m.snr1Q else m.snr2Q
/-- FCS octets of the decoded mode. -/
def RxMeta.fcs (m : RxMeta) : Nat := m.mode / 256

/-- What the demodulator measures over a frame: level at the ball in 0.25 dBm, carrier offset in Hz, symbol-rate offset in
0.01 ppm, bits corrected. -/
structure RxMeas where
  ballQ   : Int
  cfoHz   : Int
  rateOfs : Int
  deriving DecidableEq, Repr

/-- Levels in 1/4 dBm: of a further preamble, and the mean RSSI of the frame under way (R162). -/
structure PreLevels where
  rssiQ : Int
  meanQ : Int
  deriving DecidableEq, Repr

/-- A found SFD: its instant in units of 1.25 ns, and the FEC that its value names. -/
structure SfdMark where
  tick : Nat
  fec  : Nat
  deriving DecidableEq, Repr

/-- The pair of a slot receive summary, and the OCC and LEVEL measured for a channel slot. -/
structure SumIn where
  pair   : Nat
  census : List (Nat × Nat × Int)
  deriving DecidableEq, Repr

/-- A PTP message and the MAC's ingress timestamp in ns (R442). -/
structure PtpIn where
  msg   : List Octet
  stamp : Int
  deriving DecidableEq, Repr

/-- The BIST's outcome and the OTP words found wrong (R319). -/
structure BistIn where
  ok     : Bool
  otpBad : List Nat
  deriving DecidableEq, Repr

/-- A complex sample in units of the converter. -/
structure Cplx where
  re : Int
  im : Int
  deriving DecidableEq, Repr

/-- What an OFDM demodulator has of a frame after its fine carrier correction (R159): the two LTF symbols, and the symbols of
the PHR and of the data with the standard's pilot values; all by active subcarrier, with which of them are pilots. -/
structure OfdmIn where
  ref    : List Int
  ltf1   : List Cplx
  ltf2   : List Cplx
  pilots : List Nat
  phr    : List (List Cplx × List Int)
  data   : List (List Cplx × List Int)
  deriving DecidableEq, Repr

/-- What arrives of a frame up to its last bit: the PHR and PSDU bits of SUN FSK and O-QPSK, the symbols of SUN OFDM, the soft
values of the PHR chips of Eland, whose payload the LDPC pool decodes. -/
inductive RxSig where
  /-- the PHR's 16 bits, bit 0 the first on air -/
  | fsk   (phr : BitVec 16) (psdu : List Octet)
  | oqpsk (phr : Octet) (psdu : List Octet)
  | ofdm  (x : OfdmIn)
  | eland (phr : List Int)
  deriving DecidableEq, Repr

/-- An Eland codeword whose last chip has arrived (R191, R193): its demodulator, the detection instant of its frame, when its
last chip came, its number, whether it is the frame's last, its information bits, chips a bit, and the soft value of each
chip. -/
structure SoftCw where
  ch      : Nat
  frameAt : Nat
  at_     : Nat
  index   : Nat
  last    : Bool
  info    : Nat
  spread  : Nat
  soft    : List Int
  deriving DecidableEq, Repr

/-- One census entry of a slot receive summary (Table 16-3). -/
structure RxSumEntry where
  slot   : Nat
  elock  : Bool
  deaf   : Bool
  occ    : Nat
  level  : Int
  deafT  : Nat
  fcs    : Nat
  deriving DecidableEq, Repr

/-- A slot receive summary (Table 16-3): the pair, its nine counts, its three diversity counts and its census. -/
structure RxSum where
  pair    : Nat
  counts  : List Nat
  divs    : List Nat
  entries : List RxSumEntry
  deriving DecidableEq, Repr

/-- An IDENT message (R454). -/
structure Ident where
  devid  : Nat
  rev    : Nat
  patch  : Nat
  state  : Nat
  tlock  : Bool
  role   : Nat
  /-- the agreement key of the pairing, 65 octets -/
  key    : List Octet
  deriving DecidableEq, Repr

/-- Which device-written or command ring (Table 13-2); `dlv` 8 is the journal ring and 9 the snapshot ring. -/
inductive RingSel where
  | cmd (r : Nat)
  | cpl (c : Nat)
  | dlv (d : Nat)
  deriving DecidableEq, Repr

/-- An error source's report (R479 to R481). -/
structure ErrSrc where
  code   : Nat
  unit   : Nat
  sub    : Nat
  where_ : Nat
  detail : Nat
  deriving DecidableEq, Repr

/-- A host command with its arguments, as the journal carries it (R446, R461); a command that the journaling unit completed at
admission has its outcome there. -/
inductive HostCmd where
  | ended (status unit detail : Nat)
  | cfgSnapshotRead (outAddr outLen : Nat)
  | timeSetEpoch (e l : Nat)
  | timeStep (step sfh : Nat)
  | timeForce
  | rfPortSet (port target : Nat)
  | rfCalibrate (port : Nat)
  | rfBankApply
  | schedSlotframeSet (a : SfArgs)
  | schedCellsWrite (sfh : Nat) (entries : List CellEntry)
  | herdModeSet (mode autosf dlsf lag : Nat)
  | herdNodeSet (a : HerdSetArgs)
  | herdNodeRead (index outAddr : Nat)
  | nodeInsert (a : InsertArgs)
  | nodeRemove (index eui : Nat)
  | nodeRead (byEui : Bool) (key outAddr : Nat)
  | prefixInsert (key len result : Nat)
  | prefixRemove (key len : Nat)
  | pktSend (p : List Octet)
  | bcastSend (p : List Octet) (copies profile : Nat)
  | imgOpen (a : ImgOpenArgs)
  | imgLoad (session offset : Nat) (data : List Octet)
  | imgSend (session sbn esi count : Nat)
  | imgClose (session : Nat)
  | secIdentity (outAddr : Nat)
  | secAttest (kind outAddr challenge : Nat)
  | secKeyImport (blob : List Octet) (outAddr : Nat)
  | secKeygenSwitch
  | secKeyClear
  | secFcAck (gen block : Nat)
  | secFcRestore (gen block : Nat)
  | secLcAdvance (target : Nat) (token : List Octet) (secondOk : Bool)
  | secTamperAck
  | secFuseWrite (field value : Nat) (readBackOk : Bool)
  | romPatchLoad (p : List Octet)
  | secCipher (a : CipherArgs)
  | pwrEnter (target wakeAfter : Nat)
  | pairJoin (role : Nat)
  | pairTakeover
  | swapDrill (sfh : Nat)
  | pairSolo
  | journalCtl (stream : Bool)
  | journalDump
  | replayEnter
  | replayFeed (records : List Octet)
  | diagNop
  | diagIqSnapshot (win ports samples ofs : Nat)
  deriving DecidableEq, Repr

/-! ## Tamper sources -/

/-- What a tamper filter of Table 11-10 reports: the filtered level of a pin; consecutive mismatches of the lid mesh; a supply in mV;
the junction temperature in 0.25 °C; FCK over 10 µs in kHz; no SLCK edge for 1 ms. -/
inductive TampSrc where
  | pin (i : Nat) (high : Bool)
  | mesh (mismatches : Nat)
  | vddAon (mv : Nat)
  | vddCore (mv : Nat)
  | temp (quarter : Int)
  | fck (kHz : Nat)
  | slck
  deriving DecidableEq, Repr

/-- A tamper filter's report, and for how many ns its source shows the condition. -/
structure TampIn where
  source : TampSrc
  hold   : Nat
  deriving DecidableEq, Repr

end Sys2Proof
end

