-- ==== Sys2Proof/Parts.lean ====
section
/-! DEFINITION. The components of the state, block by block, as plain data (INVENTORY.md, '## State'); the sections of a
snapshot and the records of the journal, which carry them between units. -/
namespace Sys2Proof.Machine

/-! ## Host interface (13_host_interface.md) -/

/-- Contents of a completion (Table 13-4), without ring position and PHASE. `result` holds RESULT octets 0 to 7 as a
little-endian number. -/
structure Cpl where
  opcode : Nat
  status : Nat
  unit   : Nat
  tag    : Word
  asn    : Nat
  result : Nat
  detail : Nat
  /-- journal sequence number in force at its making (R459) -/
  jseq   : Nat
  deriving DecidableEq, Repr

/-- State of one reserved slot of a completion ring (R391, R392). -/
inductive SlotSt where
  | reserved
  | done  (c : Cpl)
  | valid (c : Cpl)
  deriving DecidableEq, Repr

/-- One reserved slot and the descriptor it belongs to. -/
structure CplSlot where
  ring   : Nat
  dindex : Nat
  tag    : Word
  opcode : Nat
  st     : SlotSt
  deriving DecidableEq, Repr

/-- A command ring (R378 to R387): consumer index, PHASE of the current pass, producer index, shadow word written and those held
back with the journal sequence number in force at each (R459), descriptors that stand in host memory up to the producer index and
are not yet admitted; `pass` is the model's own
count of passes and restarts (log entry 78). -/
structure CRing where
  ci      : Nat
  phase   : Bool
  pass    : Nat
  pi      : Nat
  shadow  : Nat
  held    : List (Nat × Nat)
  fetched : List RawDesc
  deriving DecidableEq, Repr

/-- A completion ring: host consumer index, next slot to reserve, the reserved slots from the host consumer index on,
whether it is armed and the time of the first counted entry (R389). -/
structure CplRing where
  hostCi  : Nat
  nextSlot : Nat
  slots   : List CplSlot
  armed   : Bool
  firstAt : Option Nat
  deriving DecidableEq, Repr

/-- A record for a device-written ring (Tables 13-5 and 13-6): TYPE, STATUS, INFO, stamps, data length in octets, the 8-octet
fields of R398 (signed fields as 64-bit two's complement) and the octets behind them, or for a GAP its COUNT in `len`. -/
structure HRec where
  typ    : Nat
  status : Nat
  info   : Nat
  asn    : Nat
  time   : Nat
  len    : Nat
  fields : List Nat
  tail   : List Octet
  jseq   : Nat
  deriving DecidableEq, Repr

/-- A delivery, journal or snapshot ring: next SEQ, host consumer index, producer index, records written and not yet
returned with their PHASE and SEQ, armed state (R389, R396). Records waiting stand in its egress queue. -/
structure DRing where
  seq     : Nat
  hostCi  : Nat
  prod    : Nat
  out     : List (HRec × Bool × Nat)
  armed   : Bool
  firstAt : Option Nat
  deriving DecidableEq, Repr

/-- An admitted command that has not completed: its descriptor, opcode and the completion ring that holds its slots
(none when the ring was disabled at its admission). -/
structure Adm where
  ref    : CmdRef
  opcode : Nat
  cpl    : Option Nat
  /-- timebase at its admission (R554) -/
  at_    : Nat
  /-- sequence number of its CMD record; none where no journal was written at its admission -/
  jseq   : Option Nat
  deriving DecidableEq, Repr

structure HifSt where
  cring     : List CRing
  cpl       : List CplRing
  dring     : List DRing
  admitted  : List Adm
  busMaster : Bool
  d3hot     : Bool
  /-- SPEED and WIDTH of HIF_STATUS; 0 while the link is down -/
  speed     : Nat
  width     : Nat
  ready     : Bool
  /-- MSI-X Pending Bit Array: vectors with a pending bit -/
  pba       : List Nat
  /-- completions discarded and records dropped since the link went down, for HIF_LINKRESET; none when not owed -/
  linkReset : Option (Nat × Nat)
  /-- MSI-X messages sent (output), latest first -/
  msgs      : List Nat
  /-- the output buffers that the last command to write any wrote to host memory: address and octets (R395, R410) -/
  outBuf    : List (Nat × List Octet)
  /-- completions that the last software reset wrote to host memory, in slot order (output; R531) -/
  final     : List Cpl
  /-- what the delivery and journal rings held in host memory at the last software reset, by ring: records with PHASE and SEQ (R531) -/
  finalRecs : List (Nat × HRec × Bool × Nat)
  deriving DecidableEq, Repr

/-! ## Buffers, queues and FIFOs (12_queues_fifos.md) -/

/-- Where a packet-memory frame came from and to whom its outcome is reported: the command and part number, or none. -/
structure FrameRef where
  cmd  : Option CmdRef
  part : Nat
  deriving DecidableEq, Repr

/-- What an egress queue holds: an Ethernet packet, a record, or the place of `n` lost records (R396), with the SEQ of the
first lost one where it is not the ring's next. -/
inductive EgBody where
  | packet (p : List Octet)
  | record (r : HRec)
  | gap (n : Nat) (first : Option Nat)
  deriving DecidableEq, Repr

structure EgItem where
  body  : EgBody
  cells : List Nat
  deriving DecidableEq, Repr

/-- A QFLOW pin (R371): active, and since when. -/
structure QPin where
  active : Bool
  since  : Nat
  deriving DecidableEq, Repr

structure QueSt where
  /-- free cells of each pool, as half-open intervals in first-in first-out order (R356) -/
  free    : List (List (Nat × Nat))
  /-- cells in use -/
  used    : List Nat
  wrDrop  : Bool
  /-- 0 to 11 of Table 12-2; 12 the journal ring, 13 the snapshot ring -/
  egress  : List (List EgItem)
  /-- watermark sources with ABOVE set (R369) -/
  above   : List Nat
  qflow   : List QPin
  /-- when the last PAUSE frame of each port was sent, while its repeats run (R372) -/
  pauseAt : List (Option Nat)
  /-- PAUSE frames each port has yet to send, by pause_time (R372) -/
  pauseTx : List (List Nat)
  deriving DecidableEq, Repr

/-! ## Timebase and time sources (02_mesh_time.md) -/

/-- Timebase states of Table 02-4, in the order of `TIME_STATUS.STATE`. -/
inductive TimeState where
  | acquire
  | locked
  | holdover
  | drifted
  deriving DecidableEq, Repr

/-- Qualification of one source, or of one air peer (R57 to R59, R72). -/
structure SrcSt where
  qualified : Bool
  /-- consecutive accepted references; consecutive missed or rejected ones -/
  okRun     : Nat
  badRun    : Nat
  /-- the previous accepted offset, with the slew applied up to it (R58) -/
  prev      : Option (Int × Rat)
  /-- accepted offsets since the last load or step, newest first -/
  offs      : List Int
  qualAt    : Nat
  /-- `TIME_SRC_DISAGREE` raised since the last qualification -/
  disagreed : Bool
  /-- the reference whose interval spans a step is still to be discarded (R81) -/
  skip      : Bool
  deriving DecidableEq, Repr

def SrcSt.reset : SrcSt := ⟨false, 0, 0, none, [], 0, false, false⟩

/-- A `TIME_STEP` awaiting its boundary (R80). -/
structure StepReq where
  ref   : CmdRef
  step  : Nat
  sfh   : Nat
  after : Nat
  deriving DecidableEq, Repr

/-- A 1PPS pulse: active edge, its width (none while no trailing edge has come), its second when LOCKED, the slew applied up
to its edge (R63), a TOD message that came before its outcome, with the time of its last byte (R66). -/
structure Pulse where
  edge  : Nat
  width : Option Nat
  sec   : Nat
  slew  : Rat
  msg   : Option (Nat × List Octet)
  deriving DecidableEq, Repr

structure PpsSt where
  /-- last accepted active edge; last accepted edge of either kind; when EN was set -/
  lastActive : Option Nat
  lastEdge   : Option Nat
  enabledAt  : Nat
  pulse      : Option Pulse
  /-- active edge of the previous pulse with a good width, with the slew applied up to it (R63) -/
  prevGood   : Option (Nat × Rat)
  noisy      : Bool
  noisyAt    : Nat
  /-- the good-width pulse a TOD message may name: active edge, whether it was GOOD and awaits its message (R62, R66) -/
  todFor     : Option (Nat × Bool)
  /-- missing seconds decided since the last active edge (R62) -/
  missing    : Nat
  /-- bytes of a partial TOD message and when the last arrived (R65) -/
  tod        : List Octet
  todAt      : Nat
  deriving DecidableEq, Repr

/-- PTP slave state of one port (R68, R69, R443): the two-step Sync awaiting its Follow_Up (sequence, t2, time), t1 and t2 of the
last complete Sync, the Delay_Req sent (sequence, t3) and when, the mean path delay and its time, announced intervals (log2 of
seconds; the Delay_Req's from the first Delay_Resp on). t1 to t3 and the delay are in units of 2^-16 ns. -/
structure PtpSt where
  wait     : Option (Nat × Int × Int)
  sync     : Option (Int × Int)
  delayReq : Option (Nat × Int)
  delaySeq : Nat
  mpd      : Option Int
  mpdAt    : Nat
  syncLog  : Int
  delayLog : Option Int
  reqAt    : Option Nat
  lastSync : Nat
  deriving DecidableEq, Repr

def PtpSt.reset : PtpSt := ⟨none, none, none, 0, none, 0, 0, none, none, 0⟩

structure TimeSt where
  /-- timebase: whole ns, and the fraction in units of 2^-32 ns (R52) -/
  tb        : Nat
  sub       : Nat
  loaded    : Bool
  /-- loaded since ACQUIRE was last entered (Table 02-4) -/
  acqLoaded : Bool
  epochSet  : Bool
  forced    : Bool
  epoch     : Nat
  /-- L in units of 0.25 ms -/
  slotLen   : Nat
  st        : TimeState
  src       : Nat
  srcs      : List SrcSt
  /-- the four peers of R70, and the ASN at which the next beacon of each is expected -/
  peers     : List SrcSt
  bcnDue    : List (Option Nat)
  /-- integral term and adjustment in ppb (R72); timebase of the last reference the loop acted on -/
  fi        : Rat
  f         : Rat
  loopAt    : Option Nat
  /-- phase slew applied up to `slewAt`, ns -/
  slew      : Rat
  slewAt    : Nat
  /-- no slew: an accepted offset was beyond SLEWLIM (Table 02-4) -/
  noSlew    : Bool
  /-- the samples of f of the last 64 s with their times, newest first; how many since the load (R73) -/
  samples   : List (Nat × Rat)
  sampled   : Nat
  freqUnc   : Nat
  /-- estimated error at the last accepted reference, and its time; reconstructed estimate (R79, R85) -/
  e0        : Rat
  accAt     : Nat
  recon     : Option Rat
  step      : Option StepReq
  stepSum   : Nat
  /-- ns per SLCK period in Q32 (R83); the last ratios, newest first -/
  ratio     : Nat
  ratios    : List Nat
  slckUnc   : Nat
  keepT0    : Nat
  keepSub   : Nat
  keepC0    : Nat
  utcOff    : Int
  /-- announced leap second: +1 or -1, 0 none (R67) -/
  leap      : Int
  epochRej  : Nat
  /-- since a wake under R85, until the next LOCKED (R218) -/
  sinceWake : Bool
  pps       : PpsSt
  ptp       : List PtpSt
  /-- ASN of the last boundary processed -/
  lastAsn   : Option Nat
  deriving DecidableEq, Repr

def TimeSt.reset : TimeSt where
  tb := 0
  sub := 0
  loaded := false
  acqLoaded := false
  epochSet := false
  forced := false
  epoch := 0
  slotLen := 40
  st := .acquire
  src := 0
  srcs := [SrcSt.reset, SrcSt.reset, SrcSt.reset, SrcSt.reset]
  peers := [SrcSt.reset, SrcSt.reset, SrcSt.reset, SrcSt.reset]
  bcnDue := [none, none, none, none]
  fi := 0
  f := 0
  loopAt := none
  slew := 0
  slewAt := 0
  noSlew := false
  samples := []
  sampled := 0
  freqUnc := 0
  e0 := 0
  accAt := 0
  recon := none
  step := none
  stepSum := 0
  ratio := 0x7735_9400_0000
  ratios := []
  slckUnc := 0xFFFF
  keepT0 := 0
  keepSub := 0
  keepC0 := 0
  utcOff := 0
  leap := 0
  epochRej := 0
  sinceWake := false
  pps := ⟨none, none, 0, none, none, false, 0, none, 0, [], 0⟩
  ptp := [PtpSt.reset, PtpSt.reset]
  lastAsn := none
/-! ## Radio front (03_rf_front.md) -/

/-- SPLL states in the order of `CLK_SPLLSTAT.STATE` (R89). -/
inductive SpllState where
  | off
  | band
  | locking
  | locked
  | unlocked
  deriving DecidableEq, Repr

/-- Port states of Table 03-2, in the order of STATE; `on` is RX for an RFIN port and TX for an RFOUT port. -/
inductive PortState where
  | off
  | cal
  | idle
  | on
  deriving DecidableEq, Repr

/-- A carrier position in use: its number, its transmission, its transmit channel entry, centre frequency in Hz and level in
0.25 dBm (R107, R127, R132); once the carrier has ended, when the position is released. -/
structure Carrier where
  pos   : Nat
  id    : Nat
  entry : Nat
  freq  : Nat
  level : Int
  until_ : Option Nat
  deriving DecidableEq, Repr

/-- One RF port: 0 to 3 RFIN_A to RFIN_D, 4 and 5 RFOUT_A and RFOUT_B. -/
structure Port where
  st        : PortState
  /-- transition in progress: next state and the timebase at which it is reached (Table 03-3) -/
  trans     : Option (PortState × Nat)
  /-- the commanded resting state; an `RF_PORT_SET` has set it (R554) -/
  cmd       : PortState
  told      : Bool
  failed    : Bool
  advised   : Bool
  /-- paused by the clip detector; when HANG elapses (R109) -/
  clipping  : Bool
  clipUntil : Nat
  tempDelta : Nat
  /-- `RF_PORT_SET` admitted and not yet in effect: command, target, ASN -/
  pending   : List (CmdRef × PortState × Nat)
  /-- `RF_PORT_SET` in effect, completing when the target is reached -/
  waiting   : List (CmdRef × PortState)
  /-- `RF_CALIBRATE` admitted and not started: command, ASN -/
  calPend   : Option (CmdRef × Nat)
  /-- calibration run in progress: the command (none at start-up), start -/
  calRun    : Option (Option CmdRef × Nat)
  carriers  : List Carrier
  /-- lingering in TX with no carrier until (R96) -/
  linger    : Option Nat
  /-- FEM row driven: 0 OFF, 1 CAL, 2 IDLE, 3 TX (R111); when FEMHOLD ends -/
  femRow    : Nat
  femUntil  : Option Nat
  /-- background trim steps taken (R101) -/
  trims     : Nat
  deriving DecidableEq, Repr

def Port.reset : Port where
  st := .off
  trans := none
  cmd := .off
  told := false
  failed := false
  advised := false
  clipping := false
  clipUntil := 0
  tempDelta := 0
  pending := []
  waiting := []
  calPend := none
  calRun := none
  carriers := []
  linger := none
  femRow := 0
  femUntil := none
  trims := 0

/-- A DEAF channel slot (R107): the transmission that deafens it, since when; the end of the span, once its carrier's end is
known. -/
structure DeafRec where
  ch     : Nat
  id     : Nat
  since  : Nat
  until_ : Option Nat
  deriving DecidableEq, Repr

structure RfSt where
  spll     : SpllState
  attempts : Nat
  failed   : Bool
  refOk    : Bool
  refLostAt : Option Nat
  /-- an SPLL calibration admitted (command, ASN), and the run in progress (command, start) -/
  spllPend : Option (CmdRef × Nat)
  spllRun  : Option (CmdRef × Nat)
  /-- end of the SPLL phase in progress (BAND or LOCKING); start of the attempts in progress (R102) -/
  spllAt   : Nat
  spllFrom : Nat
  ports    : List Port
  /-- COEX_REQ, COEX_PRI; the filtered grant; since when it has been denied (R113 to R115) -/
  coexReq  : Bool
  coexPri  : Bool
  grant    : Bool
  denied   : Option Nat
  /-- the polarity latch of the always-on domain (R514); REQ_POL written since the last main reset -/
  polLatch : Bool
  polSet   : Bool
  deaf     : List DeafRec
  deriving DecidableEq, Repr

def RfSt.reset : RfSt where
  spll := .off
  attempts := 0
  failed := false
  refOk := false
  refLostAt := none
  spllPend := none
  spllRun := none
  spllAt := 0
  spllFrom := 0
  ports := [Port.reset, Port.reset, Port.reset, Port.reset, Port.reset, Port.reset]
  coexReq := false
  coexPri := false
  grant := true
  denied := none
  polLatch := false
  polSet := false
  deaf := []
/-! ## Channel bank (04_channel_bank.md) -/

/-- A `RF_BANK_APPLY` awaiting its ASN, with the snapshot of the staging registers taken at its admission (R137). -/
structure Apply where
  ref  : CmdRef
  asn  : Nat
  snap : List (Nat × Word)
  deriving DecidableEq, Repr

structure BankSt where
  apply    : Option Apply
  /-- `CHB_APPLYERR` and `CHB_APPLYDET` -/
  applyErr : Nat
  applyDet : Nat
  deriving DecidableEq, Repr
/-! ## Demodulators (05_phy_modes.md, 06_eland_mode.md) -/

/-- A start of frame that was found: timestamp in 1.25 ns, FEC that its value names, chosen port, single-port mark, SNR of the
pair's two ports (R110, R146). -/
structure Sfd where
  tick   : Nat
  fec    : Nat
  port   : Nat
  single : Bool
  snr1Q  : Int
  snr2Q  : Int
  deriving DecidableEq, Repr

/-- The lock a demodulator holds on one preamble or frame (R160 to R164). -/
structure Lock where
  profile : Nat
  /-- RSSI of the lock, 0.25 dB -/
  rssiQ   : Int
  /-- when the preamble was detected -/
  at_     : Nat
  sfd     : Option Sfd
  /-- a mode-switch PHR was received and the new-mode preamble is awaited until (R149) -/
  msUntil : Option Nat
  /-- the frame follows a mode-switch PHR -/
  ms      : Bool
  deriving DecidableEq, Repr

/-- Demodulator n: narrowband 0 to 127, wideband 128 to 143. -/
structure Demod where
  ch   : Nat
  lock : Lock
  deriving DecidableEq, Repr

/-- Counts of the slot receive summary of one pair (Table 16-3): the nine counts in their order, the three diversity
counts, by channel slot the FCS failures and the ns of DEAF so far; the ASN whose summary was
admitted last. -/
structure RxCounts where
  counts : List Nat
  divs   : List Nat
  fcs    : List (Nat × Nat)
  deaf   : List (Nat × Nat)
  lastAsn : Option Nat
  deriving DecidableEq, Repr

def RxCounts.reset : RxCounts := ⟨[0, 0, 0, 0, 0, 0, 0, 0, 0], [0, 0, 0], [], [], none⟩

/-- An Eland codeword that the pool has decoded: its frame (demodulator and detection instant), its number, its information
bits, whether the syndrome was zero, coded bits whose decision changed (R191, R194). -/
structure CwDone where
  ch      : Nat
  frameAt : Nat
  index   : Nat
  bits    : List Bool
  good    : Bool
  fixed   : Nat
  deriving DecidableEq, Repr

/-- An Eland frame whose last chip has come and whose codewords are not all decoded (R192, R193): its metadata, LENGTH, and the
detection instant that names it. -/
structure ElWait where
  md      : RxMeta
  frameAt : Nat
  len     : Nat
  deriving DecidableEq, Repr

structure RxSt where
  /-- the demodulators that hold a lock, by ascending channel slot -/
  locks : List Demod
  sums  : List RxCounts
  /-- the frames in each receive handoff FIFO, oldest first: metadata and PSDU -/
  out   : List (List (RxMeta × List Octet))
  /-- codewords that wait for a decoder, in the order of decoding; those decoded of frames that have not ended -/
  pool  : List SoftCw
  cws   : List CwDone
  elWait : List ElWait
  deriving DecidableEq, Repr
/-! ## Node table and prefix memory (10_tables.md) -/

/-- The Herd record of a node entry (Table 08-1, words 11 to 15 of Table 10-1), in the units of its fields; RSSI and
SNR are none until the first measurement loads them (R236, R237). -/
structure HerdRec where
  rssi    : Option Int
  snr     : Option Int
  holdcnt : Nat
  txn     : Nat
  psr     : Nat
  psrg    : List Nat
  rung    : Nat
  dlcells : Nat
  pin     : Nat
  drop    : Nat
  pend    : Nat
  hint    : Nat
  map     : Nat
  pwr     : Nat
  seq6p   : Nat
  dropasn : Nat
  deriving DecidableEq, Repr

/-- A node entry (Table 10-1), at node index `idx`; an entry is listed while VALID is 1. DLEMPTY, DLHEAD and DLTAIL are
those of `dl`, the identities of the frames on the node's downlink list, in order. PARENT is 0x7_FFFE for ROOT and
0x7_FFFF for NONE. -/
structure Node where
  idx     : Nat
  eui     : Nat
  tomb    : Bool
  lost    : Bool
  resync  : Bool
  hit     : Bool
  hpin    : Bool
  pnoexp  : Bool
  nm      : Nat
  cls     : Nat
  synth   : Bool
  parent  : Nat
  pexp    : Nat
  fcl     : Nat
  asnl    : Nat
  lsync   : Nat
  drift   : Int
  /-- no sync yet since the insertion or since it was LOST: the next one loads DRIFT (R220) -/
  noSync  : Bool
  cellref : Nat
  fo      : Int
  ro      : Int
  /-- timebase of the last FO and RO measurement (R157) -/
  foAt    : Nat
  dl      : List Nat
  childref : Nat
  herd    : HerdRec
  vref    : Nat
  deriving DecidableEq, Repr

/-- A prefix entry (R312): key (128 bits), length of its mask, result. -/
structure Pfx where
  key : Nat
  len : Nat
  res : Nat
  deriving DecidableEq, Repr

structure TblSt where
  /-- entries with VALID set, by ascending node index -/
  nodes   : List Node
  agePos  : Nat
  /-- the boundary of the last visit (R309) -/
  ageAsn  : Option Nat
  /-- EUI-64s reported most recently, newest first, with the reception ASN (R308) -/
  learned : List (Nat × Nat)
  /-- notices posted by reception ASN (R308) -/
  learnAt : List (Nat × Nat)
  /-- the active bank and its entries in lookup order; the shadow bank as it was last left -/
  bank    : Nat
  pfx     : List Pfx
  shadow  : List Pfx
  /-- keys and lengths of entries with broken parity, which return DROP (code 0x0110) -/
  pfxBad  : List (Nat × Nat)
  deriving DecidableEq, Repr

def TblSt.reset : TblSt := ⟨[], 0, none, [], [], 0, [], [], []⟩
/-! ## Schedule and transmissions (07_slot_engine.md) -/

/-- A slotframe record (Table 07-2). -/
structure SfRec where
  long   : Bool
  band   : Nat
  depth  : Nat
  length : Nat
  base   : Nat
  deriving DecidableEq, Repr

/-- One definition of a slotframe on a handle (R202): in use from `act` up to `rem`; the commands that have not yet taken
effect. -/
structure SfUse where
  rec_   : SfRec
  act    : Nat
  actRef : Option CmdRef
  /-- the activation has taken effect -/
  begun  : Bool
  rem    : Option Nat
  remRef : Option CmdRef
  deriving DecidableEq, Repr

/-- A `SCHED_CELLS_WRITE` awaiting its ASN (R203); no command for Collie's own writes. `act` is the activation ASN of the
definition of the handle that it was checked against. -/
structure CellsReq where
  ref     : Option CmdRef
  asn     : Nat
  sfh     : Nat
  act     : Nat
  entries : List CellEntry
  deriving DecidableEq, Repr

structure SchSt where
  /-- the definitions of each handle, in time order -/
  sf       : List (List SfUse)
  /-- the schedule store: cell words that are not 0, canonical -/
  store    : List (Nat × Word)
  writes   : List CellsReq
  tmplDrop : Bool
  /-- maps 16 to 31, written by Collie: (map, word j) pairs as 8 × map + j, canonical (R206) -/
  maps     : List (Nat × Word)
  deriving DecidableEq, Repr

def SchSt.reset : SchSt := ⟨List.replicate 64 [], [], [], false, []⟩

/-- What a frame in packet memory is. -/
inductive FrameKind where
  /-- a unicast data frame to a node -/
  | data (node : Nat)
  /-- copy of a `BCAST_SEND`, under its profile -/
  | bcast (profile : Nat)
  /-- image symbol of a session -/
  | image (session profile : Nat)
  /-- a 6P message to a node: true for the CLEAR and ADD requests that await a response -/
  | sixp (node : Nat) (req : Bool)
  deriving DecidableEq, Repr

/-- A frame held in packet memory (R355). `part` of `parts` frames of the command or packet. -/
structure Frame where
  id      : Nat
  kind    : FrameKind
  cmd     : Option CmdRef
  part    : Nat
  parts   : Nat
  /-- MAC payload; of a 6P frame, its message -/
  oct     : List Octet
  retries : Nat
  cells   : List Nat
  jseq    : Nat
  /-- order of admission among all downlink frames -/
  order   : Nat
  /-- announcement IEs the frame carries are not part of it; whether an acknowledgement is requested -/
  ackReq  : Bool
  /-- MAC sequence number, from the first preparation on (Table 09-1) -/
  seq     : Option Nat
  deriving DecidableEq, Repr

/-- MAC payload octets. -/
def Frame.len (f : Frame) : Nat := f.oct.length

/-- A command whose frames have not all reached their final outcome: how many, and what each ended with (R275, R287,
R420). -/
structure Parts where
  ref   : CmdRef
  node  : Nat
  total : Nat
  outs  : List (Nat × Nat)
  deriving DecidableEq, Repr

/-- What a decision changes for a node (R248). -/
inductive AnnKind where
  | map
  | profile
  | power
  | hint
  deriving DecidableEq, Repr

/-- A decision announced to a node and not yet in force (PEND): its kind and value. -/
structure Ann where
  node  : Nat
  kind  : AnnKind
  value : Int
  deriving DecidableEq, Repr

inductive TxKind where
  | unicast
  | shared
  | bulk
  | beacon
  | ack
  deriving DecidableEq, Repr

/-- States of a transmit cell (Table 07-6), with the radio side's part of STAGED: handed over, ramping, held. -/
inductive TxPhase where
  | staged
  | ramping
  | held
  | onAir
  | ackWait
  deriving DecidableEq, Repr

/-- A transmission from its staging to its end. Instants in ns on the timebase. -/
structure Tx where
  id      : Nat
  kind    : TxKind
  phase   : TxPhase
  port    : Nat
  entry   : Nat
  chIdx   : Nat
  freq    : Nat
  profile : Nat
  node    : Nat
  frame   : Option Nat
  sfh     : Nat
  /-- ASN of its cell; of the slot in which its transmission starts (R268); preamble units its guard adds (R219) -/
  asn     : Nat
  vasn    : Nat
  ext     : Nat
  /-- nominal preamble start T, start with its guard, airtime: core values (R212, R219) -/
  t       : Nat
  start   : Nat
  airtime : Nat
  /-- symbol-clock correction in 0.01 ppm (R158) -/
  rate    : Int
  /-- key of the mode-switch PPDU that goes first (R149) -/
  msKey   : Option Nat
  /-- the PSDU as it goes on air, FCS included (R208, R267) -/
  psdu    : List Octet
  /-- first sample of the carrier in units of 1.25 ns, once it has started (R35); radio side -/
  onTick  : Option Nat
  /-- COEX_REQ has been raised for it; radio side -/
  asked   : Bool
  /-- hold of the journaled SENT outcome, ns (R105) -/
  late    : Nat
  /-- outcome yielded by the radio side and not yet journaled: outcome, hold in µs -/
  yield   : Option (Nat × Nat)
  ackReq  : Bool
  /-- MAC sequence number; level at the ball in 0.25 dBm (R131); class bit of `RFTX_COEXCFG.PRIMASK`: 0 ACK, 1 BEACON,
  2 DATA, 3 BULK (R113); listen-before-talk applies (R229); earliest COEX_REQ (R113) -/
  seq     : Nat
  level   : Int
  cls     : Nat
  lbt     : Bool
  coexFrom : Nat
  /-- the announcements that the frame carries (R248) -/
  ann     : List Ann
  /-- of an Enhanced ACK: sender's EUI-64, clock offset o in ns and verified ASN of the uplink it answers (R220) -/
  sync    : Option (Nat × Int × Nat)
  deriving DecidableEq, Repr

/-- Airtime charged to a transmission's entry and sub-band (R225 to R227), by its reservation time: ns since E on the
timebase less the steps taken. With W = 0 no entry is charged (R225). -/
structure Charge where
  id    : Nat
  entry : Option Nat
  sub   : Option Nat
  at_   : Nat
  ns    : Nat
  kept  : Bool
  deriving DecidableEq, Repr

/-- A carrier of the device's own that a journaled SENT outcome reports: port, frequency, first and last instant (R239). -/
structure AirRec where
  port  : Nat
  freq  : Nat
  from_ : Nat
  to_   : Nat
  deriving DecidableEq, Repr

structure TxSt where
  txs     : List Tx
  charges : List Charge
  /-- frames in packet memory and the BULK queue of frame identities, in order -/
  frames  : List Frame
  bulk    : List Nat
  parts   : List Parts
  /-- next identity of a frame or transmission -/
  next    : Nat
  air     : List AirRec
  deriving DecidableEq, Repr

def TxSt.reset : TxSt := ⟨[], [], [], [], [], 0, []⟩
/-! ## Herd (08_herd_scheduling.md) -/

/-- A journal item that Herd has yet to measure at the next boundary (R232, R237). RSSI and SNR in 1/16 dB. -/
inductive HItem where
  /-- an accepted uplink frame; `gap` skipped frame counters (Table 08-2) -/
  | uplink (node : Nat) (rssi snr : Int) (gap : Nat)
  | ack (node : Nat) (rssi snr : Int)
  | overheard (node : Nat) (rssi snr : Int)
  /-- a downlink attempt that ended SENT_ACKED or, unexcused, NO_ACK, on a channel index -/
  | attempt (node chIdx : Nat) (acked : Bool)
  | census (asn : Nat) (entries : List RxSumEntry)
  | sixp (node : Nat) (msg : SixpMsg)
  | lost (node : Nat)
  /-- an `RF_BANK_APPLY` has taken effect; the drop sets that were valid before it -/
  | applied (was : List Nat)
  deriving DecidableEq, Repr

/-- Herd's outputs, which take effect at ASN `at_` (R232). -/
inductive HOut where
  | announce (node : Nat) (kind : AnnKind) (value : Int)
  | advise (node kind : Nat) (value : Int)
  | ask (node cmd : Nat) (cands : List (Nat × Nat))
  | write (node slot ch : Nat)
  /-- agreed cells are gone; `own` where a transaction of the device's own ends with it -/
  | drop (node : Nat) (own : Bool) (cells : List (Nat × Nat))
  | dropAll (node : Nat)
  /-- a response: return code, the request's SeqNum, what follows its header -/
  | reply (node code seq : Nat) (body : List Octet)
  | noCell (node : Nat)
  | fail (node code : Nat)
  deriving DecidableEq, Repr

structure HDec where
  at_  : Nat
  /-- boundary whose work decided it -/
  from_ : Nat
  out  : HOut
  deriving DecidableEq, Repr

/-- An open 6P transaction of the device's own: command, candidate cells (slot offset, channel offset), when its request
was acknowledged (R243, R244). -/
structure Sixp where
  node  : Nat
  cmd   : Nat
  cands : List (Nat × Nat)
  ackAt : Option Nat
  deriving DecidableEq, Repr

structure HerdSt where
  items   : List HItem
  decs    : List HDec
  anns    : List Ann
  sixp    : List Sixp
  /-- nodes held off after a failure, until (ns); nodes whose first transaction is a CLEAR (R244, R245) -/
  holdoff : List (Nat × Nat)
  clear   : List Nat
  /-- runs of NO_FRAME of DLSF cells, by store word -/
  idle    : List (Nat × Nat)
  /-- OCC and LEVEL of channel indexes that are not 0 -/
  occ     : List (Nat × Nat × Int)
  gd      : Nat
  /-- busy marks: transmit entry, ASN (R247), and the channel slot that is shielded -/
  busy    : List (Nat × Nat × Nat)
  grpDrop : Bool
  /-- MODE is not OFF and the Collie maps are written (R249) -/
  mapsOn  : Bool
  deriving DecidableEq, Repr

def HerdSt.reset : HerdSt := ⟨[], [], [], [], [], [], [], [], 0, [], false, false⟩
/-! ## MAC and adaptation (09_frames_adaptation.md) -/

/-- A reassembly context (R276): key, ASN of its first fragment, fragments held as offset, octets and cells. -/
structure ReCtx where
  node  : Nat
  tag   : Nat
  size  : Nat
  asn   : Nat
  frags : List (Nat × List Octet × List Nat)
  deriving DecidableEq, Repr

/-- An open image session (R286): object, partition, octets loaded, cells, block last computed. -/
structure ImgSess where
  objid   : Nat
  f       : Nat
  t       : Nat
  z       : Nat
  kl      : Nat
  ks      : Nat
  zl      : Nat
  zs      : Nat
  profile : Nat
  sport   : Nat
  dport   : Nat
  dst     : Nat
  loaded  : Nat
  data    : List Octet
  cells   : List Nat
  deriving DecidableEq, Repr

/-- An `IMG_SEND` awaiting its link boundary (R288). -/
structure RqReq where
  ref     : CmdRef
  session : Nat
  sbn     : Nat
  esi     : Nat
  count   : Nat
  asn     : Nat
  deriving DecidableEq, Repr

structure AdpSt where
  fragTag : Nat
  ctxs    : List ReCtx
  img     : List (Option ImgSess)
  rq      : List RqReq
  /-- sequence number of the next frame sent (Table 09-1) -/
  macSeq  : Nat
  deriving DecidableEq, Repr

def AdpSt.reset : AdpSt := ⟨0, [], [none, none], [], 0⟩
/-! ## Life cycle, keys and engines (11_security.md) -/

/-- A vault slot (Table 11-4). `master` names the network master it holds. -/
structure KeySlot where
  valid   : Bool
  pending : Bool
  retired : Bool
  gen     : Nat
  act     : Nat
  master  : Nat
  deriving DecidableEq, Repr

def KeySlot.reset : KeySlot := ⟨false, false, false, 0, 0, 0⟩

/-- A `SEC_CIPHER` operation admitted to engine 3 (R341), with the key bound to it at its admission: streaming operations
post an interim completion. -/
structure CipherOp where
  ref    : CmdRef
  args   : CipherArgs
  stream : Bool
  key    : List Octet
  deriving DecidableEq, Repr

structure SecSt where
  /-- LC fuses, OWNERID, OWNERTAMP (Table 11-1); the 64-bit words of the OTP array found uncorrectable when the fuses were
  loaded, and FUSEERR (R315) -/
  lc        : Nat
  ownerId   : Nat
  ownerTamp : Nat
  otpBad    : List Nat
  fuseErr   : Bool
  rootOk    : Bool
  tlock     : Bool
  vfuseOk   : Bool
  /-- vault slots 0 and 1; which is CURRENT -/
  slots     : List KeySlot
  cur       : Nat
  /-- pending switch (in the vault) and the command that awaits it -/
  sw        : Option Nat
  swRef     : Option CmdRef
  fcNext    : Nat
  /-- values drawn for cells at or after a pending switch (R330, R334) -/
  fcPre     : Nat
  fcRes     : Nat
  fcAck     : Nat
  fcValid   : Bool
  /-- `FC_STALL` raised for the present stall; `FC_LOW` raised for this generation -/
  fcStalled : Bool
  fcLow     : Bool
  /-- key cache, most recently used first: set and key; the address key of this boot -/
  cache     : List (Nat × KeyId)
  cacheKey  : Nat
  ops       : List CipherOp
  rmaNonce  : Nat
  /-- ROM revision in force and the processors a patch covers (R351) -/
  romRev    : Nat
  patchMask : Nat
  /-- last 8 alarms, newest first: bit of the source (Table 11-14), SLCK count; of each source, until when on the timebase its filter shows the alarm -/
  tampLog   : List (Nat × Nat)
  alarmAt   : List (Nat × Nat)
  trngFail  : Bool
  deriving DecidableEq, Repr

/-- Shipped in PROVISION (R318); the vault is empty. -/
def SecSt.reset : SecSt where
  lc := 3
  ownerId := 0
  ownerTamp := 0
  otpBad := []
  fuseErr := false
  rootOk := false
  tlock := false
  vfuseOk := false
  slots := [KeySlot.reset, KeySlot.reset]
  cur := 0
  sw := none
  swRef := none
  fcNext := 0
  fcPre := 0
  fcRes := 0
  fcAck := 0
  fcValid := false
  fcStalled := false
  fcLow := false
  cache := []
  cacheKey := 0
  ops := []
  rmaNonce := 0
  romRev := 0x0302
  patchMask := 0
  tampLog := []
  alarmAt := []
  trngFail := false
/-! ## Ethernet ports (15_ethernet.md) -/

/-- A frame in an ingress FIFO awaiting admission: DATA or MGMT, and its octets from DA to FCS. -/
structure EthIn where
  mgmt  : Bool
  frame : List Octet
  deriving DecidableEq, Repr

/-- What admission costs a frame (R434). -/
def EthIn.cost (x : EthIn) : Nat := x.frame.length

structure EthPort where
  lock     : Bool
  anDone   : Bool
  lpPause  : Bool
  up       : Bool
  fifo     : List EthIn
  /-- admission bucket in 1/8000 octet, and when it was last filled (R434) -/
  tokens   : Nat
  filledAt : Nat
  /-- transmission stopped by a received PAUSE until (R438) -/
  paused   : Option Nat
  /-- PTP messages passed to Beagle: tokens in 10^-9 message and when last filled (R441) -/
  ptpTok   : Nat
  ptpAt    : Nat
  /-- packets in the egress FIFO, oldest first; the last frame sent, from DA to FCS (output; R437) -/
  out      : List (List Octet)
  sent     : Option (List Octet)
  deriving DecidableEq, Repr

def EthPort.reset : EthPort := ⟨false, false, false, false, [], 0, 0, none, 16_000_000_000, 0, [], none⟩

/-! ## Diagnostics -/

/-- A pending `DIAG_IQ_SNAPSHOT`: window, ports, samples per port, and the instant on the timebase of its first sample. -/
structure Snap where
  ref     : CmdRef
  win     : Nat
  ports   : Nat
  samples : Nat
  at_     : Nat
  deriving DecidableEq, Repr

/-! ## Snapshots and journal records (R446, R470) -/

/-- The sections of a snapshot (R470), without key material. -/
inductive CorePart where
  /-- 1: journaled registers, and the active copies they staged -/
  | regs (l active : List (Nat × Word))
  /-- 2: node table and stash -/
  | nodes (l : List Node)
  /-- 3: schedule store and slotframe records -/
  | sched (x : SchSt)
  /-- 4: pools 0 to 3 with their free lists and cells in use, the frames, lists and BULK queue, transmissions and commands that
  await them -/
  | pools (free : List (List (Nat × Nat))) (used : List Nat) (frames : List Frame) (bulk : List Nat) (txs : List Tx)
      (parts : List Parts) (next : Nat) (air : List AirRec)
  /-- 5: reassembly contexts and image sessions -/
  | adapt (a : AdpSt)
  /-- 6: the active prefix bank -/
  | prefixes (l : List Pfx)
  /-- 7: the processors' core state: Herd and 6P, servo and timebase state, ageing and learning -/
  | procs (h : HerdSt) (t : TimeSt) (agePos : Nat) (ageAsn : Option Nat) (learned : List (Nat × Nat)) (learnAt : List (Nat × Nat))
  /-- 8: the security state; `master` of a slot is 0 here -/
  | sec (slots : List KeySlot) (cur : Nat) (sw : Option Nat) (fcNext fcPre fcRes fcAck : Nat) (fcValid fcLow : Bool) (lc : Nat)
  /-- 9: the airtime counters -/
  | airtime (l : List Charge)
  /-- 10: DRBG state, ring positions, reserved completion slots, admitted commands, records produced per ring -/
  | rings (seed drawn : Nat) (cring : List CRing) (cpl : List CplRing) (seqs : List Nat) (admitted : List Adm)
  deriving DecidableEq, Repr

end Sys2Proof.Machine

namespace Sys2Proof

/-- Journal records by TYPE (Tables 16-1 and 16-2), with their fields. -/
inductive JBody where
  | opn      (jid devid rev reason : Nat) (gen : Option Nat)
  | slot     (keyed : Bool) (mac : List Octet)
  | digest   (asn d : Nat) (units : List Nat)
  | tsrc     (code outcome pps : Nat) (offset mpd : Int)
  | txout    (port outcome hold entry : Nat) (asn sfh node : Nat)
  | clock    (event : Nat)
  /-- a calibration run of a port (6 the SPLL): its kind, outcome, start ASN and offset (R102); port 7 an SLCK ratio with its
  uncertainty (R83) -/
  | cal      (port kind : Nat) (ok : Bool) (asn ofs ratio unc : Nat)
  | seed     (value : Nat)
  | pairpt   (kind first last devid : Nat)
  | close    (reason : Nat)
  | frame    (m : RxMeta) (psdu : List Octet)
  | rxsum    (rs : RxSum)
  /-- KIND 0 DATA, 1 MGMT, 2 link change -/
  | ethin    (port kind link mode : Nat) (frame : List Octet)
  /-- with its first `inLen` input octets -/
  | cmd      (ring dindex opcode : Nat) (tag : Word) (asn inLen : Nat) (content : HostCmd)
  /-- input octets `from` on of the same command -/
  | cmdData  (content : HostCmd) (from_ count : Nat)
  | cfg      (addr : Nat) (value : Word)
  | keyres   (status placement gen actAsn : Nat)
  | snapHdr  (jid jpos devid rev step patch total : Nat) (sha : List Octet)
  /-- `count` octets of the section's data from offset `ofs` on -/
  | snapData (section_ ofs count : Nat) (part : Machine.CorePart)
  deriving DecidableEq, Repr

/-- A journal record (Table 16-1): LEN, MORE, its sequence number, stamps, the CRC it carries, its body. -/
structure JRec where
  seq   : Nat
  asn   : Nat
  ofs   : Nat
  len   : Nat
  more  : Bool
  crc   : Nat
  body  : JBody
  deriving DecidableEq, Repr

end Sys2Proof

namespace Sys2Proof.Machine

/-! ## Journal and pair (16_pair_journal.md) -/

structure JrnSt where
  isOpen  : Bool
  /-- a journal has been opened since reset: the journal has started (R357, R78) -/
  started : Bool
  id      : Nat
  /-- next journal sequence number -/
  seq     : Nat
  keyed   : Bool
  /-- whole records, oldest first; the octets they take are at most 1 MiB (R469) -/
  staging : List JRec
  frozen  : Bool
  stream  : Bool
  /-- journal sequence number after the last record put on the journal ring -/
  ringNext : Nat
  /-- a `JOURNAL_DUMP` whose records are not all written yet -/
  dump    : Option CmdRef
  /-- K_jrnl of the open journal (R450); no octets while it is not sealed -/
  key     : List Octet
  /-- the records since the last SLOT record, and the core state at that record (R450, R451) -/
  slotRecs : List JRec
  coreAt  : List CorePart
  /-- slots whose DIGEST record is not yet written: slot, the ASN whose boundary is its deadline, U[1] to U[14] (R451) -/
  owed    : List (Nat × Nat × List Nat)
  /-- DRBG seed in force, 48 octets read most significant first, and the blocks drawn from it (R455) -/
  seed    : Nat
  drawn   : Nat
  deriving DecidableEq, Repr

inductive PairState where
  | solo
  | joinCopy
  | joinCatchup
  | standbySynced
  | active
  | takeover
  | diverged
  | replay
  deriving DecidableEq, Repr

/-- The replay report registers (R471). -/
structure RpReport where
  reason  : Nat
  unit    : Nat
  stopped : Bool
  asn     : Nat
  seq     : Nat
  expd    : Nat
  got     : Nat
  deriving DecidableEq, Repr

/-- A snapshot that is being fed to a replay (R470, R471): what its SNAPHDR says, the octets of it so far, its SNAPDATA bodies and
sections. -/
structure RpSnap where
  jid    : Nat
  jpos   : Nat
  total  : Nat
  sha    : List Octet
  got    : Nat
  bodies : List Octet
  parts  : List CorePart
  deriving DecidableEq, Repr

structure PairSt where
  st         : PairState
  link       : Bool
  wait       : Bool
  activeOut  : Bool
  failIn     : Bool
  /-- a `PAIR_JOIN` given and not completed: its command and ROLE -/
  join       : Option (CmdRef × Nat)
  peer       : Option Ident
  /-- the scalar of the unit's own agreement key, drawn at `PAIR_JOIN` (R454) -/
  agree      : Option Nat
  /-- K_pair in force: 32 octets (Table 11-3) -/
  kpair      : Option (List Octet)
  /-- standby synced (on the active unit), active heard (on the standby) -/
  peerOk     : Bool
  /-- ASN last heard from the peer -/
  peerAsn    : Nat
  /-- a `PAIR_TAKEOVER` not yet in effect -/
  toRef      : Option CmdRef
  /-- time of the JOIN point, or of a `PAIR_JOIN` that awaits its peer (R456) -/
  joinAt     : Nat
  /-- a slot's records are being executed (R458, R471); false between commands -/
  exec       : Bool
  /-- journal records received and not executed, oldest first -/
  backlog    : List JRec
  /-- consecutive slots without heartbeat; one has come in this slot -/
  hbMiss     : Nat
  hbSeen     : Bool
  /-- journal sequence number up to which the standby has acknowledged receipt; slots without one -/
  acked      : Nat
  ackMiss    : Nat
  ackSeen    : Bool
  /-- pending swap drill: command, slotframe handle, first ASN; then the boundary B -/
  drill      : Option (CmdRef × Nat × Nat)
  drillB     : Option Nat
  /-- time of entry to DIVERGED by digest mismatch, for AUTOREJOIN; time of the last automatic rejoin -/
  divergedAt : Option Nat
  rejoinAt   : Option Nat
  /-- last SLOT record's ASN received and the timebase it was stamped with -/
  lastSlot   : Nat
  trigger    : Nat
  failMsgs   : Nat
  /-- pair-link messages sent, latest first: 0 heartbeat, 1 FAIL, 2 TAKEOVER, 3 DRILL, 4 ack, 5 IDENT, 6 join copy,
  7 a network master, 8 a HOST cipher key, 9 a timing mark -/
  sent       : List (Nat × Nat)
  /-- messages of these kinds sent in this pairing: with the journal records sent, the message counter of the link's IVs (R453) -/
  msgs       : Nat
  /-- octets of the last of them as the link carries them: ciphertext and tag (R453) -/
  wire       : List Octet
  /-- slots whose records this unit has executed of another's journal and whose DIGEST has not been compared: slot, U[1] to
  U[14] (R462) -/
  own        : List (Nat × List Nat)
  /-- tag failures in a row on the link (R453) -/
  tagFails   : Nat
  /-- replay key store: GEN and master (R472) -/
  store      : List (Nat × Nat)
  rp         : RpReport
  rpNext     : Option Nat
  /-- network masters received over the pair link under K_pair: GEN, master (R352) -/
  masters    : List (Nat × Nat)
  /-- HOST cipher keys received over it and not yet used, oldest first (R425) -/
  hostKeys   : List (List Octet)
  /-- the snapshot that a replay is taking (R471) -/
  snap       : Option RpSnap
  deriving DecidableEq, Repr

/-! ## Errors (17_errors_recovery.md) -/

/-- An error record of Table 17-3. -/
structure ErrRec where
  code   : Nat
  cls    : Nat
  esc    : Bool
  rsv    : Bool
  unit   : Nat
  sub    : Nat
  lost   : Nat
  asn    : Nat
  time   : Nat
  where_ : Nat
  detail : Nat
  eseq   : Nat
  deriving DecidableEq, Repr

structure ErrSt where
  fifo      : List ErrRec
  eseq      : Nat
  offline   : List Nat
  pendRst   : List (Nat × Nat)
  leak      : Nat
  fatal     : Option ErrRec
  devFatal  : Bool
  /-- the record at the head is being handled -/
  busy      : Bool
  scrubArr  : Nat
  scrubWord : Nat
  /-- subsystems restarted and not yet in service; then with the time of their return (R490) -/
  restarting : List Nat
  restarted : List (Nat × Nat)
  deriving DecidableEq, Repr

/-! ## Power (18_power_boot.md) -/

inductive PowerState where
  | run
  | watch
  | keep
  | off
  deriving DecidableEq, Repr

/-- A power change awaiting its commit: command, target, commit ASN, WAKEAFTER (R505). -/
structure PwrCommit where
  ref       : CmdRef
  target    : PowerState
  asn       : Nat
  wakeAfter : Nat
  deriving DecidableEq, Repr

/-- What KEEP retains beside the always-on domain (R509 to R511): time, node table, prefix bank, schedule, airtime charges, Herd,
journaled registers and their active copies, the DRBG, the commanded states of the RF ports; whether the node table was kept. -/
structure KeepBank where
  time    : TimeSt
  tbl     : TblSt
  sch     : SchSt
  charges : List Charge
  nextId  : Nat
  herd    : HerdSt
  regs    : List (Nat × Word)
  active  : List (Nat × Word)
  seed    : Nat
  drawn   : Nat
  cmds    : List PortState
  kept    : Bool
  deriving DecidableEq, Repr

structure PwrSt where
  st        : PowerState
  preparing : Bool
  commit    : Option PwrCommit
  /-- further `PWR_ENTER` commands from WATCH to RUN that await their ASN -/
  later     : List PwrCommit
  cause     : Nat
  refuse    : Nat × Nat
  phase     : Nat
  warm      : Bool
  bistFail  : Bool
  /-- the SLCK counter, as it stood at timebase `slckTb` while it runs beside the timebase -/
  slck      : Nat
  slckTb    : Nat
  /-- the banks of the last KEEP, unchanged until cells execute after the wake (R516) -/
  bank      : Option KeepBank
  /-- WAKEAFTER of the KEEP in force, seconds of SLCK -/
  wakeAfter : Nat
  /-- a wake source accepted in KEEP, awaiting PWR_OK -/
  waking    : Option Nat
  /-- KEEP retained the node table (R510) -/
  kept      : Bool
  mainEn    : Bool
  pwrOk     : Bool
  hostWake  : Bool
  perst     : Bool
  deriving DecidableEq, Repr

end Sys2Proof.Machine
end

