-- ==== Sys2Proof/Syntax.lean ====
section
/-! DEFINITION. The commands of the block: one constructor for each row of the operation table, in its order. -/
namespace Sys2Proof

/-- The commands of the block, in the order of the operation table. -/
inductive Instr where
  | cfgSnapshotRead (r : CmdRef) (outAddr outLen : Nat)
  | timeSetEpoch (r : CmdRef) (e l : Nat)
  | timeStep (r : CmdRef) (step sfh : Nat)
  | timeStepExecute
  | timeForce (r : CmdRef)
  | rfPortSet (r : CmdRef) (port target : Nat)
  | portSetEffect (port : Nat)
  | portTransitionDone (port : Nat)
  | rfCalibrate (r : CmdRef) (port : Nat)
  | calibrateStart (port : Nat)
  | calRunDone (port : Nat) (ok : Bool)
  | bgtrimStep (port tempDelta : Nat)
  | rfBankApply (r : CmdRef)
  | bankApplyActivate
  | schedSlotframeSet (r : CmdRef) (a : SfArgs)
  | slotframeSetEffect (sfh : Nat)
  | schedCellsWrite (r : CmdRef) (sfh : Nat) (entries : List CellEntry)
  | cellsWriteEffect
  | herdModeSet (r : CmdRef) (mode autosf dlsf lag : Nat)
  | herdNodeSet (r : CmdRef) (a : HerdSetArgs)
  | herdNodeRead (r : CmdRef) (index outAddr : Nat)
  | nodeInsert (r : CmdRef) (a : InsertArgs)
  | nodeRemove (r : CmdRef) (index eui : Nat)
  | nodeRead (r : CmdRef) (byEui : Bool) (key outAddr : Nat)
  | prefixInsert (r : CmdRef) (key len result : Nat)
  | prefixRemove (r : CmdRef) (key len : Nat)
  | pktSend (r : CmdRef) (p : List Octet)
  | bcastSend (r : CmdRef) (p : List Octet) (copies profile : Nat)
  | imgOpen (r : CmdRef) (a : ImgOpenArgs)
  | imgLoad (r : CmdRef) (session offset : Nat) (data : List Octet)
  | imgSend (r : CmdRef) (session sbn esi count : Nat)
  | imgSendLink
  | rqOverrun
  | imgClose (r : CmdRef) (session : Nat)
  | secIdentity (r : CmdRef) (outAddr : Nat)
  | secAttest (r : CmdRef) (kind outAddr challenge : Nat)
  | secKeyImport (r : CmdRef) (blob : List Octet) (outAddr : Nat)
  | secKeygenSwitch (r : CmdRef)
  | keygenSwitchTake
  | secKeyClear (r : CmdRef)
  | secFcAck (r : CmdRef) (gen block : Nat)
  | secFcRestore (r : CmdRef) (gen block : Nat)
  | secLcAdvance (r : CmdRef) (target : Nat) (token : List Octet) (secondOk : Bool)
  | secTamperAck (r : CmdRef)
  | secFuseWrite (r : CmdRef) (field value : Nat) (readBackOk : Bool)
  | romPatchLoad (r : CmdRef) (p : List Octet)
  | secCipher (r : CmdRef) (a : CipherArgs)
  | pwrEnter (r : CmdRef) (target wakeAfter : Nat)
  | pwrCommit
  | pairJoin (r : CmdRef) (role : Nat)
  | pairTakeover (r : CmdRef)
  | swapDrill (r : CmdRef) (sfh : Nat)
  | swapDrillBoundary
  | pairSolo (r : CmdRef)
  | journalCtl (r : CmdRef) (stream : Bool)
  | journalDump (r : CmdRef)
  | replayEnter (r : CmdRef)
  | replayFeed (r : CmdRef) (octets : List Octet)
  | diagNop (r : CmdRef)
  | diagIqSnapshot (r : CmdRef) (win ports samples ofs : Nat)
  | iqCapture
  | glbResetWrite (value : Word)
  | errRestartWrite (value : Word)
  | quePoolWrite (k : Nat) (value : Word)
  | ringCtlWrite (ring : RingSel) (value : Word)
  | schHctlWrite (value : Word)
  | registerWrite (addr width : Nat) (value : Word)
  | timeNowLoRead (byteOfs width : Nat)
  | loHiLatchRead (addr byteOfs width : Nat)
  | rcCounterRead (addr byteOfs width : Nat)
  | dbCmdPi (page : Nat) (value : Word) (descs : List RawDesc)
  | dbCplCi (page : Nat) (value : Word)
  | dbDlvCi (page : Nat) (value : Word)
  | commandAdmit (ring : Nat)
  | recordDeliver (ring : RingSel)
  | interruptSend (ring : RingSel)
  | hifLinkReset
  | slotBoundary
  | herdOverrun
  | sixpTimeout (node : Nat)
  | dropReadmitCheck (node : Nat)
  | nodeSupervisionTimeout (node : Nat)
  | reasmExpire
  | parentExpire (node : Nat)
  | ageingVisit
  | txInstant (id : Nat) (granted lbtBusy : Bool)
  | txPortWake (port : Nat)
  | coexRequestAssert (id : Nat)
  | txOutcome (id : Nat) (outcome hold : Nat)
  | txFrameEnd (id : Nat)
  | txLingerExpire (port : Nat)
  | ackWindowClose (id : Nat)
  | channelDeafStart (ch id : Nat)
  | channelDeafEnd (ch id : Nat)
  | clipDetect (port : Nat)
  | clipHangExpire (port : Nat)
  | coexFault
  | coexClear
  | refLost
  | refGood
  | refRecoveryTimeout
  | spllUnlock
  | spllLock
  | spllLockTimeout
  | preambleDetect (ch profile : Nat) (rssiQ : Int)
  | secondPreambleDetect (ch profile : Nat) (lv : PreLevels)
  | sfdDetect (ch : Nat) (snr1 snr2 : Int) (x : SfdMark)
  | falseDetRelease (ch : Nat)
  | msPhrRx (ch : Nat) (msg : BitVec 11) (check : BitVec 5)
  | msTimeout (ch : Nat)
  | rxFrameEnd (ch : Nat) (x : RxSig) (m : RxMeas) (fec : Nat)
  | ldpcCodewordDone (arrived : List SoftCw) (ch index : Nat)
  | rxFrameAdmit (fifo ch : Nat)
  | rxSummaryAdmit (x : SumIn)
  | timeSourceOutcome (code outcome : Nat) (offset mpd : Int)
  | servoSecondSample
  | slckRatioMeasure (ratio : Nat)
  | ppsEdge (rising : Bool) (at_ : Nat)
  | ppsWidthTimeout
  | ppsMissingSecond
  | ppsQuiet
  | todMessageRx (octets : List Octet) (at_ : Nat)
  | todWaitTimeout
  | todByteGap (octets : List Octet)
  | ptpSyncRx (port : Nat) (x : PtpIn)
  | ptpFollowUpRx (port : Nat) (x : PtpIn)
  | ptpDelayRespRx (port : Nat) (x : PtpIn)
  | ptpAnnounceRx (port : Nat) (msg : List Octet) (stamp : Int)
  | ptpDelayReqSend (port : Nat) (egress : Int)
  | ptpSyncMiss (port : Nat)
  | airBeaconMiss
  | ethFrameRx (port : Nat) (frame : List Octet)
  | ethAdmit (port : Nat)
  | ethLinkChange (port : Nat) (lock : Bool) (an : Option Bool)
  | ethFrameTx (port : Nat)
  | ethPauseExpire (port : Nat)
  | pauseRepeat (port : Nat)
  | watermarkCrossing (source : Nat)
  | qflowHoldExpire (pin : Nat)
  | fifoQueueReset (f : Nat)
  | errorDetect (e : ErrSrc)
  | errorRecordHandle
  | scrubVisit (corrected : Bool)
  | watchdogExpire (proc : Nat)
  | tamperAlarm (x : TampIn)
  | pairLinkChange (up : Bool)
  | pairIdentRx (ident : Ident)
  | joinCopyDone (jid jpos : Nat) (parts : List Machine.CorePart)
  | journalRecordRx (j : JRec)
  | standbyExecuteSlot (first count : Nat)
  | digestWrite
  | heartbeatRx (asn : Nat)
  | heartbeatLoss
  | pairAckRx (seq : Nat)
  | standbyLostTimeout
  | timingMarkRx (tb : Nat)
  | keyTransferRx (host : Bool) (gen master : Nat) (tagOk : Bool)
  | failMessageRx
  | takeoverMessageRx
  | drillMessageRx (b : Nat)
  | pairFailAssert
  | takeoverActivate
  | drillActivate
  | joinTimeout
  | autorejoinTimer
  | powerOnReset
  | coldBoot (calOk : List Bool) (x : BistIn)
  | perstAssert
  | pwrOkFall
  | brownOut
  | wakeTimer
  | wakePin
  | keepWake (c1 : Nat) (verifyOk : List Bool)
  | txHoldExpire (id : Nat)
  | txRampStart (id : Nat)
  | femLeadSwitch (id : Nat)
  | femHoldExpire (port : Nat)
  | utcDayEnd
  | pcieConfigWrite (busMaster d3hot : Bool)
  | cipherOperationDone (engine : Nat) (r : CmdRef)
  | errorRecoveryDone
  deriving DecidableEq, Repr

end Sys2Proof
end

