-- ==== Sys2Proof/Decode.lean ====
section
/-! DEFINITION. Words of the operation table. -/
namespace Sys2Proof

/-- The command a word of the operation table spells. The table gives no row any bits (its "fields" are empty), so no word
spells one: commands reach the block as descriptors, register accesses and events, each a constructor of `Instr`. -/
def decodeTableWord (_nbits _w : Nat) : Option Instr := none

end Sys2Proof
end

