-- ==== Sys2Proof/Config.lean ====
section
/-! DEFINITION. What an implementation of the block fixes and the spec leaves open: constants without a body, so
that nothing can be proved of their values. A function of a `Nat` stamp is applied to the counter `State.fresh`. -/
namespace Sys2Proof.Config

/-- A fresh value each time it is read at a new stamp: journal IDs, DRBG seeds, nonces (drawn from the TRNG; R42, R78, R447, R455). -/
opaque freeValue : Nat → Nat

/-- The update words of unit u over one slot (R451), whose numbering of state objects belongs to the ROM revision: of the ROM
revision, the core state at the SLOT record, the records of the slot and the network masters. What R452 leaves out is no argument of
it (log entry 2). -/
opaque updateWords (u rev : Nat) (core : List Machine.CorePart) (recs : List JRec) (masters : List Nat) : List Octet

/-- Layouts the spec does not state: the 32 octets of receive metadata in a FRAME record, the octets of a command's descriptor
and input, the data of a snapshot's section. -/
opaque metaOctets : RxMeta → List Octet
opaque cmdOctets : HostCmd → List Octet
opaque partOctets : Machine.CorePart → List Octet

/-- The octets of a pair-link message, by its kind and value (R453): the spec gives the messages no layout (log entry 115). -/
opaque linkOctets (kind value : Nat) : List Octet

/-- The reader of the bodies in which those layouts, or the place of the padding, are not stated: by TYPE, of the octets behind the
header of a CAL, FRAME, ETHIN, CMD, CMDDATA or SNAPDATA record. -/
opaque bodyIn : Nat → List Octet → Option JBody

/-- The standard's decoder behind the equalised soft decisions of SUN OFDM (R159): PHR as MCS, length and whether its HCS holds, or
the PSDU; of the numerators, scale factors and weights of the soft decisions, and of the MCS. -/
opaque ofdmPhr : List (List (Rat × Rat × Rat × Rat)) → Nat × Nat × Bool
opaque ofdmPsdu : Nat → Nat → List (List (Rat × Rat × Rat × Rat)) → List Octet

/-- The ROM's value of π in the servo (R72). -/
opaque pi : Rat

/-- 99 % occupied bandwidth in kHz of a profile that no table of the spec lists (R128): of CTL and PARAM words. -/
opaque obwOther : Nat → Nat → Nat

/-- The mean spectrum of a profile's modulation through a FIR set (R135): of the coefficients and the profile's CTL and PARAM
words, in 10^-18 of the carrier power in each Hz at an offset in kHz. -/
opaque spectrum : List Nat → Nat → Nat → Nat → Rat

/-- A repair symbol of RFC 6330: of a block's source symbols and the encoding symbol ID (R284); the standard's tables are not in
the spec. -/
opaque rqRepair : List (List Octet) → Nat → List Octet

/-- The profile of a beacon, which no rule names: of the profiles its entry permits and the ASN (R208). -/
opaque beaconProfile : List Nat → Nat → Nat

/-- The value of a `HERD_ADVICE` of kind cell, which no table gives: of the 6P command and its cells (R235). -/
opaque cellAdvice : Nat → List (Nat × Nat) → Nat

/-- Fields of the standard's channel hopping IE that the spec does not name: channel page, number of channels and PHY
configuration, 7 octets; current hop, 2 octets (R262). -/
opaque hopPhy : Nat
opaque hopNow : Nat

/-! ### Fuses written at the factory (Table 11-1) -/

opaque devid : Nat
/-- Share 0 or 1 of TEST_ROOT (0), MISSION_ROOT (1) and RMA_ROOT (2), 256 bits each. -/
opaque rootShare : Nat → Nat → Nat
/-- ENDORSE, 512 bits; RMAPKH and PATCHPKH, 256 bits, each as the number its octets spell most significant first. -/
opaque endorse : Nat
opaque rmaPkh : Nat
opaque patchPkh : Nat

/-- The key-cache set of a key: the scrambling of its address (R339). Of the boot's address key, the EUI-64 or PAN ID, the
generation and the key revision. -/
opaque cacheSet : Nat → Nat → Nat → Nat → Nat

/-- K' of RFC 6330 for a block of K source symbols (Table 09-9), from the standard's table. -/
opaque rqPadded : Nat → Nat

end Sys2Proof.Config
end

