-- ==== Sys2Proof/Machine/Bits.lean ====
section
/-! DEFINITION. Bit-field, sign, rounding, root and byte-order helpers that the meanings share. -/
namespace Sys2Proof.Machine

/-- Field [hi:lo] of a number (R11). -/
def bitsOf (n hi lo : Nat) : Nat := n / 2 ^ lo % 2 ^ (hi - lo + 1)

/-- Bit i of a number. -/
def bitOf (n i : Nat) : Bool := n / 2 ^ i % 2 == 1

def b2n (b : Bool) : Nat := if b then 1 else 0

/-- The two's complement value of a `w`-bit number. -/
def signedOf (w n : Nat) : Int := if n % 2 ^ w < 2 ^ (w - 1) then (n % 2 ^ w : Int) else (n % 2 ^ w : Int) - 2 ^ w

/-- A signed value as a `w`-bit number (R398: sign-extended). -/
def toUnsigned (w : Nat) (i : Int) : Nat := (i % (2 ^ w : Int)).toNat

def clampInt (lo hi x : Int) : Int := max lo (min hi x)
def clampRat (lo hi x : Rat) : Rat := max lo (min hi x)

/-- Arithmetic shift right of R237: rounds towards minus infinity. -/
def asr (x : Int) (k : Nat) : Int := x / (2 ^ k : Int)

/-- a / b rounded up. -/
def ceilDiv (a b : Nat) : Nat := (a + b - 1) / b

/-- a / b rounded to the nearest integer, halves away from zero; b > 0. -/
def roundDiv (a : Int) (b : Nat) : Int :=
  if a < 0 then -(((-a) * 2 + b) / (2 * b : Int)) else (a * 2 + b) / (2 * b : Int)

def roundRat (q : Rat) : Int := roundDiv q.num q.den

/-- Largest r with r * r ≤ n, r < 2^k: one bit at a time. -/
def isqrtAux (n : Nat) : Nat → Nat → Nat
  | 0, r => r
  | k + 1, r => isqrtAux n k (if (r + 2 ^ k) * (r + 2 ^ k) ≤ n then r + 2 ^ k else r)

/-- Integer square root of a number below 2^256. -/
def isqrt (n : Nat) : Nat := isqrtAux n 128 0

/-- Smallest integer not below the square root of a non-negative rational. -/
def ceilSqrt (q : Rat) : Nat :=
  let n := q.num.toNat / q.den
  let r := isqrt n
  if r * r * q.den ≥ q.num.toNat then r else r + 1

/-- Little-endian value of octets (R12). -/
def leOf : List Octet → Nat
  | [] => 0
  | b :: t => b.toNat + 256 * leOf t

/-- n octets of a value, little-endian. -/
def octetsLE : Nat → Nat → List Octet
  | 0, _ => []
  | k + 1, v => BitVec.ofNat 8 v :: octetsLE k (v / 256)

/-- Big-endian value of octets. -/
def beOf (bs : List Octet) : Nat := bs.foldl (fun a b => 256 * a + b.toNat) 0

/-- n octets of a value, most significant first. -/
def octetsBE (n v : Nat) : List Octet := (octetsLE n v).reverse

def slice (bs : List Octet) (off n : Nat) : List Octet := (bs.drop off).take n

def sumNat (l : List Nat) : Nat := l.foldl (· + ·) 0
def sumInt (l : List Int) : Int := l.foldl (· + ·) 0
def sumRat (l : List Rat) : Rat := l.foldl (· + ·) 0

/-- Mean of rationals; 0 of none. -/
def meanRat (l : List Rat) : Rat := if l.length = 0 then 0 else sumRat l / (l.length : Rat)

/-- Population variance. -/
def varRat (l : List Rat) : Rat :=
  let m := meanRat l
  meanRat (l.map (fun x => (x - m) * (x - m)))

/-- Replace element i of a list. -/
def setAt {α : Type} (l : List α) (i : Nat) (x : α) : List α := l.set i x

/-- Change element i of a list. -/
def modAt {α : Type} (i : Nat) (f : α → α) : List α → List α
  | [] => []
  | x :: t => match i with
    | 0 => f x :: t
    | j + 1 => x :: modAt j f t

end Sys2Proof.Machine
end

