-- ==== Sys2Proof/Machine/RegMap.lean ====
section
/-! DEFINITION. The register map of BAR0 (R521, R522, Tables 02-6 to 19-9): for every register word its address,
access code, reset value, the bits that a write sets or clears, and whether its writes are journaled (Table 19-2). -/
namespace Sys2Proof.Machine

/-- Access codes of Table 00-5 (no register of the map is W1S); a register of mixed fields is `rw` with both masks. -/
inductive Access where
  | rw
  | ro
  | wo
  | rc
  deriving DecidableEq, Repr

/-- One row of the map: `count` words, `stride` octets apart, the first at BAR0 address `base`. Word `i` resets to
`reset + inc * i`. `mask` holds the bits a write sets, `w1c` the bits a write of 1 clears. -/
structure RegRow where
  base   : Nat
  stride : Nat
  count  : Nat
  acc    : Access
  mask   : Nat
  w1c    : Nat
  reset  : Nat
  inc    : Nat
  jrn    : Bool
  staged : Bool
  deriving DecidableEq, Repr

/-- A read-only register, whose value comes from the state (`reset` is what the stored part reads: 0). -/
def rowRO (base stride count : Nat) : RegRow := ⟨base, stride, count, .ro, 0, 0, 0, 0, false, false⟩

/-- A read-and-clear counter. -/
def rowRC (base stride count : Nat) : RegRow := ⟨base, stride, count, .rc, 0, 0, 0, 0, false, false⟩

/-- A read-write register whose writes are journaled. -/
def rowJ (base stride count mask reset : Nat) : RegRow := ⟨base, stride, count, .rw, mask, 0, reset, 0, true, false⟩

/-- A read-write register whose writes are not journaled. -/
def rowN (base stride count mask reset : Nat) : RegRow := ⟨base, stride, count, .rw, mask, 0, reset, 0, false, false⟩

/-- A staged register: journaled, with an active copy 0x8000 above it (R522). -/
def rowS (base stride count mask reset : Nat) : RegRow := ⟨base, stride, count, .rw, mask, 0, reset, 0, true, true⟩

def full : Nat := 0xFFFF_FFFF

/-- GLB, Table 19-4. -/
def rowsGlb : List RegRow :=
  [rowRO 0x0 4 3,
   ⟨0xC, 4, 1, .rw, 0, 7, 0, 0, false, false⟩,
   ⟨0x10, 4, 1, .wo, 0, 0, 0, 0, false, false⟩,
   rowN 0x14 4 1 full 0]

/-- PWR, Table 18-12. -/
def rowsPwr : List RegRow :=
  [rowRO 0x10000 4 1,
   rowJ 0x10004 4 1 0x00FF_FFFF 0x01FF_FFFF,
   rowJ 0x10008 4 1 0x313 0,
   rowJ 0x10010 4 4 full 0,
   ⟨0x10020, 4, 1, .rw, 0, 0x300, 0, 0, false, false⟩,
   rowN 0x10024 4 1 0x13 1,
   rowRO 0x10028 4 3]

/-- CLK, Tables 03-14 and 19-8. -/
def rowsClk : List RegRow := [rowRO 0x20000 4 1, rowRO 0x20100 4 1, rowRC 0x20104 4 1]

/-- TIME, Table 02-6. -/
def rowsTime : List RegRow :=
  [rowRO 0x30000 4 1,
   rowJ 0x30004 4 1 0x0001_7777 0x0001_4213,
   rowJ 0x30008 4 1 0xFF0F 0x0A04,
   rowJ 0x3000C 4 1 3 2,
   rowJ 0x30010 4 1 full 0xC8,
   rowJ 0x30014 4 1 full 0x2710,
   rowJ 0x30018 4 1 full 0x3E8,
   rowJ 0x3001C 4 1 full 0xA,
   rowJ 0x30020 4 1 7 4,
   rowJ 0x30024 4 1 full 0,
   rowRC 0x30028 4 6,
   rowRO 0x30040 4 15,
   rowN 0x3007C 4 1 full 0x64,
   rowRO 0x30080 4 1,
   rowJ 0x30090 4 2 0x80FF_FFFF 0x0003_E800,
   rowJ 0x300A0 4 4 full 0,
   rowJ 0x300F0 4 1 0x00FF_FFFF 0x2710,
   rowJ 0x30100 4 16 full 0]

/-- RFRX, Table 03-12. -/
def rowsRfrx : List RegRow :=
  [rowRO 0x40000 4 4,
   rowJ 0x40010 4 1 0xF 0,
   rowJ 0x40014 4 1 full 0x3214_07D0,
   rowJ 0x40018 4 1 0xFF 0xFF,
   rowJ 0x4001C 4 1 0xFF0F_0FFF 0x0A04_07D0,
   rowJ 0x40020 4 1 0xF 0xF,
   rowRC 0x40030 4 4,
   rowRC 0x40040 4 4]

/-- RFTX, Table 03-13. -/
def rowsRftx : List RegRow :=
  [rowJ 0x50000 4 2 0xFFF0_F007 0x3220_A004,
   rowRO 0x50008 4 2,
   rowJ 0x50010 4 2 full 0,
   ⟨0x50020, 4, 1, .rw, 0x1F0D, 0x10000, 0x300, 0, true, false⟩,
   rowJ 0x50024 4 1 full 0xC8,
   rowRC 0x50028 4 1,
   rowRC 0x50030 4 2]

/-- CHB, Table 04-5. FIR set 0 ignores writes and reads 0 (R134). -/
def rowsChb : List RegRow :=
  [rowRO 0x60000 4 3,
   rowRC 0x6000C 4 2,
   rowS 0x60020 8 8 full 0,
   rowS 0x60024 8 8 0x8307_0000 0,
   rowS 0x60100 4 128 0x8700_1FFF 0,
   rowS 0x60300 8 16 0x8707_0000 0,
   rowS 0x60304 8 16 0x03FF_FFFF 0,
   rowS 0x60400 4 2 full 0,
   rowS 0x60408 4 2 0x3FF 0x18,
   rowS 0x60500 16 16 full 0,
   rowS 0x60504 16 16 full 0,
   rowS 0x60508 16 16 0x8000_03FF 0,
   rowS 0x61000 16 256 full 0,
   rowS 0x61004 16 256 0xDF0F_03FF 0,
   rowS 0x61008 16 256 0xFFFF 0,
   rowS 0x6100C 16 256 full 0,
   ⟨0x62000, 4, 32, .rw, 0, 0, 0, 0, true, true⟩,
   rowS 0x62080 4 992 0x3FFFF 0,
   rowS 0x63000 4 240 0xFFFF_7FFF 0]

/-- DEM, Tables 05-12 and 06-9. -/
def rowsDem : List RegRow :=
  [rowJ 0x70004 4 1 0x1F1F 0x30A,
   rowJ 0x70008 4 1 full 0xC8,
   rowJ 0x7000C 4 1 full 0xE10,
   rowRC 0x70010 4 2,
   rowJ 0x70020 4 4 0x3FF 0x3A8,
   rowRC 0x70040 4 8,
   rowJ 0x70060 4 1 0x1F 0x18,
   rowRC 0x70064 4 3,
   rowS 0x70080 4 16 0x8000_7F1F 0,
   rowS 0x70100 16 32 0x8713_1F00 0,
   rowS 0x70104 16 32 full 0,
   rowS 0x70108 16 32 full 0,
   rowRO 0x7010C 16 32,
   rowRO 0x7810C 16 32,
   rowS 0x70400 4 128 full 0,
   rowS 0x70600 4 16 full 0]

/-- MAC, Tables 07-9 and 09-11. -/
def rowsMac : List RegRow :=
  [rowJ 0x80000 4 1 0x101 0,
   rowJ 0x80004 4 1 full 0x0014_0190,
   rowJ 0x80008 4 1 0xFFFF_03FF 0x0080_02C0,
   rowRC 0x8000C 4 1,
   rowJ 0x80100 16 16 full 0,
   rowJ 0x80104 16 16 full 0,
   rowJ 0x80108 16 16 0xC000_3FFF 0,
   rowRO 0x8010C 16 16,
   rowRO 0x80400 4 256,
   rowJ 0x80800 4 2 full 0,
   rowJ 0x80808 4 1 0xFFFF 0xFFFF,
   rowJ 0x8080C 4 1 0x707 0x606,
   rowJ 0x80810 4 1 0xC01F_0003 0x0010_0000,
   rowJ 0x80814 4 1 1 0,
   rowJ 0x80818 4 2 full 0,
   rowJ 0x80820 4 8 0x80FF_7F03 0,
   rowRC 0x80840 4 12]

/-- SCH, Tables 07-8 and 08-4. Map 0 reads all ones; maps 16 to 31 are read-only to the host (R205). -/
def rowsSch : List RegRow :=
  [rowJ 0x90000 4 1 0x10F 3,
   rowRO 0x90004 4 1,
   rowJ 0x90008 4 1 full 0x848,
   rowJ 0x9000C 4 1 full 0x0320_0320,
   rowJ 0x90010 4 1 full 0x190,
   rowJ 0x90014 4 1 full 0x10A0,
   rowJ 0x90018 4 1 full 0x960,
   rowJ 0x9001C 4 1 full 0x1388,
   rowJ 0x90020 4 1 full 0x4E20,
   rowRC 0x90040 4 20,
   rowRO 0x90100 4 128,
   rowJ 0x90400 16 8 full 30518,
   rowJ 0x90404 16 8 full 200,
   rowJ 0x90408 16 8 full 2200,
   rowJ 0x9040C 16 8 0x8000_FFFF 600,
   rowS 0x91000 4 256 0xC07F_80FF 0,
   rowS 0x91400 4 4 0x8000_01FF 0,
   rowS 0x91500 4 256 full 0,
   ⟨0x91900, 4, 8, .ro, 0, 0, 0xFFFF_FFFF, 0, false, true⟩,
   rowS 0x91920 4 120 full 0,
   ⟨0x91B00, 4, 128, .ro, 0, 0, 0, 0, false, true⟩,
   rowJ 0x92000 4 1 0xFF3F_0F03 0xC100_0400,
   rowJ 0x92004 4 1 0xFF 0x80,
   rowJ 0x92008 4 1 0xFFFF_F7FF 0x003C_4266,
   rowJ 0x9200C 4 1 0x07FF_03FF 0x0100_0270,
   rowJ 0x92010 4 1 0x87FF_FFFF 0x0200_100A,
   rowJ 0x92014 4 1 0x000F_FFFF 0x0004_1044,
   rowJ 0x92018 4 1 0x00FF_FFFF 0x3CF3,
   rowJ 0x9201C 4 1 0x1F 0xC,
   rowRO 0x92020 4 1,
   rowJ 0x92024 4 1 0x8000_FFFF 0x8000_0040,
   rowJ 0x92040 4 16 0x9F9F_9F9F 0,
   rowJ 0x92080 4 1 0x00FF_FFFF 0,
   rowRC 0x92090 4 8,
   rowJ 0x920C0 4 32 0x8000_0FFF 0,
   rowJ 0x92140 4 16 full 0,
   rowRO 0x92200 4 256]

/-- ADP, Table 09-12. -/
def rowsAdp : List RegRow :=
  [rowJ 0xA0000 4 1 3 2,
   rowJ 0xA0004 4 1 0xFFFF_00FF 0x0100_0000,
   rowJ 0xA0008 4 1 0xFFFF 0x3C,
   rowJ 0xA000C 4 1 0xF 4,
   rowRO 0xA0010 4 1,
   rowJ 0xA0020 4 8 0x7FF 0x60,
   rowJ 0xA0040 32 16 full 0,
   rowJ 0xA0044 32 16 full 0,
   rowJ 0xA0048 32 16 full 0,
   rowJ 0xA004C 32 16 full 0,
   rowJ 0xA0050 32 16 0x8000_00FF 0,
   rowRC 0xA0300 4 12,
   rowJ 0xA0400 4 1 0xFFFF 0x20,
   rowRO 0xA0410 4 8]

/-- TBL, Table 10-3. -/
def rowsTbl : List RegRow :=
  [rowRO 0xB0000 4 1,
   rowJ 0xB0004 4 1 0xC000_FFFF 0x8000_0E10,
   rowRO 0xB0008 4 1,
   rowJ 0xB000C 4 1 0x87FF_00FF 0x800A_0010,
   rowRC 0xB0010 4 1,
   rowRC 0xB0020 4 8,
   rowJ 0xB0040 4 1 0xFFFF 0,
   rowRO 0xB0044 4 1,
   rowRC 0xB0048 4 1]

/-- SEC, Table 11-12. -/
def rowsSec : List RegRow :=
  [rowRO 0xC0000 4 4,
   rowRO 0xC0010 4 8,
   rowRO 0xC0030 4 2,
   rowJ 0xC0038 4 1 0xFFF 0x100,
   rowN 0xC0040 4 1 0x7133 0x7000,
   rowRO 0xC0044 4 1,
   rowRC 0xC0048 4 1,
   rowRC 0xC0050 4 2,
   rowJ 0xC0058 4 1 0x101 1,
   rowRO 0xC005C 4 2]

/-- QUE, Table 12-4. -/
def rowsQue : List RegRow :=
  [rowRO 0xD0000 4 1,
   rowJ 0xD0004 4 1 0xFF 0x40,
   rowJ 0xD0008 4 1 7 6,
   rowRC 0xD000C 4 1,
   rowJ 0xD0010 8 1 0xFFFF_7FFF 0x2800_0000,
   rowJ 0xD0018 8 1 0xFFFF_7FFF 0x1000_2800,
   rowJ 0xD0020 8 1 0xFFFF_7FFF 0x2000_3800,
   rowJ 0xD0028 8 1 0xFFFF_7FFF 0x0800_5800,
   rowJ 0xD0030 8 1 0xFFFF_7FFF 0x2000_6000,
   rowRO 0xD0014 8 5,
   rowRC 0xD0040 4 5,
   rowN 0xD0060 4 1 0xFF03 0xA00,
   rowN 0xD0068 4 4 full 0,
   rowN 0xD0080 4 12 0xFFFF 0x800,
   rowRC 0xD00C0 4 12,
   rowN 0xD0100 16 31 full 0xFFFF,
   rowN 0xD02F0 16 2 full 0x0400_0600,
   rowN 0xD0310 16 6 full 0xFFFF,
   rowJ 0xD0380 16 4 full 0xFFFF,
   rowN 0xD03C0 16 1 full 0xFFFF,
   rowN 0xD0400 16 12 full 0xFFFF,
   ⟨0xD0104, 16, 39, .rw, 0x100, 3, 0, 0, false, false⟩,
   ⟨0xD0384, 16, 4, .rw, 0x100, 3, 0, 0, true, false⟩,
   ⟨0xD03C4, 16, 1, .rw, 0x100, 3, 0, 0, false, false⟩,
   ⟨0xD0404, 16, 12, .rw, 0x100, 3, 0, 0, false, false⟩,
   rowRO 0xD0108 16 39,
   rowRO 0xD0388 16 5,
   rowRO 0xD0408 16 12,
   rowRC 0xD010C 16 39,
   rowRC 0xD038C 16 5,
   rowRC 0xD040C 16 12,
   ⟨0xD0600, 4, 39, .rw, 0, 1, 0, 0, false, false⟩,
   rowRC 0xD0800 4 156,
   rowN 0xD0A80 4 2 0x8000_FFFF 0xFFFF,
   rowRC 0xD0A88 4 1]

/-- HIF, Table 13-12. Only part of a ring CTL write is journaled; the ring write rules say which (R405). -/
def rowsHif : List RegRow :=
  [⟨0xE0000, 4, 1, .rw, 0, 4, 0, 0, false, false⟩,
   rowJ 0xE0004 4 1 0x003F_0701 0x001A_0701,
   rowRC 0xE0008 4 5,
   rowN 0xE0100 32 16 full 0,
   rowN 0xE0104 32 16 full 0,
   rowN 0xE0108 32 16 full 0,
   rowN 0xE010C 32 16 full 0,
   rowN 0xE0110 32 16 0x800F_000F 0x0006_0000,
   rowRO 0xE0114 32 16,
   rowRO 0xE0118 32 16,
   rowN 0xE0400 32 16 full 0,
   rowN 0xE0404 32 16 full 0,
   ⟨0xE0408, 32, 16, .rw, 0x800F_3F00, 0, 0x0006_0000, 0x100, false, false⟩,
   rowN 0xE040C 32 16 full 0x0001_0001,
   rowRO 0xE0410 32 16,
   rowRO 0xE0414 32 16,
   rowN 0xE0600 32 10 full 0,
   rowN 0xE0604 32 10 full 0,
   rowN 0xE0608 32 10 full 0,
   rowN 0xE060C 32 10 full 0,
   ⟨0xE0610, 32, 10, .rw, 0x80FF_3F00, 0, 0x0036_1000, 0x100, false, false⟩,
   rowN 0xE0614 32 10 full 0x0001_0001,
   rowRO 0xE0618 32 10,
   rowRC 0xE061C 32 10,
   rowN 0xE8000 16 64 0xFFFF_FFFC 0,
   rowN 0xE8004 16 64 full 0,
   rowN 0xE8008 16 64 full 0,
   rowN 0xE800C 16 64 1 1,
   rowRO 0xE9000 4 2]

/-- ETHA and ETHB, Table 15-3, at block base `b`. -/
def rowsEth (b : Nat) : List RegRow :=
  [rowN b 4 1 0x8301_0100 0,
   rowRO (b + 4) 4 1,
   rowN (b + 8) 4 1 full 0,
   rowN (b + 0xC) 4 1 0xFFFF 0,
   rowN (b + 0x10) 4 1 full 0,
   rowN (b + 0x14) 4 1 0xFFFF 0,
   rowN (b + 0x18) 4 1 0x8000_EFFF 0,
   rowN (b + 0x1C) 4 1 0x81FF_FFFF 0x0190_0100,
   rowJ (b + 0x20) 4 1 0xC000_0007 0xC000_0006,
   rowN (b + 0x24) 4 1 0x7FF 0x5F2,
   rowN (b + 0x28) 4 1 0x113 0,
   rowN (b + 0x2C) 4 1 full 0,
   rowRC (b + 0x40) 4 14]

/-- PAIR, Table 16-7. -/
def rowsPair : List RegRow :=
  [rowRO 0x110000 4 1,
   rowN 0x110004 4 1 0x303 0x103,
   rowN 0x110008 4 2 full 0,
   rowRO 0x110010 4 6,
   rowRC 0x110030 4 8,
   rowRO 0x110050 4 9]

/-- ERR, Table 17-7. -/
def rowsErr : List RegRow :=
  [rowRO 0x120000 4 1,
   rowN 0x120004 4 1 7 7,
   rowRO 0x120008 4 1,
   ⟨0x12000C, 4, 1, .wo, 0x7FFE, 0, 0, 0, true, false⟩,
   rowRO 0x120010 4 1,
   rowRC 0x120014 4 2,
   rowRO 0x12001C 4 1,
   rowRC 0x120020 4 4,
   rowRC 0x120044 4 14,
   rowRO 0x120080 4 8,
   rowRO 0x1200A0 4 1]

/-- DBG, Table 19-9. -/
def rowsDbg : List RegRow := [rowRO 0x130000 4 2, rowRC 0x130008 4 1]

/-- The blocks in the order of Table 19-2: block k at 0x0001_0000 × k. -/
def blockRows : Nat → List RegRow
  | 0 => rowsGlb
  | 1 => rowsPwr
  | 2 => rowsClk
  | 3 => rowsTime
  | 4 => rowsRfrx
  | 5 => rowsRftx
  | 6 => rowsChb
  | 7 => rowsDem
  | 8 => rowsMac
  | 9 => rowsSch
  | 10 => rowsAdp
  | 11 => rowsTbl
  | 12 => rowsSec
  | 13 => rowsQue
  | 14 => rowsHif
  | 15 => rowsEth 0xF0000
  | 16 => rowsEth 0x100000
  | 17 => rowsPair
  | 18 => rowsErr
  | 19 => rowsDbg
  | _ => []

/-- Whether a row holds the word at address `a`. -/
def RegRow.holds (r : RegRow) (a : Nat) : Bool :=
  r.base ≤ a && (a - r.base) / r.stride < r.count && (a - r.base) % r.stride == 0

/-- The row of the register word at BAR0 address `a`; none for an unmapped address (R17, R521). -/
def regRow (a : Nat) : Option RegRow := (blockRows (a / 0x10000)).find? (fun r => r.holds a)

/-- The blocks with active copies 0x8000 above the staging registers: CHB, DEM and SCH (R522). -/
def stagedBlock (a : Nat) : Bool := a / 0x10000 == 6 || a / 0x10000 == 7 || a / 0x10000 == 9

/-- The staging register whose active copy stands at BAR0 address `a` (R522). -/
def activeOf (a : Nat) : Option Nat :=
  if stagedBlock a && 0x8000 ≤ a % 0x10000 then
    match regRow (a - 0x8000) with
    | some r => if r.staged then some (a - 0x8000) else none
    | none => none
  else none

/-- The reset value of the register word at `a`; 0 where nothing is mapped. -/
def resetAt (a : Nat) : Word :=
  match regRow a with
  | some r => BitVec.ofNat 32 (r.reset + r.inc * ((a - r.base) / r.stride))
  | none => 0

end Sys2Proof.Machine
end

