-- ==== Sys2Proof/Machine/Phy.lean ====
section
/-! DEFINITION. Profiles (R143 to R153, R188, R189): their fields, checks, occupied bandwidth and the fit to a
channel slot; and the checks of a channel-bank snapshot (R119 to R136, R144, R206). `g` gives the value of the
staging register at a BAR0 address. -/
namespace Sys2Proof.Machine

/-- A profile: the words CTL, PARAM and PRE of `DEM_PROF[p]`. -/
structure Prof where
  ctl   : Nat
  param : Nat
  pre   : Nat
  deriving DecidableEq, Repr

def profAt (g : Nat → Nat) (p : Nat) : Prof :=
  ⟨g (0x70100 + 16 * p), g (0x70104 + 16 * p), g (0x70108 + 16 * p)⟩

def Prof.en (q : Prof) : Bool := bitOf q.ctl 31
/-- TYPE: 0 SUN FSK, 1 SUN OFDM, 2 O-QPSK, 3 Eland (R143). -/
def Prof.typ (q : Prof) : Nat := bitsOf q.ctl 26 24
def Prof.steer (q : Prof) : Bool := bitOf q.ctl 20
def Prof.fcs32 (q : Prof) : Bool := bitOf q.ctl 17
def Prof.msen (q : Prof) : Bool := bitOf q.ctl 16
def Prof.msbase (q : Prof) : Nat := bitsOf q.ctl 12 8
def Prof.prelen (q : Prof) : Nat := bitsOf q.pre 15 0
def Prof.premax (q : Prof) : Nat := bitsOf q.pre 31 16
def Prof.modidx (q : Prof) : Nat := bitsOf q.param 23 16
def Prof.fec (q : Prof) : Nat := bitsOf q.param 7 6
def Prof.gfsk (q : Prof) : Bool := bitOf q.param 5
def Prof.levels4 (q : Prof) : Bool := bitOf q.param 4
def Prof.srate (q : Prof) : Nat := bitsOf q.param 2 0
/-- Option of a SUN OFDM profile: PARAM[1:0], 0 meaning option 1 (R150). -/
def Prof.option (q : Prof) : Nat := bitsOf q.param 1 0 + 1
def Prof.mcs (q : Prof) : Nat := bitsOf q.param 6 4
/-- Eland fields (Table 06-8). -/
def Prof.elPremax (q : Prof) : Nat := bitsOf q.param 22 16
def Prof.elPrerep (q : Prof) : Nat := bitsOf q.param 14 8
def Prof.spread (q : Prof) : Nat := bitsOf q.param 1 0

/-- Symbol rate of a SUN FSK profile, ksym/s (R147). -/
def Prof.ksym (q : Prof) : Nat := 50 * (q.srate + 1)

/-- Data rate in kb/s of a SUN OFDM option and MCS (Table 05-3); 0 for a pair it does not list. -/
def ofdmRate (option mcs : Nat) : Nat :=
  match option, mcs with
  | 1, 0 => 100 | 1, 1 => 200 | 1, 2 => 400 | 1, 3 => 800
  | 2, 0 => 50 | 2, 1 => 100 | 2, 2 => 200 | 2, 3 => 400 | 2, 4 => 600 | 2, 5 => 800
  | 3, 1 => 50 | 3, 2 => 100 | 3, 3 => 200 | 3, 4 => 300 | 3, 5 => 400 | 3, 6 => 600
  | 4, 2 => 50 | 4, 3 => 100 | 4, 4 => 150 | 4, 5 => 200 | 4, 6 => 300
  | _, _ => 0

/-- Reason for which the profile's own checks reject it (Table 05-1): 0x10 or 0x11; 0 when they pass. -/
def Prof.bad (q : Prof) : Nat :=
  if q.typ = 0 then
    if q.param &&& 0xFF00_FE08 ≠ 0 ∨ 4 ≤ q.srate ∨ q.fec = 3 ∨ q.modidx < 16 ∨ 128 < q.modidx then 0x10
    else if q.prelen < 4 ∨ 1000 < q.prelen ∨ q.premax < q.prelen ∨ 1000 < q.premax then 0x11
    else 0
  else if q.typ = 1 then
    if q.param &&& 0xFFFF_FF8C ≠ 0 ∨ ofdmRate q.option q.mcs = 0 then 0x10 else 0
  else if q.typ = 2 then
    if q.param ≠ 0 ∨ q.fcs32 ∨ q.msen then 0x10 else 0
  else if q.typ = 3 then
    if q.param &&& 0xFF80_80FC ≠ 0 ∨ q.msen then 0x10
    else if q.elPrerep < 8 ∨ 64 < q.elPrerep ∨ q.elPremax < q.elPrerep ∨ 64 < q.elPremax then 0x11
    else 0
  else 0x10

/-- 99 % occupied bandwidth in kHz (Table 05-4; 25 kHz for Eland). A combination the table does not list has the value
of the part's own modulation model (R153): an open value. -/
def Prof.obw (q : Prof) : Nat :=
  if q.typ = 0 then
    match q.levels4, q.srate, q.modidx, q.gfsk with
    | false, 0, 64, true => 98
    | false, 1, 32, true => 127
    | false, 2, 32, true => 190
    | false, 3, 32, true => 253
    | true, 1, 21, true => 150
    | true, 3, 21, true => 300
    | _, _, _, _ => Config.obwOther q.ctl q.param
  else if q.typ = 1 then
    match q.option with
    | 1 => 1094
    | 2 => 552
    | 3 => 281
    | _ => 156
  else if q.typ = 2 then 2400
  else if q.typ = 3 then 25
  else Config.obwOther q.ctl q.param

/-- Profiles that share a preamble (R146): of one type, and of one symbol rate, levels, index and shaping for SUN FSK, of one
option for SUN OFDM (R151). -/
def samePreamble (q r : Prof) : Bool :=
  q.typ == r.typ && (q.typ != 0 || (q.srate == r.srate && q.levels4 == r.levels4 && q.modidx == r.modidx && q.gfsk == r.gfsk)) &&
    (q.typ != 1 || q.option == r.option)

/-- The profiles named by a bitmap, ascending. -/
def bitmapList (m : Nat) : List Nat := (List.range 32).filter (fun p => bitOf m p)

/-- Window width in Hz (Table 04-1). -/
def winWidth (code : Nat) : Nat := 5_000_000 * 2 ^ code
/-- Narrowband spacing in Hz (R122). -/
def nbSpacing (code : Nat) : Nat := 12_500 * 2 ^ code
/-- Wideband bandwidth in Hz (R124). -/
def wbWidth (code : Nat) : Nat :=
  match code with
  | 0 => 200_000
  | 1 => 400_000
  | 2 => 800_000
  | 3 => 1_200_000
  | 4 => 1_600_000
  | _ => 2_000_000

structure Win where
  en      : Bool
  freq    : Nat
  width   : Nat
  spacing : Nat

def winAt (g : Nat → Nat) (w : Nat) : Win :=
  let c := g (0x60024 + 8 * w)
  ⟨bitOf c 31, g (0x60020 + 8 * w), bitsOf c 25 24, bitsOf c 18 16⟩

structure NbSlot where
  en  : Bool
  win : Nat
  bin : Int

def nbAt (g : Nat → Nat) (n : Nat) : NbSlot :=
  let c := g (0x60100 + 4 * n)
  ⟨bitOf c 31, bitsOf c 26 24, signedOf 13 (bitsOf c 12 0)⟩

structure WbSlot where
  en  : Bool
  win : Nat
  bw  : Nat
  ofs : Int

def wbAt (g : Nat → Nat) (m : Nat) : WbSlot :=
  let c := g (0x60300 + 8 * m)
  ⟨bitOf c 31, bitsOf c 26 24, bitsOf c 18 16, signedOf 26 (bitsOf (g (0x60304 + 8 * m)) 25 0)⟩

structure TxCh where
  en       : Bool
  port     : Nat
  fir      : Nat
  template : Nat
  level    : Int
  freq     : Nat
  steermax : Nat
  profiles : Nat

/-- Transmit channel entry i; STEERMAX in Hz. -/
def txChAt (g : Nat → Nat) (i : Nat) : TxCh :=
  let c := g (0x61004 + 16 * i)
  ⟨bitOf c 31, b2n (bitOf c 30), bitsOf c 28 24, bitsOf c 19 16, signedOf 10 (bitsOf c 9 0), g (0x61000 + 16 * i),
   100 * bitsOf (g (0x61008 + 16 * i)) 15 0, g (0x6100C + 16 * i)⟩

structure Band where
  en     : Bool
  low    : Nat
  high   : Nat
  maxlvl : Int

def bandAt (g : Nat → Nat) (b : Nat) : Band :=
  let c := g (0x60508 + 16 * b)
  ⟨bitOf c 31, g (0x60500 + 16 * b), g (0x60504 + 16 * b), signedOf 10 (bitsOf c 9 0)⟩

/-- Centre of a channel slot in Hz: 0 to 127 narrowband, 128 to 143 wideband. -/
def slotCentre (g : Nat → Nat) (ch : Nat) : Int :=
  if ch < 128 then
    let n := nbAt g ch
    (winAt g n.win).freq + n.bin * nbSpacing (winAt g n.win).spacing
  else
    let m := wbAt g (ch - 128)
    (winAt g m.win).freq + m.ofs

/-- Spacing of a channel slot for the DEAF rule, Hz (R107, R124). -/
def slotSpacing (g : Nat → Nat) (ch : Nat) : Nat :=
  if ch < 128 then nbSpacing (winAt g (nbAt g ch).win).spacing else wbWidth (wbAt g (ch - 128)).bw

def slotWin (g : Nat → Nat) (ch : Nat) : Nat := if ch < 128 then (nbAt g ch).win else (wbAt g (ch - 128)).win
def slotEn (g : Nat → Nat) (ch : Nat) : Bool := if ch < 128 then (nbAt g ch).en else (wbAt g (ch - 128)).en
/-- The diversity pair of a window: 0 RFIN_A and RFIN_B, 1 RFIN_C and RFIN_D (R119). -/
def winPair (w : Nat) : Nat := w / 4

/-- A failed check of a snapshot: REASON, TYPE and INDEX of `CHB_APPLYERR`, PROFILE and OFFSET of `CHB_APPLYDET`. -/
structure ApplyFail where
  reason  : Nat
  typ     : Nat
  index   : Nat
  profile : Nat
  offset  : Nat
  deriving DecidableEq, Repr

def failIf (c : Bool) (reason typ index : Nat) : Option ApplyFail :=
  if c then some ⟨reason, typ, index, 0, 0⟩ else none

/-- The first failure of a list of items, by ascending index. -/
def firstFail (n : Nat) (f : Nat → Option ApplyFail) : Option ApplyFail := (List.range n).findSome? f

def inRf (lo hi : Int) : Bool := 300_000_000 ≤ lo && hi ≤ 3_000_000_000

/-! Where one item fails several checks the spec does not say which REASON is named: the order within each function below is the
model's (log entry 87, R138, R144). -/

def checkWin (g : Nat → Nat) (w : Nat) : Option ApplyFail :=
  let x := winAt g w
  if x.en then
    failIf (!inRf ((x.freq : Int) - winWidth x.width / 2) (x.freq + winWidth x.width / 2)) 1 1 w
      <|> failIf (6 ≤ x.spacing) 2 1 w
  else none

def checkNb (g : Nat → Nat) (n : Nat) : Option ApplyFail :=
  let x := nbAt g n
  let w := winAt g x.win
  if x.en then
    failIf (!w.en) 4 2 n
      <|> failIf (winWidth w.width < 2 * x.bin.natAbs * nbSpacing w.spacing + nbSpacing w.spacing) 3 2 n
      <|> failIf ((List.range n).any (fun k => (nbAt g k).en && (nbAt g k).win == x.win && (nbAt g k).bin == x.bin)) 5 2 n
  else none

def checkWb (g : Nat → Nat) (m : Nat) : Option ApplyFail :=
  let x := wbAt g m
  let w := winAt g x.win
  if x.en then
    failIf (6 ≤ x.bw) 2 3 m
      <|> failIf (!w.en) 4 3 m
      <|> failIf (winWidth w.width < 2 * x.ofs.natAbs + wbWidth x.bw) 3 3 m
      <|> failIf ((List.range m).any (fun k =>
            (wbAt g k).en && (wbAt g k).win == x.win && (wbAt g k).ofs == x.ofs && (wbAt g k).bw == x.bw)) 5 3 m
  else none

/-- The enabled transmit channel entries. -/
def txEntries (g : Nat → Nat) : List Nat := (List.range 256).filter (fun i => (txChAt g i).en)

def checkSpan (g : Nat → Nat) (p : Nat) : Option ApplyFail :=
  let c := g (0x60400 + 4 * p)
  if (txEntries g).any (fun i => (txChAt g i).port == p) then
    failIf (!inRf ((c : Int) - 40_000_000) (c + 40_000_000)) 6 4 p
  else none

def checkBand (g : Nat → Nat) (b : Nat) : Option ApplyFail :=
  let x := bandAt g b
  if x.en then
    failIf (x.high ≤ x.low || x.low < 300_000 || 3_000_000 < x.high || x.maxlvl < -160 || 16 < x.maxlvl) 0xE 8 b
  else none

/-- The enabled profiles a transmit entry permits (R127, R144). -/
def permitted (g : Nat → Nat) (i : Nat) : List Nat :=
  (bitmapList (txChAt g i).profiles).filter (fun p => (profAt g p).en)

/-- OBW of an entry, kHz: the largest among the profiles it permits (R128). -/
def entryObw (g : Nat → Nat) (i : Nat) : Nat := (permitted g i).foldl (fun m p => max m (profAt g p).obw) 0

/-- OBW/2 + STEERMAX in Hz. -/
def entryHalf (g : Nat → Nat) (i : Nat) : Nat := entryObw g i * 500 + (txChAt g i).steermax

/-- The enabled bands that contain FREQ ± (OBW/2 + STEERMAX) of an entry (R136). -/
def bandsOf (g : Nat → Nat) (i : Nat) : List Band :=
  ((List.range 16).map (bandAt g)).filter (fun b =>
    b.en && b.low * 1000 + entryHalf g i ≤ (txChAt g i).freq && (txChAt g i).freq + entryHalf g i ≤ b.high * 1000)

def checkTx (g : Nat → Nat) (i : Nat) : Option ApplyFail :=
  let x := txChAt g i
  if x.en then
    failIf ((permitted g i).isEmpty) 0xD 5 i
      <|> failIf (40_000_000 < ((x.freq : Int) - g (0x60400 + 4 * x.port)).natAbs + entryHalf g i) 7 5 i
      <|> failIf ((bandsOf g i).isEmpty) 8 5 i
      <|> failIf (x.level < -160 || 16 < x.level || (bandsOf g i).any (fun b => b.maxlvl < x.level)) 9 5 i
  else none

/-- Coefficient j of FIR set s in units of 2^-17 (R134). -/
def firCoef (g : Nat → Nat) (s j : Nat) : Int := signedOf 18 (bitsOf (g (0x62000 + 0x80 * s + 4 * j)) 17 0)

def checkFir (g : Nat → Nat) (s : Nat) : Option ApplyFail :=
  if s ≠ 0 ∧ (txEntries g).any (fun i => (txChAt g i).fir == s) then
    let c := (List.range 31).map (firCoef g s)
    let mid := firCoef g s 31
    failIf (262_144 < 2 * sumNat (c.map Int.natAbs) + mid.natAbs || 2 * sumInt c + mid < 32_768) 0xA 6 s
  else none

/-- Point k of template t: VALID, OFFSET in kHz, RBW code. -/
def maskPoint (g : Nat → Nat) (t k : Nat) : Bool × Nat × Nat :=
  let c := g (0x63000 + 0x40 * t + 4 * k)
  (bitOf c 31, bitsOf c 30 16, bitsOf c 14 12)

/-- Two points of one offset count as unordered (log entry 87). -/
def templateMalformed (g : Nat → Nat) (t : Nat) : Bool :=
  let ps := (List.range 16).map (maskPoint g t)
  let v := ps.takeWhile (fun p => p.1)
  v.isEmpty || (ps.drop v.length).any (fun p => p.1) || v.any (fun p => 5 < p.2.2) ||
    (List.zip v (v.drop 1)).any (fun p => p.2.2.1 ≤ p.1.2.1)

structure MsEntry where
  en      : Bool
  key     : Nat
  profile : Nat

def msAt (g : Nat → Nat) (i : Nat) : MsEntry :=
  let c := g (0x70080 + 4 * i)
  ⟨bitOf c 31, bitsOf c 14 8, bitsOf c 4 0⟩

def checkProf (g : Nat → Nat) (p : Nat) : Option ApplyFail :=
  let q := profAt g p
  let base := profAt g q.msbase
  if q.en then
    failIf (q.bad ≠ 0) q.bad 9 p
      <|> failIf (q.msen && (!base.en || base.typ ≠ 0 ||
            !(List.range 16).any (fun i => (msAt g i).en && (msAt g i).profile == p))) 0x15 9 p
  else none

/-! ### The mask check (R135) -/

/-- Base-2 logarithm of a rational from 1 to 2, to `k` binary places. -/
def log2Frac : Nat → Rat → Rat
  | 0, _ => 0
  | k + 1, x =>
    let y : Rat := ((x * x * (2 ^ 48 : Nat)).floor : Rat) / (2 ^ 48 : Nat)
    if 2 ≤ y then (1 + log2Frac k (y / 2)) / 2 else log2Frac k y / 2

/-- A power ratio in dB, to about 0.0001 dB (log entry 88). -/
def dbOf (p : Rat) : Rat :=
  let e : Int := (Nat.log2 p.num.toNat : Int) - (Nat.log2 p.den : Int)
  let m : Rat := if 0 ≤ e then p / (2 ^ e.toNat : Nat) else p * (2 ^ (-e).toNat : Nat)
  let n : Rat × Int := if m < 1 then (2 * m, e - 1) else (m, e)
  ((n.2 : Rat) + log2Frac 18 n.1) * 3.010299957

/-- Resolution bandwidth of a code in Hz (Table 04-9). -/
def rbwHz (code : Nat) : Nat :=
  match code with
  | 0 => 1_000
  | 1 => 3_000
  | 2 => 10_000
  | 3 => 30_000
  | 4 => 100_000
  | _ => 1_000_000

/-- Limit in dBc of point k of template t. -/
def maskLimit (g : Nat → Nat) (t k : Nat) : Rat := -((bitsOf (g (0x63000 + 0x40 * t + 4 * k)) 11 0 : Nat) : Rat) / 10

/-- The valid points of a template: offset in kHz, resolution bandwidth in Hz, limit in dBc. -/
def maskPoints (g : Nat → Nat) (t : Nat) : List (Nat × Nat × Rat) :=
  ((List.range 16).filter (fun k => (maskPoint g t k).1)).map (fun k =>
    ((maskPoint g t k).2.1, rbwHz (maskPoint g t k).2.2, maskLimit g t k))

/-- The resolution bandwidth and limit at offset `o` kHz: interpolated linearly in dB between points, constant outside them.
The bandwidth between two points is that of the lower one (log entry 88). -/
def limitAt (o : Nat) : List (Nat × Nat × Rat) → Nat × Rat
  | [] => (1_000, 0)
  | [x] => (x.2.1, x.2.2)
  | x :: y :: t =>
    if o ≤ x.1 then (x.2.1, x.2.2)
    else if o < y.1 then (x.2.1, x.2.2 + (y.2.2 - x.2.2) * ((o - x.1 : Nat) : Rat) / ((y.1 - x.1 : Nat) : Rat))
    else limitAt o (y :: t)

/-- Power within `rbw` Hz at offset `o` kHz relative to the carrier: the spectrum through the FIR set and the converter's noise of
−155 dBc/Hz. -/
def outputAt (coefs : List Nat) (ctl param o rbw : Nat) : Rat :=
  (Config.spectrum coefs ctl param o / (10 ^ 18 : Nat) + 316_227_766 / (10 ^ 24 : Nat)) * rbw

/-- The first multiple of 1 kHz up to the last point at which the output exceeds the limit. -/
def maskExceeded (coefs : List Nat) (ctl param : Nat) (pts : List (Nat × Nat × Rat)) : Option Nat :=
  (List.range (((pts.getLast?.map Prod.fst).getD 0) + 1)).find? (fun o =>
    (limitAt o pts).2 < dbOf (outputAt coefs ctl param o (limitAt o pts).1))

/-- The mask check of R135 over the entries that name template t, which skips a profile that fails its own checks (R144): of
several failures, that of the lowest entry, then profile, then offset is named (log entry 87). -/
def maskFail (g : Nat → Nat) (t : Nat) : Option ApplyFail :=
  ((txEntries g).filter (fun i => (txChAt g i).template == t)).findSome? (fun i =>
    ((permitted g i).filter (fun p => (checkProf g p).isNone)).findSome? (fun p =>
      (maskExceeded ((List.range 32).map (fun j => g (0x62000 + 0x80 * (txChAt g i).fir + 4 * j)))
        (profAt g p).ctl (profAt g p).param (maskPoints g t)).map (fun o => ⟨0xC, 7, t, p, o⟩)))

def checkTemplate (g : Nat → Nat) (t : Nat) : Option ApplyFail :=
  if (txEntries g).any (fun i => (txChAt g i).template == t) then
    failIf (templateMalformed g t) 0xB 7 t <|> maskFail g t
  else none

def checkMs (g : Nat → Nat) (i : Nat) : Option ApplyFail :=
  let e := msAt g i
  if e.en then failIf (!(profAt g e.profile).en || 2 ≤ (profAt g e.profile).typ) 0x15 12 i else none

/-- Whether a SUN FSK or Eland profile fits a narrowband slot of spacing Δ in Hz (R153, R188). -/
def fitsNb (q : Prof) (spacing : Nat) : Bool :=
  if q.typ = 3 then spacing == 25_000 || spacing == 50_000 || spacing == 100_000 || spacing == 200_000
  else q.ksym * 1000 ≤ spacing && q.obw * 1000 ≤ spacing

def oqpskCentre (f : Int) : Bool := 2_401_000_000 ≤ f && f ≤ 2_482_500_000

/-- The set of a disabled channel slot is not checked (log entry 87). -/
def checkNbSet (g : Nat → Nat) (n : Nat) : Option ApplyFail :=
  let ps := bitmapList (g (0x70400 + 4 * n))
  if (nbAt g n).en then
    failIf (4 < ps.length || ps.any (fun p => !(profAt g p).en || ((profAt g p).typ ≠ 0 && (profAt g p).typ ≠ 3))) 0x12 10 n
      <|> failIf (ps.any (fun p => !fitsNb (profAt g p) (slotSpacing g n))) 0x13 10 n
  else none

def checkWbSet (g : Nat → Nat) (m : Nat) : Option ApplyFail :=
  let ps := bitmapList (g (0x70600 + 4 * m))
  if (wbAt g m).en then
    failIf (2 < ps.length || ps.any (fun p => !(profAt g p).en || ((profAt g p).typ ≠ 1 && (profAt g p).typ ≠ 2))) 0x12 11 m
      <|> failIf (ps.any (fun p => ((profAt g p).typ == 1 && slotSpacing g (128 + m) < (profAt g p).obw * 1000) ||
            ((profAt g p).typ == 2 && slotSpacing g (128 + m) ≠ 2_000_000))) 0x13 11 m
      <|> failIf (ps.any (fun p => (profAt g p).typ == 2 && !oqpskCentre (slotCentre g (128 + m)))) 0x14 11 m
  else none

def checkTxOqpsk (g : Nat → Nat) (i : Nat) : Option ApplyFail :=
  if (txChAt g i).en then
    failIf ((permitted g i).any (fun p => (profAt g p).typ == 2) && !oqpskCentre (txChAt g i).freq) 0x14 5 i
  else none

/-- The profile set of channel slot `ch` (R145). -/
def profSet (g : Nat → Nat) (ch : Nat) : Nat := if ch < 128 then g (0x70400 + 4 * ch) else g (0x70600 + 4 * (ch - 128))

/-- The profile a channel slot reports for a preamble like profile p's: the lowest-numbered of its set that shares it (R146). -/
def heardAs (g : Nat → Nat) (ch p : Nat) : Option Nat :=
  (bitmapList (profSet g ch)).find? (fun q => (profAt g q).en && samePreamble (profAt g q) (profAt g p))

/-- The mode-switch key of a profile: that of the lowest-index enabled map entry that names it (R149). -/
def msKeyOf (g : Nat → Nat) (p : Nat) : Option Nat :=
  ((List.range 16).find? (fun i => (msAt g i).en && (msAt g i).profile == p)).map (fun i => (msAt g i).key)

structure ChanMap where
  rxen   : Bool
  wide   : Bool
  rxslot : Nat
  txen   : Bool
  txch   : Nat

/-- Channel index c (Table 07-10). -/
def chanAt (g : Nat → Nat) (c : Nat) : ChanMap :=
  let v := g (0x91000 + 4 * c)
  ⟨bitOf v 31, bitOf v 30, bitsOf v 22 16, bitOf v 15, bitsOf v 7 0⟩

/-- The channel slot number (0 to 143) a channel index receives on. -/
def ChanMap.slot (c : ChanMap) : Nat := if c.wide then 128 + c.rxslot else c.rxslot

def hopEn (g : Nat → Nat) (b : Nat) : Bool := bitOf (g (0x91400 + 4 * b)) 31
def hopLen (g : Nat → Nat) (b : Nat) : Nat := bitsOf (g (0x91400 + 4 * b)) 8 0
/-- HOP[b][i] (R205). -/
def hopEntry (g : Nat → Nat) (b i : Nat) : Nat :=
  bitsOf (g (0x91500 + 0x100 * b + 4 * (i / 4))) (8 * (i % 4) + 7) (8 * (i % 4))
def hopList (g : Nat → Nat) (b : Nat) : List Nat := (List.range (hopLen g b)).map (hopEntry g b)
/-- Whether channel map m holds channel index c (Table 07-8). -/
def mapHas (g : Nat → Nat) (m c : Nat) : Bool := bitOf (g (0x91900 + 0x20 * m + 4 * (c / 32))) (c % 32)
def mapEmpty (g : Nat → Nat) (m : Nat) : Bool := (List.range 8).all (fun j => g (0x91900 + 0x20 * m + 4 * j) == 0)

def checkChan (g : Nat → Nat) (c : Nat) : Option ApplyFail :=
  let x := chanAt g c
  failIf ((x.rxen && !(if x.wide then x.rxslot < 16 && (wbAt g x.rxslot).en else (nbAt g x.rxslot).en)) ||
    (x.txen && !(txChAt g x.txch).en)) 0x18 13 c

def checkHop (g : Nat → Nat) (b : Nat) : Option ApplyFail :=
  if hopEn g b then
    failIf (hopLen g b == 0 || 256 < hopLen g b || (hopList g b).any (fun c =>
      !((chanAt g c).txen && (txChAt g (chanAt g c).txch).en))) 0x19 14 b
  else none

def checkMap (g : Nat → Nat) (m : Nat) : Option ApplyFail :=
  if m = 0 ∨ 15 < m ∨ mapEmpty g m then none
  else failIf ((List.range 4).any (fun b => hopEn g b && !(hopList g b).any (mapHas g m))) 0x1A 15 m

/-- Every check of a snapshot in order (R138, R144, R206); the first failure. -/
def checkSnapshot (g : Nat → Nat) : Option ApplyFail :=
  firstFail 8 (checkWin g) <|> firstFail 128 (checkNb g) <|> firstFail 16 (checkWb g) <|> firstFail 2 (checkSpan g)
    <|> firstFail 16 (checkBand g) <|> firstFail 256 (checkTx g) <|> firstFail 32 (checkFir g)
    <|> firstFail 15 (checkTemplate g) <|> firstFail 32 (checkProf g) <|> firstFail 16 (checkMs g)
    <|> firstFail 128 (checkNbSet g) <|> firstFail 16 (checkWbSet g) <|> firstFail 256 (checkTxOqpsk g)
    <|> firstFail 256 (checkChan g) <|> firstFail 4 (checkHop g) <|> firstFail 16 (checkMap g)

/-- The subsystem that owns a failing item's TYPE (R413). -/
def applyUnit (typ : Nat) : Nat := if typ ≤ 8 then 2 else if typ ≤ 12 then 3 else 5

end Sys2Proof.Machine
end

