-- ==== Sys2Proof/Machine/Airtime.lean ====
section
/-! DEFINITION. Lengths and airtimes of frames (R147, R150, R152, R186, R200, R212, R219). The PPDU forms are those of
IEEE 802.15.4-2020 (log entry 21). Times in ns. -/
namespace Sys2Proof.Machine

/-- Data rate of a SUN FSK profile in kb/s (R147). -/
def Prof.fskKbps (q : Prof) : Nat := q.ksym * (if q.levels4 then 2 else 1)

/-- ns of `n` octets at `kbps`. -/
def octetsNs (n kbps : Nat) : Nat := n * 8_000_000 / max 1 kbps

/-- Eland: S chips per coded bit, codewords of a PSDU of `len` octets. -/
def Prof.chips (q : Prof) : Nat := 2 ^ q.spread
def elandWords (len : Nat) : Nat := ceilDiv (8 * len) 768

/-- Airtime of an Eland frame with `npre` preamble repetitions (R186). -/
def elandNs (npre s len : Nat) : Nat := (32 * npre + 64 + 768 + s * (8 * len + 768 * elandWords len)) * 40_000

/-- Octets of a coded SUN FSK frame from its PHR on: 16 bits of PHR, the PSDU, 3 tail bits and the pad to whole blocks of the
interleaver, 16 bits, at rate 1/2. -/
def fecOctets (len : Nat) : Nat := 4 * ceilDiv (19 + 8 * len) 16

/-- Symbols of 120 µs that carry a SUN OFDM PSDU: 8 bits an octet and a tail of 6 bits. -/
def ofdmSymbols (kbps len : Nat) : Nat := ceilDiv ((8 * len + 6) * 1000) (max 1 kbps * 120)

/-- Airtime of one PPDU of a PSDU of `len` octets whose preamble is `ext` units longer than its profile's; units are octets
for SUN FSK and repetitions for Eland. -/
def ppduNs (q : Prof) (len ext : Nat) : Nat :=
  if q.typ = 0 then
    octetsNs (q.prelen + ext + 2 + (if q.fec = 0 then 2 + len else fecOctets len)) q.fskKbps
  else if q.typ = 1 then
    720_000 + (if q.option = 1 then 3 else 6) * 120_000 + ofdmSymbols (ofdmRate q.option q.mcs) len * 120_000
  else if q.typ = 2 then (6 + len) * 32_000
  else elandNs (q.elPrerep + ext) q.chips len

/-- Time from the start of the preamble to the timestamp point (R200). -/
def Prof.tpre (q : Prof) : Nat :=
  if q.typ = 0 then octetsNs (q.prelen + 2) q.fskKbps
  else if q.typ = 1 then 720_000
  else if q.typ = 2 then 160_000
  else (32 * q.elPrerep + 64) * 40_000

/-- `DEM_MSGAP` in ns: 50 to 1,000 µs (Table 05-12). -/
def msGap (w : Nat) : Nat := 1000 * min 1000 (max 50 w)

/-- Airtime of a frame of `len` octets under profile `p` (R212): the mode-switch PPDU of R149 counts. -/
def airNs (g : Nat → Nat) (gap p len ext : Nat) : Nat :=
  let q := profAt g p
  let b := profAt g q.msbase
  ppduNs q len ext + (if q.msen then octetsNs (b.prelen + 4) b.fskKbps + msGap gap else 0)

/-- Largest PSDU of a profile in octets. -/
def Prof.maxPsdu (q : Prof) : Nat := if q.typ = 2 then 127 else 2047

/-- FCS octets. -/
def Prof.fcsLen (q : Prof) : Nat := if q.fcs32 || q.typ == 3 then 4 else 2

end Sys2Proof.Machine
end

