-- ==== Sys2Proof/Machine/Aes.lean ====
section
/-! DEFINITION. AES-128 and AES-256 (FIPS 197) and the modes of Table 00-4: CTR, CMAC (SP 800-38B), CCM* (SP 800-38C, IEEE
802.15.4), GCM (SP 800-38D), and the counter-mode key derivation of R323. -/
namespace Sys2Proof.Machine

/-- Exclusive or of two octet strings, as long as the shorter one. -/
def xorOct (a b : List Octet) : List Octet := List.zipWith (· ^^^ ·) a b
def zeros (n : Nat) : List Octet := List.replicate n 0
/-- Octets up to a length of 16 times a whole number, zeros behind. -/
def pad16 (a : List Octet) : List Octet := a ++ zeros (16 * ceilDiv a.length 16 - a.length)

/-! ## The cipher -/

/-- Multiplication by x in the field of FIPS 197. -/
def xtime (a : Octet) : Octet := if a.getLsbD 7 then (a <<< 1) ^^^ 0x1B else a <<< 1
def gmulAux : Nat → Octet → Octet → Octet
  | 0, _, _ => 0
  | k + 1, a, b => (if b.getLsbD 0 then a else 0) ^^^ gmulAux k (xtime a) (b >>> 1)
def gmul (a b : Octet) : Octet := gmulAux 8 a b

/-- The inverse of `a`, 0 for 0: `a` to the power 254. -/
def ginv (a : Octet) : Octet :=
  let a2 := gmul a a
  let a4 := gmul a2 a2
  let a8 := gmul a4 a4
  let a16 := gmul a8 a8
  let a32 := gmul a16 a16
  let a64 := gmul a32 a32
  let a128 := gmul a64 a64
  gmul a2 (gmul a4 (gmul a8 (gmul a16 (gmul a32 (gmul a64 a128)))))

def subByte (a : Octet) : Octet :=
  let b := ginv a
  b ^^^ b.rotateLeft 1 ^^^ b.rotateLeft 2 ^^^ b.rotateLeft 3 ^^^ b.rotateLeft 4 ^^^ 0x63

def shiftRows (s : List Octet) : List Octet := (List.range 16).map (fun i => s.getD ((i + 4 * (i % 4)) % 16) 0)

def mixColumn (s : List Octet) (i : Nat) : Octet :=
  let c := i / 4 * 4
  let at_ := fun k => s.getD (c + (i + k) % 4) 0
  xtime (at_ 0) ^^^ (xtime (at_ 1) ^^^ at_ 1) ^^^ at_ 2 ^^^ at_ 3
def mixColumns (s : List Octet) : List Octet := (List.range 16).map (mixColumn s)

def rcon : Nat → Octet
  | 0 => 1
  | k + 1 => xtime (rcon k)

/-- The next word of the key schedule from the words so far, latest first. -/
def nextWord (nk i : Nat) (ws : List (List Octet)) : List Octet :=
  let t := ws.headD []
  let u :=
    if i % nk = 0 then xorOct ((t.drop 1 ++ t.take 1).map subByte) [rcon (i / nk - 1), 0, 0, 0]
    else if 6 < nk ∧ i % nk = 4 then t.map subByte
    else t
  xorOct u (ws.getD (nk - 1) [])

def expandAux (nk : Nat) : Nat → Nat → List (List Octet) → List (List Octet)
  | 0, _, ws => ws
  | k + 1, i, ws => expandAux nk k (i + 1) (nextWord nk i ws :: ws)

def wordsOf : Nat → List Octet → List (List Octet)
  | 0, _ => []
  | k + 1, bs => bs.take 4 :: wordsOf k (bs.drop 4)

/-- The round keys, 16 octets each: 11 for a key of 16 octets, 15 for one of 32. -/
def roundKeys (key : List Octet) : List (List Octet) :=
  let nk := key.length / 4
  let n := 4 * (nk + 7)
  let w := (expandAux nk (n - nk) nk (wordsOf nk key).reverse).reverse
  (List.range (nk + 7)).map (fun r => ((w.drop (4 * r)).take 4).flatten)

def aesRounds : List (List Octet) → List Octet → List Octet
  | [], s => s
  | [k], s => xorOct (shiftRows (s.map subByte)) k
  | k :: t, s => aesRounds t (xorOct (mixColumns (shiftRows (s.map subByte))) k)

/-- One block under expanded round keys. -/
def aesWith (rk : List (List Octet)) (block : List Octet) : List Octet :=
  aesRounds (rk.drop 1) (xorOct block (rk.headD []))

/-- AES of one block of 16 octets under a key of 16 or 32 octets. -/
def aes (key block : List Octet) : List Octet := aesWith (roundKeys key) block

/-! ## Counter mode (R342, R455) -/

/-- A counter block with its last 32 bits incremented by `i` modulo 2^32. -/
def ctrAdd (block : List Octet) (i : Nat) : List Octet :=
  block.take 12 ++ octetsBE 4 ((beOf (block.drop 12) + i) % 2 ^ 32)

def ctrBlocks (rk : List (List Octet)) (block : List Octet) : Nat → Nat → List Octet
  | 0, _ => []
  | k + 1, i => aesWith rk (ctrAdd block i) ++ ctrBlocks rk block k (i + 1)

/-- Counter mode from an initial counter block. -/
def aesCtr (key block data : List Octet) : List Octet :=
  xorOct data (ctrBlocks (roundKeys key) block (ceilDiv data.length 16) 0)

/-! ## CBC-MAC, CMAC and the key derivation -/

/-- Chaining value over whole blocks. -/
def cbcMac (rk : List (List Octet)) : Nat → List Octet → List Octet → List Octet
  | 0, x, _ => x
  | k + 1, x, bs => cbcMac rk k (aesWith rk (xorOct x (bs.take 16))) (bs.drop 16)

/-- Doubling of a subkey (SP 800-38B). -/
def dbl (l : List Octet) : List Octet :=
  let v := beOf l
  octetsBE 16 ((2 * v % 2 ^ 128) ^^^ (if 2 ^ 127 ≤ v then 0x87 else 0))

/-- AES-CMAC. -/
def cmac (key msg : List Octet) : List Octet :=
  let rk := roundKeys key
  let k1 := dbl (aesWith rk (zeros 16))
  let n := max 1 (ceilDiv msg.length 16)
  let last := msg.drop (16 * (n - 1))
  let m := if last.length = 16 then xorOct last k1 else xorOct (last ++ [0x80] ++ zeros (15 - last.length)) (dbl k1)
  aesWith rk (xorOct (cbcMac rk (n - 1) (zeros 16) msg) m)

def kdfBlocks (key fixed : List Octet) : Nat → Nat → List Octet
  | 0, _ => []
  | k + 1, i => cmac key (octetsBE 4 i ++ fixed) ++ kdfBlocks key fixed k (i + 1)

/-- The derivation of R323: the first `lb` bits of block(1), block(2), … -/
def kdf (key label context : List Octet) (lb : Nat) : List Octet :=
  (kdfBlocks key (label ++ [0x00] ++ context ++ octetsBE 4 lb) (ceilDiv lb 128) 1).take (lb / 8)

/-! ## CCM* -/

/-- Octets of the length field of a CCM* nonce of 13 octets. -/
def ccmB0 (nonce : List Octet) (aLen mLen tag : Nat) : List Octet :=
  BitVec.ofNat 8 ((if aLen = 0 then 0 else 64) + (tag - 2) / 2 * 8 + 1) :: nonce ++ octetsBE 2 mLen

/-- The authentication tag before its encryption. `a` is shorter than 0xFF00 octets. -/
def ccmMac (rk : List (List Octet)) (nonce a m : List Octet) (tag : Nat) : List Octet :=
  let ab := if a.isEmpty then [] else pad16 (octetsBE 2 a.length ++ a)
  let bs := ccmB0 nonce a.length m.length tag ++ ab ++ pad16 m
  (cbcMac rk (bs.length / 16) (zeros 16) bs).take tag

/-- Counter block i of CCM*. -/
def ccmCtr (nonce : List Octet) (i : Nat) : List Octet := 0x01 :: nonce ++ octetsBE 2 i

def ccmStream (rk : List (List Octet)) (nonce : List Octet) : Nat → Nat → List Octet
  | 0, _ => []
  | k + 1, i => aesWith rk (ccmCtr nonce i) ++ ccmStream rk nonce k (i + 1)

def ccmCrypt (rk : List (List Octet)) (nonce m : List Octet) : List Octet :=
  xorOct m (ccmStream rk nonce (ceilDiv m.length 16) 1)

/-- CCM* encryption: ciphertext and encrypted tag of `tag` octets. -/
def ccmSeal (key nonce a m : List Octet) (tag : Nat) : List Octet × List Octet :=
  let rk := roundKeys key
  (ccmCrypt rk nonce m, xorOct (ccmMac rk nonce a m tag) (aesWith rk (ccmCtr nonce 0)))

/-- CCM* decryption: the plaintext if the tag verifies. -/
def ccmOpen (key nonce a c t : List Octet) : Option (List Octet) :=
  let rk := roundKeys key
  let m := ccmCrypt rk nonce c
  if xorOct (ccmMac rk nonce a m t.length) (aesWith rk (ccmCtr nonce 0)) = t then some m else none

/-! ## GCM -/

/-- Multiplication in the field of SP 800-38D: `v` runs through `h` times powers of x, `x` is read from its first bit on. -/
def ghashMulAux : Nat → Nat → Nat → Nat → Nat
  | 0, z, _, _ => z
  | k + 1, z, v, x =>
    ghashMulAux k (if x / 2 ^ k % 2 = 1 then z ^^^ v else z) (if v % 2 = 1 then v / 2 ^^^ (0xE1 * 2 ^ 120) else v / 2) x
def ghashMul (h x : Nat) : Nat := ghashMulAux 128 0 h x

def ghash (h : Nat) : Nat → Nat → List Octet → Nat
  | 0, y, _ => y
  | k + 1, y, bs => ghash h k (ghashMul h (y ^^^ beOf (bs.take 16))) (bs.drop 16)

def gcmTag (rk : List (List Octet)) (iv a c : List Octet) : List Octet :=
  let bs := pad16 a ++ pad16 c ++ octetsBE 8 (8 * a.length) ++ octetsBE 8 (8 * c.length)
  xorOct (octetsBE 16 (ghash (beOf (aesWith rk (zeros 16))) (bs.length / 16) 0 bs)) (aesWith rk (iv ++ octetsBE 4 1))

/-- GCM under an initialisation vector of 12 octets: ciphertext and tag. -/
def gcmSeal (key iv a m : List Octet) : List Octet × List Octet :=
  let c := aesCtr key (iv ++ octetsBE 4 2) m
  (c, gcmTag (roundKeys key) iv a c)

/-- GCM decryption: the plaintext, and whether the tag verifies. -/
def gcmOpen (key iv a c t : List Octet) : List Octet × Bool :=
  (aesCtr key (iv ++ octetsBE 4 2) c, gcmTag (roundKeys key) iv a c == t)

end Sys2Proof.Machine
end

