-- ==== Sys2Proof/Machine/Ipv6.lean ====
section
/-! DEFINITION. IPv6 packets as octets: the fixed header, the hop-by-hop header and its RPL option (RFC 6553), encapsulation and
the outer header of R282 (RFC 6554), UDP, and the RPL options of a DAO (R278, R280 to R283). -/
namespace Sys2Proof.Machine

/-! ## The fixed header -/

def ipVersion (p : List Octet) : Nat := bitsOf (beOf (p.take 4)) 31 28
def ipTc (p : List Octet) : Nat := bitsOf (beOf (p.take 4)) 27 20
def ipFlow (p : List Octet) : Nat := bitsOf (beOf (p.take 4)) 19 0
def ipPayLen (p : List Octet) : Nat := beOf (slice p 4 2)
def ipNh (p : List Octet) : Nat := (p.getD 6 0).toNat
def ipHlim (p : List Octet) : Nat := (p.getD 7 0).toNat
def ipSrc (p : List Octet) : Nat := beOf (slice p 8 16)
def ipDst (p : List Octet) : Nat := beOf (slice p 24 16)

/-- A packet with the given fields around `body`. -/
def ipPacket (tc flow nh hlim src dst : Nat) (body : List Octet) : List Octet :=
  octetsBE 4 (6 * 2 ^ 28 + tc * 2 ^ 20 + flow) ++ octetsBE 2 body.length ++ octetsBE 1 nh ++ octetsBE 1 hlim ++
    octetsBE 16 src ++ octetsBE 16 dst ++ body

/-- The hop limit less one (R282, R283); a hop limit of 0 stays 0 (log entry 94). -/
def lowerHlim (p : List Octet) : List Octet := setAt p 7 (BitVec.ofNat 8 (ipHlim p - 1))

/-- The packet with another next header and payload. -/
def ipReplace (p : List Octet) (nh : Nat) (body : List Octet) : List Octet :=
  ipPacket (ipTc p) (ipFlow p) nh (ipHlim p) (ipSrc p) (ipDst p) body

/-! ## Hop-by-hop header -/

/-- Octets of the extension header at the front of `b`. -/
def extLen (b : List Octet) : Nat := 8 * ((b.getD 1 0).toNat + 1)

/-- Next header and octets behind the fixed header and any hop-by-hop header. -/
def ipUpper (p : List Octet) : Nat × List Octet :=
  let b := p.drop 40
  if ipNh p = 0 then ((b.getD 0 0).toNat, b.drop (extLen b)) else (ipNh p, b)

/-- Options in type-length-value form, type 0 a single octet of padding. -/
def tlvs : Nat → List Octet → List (Nat × List Octet)
  | 0, _ => []
  | _ + 1, [] => []
  | k + 1, t :: r =>
    if t = 0 then (0, []) :: tlvs k r
    else (t.toNat, slice r 1 (r.getD 0 0).toNat) :: tlvs k (r.drop (1 + (r.getD 0 0).toNat))

/-- The options of the hop-by-hop header. -/
def hbhOpts (p : List Octet) : List (Nat × List Octet) :=
  let b := p.drop 40
  if ipNh p = 0 then tlvs b.length ((b.take (extLen b)).drop 2) else []

/-- The O bit of the RPL option, if the packet carries one. -/
def rplO (p : List Octet) : Option Bool :=
  ((hbhOpts p).find? (fun o => o.1 == 0x63)).map (fun o => (o.2.getD 0 0).getLsbD 7)

/-- The hop-by-hop header holds only an RPL option and padding (R280). -/
def onlyRpl (p : List Octet) : Bool :=
  (rplO p).isSome && (hbhOpts p).all (fun o => o.1 == 0 || o.1 == 1 || o.1 == 0x63)

/-- The packet without its hop-by-hop header. -/
def dropHbh (p : List Octet) : List Octet := ipReplace p (ipUpper p).1 (ipUpper p).2

/-- The packet inside, where the next header is IPv6. -/
def ipInner (p : List Octet) : Option (List Octet) := if (ipUpper p).1 = 41 then some (ipUpper p).2 else none

/-! ## The outer header of a source route (R282) -/

/-- Wrap `p` for the hops after the first, whose interface identifiers are `iids`, from `src` to `first`. -/
def ipWrap (src first inst rank : Nat) (iids : List Nat) (p : List Octet) : List Octet :=
  let hbh := octetsBE 1 43 ++ octetsBE 1 0 ++ [0x63, 0x04, 0x80] ++ octetsBE 1 inst ++ octetsBE 2 rank
  let rh := octetsBE 1 41 ++ octetsBE 1 iids.length ++ [0x03] ++ octetsBE 1 iids.length ++ [0x88] ++ zeros 3 ++
    iids.flatMap (octetsBE 8)
  ipPacket 0 0 0 64 src first (hbh ++ rh ++ p)

/-! ## UDP -/

/-- Source and destination port of a UDP packet. -/
def udpPorts (p : List Octet) : Option (Nat × Nat) :=
  if (ipUpper p).1 = 17 then some (beOf (slice (ipUpper p).2 0 2), beOf (slice (ipUpper p).2 2 2)) else none

/-- Sum of 16-bit words, carries folded in. -/
def onesSum : Nat → List Octet → Nat → Nat
  | 0, _, a => a
  | k + 1, l, a =>
    match l with
    | [] => a
    | _ :: _ => onesSum k (l.drop 2) (let x := a + beOf ((l ++ [0]).take 2); x % 65536 + x / 65536)

/-- The checksum of an upper-layer packet under the IPv6 pseudo-header; a sum of 0 is sent as 0xFFFF. -/
def ipChecksum (src dst nh : Nat) (b : List Octet) : Nat :=
  let l := octetsBE 16 src ++ octetsBE 16 dst ++ octetsBE 4 b.length ++ octetsBE 4 nh ++ b
  let c := 0xFFFF - onesSum l.length l 0
  if c = 0 then 0xFFFF else c

/-- The UDP datagram with its checksum filled in. -/
def udpFilled (src dst : Nat) (b : List Octet) : List Octet :=
  b.take 6 ++ octetsBE 2 (ipChecksum src dst 17 (b.take 6 ++ zeros 2 ++ b.drop 8)) ++ b.drop 8

/-- The packet with the checksum of its UDP header filled in where it is 0: elided in compression (R272). -/
def fillChecksum (p : List Octet) : List Octet :=
  let u := ipUpper p
  if u.1 = 17 ∧ 8 ≤ u.2.length ∧ beOf (slice u.2 6 2) = 0 then
    p.take (p.length - u.2.length) ++ udpFilled (ipSrc p) (ipDst p) u.2
  else p

/-! ## DAO messages (R278) -/

/-- One RPL target with a 128-bit prefix and what the first Transit Information option behind it says: the parent's address and
the path lifetime. -/
structure DaoTarget where
  target   : Nat
  parent   : Nat
  lifetime : Nat
  deriving DecidableEq, Repr

/-- The targets of a list of options. -/
def daoOpts : List (Nat × List Octet) → List DaoTarget
  | [] => []
  | o :: t =>
    (if o.1 = 5 ∧ (o.2.getD 1 0).toNat = 128 then
      (match t.find? (fun x => x.1 == 6) with
        | some x => [⟨beOf (slice o.2 2 16), beOf (slice x.2 4 16), (x.2.getD 3 0).toNat⟩]
        | none => [])
    else []) ++ daoOpts t

/-- The targets of an ICMPv6 DAO: type 155, code 0x02; its DODAGID is present when the D flag is set. -/
def daoTargets (p : List Octet) : List DaoTarget :=
  let u := ipUpper p
  if u.1 = 58 ∧ u.2.take 2 = [155, 0x02] then
    let o := u.2.drop (if (u.2.getD 5 0).getLsbD 6 then 24 else 8)
    daoOpts (tlvs o.length o)
  else []

end Sys2Proof.Machine
end

