-- ==== Sys2Proof/Machine/Lowpan.lean ====
section
/-! DEFINITION. 6LoWPAN header compression (RFC 6282) and fragments (RFC 4944) on octets (R271, R272, R274). A context is its
prefix and length. -/
namespace Sys2Proof.Machine

/-- The contexts: prefix and length of each that is enabled. -/
abbrev Ctxs := Nat → Option (Nat × Nat)

def linkLocal : Nat := 0xFE80 * 2 ^ 112
def iidPart (a : Nat) : Nat := a % 2 ^ 64
def isMulticast (a : Nat) : Bool := a / 2 ^ 120 == 0xFF
/-- The interface identifier of a 16-bit address. -/
def iidShort (x : Nat) : Nat := 0x0000_00FF_FE00_0000 + x

/-- The enabled context with the longest prefix that covers `a`, the lowest index on a tie (R272). -/
def bestCtx (cx : Ctxs) (a : Nat) : Option (Nat × Nat × Nat) :=
  (List.range 16).foldl (fun b i =>
    match cx i with
    | some (p, l) =>
      if a / 2 ^ (128 - l) == p / 2 ^ (128 - l) && (match b with | some (_, _, m) => decide (m < l) | none => true) then
        some (i, p, l)
      else b
    | none => b) none

/-! ## Compression -/

/-- A compressed address: the context it uses, whether it is context-based, its mode, the octets carried. -/
structure CAddr where
  ctx  : Nat
  ac   : Nat
  mode : Nat
  oct  : List Octet

/-- Mode and octets of an interface identifier of which the upper `known` bits need not be carried. -/
def cIid (known iid mac : Nat) : Nat × List Octet :=
  let free := 2 ^ (64 - min 64 known)
  if iid % free = mac % free then (3, [])
  else if (iid / 2 ^ 16 * 2 ^ 16) % free = iidShort 0 % free then (2, octetsBE 2 iid)
  else (1, octetsBE 8 iid)

/-- A unicast address, whose MAC address gives the identifier `mac` (R272); `src` allows the form of the unspecified address. -/
def cUnicast (cx : Ctxs) (src : Bool) (a mac : Nat) : CAddr :=
  if src ∧ a = 0 then ⟨0, 1, 0, []⟩
  else if a / 2 ^ 64 * 2 ^ 64 = linkLocal then ⟨0, 0, (cIid 0 (iidPart a) mac).1, (cIid 0 (iidPart a) mac).2⟩
  else match bestCtx cx a with
    | some (i, p, l) =>
      if 64 ≤ l then ⟨i, 1, (cIid (l - 64) (iidPart a) mac).1, (cIid (l - 64) (iidPart a) mac).2⟩
      else if a / 2 ^ 64 * 2 ^ 64 = p then ⟨i, 1, (cIid 0 (iidPart a) mac).1, (cIid 0 (iidPart a) mac).2⟩
      else ⟨0, 0, 0, octetsBE 16 a⟩
    | none => ⟨0, 0, 0, octetsBE 16 a⟩

/-- The enabled context whose prefix a multicast address embeds (its length octet and 64 prefix bits). -/
def multicastCtx (cx : Ctxs) (a : Nat) : Option Nat :=
  (List.range 16).find? (fun i =>
    match cx i with
    | some (p, l) => decide (l ≤ 64) && a / 2 ^ 96 % 256 == l && a / 2 ^ 32 % 2 ^ 64 == p / 2 ^ 64
    | none => false)

/-- A multicast destination. -/
def cMulticast (cx : Ctxs) (a : Nat) : CAddr :=
  let flags := a / 2 ^ 112 % 256
  if a / 256 = 0xFF02 * 2 ^ 104 then ⟨0, 0, 3, octetsBE 1 a⟩
  else if a / 2 ^ 24 % 2 ^ 88 = 0 then ⟨0, 0, 2, octetsBE 1 flags ++ octetsBE 3 a⟩
  else if a / 2 ^ 40 % 2 ^ 72 = 0 then ⟨0, 0, 1, octetsBE 1 flags ++ octetsBE 5 a⟩
  else match multicastCtx cx a with
    | some i => ⟨i, 1, 0, octetsBE 1 flags ++ octetsBE 1 (a / 2 ^ 104) ++ octetsBE 4 a⟩
    | none => ⟨0, 0, 0, octetsBE 16 a⟩

def cDst (cx : Ctxs) (a mac : Nat) : CAddr := if isMulticast a then cMulticast cx a else cUnicast cx false a mac

/-- Mode and octets of traffic class and flow label; the ECN bits stand first. -/
def cTf (tc flow : Nat) : Nat × List Octet :=
  let e := tc % 4 * 64
  if flow = 0 then (if tc = 0 then (3, []) else (2, octetsBE 1 (e + tc / 4)))
  else if tc / 4 = 0 then (1, octetsBE 3 (e * 2 ^ 16 + flow))
  else (0, octetsBE 4 ((e + tc / 4) * 2 ^ 24 + flow))

/-- Mode and octets of the hop limit. -/
def cHlim (h : Nat) : Nat × List Octet := if h = 1 then (1, []) else if h = 64 then (2, []) else if h = 255 then (3, []) else (0, octetsBE 1 h)

/-- NHC of a UDP header: its ports compressed, its checksum carried. -/
def cUdp (b : List Octet) : List Octet :=
  let s := beOf (slice b 0 2)
  let d := beOf (slice b 2 2)
  (if s / 16 = 0xF0B ∧ d / 16 = 0xF0B then [0xF3] ++ octetsBE 1 (s % 16 * 16 + d % 16)
    else if s / 256 = 0xF0 then [0xF2] ++ octetsBE 1 s ++ octetsBE 2 d
    else if d / 256 = 0xF0 then [0xF1] ++ octetsBE 2 s ++ octetsBE 1 d
    else [0xF0] ++ octetsBE 2 s ++ octetsBE 2 d) ++ slice b 6 2

/-- Octets of the padding option that ends a list of options, at most 7, where one option alone does. -/
def padEnd : Nat → List Octet → Nat
  | 0, _ => 0
  | _ + 1, [] => 0
  | k + 1, t :: r =>
    if t = 0 then (if r.isEmpty then 1 else padEnd k r)
    else
      let n := 1 + (r.getD 0 0).toNat
      if t = 1 ∧ r.length = n ∧ n < 7 then 1 + n else padEnd k (r.drop n)

/-- EID of a header that is sent compressed (Table 09-8). -/
def cEid (nh : Nat) : Option Nat := if nh = 0 then some 0 else if nh = 43 then some 1 else if nh = 41 then some 7 else none

/-- The extension header at the front of `b` is whole. -/
def extHere (b : List Octet) : Bool := decide (8 ≤ b.length) && decide (extLen b ≤ b.length)

/-- A header of the kind `nh` can be sent compressed: an extension header or a UDP header that is whole. -/
def cCan (nh : Nat) (b : List Octet) : Bool :=
  if nh = 17 then decide (8 ≤ b.length) && beOf (slice b 4 2) == b.length
  else if nh = 41 then decide (40 ≤ b.length) && ipVersion b == 6 && ipPayLen b + 40 == b.length
  else (cEid nh).isSome && extHere b

/-- NHC of the headers from `nh` on: octets sent and octets they stand for. `ip` compresses an encapsulated packet. -/
def cChain (ip : List Octet → List Octet × Nat) : Nat → Nat → List Octet → List Octet × Nat
  | 0, _, _ => ([], 0)
  | k + 1, nh, b =>
    if !cCan nh b then ([], 0)
    else if nh = 17 then (cUdp b, 8)
    else if nh = 41 then ([0xEE] ++ (ip b).1, (ip b).2)
    else
      let n := extLen b
      let nx := (b.getD 0 0).toNat
      let body := (b.take n).drop 2
      let cut := body.take (body.length - (if nh = 0 then padEnd body.length body else 0))
      let more := cCan nx (b.drop n)
      let t := cChain ip k nx (b.drop n)
      (octetsBE 1 (0xE0 + 2 * (cEid nh).getD 0 + b2n more) ++ (if more then [] else octetsBE 1 nx) ++ octetsBE 1 cut.length ++
        cut ++ (if more then t.1 else []), n + (if more then t.2 else 0))

/-- LOWPAN_IPHC of a packet between MAC addresses whose identifiers are `ms` and `md`: octets sent, and header octets that they
stand for. `fuel` bounds the encapsulation. -/
def iphc (cx : Ctxs) : Nat → Nat → Nat → List Octet → List Octet × Nat
  | 0, _, _, _ => ([], 0)
  | fuel + 1, ms, md, p =>
    let a := cUnicast cx true (ipSrc p) ms
    let d := cDst cx (ipDst p) md
    let tf := cTf (ipTc p) (ipFlow p)
    let hl := cHlim (ipHlim p)
    let nhc := cCan (ipNh p) (p.drop 40)
    let cid := !(a.ctx == 0 && d.ctx == 0)
    let ch := cChain (iphc cx fuel (iidPart (ipSrc p)) (iidPart (ipDst p))) p.length (ipNh p) (p.drop 40)
    (octetsBE 1 (0x60 + 8 * tf.1 + 4 * b2n nhc + hl.1) ++
      octetsBE 1 (128 * b2n cid + 64 * a.ac + 16 * a.mode + 8 * b2n (isMulticast (ipDst p)) + 4 * d.ac + d.mode) ++
      (if cid then octetsBE 1 (16 * a.ctx + d.ctx) else []) ++ tf.2 ++ (if nhc then [] else octetsBE 1 (ipNh p)) ++ hl.2 ++
      a.oct ++ d.oct ++ (if nhc then ch.1 else []), 40 + (if nhc then ch.2 else 0))

/-- The compressed form of a packet, headers apart. -/
def compress (cx : Ctxs) (ms md : Nat) (p : List Octet) : List Octet × Nat := iphc cx p.length ms md p

/-! ## Fragments (R274) -/

def frag1Head (size tag : Nat) : List Octet := octetsBE 2 (0xC000 + size) ++ octetsBE 2 tag
def fragNHead (size tag off : Nat) : List Octet := octetsBE 2 (0xE000 + size) ++ octetsBE 2 tag ++ octetsBE 1 (off / 8)

/-- The fragments after the first: `step` octets each, a multiple of 8. -/
def fragRest (size tag step : Nat) : Nat → Nat → List Octet → List (List Octet)
  | 0, _, _ => []
  | fuel + 1, off, rest =>
    if rest.isEmpty then [] else (fragNHead size tag off ++ rest.take step) :: fragRest size tag step fuel (off + step) (rest.drop step)

/-- The MAC payloads that carry packet `p`, whose first `c.2` octets compress to `c.1`, within `mtu` octets each. -/
def fragments (mtu tag : Nat) (c : List Octet × Nat) (p : List Octet) : List (List Octet) :=
  let pay := p.drop c.2
  if c.1.length + pay.length ≤ mtu then [c.1 ++ pay]
  else
    let n := (c.2 + min pay.length (mtu - 4 - c.1.length)) / 8 * 8
    (frag1Head p.length tag ++ c.1 ++ pay.take (n - c.2)) ::
      fragRest p.length tag ((mtu - 5) / 8 * 8) p.length n (p.drop n)

/-! ## Decompression -/

/-- What decompression answers: the packet, or the reason of `ADP_DISC` under which it is discarded. -/
inductive Dc (α : Type) where
  | ok (a : α)
  | disc (k : Nat)
  deriving DecidableEq, Repr

def Dc.bind {α β : Type} (x : Dc α) (f : α → Dc β) : Dc β :=
  match x with
  | .ok a => f a
  | .disc k => .disc k

/-- Take `n` octets; a header that ends too soon is discarded as UNSUPPORTED (log entry 84). -/
def dTake (n : Nat) (b : List Octet) : Dc (List Octet × List Octet) :=
  if b.length < n then .disc 2 else .ok (b.take n, b.drop n)

/-- The prefix of context `i` over an identifier; CTX when it is disabled (R272). -/
def dCtx (cx : Ctxs) (i iid : Nat) : Dc Nat :=
  match cx i with
  | some (p, l) => .ok (p + iid % 2 ^ min 64 (128 - l))
  | none => .disc 1

/-- A unicast address from its context flag, mode and octets. -/
def dUnicast (cx : Ctxs) (src : Bool) (ctx ac mode mac : Nat) (b : List Octet) : Dc (Nat × List Octet) :=
  if mode = 0 then
    if ac = 0 then (dTake 16 b).bind (fun x => .ok (beOf x.1, x.2))
    else if src then .ok (0, b) else .disc 2
  else (dTake (if mode = 1 then 8 else if mode = 2 then 2 else 0) b).bind (fun x =>
    let iid := if mode = 1 then beOf x.1 else if mode = 2 then iidShort (beOf x.1) else mac
    if ac = 0 then .ok (linkLocal + iid, x.2) else (dCtx cx ctx iid).bind (fun a => .ok (a, x.2)))

/-- A multicast address. -/
def dMulticast (cx : Ctxs) (ctx ac mode : Nat) (b : List Octet) : Dc (Nat × List Octet) :=
  if ac = 1 then
    if mode != 0 then .disc 2
    else (dTake 6 b).bind (fun x =>
      match cx ctx with
      | some (p, l) => .ok (0xFF * 2 ^ 120 + beOf (x.1.take 1) * 2 ^ 112 + beOf (slice x.1 1 1) * 2 ^ 104 + l * 2 ^ 96 +
          p / 2 ^ 64 * 2 ^ 32 + beOf (x.1.drop 2), x.2)
      | none => .disc 1)
  else (dTake (if mode = 0 then 16 else if mode = 1 then 6 else if mode = 2 then 4 else 1) b).bind (fun x =>
    .ok (if mode = 0 then beOf x.1
      else if mode = 3 then 0xFF02 * 2 ^ 112 + beOf x.1
      else 0xFF * 2 ^ 120 + beOf (x.1.take 1) * 2 ^ 112 + beOf (x.1.drop 1), x.2))

/-- Traffic class and flow label. -/
def dTf (mode : Nat) (b : List Octet) : Dc ((Nat × Nat) × List Octet) :=
  (dTake (if mode = 0 then 4 else if mode = 1 then 3 else if mode = 2 then 1 else 0) b).bind (fun x =>
    let e := (x.1.getD 0 0).toNat / 64
    let dscp := (x.1.getD 0 0).toNat % 64
    .ok (if mode = 3 then (0, 0) else if mode = 2 then (dscp * 4 + e, 0)
      else if mode = 1 then (e, beOf x.1 % 2 ^ 20) else (dscp * 4 + e, beOf x.1 % 2 ^ 20), x.2))

/-- Padding of an options header to whole 8 octets. -/
def optPad (n : Nat) : List Octet := if n = 0 then [] else if n = 1 then [0] else [1] ++ octetsBE 1 (n - 2) ++ zeros (n - 2)

/-- Header number of an EID (Table 09-8). -/
def dEid (e : Nat) : Option Nat :=
  match e with
  | 0 => some 0
  | 1 => some 43
  | 2 => some 44
  | 3 => some 60
  | 7 => some 41
  | _ => none

/-- The headers that follow under NHC: next header of the first, and its octets with all that follows. `ip` decompresses an
encapsulated packet; `extra` octets of the datagram are still to come in other fragments; `ck` allows an elided checksum. -/
def dChain (ip : List Octet → Dc (List Octet)) (ck : Bool) (extra : Nat) : Nat → List Octet → Dc (Nat × List Octet)
  | 0, _ => .disc 2
  | _ + 1, [] => .disc 2
  | k + 1, c :: b =>
    let n := c.toNat
    if n / 8 = 0x1E then
      let pp := n % 4
      (dTake (if pp = 3 then 1 else if pp = 0 then 4 else 3) b).bind (fun x =>
        let v := beOf x.1
        let s := if pp = 3 then 0xF0B0 + v / 16 else if pp = 2 then 0xF000 + v / 65536 else if pp = 1 then v / 256 else v / 65536
        let d := if pp = 3 then 0xF0B0 + v % 16 else if pp = 2 then v % 65536 else if pp = 1 then 0xF000 + v % 256 else v % 65536
        if n / 4 % 2 = 1 then
          (if ck then .ok (17, octetsBE 2 s ++ octetsBE 2 d ++ octetsBE 2 (8 + x.2.length + extra) ++ zeros 2 ++ x.2) else .disc 11)
        else (dTake 2 x.2).bind (fun y =>
          .ok (17, octetsBE 2 s ++ octetsBE 2 d ++ octetsBE 2 (8 + y.2.length + extra) ++ y.1 ++ y.2)))
    else if n / 16 = 0xE then
      match dEid (n / 2 % 8) with
      | none => .disc 2
      | some 41 => (ip b).bind (fun p => .ok (41, p))
      | some h =>
        let more := n % 2 = 1
        (dTake (if more then 0 else 1) b).bind (fun x =>
          (dTake 1 x.2).bind (fun y =>
            (dTake (beOf y.1) y.2).bind (fun z =>
              let body := z.1 ++ (if h = 0 ∨ h = 60 then optPad ((8 - (z.1.length + 2) % 8) % 8) else [])
              let len := if h = 44 then 0 else (body.length + 2) / 8 - 1
              if more then
                (dChain ip ck extra k z.2).bind (fun t => .ok (h, octetsBE 1 t.1 ++ octetsBE 1 len ++ body ++ t.2))
              else .ok (h, x.1 ++ octetsBE 1 len ++ body ++ z.2))))
    else .disc 2

/-- Decompress LOWPAN_IPHC: the packet. -/
def dIphc (cx : Ctxs) (ck : Bool) (extra : Nat) : Nat → Nat → Nat → List Octet → Dc (List Octet)
  | 0, _, _, _ => .disc 2
  | fuel + 1, ms, md, b =>
    (dTake 2 b).bind (fun h =>
      let w := beOf h.1
      if w / 2 ^ 13 != 3 then .disc 2
      else (dTake (bitsOf w 7 7) h.2).bind (fun c =>
        (dTf (bitsOf w 12 11) c.2).bind (fun tf =>
          (dTake (1 - bitsOf w 10 10) tf.2).bind (fun nh =>
            (dTake (if bitsOf w 9 8 = 0 then 1 else 0) nh.2).bind (fun hl =>
              (dUnicast cx true (beOf c.1 / 16) (bitsOf w 6 6) (bitsOf w 5 4) ms hl.2).bind (fun a =>
                (if bitsOf w 3 3 = 1 then dMulticast cx (beOf c.1 % 16) (bitsOf w 2 2) (bitsOf w 1 0) a.2
                  else dUnicast cx false (beOf c.1 % 16) (bitsOf w 2 2) (bitsOf w 1 0) md a.2).bind (fun d =>
                  let hops := match bitsOf w 9 8 with
                    | 1 => 1
                    | 2 => 64
                    | 3 => 255
                    | _ => beOf hl.1
                  (if bitsOf w 10 10 = 1 then dChain (dIphc cx ck extra fuel (iidPart a.1) (iidPart d.1)) ck extra b.length d.2
                    else .ok (beOf nh.1, d.2)).bind (fun t =>
                    let p := ipPacket tf.1.1 tf.1.2 t.1 hops a.1 d.1 t.2
                    .ok (p.take 4 ++ octetsBE 2 (t.2.length + extra) ++ p.drop 6)))))))))

/-- Decompress what follows the fragment header, if any: IPHC or an uncompressed packet (R271). -/
def dPacket (cx : Ctxs) (ck : Bool) (extra ms md : Nat) (b : List Octet) : Dc (List Octet) :=
  match b with
  | [] => .disc 0
  | c :: t =>
    if c = 0x41 then .ok t
    else if c.toNat / 32 = 3 then dIphc cx ck extra b.length ms md b
    else .disc 0

/-- A whole packet: its elided checksum is filled in. -/
def decompress (cx : Ctxs) (ck : Bool) (ms md : Nat) (b : List Octet) : Dc (List Octet) :=
  (dPacket cx ck 0 ms md b).bind (fun p => .ok (fillChecksum p))

/-- The first fragment of a datagram of `size` octets: what it gives of the packet. Lengths in its headers count the octets of the
later fragments. -/
def decompressFirst (cx : Ctxs) (ck : Bool) (ms md size : Nat) (b : List Octet) : Dc (List Octet) :=
  (dPacket cx ck 0 ms md b).bind (fun p => dPacket cx ck (size - p.length) ms md b)

/-- What a MAC payload holds: a packet, a fragment (tag, datagram size, offset, octets), or a reason to discard it. -/
inductive MacPay where
  | packet (p : List Octet)
  | frag (tag size off : Nat) (p : List Octet)
  | disc (k : Nat)
  deriving DecidableEq, Repr

def payOf (x : Dc (List Octet)) (f : List Octet → MacPay) : MacPay :=
  match x with
  | .ok p => f p
  | .disc k => .disc k

/-- Read the MAC payload of a frame between MAC addresses whose identifiers are `ms` and `md` (R271). -/
def macPay (cx : Ctxs) (ck : Bool) (ms md : Nat) (b : List Octet) : MacPay :=
  let w := beOf (b.take 2)
  if (b.getD 0 0).toNat / 8 = 0x18 then
    payOf (decompressFirst cx ck ms md (w % 2 ^ 11) (b.drop 4)) (.frag (beOf (slice b 2 2)) (w % 2 ^ 11) 0)
  else if (b.getD 0 0).toNat / 8 = 0x1C then .frag (beOf (slice b 2 2)) (w % 2 ^ 11) (8 * (b.getD 4 0).toNat) (b.drop 5)
  else payOf (decompress cx ck ms md b) .packet

end Sys2Proof.Machine
end

