-- ==== Sys2Proof/Machine/Crc.lean ====
section
/-! DEFINITION. The cyclic redundancy checks of the device: CRC-16 (R65, R382), CRC-32C (Table 16-1), CRC-64 (R451),
CRC-8 and CRC-32 forms, as one bit-serial function. -/
namespace Sys2Proof.Machine

/-- Reverse the low `w` bits of `x`. -/
def revBits : Nat → Nat → Nat
  | 0, _ => 0
  | w + 1, x => (x % 2) * 2 ^ w + revBits w (x / 2)

/-- One bit of a CRC register of `w` bits, polynomial `poly`. -/
def crcBit (w poly reg : Nat) (b : Bool) : Nat :=
  let top := reg / 2 ^ (w - 1) % 2 == 1
  let sh := reg * 2 % 2 ^ w
  if top != b then sh ^^^ poly else sh

/-- One octet, most significant bit first. -/
def crcOctet (w poly reg o : Nat) : Nat :=
  (List.range 8).foldl (fun r i => crcBit w poly r (bitOf o (7 - i))) reg

/-- CRC of octets: width, polynomial, initial value, reflected input and output, final XOR. -/
def crc (w poly init : Nat) (refl : Bool) (xorOut : Nat) (bs : List Octet) : Nat :=
  let r := bs.foldl (fun r b => crcOctet w poly r (if refl then revBits 8 b.toNat else b.toNat)) init
  (if refl then revBits w r else r) ^^^ xorOut

/-- CRC-16 of R65 and R382. -/
def crc16 (bs : List Octet) : Nat := crc 16 0x1021 0xFFFF false 0 bs
/-- CRC-32C of the journal record header (Table 16-1). -/
def crc32c (bs : List Octet) : Nat := crc 32 0x1EDC6F41 0xFFFF_FFFF true 0xFFFF_FFFF bs
/-- CRC-64 of the slot digest (R451). -/
def crc64 (bs : List Octet) : Nat :=
  crc 64 0x42F0_E1EB_A9EA_3693 0xFFFF_FFFF_FFFF_FFFF true 0xFFFF_FFFF_FFFF_FFFF bs

/-- CRC-32 of the 4-octet FCS (R180). -/
def crc32 (bs : List Octet) : Nat := crc 32 0x04C1_1DB7 0xFFFF_FFFF true 0xFFFF_FFFF bs
/-- CRC-16 of the 2-octet FCS of IEEE 802.15.4. -/
def crc16Fcs (bs : List Octet) : Nat := crc 16 0x1021 0 true 0 bs
/-- CRC-8 of the Eland PHR (R176). -/
def crc8 (bs : List Octet) : Nat := crc 8 0x07 0 false 0 bs

/-- A PSDU with its FCS of `n` octets, least significant octet first (R180). -/
def withFcs (n : Nat) (bs : List Octet) : List Octet := bs ++ (if n = 4 then octetsLE 4 (crc32 bs) else octetsLE 2 (crc16Fcs bs))
/-- The last `n` octets of a PSDU are the FCS of those before them. -/
def fcsGood (n : Nat) (psdu : List Octet) : Bool := decide (n ≤ psdu.length) && withFcs n (psdu.take (psdu.length - n)) == psdu

/-- One step of the least-significant-bit-first CRC-32C register of R240. -/
def lsbStep (c : Nat) : Nat := if c % 2 = 1 then (c / 2) ^^^ 0x82F6_3B78 else c / 2

/-- CRC-32C with the initial value loaded exactly as written (R240, R293). -/
def crc32cInit (init : Nat) (bs : List Octet) : Nat :=
  (bs.foldl (fun c b => (List.range 8).foldl (fun c _ => lsbStep c) (c ^^^ b.toNat)) init) ^^^ 0xFFFF_FFFF

end Sys2Proof.Machine
end

