-- ==== Sys2Proof/Machine/Record.lean ====
section
/-! DEFINITION. Journal records as octets (R446, R450, R451, R470): bodies, headers, the CRC, the SEAL of a slot and the digests. -/
namespace Sys2Proof.Machine

/-- A list cut or padded with zeros to `n` octets. -/
def fitOct (n : Nat) (l : List Octet) : List Octet := (l ++ zeros n).take n

/-- A signed value in `n` octets. -/
def octetsInt (n : Nat) (i : Int) : List Octet := octetsLE n (toUnsigned (8 * n) i)

/-- TYPE of a record (Table 16-2, R470). -/
def jbodyTyp : JBody → Nat
  | .opn .. => 0x100
  | .slot .. => 0x101
  | .digest .. => 0x102
  | .tsrc .. => 0x103
  | .txout .. => 0x104
  | .clock .. => 0x105
  | .cal .. => 0x106
  | .seed .. => 0x107
  | .pairpt .. => 0x108
  | .close .. => 0x109
  | .frame .. => 0x110
  | .rxsum .. => 0x111
  | .ethin .. => 0x120
  | .cmd .. => 0x130
  | .cmdData .. => 0x131
  | .cfg .. => 0x132
  | .keyres .. => 0x133
  | .snapHdr .. => 0x180
  | .snapData .. => 0x181

/-- One census entry of an RXSUM body (Table 16-3). -/
def sumEntryOct (e : RxSumEntry) : List Octet :=
  octetsLE 1 e.slot ++ octetsLE 1 (b2n e.elock + 2 * b2n e.deaf) ++ octetsLE 2 e.occ ++ octetsInt 2 e.level ++
    octetsLE 1 e.deafT ++ octetsLE 1 (min 255 e.fcs)

/-- The body of a record (Tables 16-2 and 16-3, R470). The order of a CAL body's fields is the model's (log entry 86). -/
def bodyOctets : JBody → List Octet
  | .opn jid devid rev reason gen =>
    octetsLE 8 jid ++ octetsLE 8 devid ++ octetsLE 2 rev ++ [0xB0] ++ octetsLE 1 reason ++ octetsLE 4 (gen.getD 0xFFFF_FFFF)
  | .slot keyed mac => octetsLE 1 (b2n keyed) ++ zeros 7 ++ fitOct 16 mac
  | .digest asn d units => octetsLE 5 asn ++ zeros 3 ++ octetsLE 8 d ++ units.flatMap (octetsLE 8)
  | .tsrc code outcome pps offset mpd =>
    octetsLE 1 code ++ octetsLE 1 outcome ++ octetsLE 1 pps ++ zeros 5 ++ octetsInt 8 offset ++ octetsInt 8 mpd
  | .txout port outcome hold entry asn sfh node =>
    octetsLE 1 port ++ octetsLE 1 outcome ++ octetsLE 2 hold ++ octetsLE 1 entry ++ zeros 3 ++ octetsLE 5 asn ++ octetsLE 1 sfh ++
      octetsLE 4 node
  | .clock event => octetsLE 1 event
  | .cal port kind ok asn ofs ratio unc =>
    octetsLE 1 port ++ octetsLE 1 kind ++ octetsLE 1 (b2n ok) ++
      (if port = 7 then zeros 1 ++ octetsLE 4 unc ++ octetsLE 8 ratio else octetsLE 5 asn ++ zeros 4 ++ octetsLE 4 ofs)
  | .seed value => octetsBE 48 value
  | .pairpt kind first last devid => octetsLE 1 kind ++ zeros 7 ++ octetsLE 5 first ++ octetsLE 5 last ++ zeros 6 ++ octetsLE 8 devid
  | .close reason => octetsLE 1 reason
  | .frame m psdu => fitOct 32 (Config.metaOctets m) ++ psdu
  | .rxsum rs =>
    octetsLE 1 rs.pair ++ octetsLE 1 rs.entries.length ++ zeros 2 ++ rs.counts.flatMap (octetsLE 2) ++ rs.divs.flatMap (octetsLE 2) ++
      zeros 4 ++ rs.entries.flatMap sumEntryOct
  | .ethin port kind link mode frame =>
    octetsLE 1 port ++ octetsLE 1 kind ++ octetsLE 1 link ++ octetsLE 1 mode ++ zeros 4 ++ frame
  | .cmd ring dindex _ _ _ inLen content =>
    octetsLE 1 ring ++ zeros 1 ++ octetsLE 2 dindex ++ zeros 4 ++ fitOct (32 + inLen) (Config.cmdOctets content)
  | .cmdData content from_ count => fitOct count ((Config.cmdOctets content).drop (32 + from_))
  | .cfg addr value => octetsLE 4 addr ++ octetsLE 4 value.toNat
  | .keyres status placement gen actAsn =>
    octetsLE 1 status ++ octetsLE 1 placement ++ zeros 2 ++ octetsLE 4 gen ++ octetsLE 5 actAsn
  | .snapHdr jid jpos devid rev step patch total sha =>
    octetsLE 8 jid ++ octetsLE 8 jpos ++ octetsLE 8 devid ++ octetsLE 2 rev ++ octetsLE 1 step ++ octetsLE 1 patch ++ zeros 4 ++
      octetsLE 8 total ++ fitOct 32 sha
  | .snapData sec ofs n part => octetsLE 2 sec ++ zeros 2 ++ octetsLE 4 ofs ++ fitOct n ((Config.partOctets part).drop ofs)

/-- Octets of a body. -/
def bodyLen : JBody → Nat
  | .frame _ psdu => 32 + psdu.length
  | .cmd _ _ _ _ _ n _ => 40 + n
  | .cmdData _ _ n => n
  | .snapData _ _ n _ => 8 + n
  | b => (bodyOctets b).length

/-- Total octets of a record with body `b`, padded to a multiple of 8. -/
def recLen (b : JBody) : Nat := 8 * ceilDiv (32 + bodyLen b) 8

/-- The octets of a record under a given CRC field (Table 16-1). -/
def recWith (crc : Nat) (j : JRec) : List Octet :=
  fitOct j.len (octetsLE 2 (jbodyTyp j.body) ++ octetsLE 2 j.len ++ octetsLE 1 (b2n j.more) ++ zeros 3 ++ octetsLE 8 j.seq ++
    octetsLE 5 j.asn ++ zeros 3 ++ octetsLE 4 j.ofs ++ octetsLE 4 crc ++ bodyOctets j.body)
def recOctets (j : JRec) : List Octet := recWith j.crc j
/-- CRC-32C over the whole record with its field zero. -/
def recCrc (j : JRec) : Nat := crc32c (recWith 0 j)
def recCrcOk (j : JRec) : Bool := j.crc == recCrc j

/-- A record with its CRC. -/
def mkRec (seq asn ofs : Nat) (more : Bool) (b : JBody) : JRec :=
  let j : JRec := ⟨seq, asn, ofs, recLen b, more, 0, b⟩
  { j with crc := recCrc j }

/-! ## Reading records (R471) -/

/-- One census entry of an RXSUM body. -/
def sumEntryOf (b : List Octet) : RxSumEntry :=
  let n := fun (i k : Nat) => leOf (slice b i k)
  ⟨n 0 1, bitOf (n 1 1) 0, bitOf (n 1 1) 1, n 2 2, signedOf 16 (n 4 2), n 6 1, n 7 1⟩

/-- The body of a record of TYPE `typ`, where Tables 16-2 and 16-3 and R470 fix its octets; `Config.bodyIn` reads the others. -/
def bodyOf (typ : Nat) (b : List Octet) : Option JBody :=
  let n := fun (i k : Nat) => leOf (slice b i k)
  let i8 := fun (i : Nat) => signedOf 64 (leOf (slice b i 8))
  if typ = 0x100 then some (.opn (n 0 8) (n 8 8) (n 16 2) (n 19 1) (if n 20 4 = 0xFFFF_FFFF then none else some (n 20 4)))
  else if typ = 0x101 then some (.slot (bitOf (n 0 1) 0) (slice b 8 16))
  else if typ = 0x102 then some (.digest (n 0 5) (n 8 8) ((List.range 14).map (fun i => n (16 + 8 * i) 8)))
  else if typ = 0x103 then some (.tsrc (n 0 1) (n 1 1) (n 2 1) (i8 8) (i8 16))
  else if typ = 0x104 then some (.txout (n 0 1) (n 1 1) (n 2 2) (n 4 1) (n 8 5) (n 13 1) (n 14 4))
  else if typ = 0x105 then some (.clock (n 0 1))
  else if typ = 0x107 then some (.seed (beOf (slice b 0 48)))
  else if typ = 0x108 then some (.pairpt (n 0 1) (n 8 5) (n 13 5) (n 24 8))
  else if typ = 0x109 then some (.close (n 0 1))
  else if typ = 0x111 then some (.rxsum ⟨n 0 1, (List.range 9).map (fun i => n (4 + 2 * i) 2), (List.range 3).map (fun i => n (22 + 2 * i) 2),
    (List.range (n 1 1)).map (fun i => sumEntryOf (slice b (32 + 8 * i) 8))⟩)
  else if typ = 0x132 then some (.cfg (n 0 4) (BitVec.ofNat 32 (n 4 4)))
  else if typ = 0x133 then some (.keyres (n 0 1) (n 1 1) (n 4 4) (n 8 5))
  else if typ = 0x180 then some (.snapHdr (n 0 8) (n 8 8) (n 16 8) (n 24 2) (n 26 1) (n 27 1) (n 32 8) (slice b 40 32))
  else Config.bodyIn typ b

/-- The record that octets spell (Table 16-1). -/
def recOf (l : List Octet) : Option JRec :=
  let n := fun (i k : Nat) => leOf (slice l i k)
  (bodyOf (n 0 2) (l.drop 32)).map (fun b => ⟨n 8 8, n 16 5, n 24 4, n 2 2, bitOf (n 4 1) 0, n 28 4, b⟩)

/-- CRC-32C of octets holds. -/
def octCrcOk (l : List Octet) : Bool := leOf (slice l 28 4) == crc32c (l.take 28 ++ zeros 4 ++ l.drop 32)

/-- The whole records of a buffer, each with its octets; none where a record has no form. -/
def recsIn : Nat → List Octet → List (Option (List Octet × JRec))
  | 0, _ => []
  | k + 1, l =>
    let n := leOf (slice l 2 2)
    if l.isEmpty then []
    else if n < 32 ∨ 4096 < n ∨ n % 8 ≠ 0 ∨ l.length < n then [none]
    else match recOf (l.take n) with
      | some j => some (l.take n, j) :: recsIn k (l.drop n)
      | none => [none]

/-! ## SEAL and digests (R450, R451) -/

/-- SEAL of a slot: AES-256-CMAC of its records under K_jrnl; zero in a journal that is not keyed. -/
def sealOf (key : List Octet) (recs : List JRec) : List Octet :=
  if key.isEmpty then zeros 16 else cmac key (recs.flatMap recOctets)

/-- U[1] to U[14] of a slot. -/
def slotUnits (rev : Nat) (core : List CorePart) (recs : List JRec) (masters : List Nat) : List Nat :=
  (List.range 14).map (fun u => crc64 (Config.updateWords (u + 1) rev core recs masters))

/-- D: the CRC-64 over U[1] to U[14], each least significant octet first. -/
def slotDigest (units : List Nat) : Nat := crc64 (units.flatMap (octetsLE 8))

/-- The lowest unit whose digest differs. -/
def unitDiffers (a b : List Nat) : Nat := (((List.range 14).find? (fun i => a.getD i 0 != b.getD i 0)).map (· + 1)).getD 0

end Sys2Proof.Machine
end

