-- ==== Sys2Proof/Machine/State.lean ====
section
/-! DEFINITION. The state of the block: every register, FIFO, buffer, counter, mode and pin the spec gives it
(INVENTORY.md, '## State'), and the queue of the commands that wait. -/
namespace Sys2Proof.Machine

/-- Why a step may stop with a fault. No command of this block does: the spec gives each an effect (NOTES.md,
'## Stops'), so no constructor is ever raised. -/
inductive Fault where
  /-- Raised by no command; it stands for an access to storage the spec says does not exist. Safe. -/
  | noSuchStore
  deriving DecidableEq, Repr

/-- Why a step may be refused. -/
inductive Refusal where
  /-- Raised by an arm of `exec` whose command has no meaning yet. Safe: the run stops. -/
  | notModelled (mnemonic : String)
  deriving DecidableEq, Repr

/-! ## The machine -/

structure State where
  /-- the commands that wait, first in first out (the model's own queue) -/
  pending : List Instr
  /-- value the last BAR0 read returned -/
  rdata   : Word
  /-- stamp of the next free value (the model's own) -/
  fresh   : Nat
  /-- register words that differ from their reset value: BAR0 address and word, canonical -/
  regs    : List (Nat × Word)
  /-- counts of the RC registers that are not 0, by address, canonical (R16) -/
  cnt     : List (Nat × Word)
  /-- active copies that differ from the staging reset, by staging address, canonical (R522) -/
  active  : List (Nat × Word)
  /-- latched _HI words and the latch group of TIME_NOW_LO, by address, canonical (R53, R528) -/
  latch   : List (Nat × Word)
  time    : TimeSt
  rf      : RfSt
  rx      : RxSt
  bank    : BankSt
  tbl     : TblSt
  sch     : SchSt
  tx      : TxSt
  herd    : HerdSt
  adp     : AdpSt
  sec     : SecSt
  eth     : List EthPort
  /-- the `DIAG_IQ_SNAPSHOT` that waits; window, ports and samples stored of the current or last one (`DBG_SNAPSTAT`) -/
  snap    : Option Snap
  snapWin : Nat
  snapPorts : Nat
  captured : Nat
  que     : QueSt
  hif     : HifSt
  jrn     : JrnSt
  pair    : PairSt
  err     : ErrSt
  pwr     : PwrSt
  deriving DecidableEq, Repr

def CRing.reset : CRing := ⟨0, false, 0, 0, 0, [], []⟩
def CplRing.reset : CplRing := ⟨0, 0, [], false, none⟩
def DRing.reset : DRing := ⟨0, 0, 0, [], false, none⟩

def HifSt.reset : HifSt where
  cring := List.replicate 16 CRing.reset
  cpl := List.replicate 16 CplRing.reset
  dring := List.replicate 10 DRing.reset
  admitted := []
  busMaster := false
  d3hot := false
  speed := 0
  width := 0
  ready := false
  pba := []
  linkReset := none
  msgs := []
  outBuf := []
  final := []
  finalRecs := []

/-- Free lists of Table 12-1; everything else empty. -/
def QueSt.reset : QueSt where
  free := [[(0, 10240)], [(10240, 14336)], [(14336, 22528)], [(22528, 24576)], [(24576, 32768)]]
  used := []
  wrDrop := false
  egress := List.replicate 14 []
  above := []
  qflow := [⟨false, 0⟩, ⟨false, 0⟩]
  pauseAt := [none, none]
  pauseTx := [[], []]

def JrnSt.reset : JrnSt where
  isOpen := false
  started := false
  id := 0
  seq := 0
  keyed := false
  staging := []
  frozen := false
  stream := false
  ringNext := 0
  dump := none
  key := []
  slotRecs := []
  coreAt := []
  owed := []
  seed := 0
  drawn := 0

def PairSt.reset : PairSt where
  st := .solo
  link := false
  wait := false
  activeOut := false
  failIn := false
  join := none
  peer := none
  agree := none
  kpair := none
  peerOk := false
  peerAsn := 0
  toRef := none
  joinAt := 0
  exec := false
  backlog := []
  hbMiss := 0
  hbSeen := false
  acked := 0
  ackMiss := 0
  ackSeen := false
  drill := none
  drillB := none
  divergedAt := none
  rejoinAt := none
  lastSlot := 0
  trigger := 0
  failMsgs := 0
  sent := []
  msgs := 0
  wire := []
  own := []
  tagFails := 0
  store := []
  rp := ⟨0, 0, false, 0, 0, 0, 0⟩
  rpNext := none
  masters := []
  hostKeys := []
  snap := none

def ErrSt.reset : ErrSt where
  fifo := []
  eseq := 0
  offline := []
  pendRst := []
  leak := 0
  fatal := none
  devFatal := false
  busy := false
  scrubArr := 0
  scrubWord := 0
  restarting := []
  restarted := []

/-- After a power-on reset: MAIN_EN active, waiting in OFF for PWR_OK (R497, R503), CAUSE POWERON. -/
def PwrSt.reset : PwrSt where
  st := .off
  preparing := false
  commit := none
  later := []
  cause := 0
  refuse := (0, 0)
  phase := 0
  warm := false
  bistFail := false
  slck := 0
  slckTb := 0
  bank := none
  wakeAfter := 0
  waking := none
  kept := false
  mainEn := true
  pwrOk := false
  hostWake := false
  perst := false

/-- The machine right after a power-on reset. -/
def State.reset : State where
  pending := []
  rdata := 0
  fresh := 0
  regs := []
  cnt := []
  active := []
  latch := []
  time := TimeSt.reset
  rf := RfSt.reset
  rx := ⟨[], [RxCounts.reset, RxCounts.reset], List.replicate 16 [], [], [], []⟩
  bank := ⟨none, 0, 0⟩
  tbl := TblSt.reset
  sch := SchSt.reset
  tx := TxSt.reset
  herd := HerdSt.reset
  adp := AdpSt.reset
  sec := SecSt.reset
  eth := [EthPort.reset, EthPort.reset]
  snap := none
  snapWin := 0
  snapPorts := 0
  captured := 0
  que := QueSt.reset
  hif := HifSt.reset
  jrn := JrnSt.reset
  pair := PairSt.reset
  err := ErrSt.reset
  pwr := PwrSt.reset

end Sys2Proof.Machine
end

