-- ==== Sys2Proof/Machine/Ops.lean ====
section
/-! DEFINITION. The named operations that the commands share: sparse register words, the slot clock, packet-memory pools
and egress queues, records and events, the journal, completions and the admission of a command. -/
namespace Sys2Proof.Machine

/-- What a command answers. -/
abbrev Res := Host.Outcome State Fault Refusal

/-! ## Sparse words -/

/-- The word at `a`; `d` where none is listed. -/
def cellsGet (a : Nat) (d : Word) : List (Nat × Word) → Word
  | [] => d
  | (b, w) :: t => if a = b then w else cellsGet a d t

/-- Write `v` at `a`, keeping the list strictly rising and without entries equal to the unlisted value `d`. -/
def cellsPut (a : Nat) (v d : Word) : List (Nat × Word) → List (Nat × Word)
  | [] => if v = d then [] else [(a, v)]
  | (b, w) :: t =>
    if a < b then (if v = d then (b, w) :: t else (a, v) :: (b, w) :: t)
    else if a = b then (if v = d then t else (a, v) :: t)
    else (b, w) :: cellsPut a v d t

/-- The canonical form: addresses strictly rising, no entry equal to what an unlisted address reads as. -/
def cellsWf (dflt : Nat → Word) : List (Nat × Word) → Bool
  | [] => true
  | [(a, w)] => w != dflt a
  | (a, w) :: (b, x) :: t => w != dflt a && decide (a < b) && cellsWf dflt ((b, x) :: t)

/-! ## Registers -/

/-- The stored part of the register word at BAR0 address `a`. -/
def State.reg (s : State) (a : Nat) : Word := cellsGet a (resetAt a) s.regs
/-- Field [hi:lo] of the register at `a`. -/
def State.regF (s : State) (a hi lo : Nat) : Nat := bitsOf (s.reg a).toNat hi lo
def State.regN (s : State) (a : Nat) : Nat := (s.reg a).toNat
def State.regB (s : State) (a i : Nat) : Bool := bitOf (s.reg a).toNat i
def State.setReg (a : Nat) (v : Word) (s : State) : State := { s with regs := cellsPut a v (resetAt a) s.regs }
/-- The active copy of the staged register at `a` (R522). -/
def State.act (s : State) (a : Nat) : Nat := (cellsGet a (resetAt a) s.active).toNat

/-- Add `n` to the counter field of `w` bits at bit `lo` of the RC register `a`, saturating (R16, R18). -/
def cntBump (a lo w n : Nat) (c : List (Nat × Word)) : List (Nat × Word) :=
  let x := (cellsGet a 0 c).toNat
  let f := bitsOf x (lo + w - 1) lo
  cellsPut a (BitVec.ofNat 32 (x - f * 2 ^ lo + min (f + n) (2 ^ w - 1) * 2 ^ lo)) 0 c

def bumpN (a n : Nat) (s : State) : State := { s with cnt := cntBump a 0 32 n s.cnt }
/-- Count one in the RC register `a`. -/
def bump (a : Nat) (s : State) : State := bumpN a 1 s
def bumpIf (c : Bool) (a : Nat) (s : State) : State := bumpN a (b2n c) s

/-! ## The slot clock (R52, R54 to R56) -/

/-- L in ns. -/
def TimeSt.l (t : TimeSt) : Nat := t.slotLen * 250_000
/-- The slot clock runs: epoch set, timebase loaded and not before E (R54, R56). -/
def TimeSt.running (t : TimeSt) : Bool := t.loaded && t.epochSet && decide (t.epoch ≤ t.tb) && decide (0 < t.slotLen)
def TimeSt.asn (t : TimeSt) : Nat := if t.running then (t.tb - t.epoch) / t.l % 2 ^ 40 else 0
def TimeSt.ofs (t : TimeSt) : Nat := if t.running then (t.tb - t.epoch) % t.l else 0
/-- Timebase at offset 0 of ASN `n`. -/
def TimeSt.at_ (t : TimeSt) (n : Nat) : Nat := t.epoch + n * t.l
def asnNow (s : State) : Nat := s.time.asn
/-- Let the timebase reach at least `t`: deadlines are reached, never passed backwards (R79). -/
def TimeSt.reach (t : TimeSt) (at_ : Nat) : TimeSt := { t with tb := max t.tb at_, sub := if t.tb < at_ then 0 else t.sub }
def reach (at_ : Nat) (s : State) : State := { s with time := s.time.reach at_ }

/-! ## Who serves -/

/-- The device is in RUN or WATCH, its boot is over and no DEVICE_FATAL error has halted it (R502, R517, R491). -/
def State.up (s : State) : Bool := (s.pwr.st == .run || s.pwr.st == .watch) && decide (6 ≤ s.pwr.phase) && !s.err.devFatal
/-- DMA and MSI-X messages may be issued (R377). -/
def State.dma (s : State) : Bool := s.hif.busMaster && !s.hif.d3hot && s.hif.speed != 0
def State.offline (s : State) (u : Nat) : Bool := s.err.offline.contains u
/-- The unit writes its own inputs to the journal: SOLO or ACTIVE (R446, R456). -/
def PairSt.leads (p : PairSt) : Bool := p.st == .solo || p.st == .active
/-- The unit executes another unit's journal (R458). -/
def PairSt.follows (p : PairSt) : Bool := p.st == .joinCatchup || p.st == .standbySynced

/-- The unit executes core work: its own in SOLO or ACTIVE, the active unit's records otherwise. -/
def coreRuns (s : State) : Bool := s.up && (s.pair.leads || s.pair.exec)
/-- Core work `t` of state `s`, done only while the unit executes it. -/
def coreOnly (s t : State) : State := if coreRuns s then t else s

/-! ## Host writes (R525 to R527, R531) -/

/-- BAR0 is served: RUN or WATCH, with phase 4 of the boot over (R531). A DEVICE_FATAL stop keeps it (R491). -/
def bar0 (s : State) : Bool := (s.pwr.st == .run || s.pwr.st == .watch) && decide (4 ≤ s.pwr.phase)

def glbFlag (bit : Word) (s : State) : State := s.setReg 0xC (s.reg 0xC ||| bit)

/-- A journaled write that arrives at this unit is discarded (R527). -/
def jwrDrops (s : State) : Bool := !s.pair.leads && s.pair.st != .takeover && !s.pair.exec

/-- A journaled write: it waits during the handshake (R525), is discarded under R527, or takes effect. -/
def jwr (f : State → State) (s : State) : State :=
  if !bar0 s || s.pwr.preparing then s else if jwrDrops s then glbFlag 4 s else f s

/-! ## Packet-memory pools (R355 to R358) -/

def poolCtl (k : Nat) : Nat := 0xD0010 + 8 * k
def poolBase (s : State) (k : Nat) : Nat := s.regF (poolCtl k) 14 0
def poolSize (s : State) (k : Nat) : Nat := s.regF (poolCtl k) 31 16
def inPool (s : State) (k c : Nat) : Bool := poolBase s k ≤ c && c < poolBase s k + poolSize s k
/-- The pool whose range holds cell `c`. -/
def poolOf (s : State) (c : Nat) : Option Nat := (List.range 5).find? (fun k => inPool s k c)
/-- POOLERR: ranges overlap or run past cell 32,767 (R357). -/
def poolErr (s : State) : Bool :=
  (List.range 5).any (fun k => 32768 < poolBase s k + poolSize s k ||
    (List.range k).any (fun j => poolSize s j != 0 && poolSize s k != 0 &&
      poolBase s j < poolBase s k + poolSize s k && poolBase s k < poolBase s j + poolSize s j))

/-- Cells for n octets (R355). -/
def cellsFor (n : Nat) : Nat := ceilDiv (n + 32) 256

def freeCount (f : List (Nat × Nat)) : Nat := sumNat (f.map (fun p => p.2 - p.1))

/-- `n` cells from the head of a free list. -/
def takeCells : Nat → List (Nat × Nat) → Option (List Nat × List (Nat × Nat))
  | 0, f => some ([], f)
  | _ + 1, [] => none
  | n + 1, (lo, hi) :: t =>
    match takeCells n (if lo + 1 < hi then (lo + 1, hi) :: t else t) with
    | some (cs, f) => some (lo :: cs, f)
    | none => none

/-- Append cell `c` to the tail of a free list. -/
def giveCell (c : Nat) : List (Nat × Nat) → List (Nat × Nat)
  | [] => [(c, c + 1)]
  | [(lo, hi)] => if hi = c then [(lo, c + 1)] else [(lo, hi), (c, c + 1)]
  | p :: t => p :: giveCell c t

/-- Allocate `n` cells of pool `k` (R356); none fits while POOLERR is set. -/
def allocIn (s : State) (k n : Nat) (q : QueSt) : Option (List Nat × QueSt) :=
  if poolErr s then none
  else match takeCells n (q.free.getD k []) with
    | some (cs, f) => some (cs, { q with free := setAt q.free k f, used := q.used ++ cs })
    | none => none

/-- Release cells in chain order, each to the pool whose range now holds it (R356, R357). -/
def releaseIn (s : State) : List Nat → QueSt → QueSt
  | [], q => q
  | c :: t, q => releaseIn s t { q with
      free := match poolOf s c with
        | some k => modAt k (giveCell c) q.free
        | none => q.free
      used := q.used.erase c }

def release (cs : List Nat) (s : State) : State := { s with que := releaseIn s cs s.que }

/-! ## Egress queues and rings (R361, R380, R396) -/

def cringCtl (r : Nat) : Nat := 0xE0110 + 32 * r
def cplCtl (c : Nat) : Nat := 0xE0408 + 32 * c
def dlvCtl (d : Nat) : Nat := 0xE0610 + 32 * d
def ringEn (s : State) (ctl : Nat) : Bool := s.regB ctl 31
/-- Entries of the ring whose CTL is at `ctl` (R378). -/
def ringSize (s : State) (ctl : Nat) : Nat := 2 ^ s.regF ctl 19 16

def heldCells (l : List EgItem) : Nat := sumNat (l.map (fun i => i.cells.length))

/-- The largest COUNT of a GAP record, at which it saturates (R396, R553). -/
def gapMax : Nat := 2 ^ 32 - 1

/-- Count `n` losses at the end of a queue; consecutive losses make one GAP (R396). -/
def addGap (n : Nat) : List EgItem → List EgItem
  | [] => [⟨.gap (min n gapMax) none, []⟩]
  | [⟨.gap m f, c⟩] => [⟨.gap (min (m + n) gapMax) f, c⟩]
  | i :: t => i :: addGap n t

/-- Event `i` goes before the waiting event `j`: its stamp is the same and its subsystem, the upper octet of its code, the
lower one. `HIF_LINKRESET` stays the first record of its ring (R48, R402). -/
def evtBefore (i j : EgItem) : Bool :=
  match i.body, j.body with
  | .record a, .record b => a.typ == 4 && b.typ == 4 && a.time == b.time && a.info / 256 < b.info / 256 && b.info != 0x0B01
  | _, _ => false

/-- Put an item at the end of a queue; events of one stamp stand in the order of their subsystems (R48, O-4). -/
def putItem (i : EgItem) (l : List EgItem) : List EgItem :=
  let k := l.length - (l.reverse.takeWhile (evtBefore i)).length
  l.take k ++ i :: l.drop k

/-- Put an item of `len` octets on egress queue `q` (R361). Answers the queues and the counters that count a drop. -/
def enqueue (s : State) (q len : Nat) (b : EgBody) (qs : QueSt) : QueSt × List Nat :=
  if 12 ≤ q then ({ qs with egress := modAt q (· ++ [⟨b, []⟩]) qs.egress }, [])
  else if s.regF (0xD0080 + 4 * q) 15 0 ≤ heldCells (qs.egress.getD q []) then
    ({ qs with egress := modAt q (fun l => if 4 ≤ q then addGap 1 l else l) qs.egress }, [0xD00C0 + 4 * q])
  else match allocIn s 4 (cellsFor len) qs with
    | some (cs, qs') => ({ qs' with egress := modAt q (putItem ⟨b, cs⟩) qs'.egress }, [])
    | none => ({ qs with egress := modAt q (fun l => if 4 ≤ q then addGap 1 l else l) qs.egress },
        [0xD00C0 + 4 * q, 0xD0050])

def bumpAll (l : List Nat) (c : List (Nat × Word)) : List (Nat × Word) := l.foldl (fun c a => cntBump a 0 32 1 c) c

/-- The egress queue that feeds device-written ring `d`. -/
def dlvQueue (d : Nat) : Nat := d + 4

/-- Offer a record to device-written ring `d`: dropped and counted on a disabled ring (R380), counted in SEQ only on a
unit that follows (R458, R465), otherwise queued. -/
def offerRec (d : Nat) (r : HRec) (s : State) : State :=
  let en := ringEn s (dlvCtl d)
  let q := if en && !s.pair.follows then enqueue s (dlvQueue d) r.len (.record r) s.que else (s.que, [])
  { s with
    que := q.1
    cnt := bumpAll (if en then q.2 else [0xE061C + 32 * d]) s.cnt
    hif := { s.hif with
      dring := if en && s.pair.follows then modAt d (fun x => { x with seq := (x.seq + 1) % 2 ^ 32 }) s.hif.dring
               else s.hif.dring
      linkReset := match en, s.hif.linkReset with
        | false, some (c, n) => some (c, n + 1)
        | _, x => x } }

/-- The ring of EVENT and ERROR records. -/
def evtRing (s : State) : Nat := s.regF 0xE0004 10 8

/-- An EVENT record with its 8-octet fields (R398), stamped now (R48). -/
def eventRec (code : Nat) (fields : List Nat) (s : State) : HRec :=
  ⟨4, 0, code, asnNow s, s.time.tb, 8 * fields.length, fields, [], s.jrn.seq⟩

/-- Raise event `code`. -/
def event (code : Nat) (fields : List Nat) (s : State) : State := offerRec (evtRing s) (eventRec code fields s) s

def eventIf (c : Bool) (code : Nat) (fields : List Nat) (s : State) : State := if c then event code fields s else s

/-- A signed value in an 8-octet field (R398). -/
def sx (i : Int) : Nat := toUnsigned 64 i

/-! ## The journal (R446, R447, R469) -/

/-- Drop the oldest records until `n` octets are gone. -/
def dropOver : Nat → List JRec → List JRec
  | _, [] => []
  | 0, l => l
  | n + 1, r :: t => dropOver (n + 1 - r.len) t

/-- Put a record into staging, which keeps the most recent 1 MiB, unless it is frozen (R469). -/
def JrnSt.stage (j : JrnSt) (r : JRec) : JrnSt :=
  if j.frozen then j
  else { j with staging := dropOver (sumNat (j.staging.map JRec.len) + r.len - 1_048_576) (j.staging ++ [r]) }

def jrnWrites (s : State) : Bool := s.jrn.isOpen && s.pair.leads

/-- The journal ring's record of a journal record, whose data are its octets (R469). -/
def jRingRec (s : State) (r : JRec) : HRec := ⟨jbodyTyp r.body, 0, 0, r.asn, s.time.tb, r.len, [], recOctets r, 0⟩

/-- The journal record that a body becomes now. -/
def nextRec (more : Bool) (b : JBody) (s : State) : JRec := mkRec s.jrn.seq (asnNow s) s.time.ofs more b

/-- Write one journal record, `more` where a continuation follows it (R446, R447); nothing while no journal is open or the unit
does not write one. -/
def journalMore (more : Bool) (b : JBody) (s : State) : State :=
  let on := jrnWrites s
  let r := nextRec more b s
  let str := on && s.jrn.stream
  let en := ringEn s (dlvCtl 8)
  { s with
    jrn := if on then { (s.jrn.stage r) with
        seq := s.jrn.seq + 1
        ringNext := if str then s.jrn.seq + 1 else s.jrn.ringNext
        slotRecs := s.jrn.slotRecs ++ [r] } else s.jrn
    que := if str && en then (enqueue s 12 r.len (.record (jRingRec s r)) s.que).1 else s.que
    cnt := if str && !en then cntBump (0xE061C + 32 * 8) 0 32 1 s.cnt else s.cnt }

def journal (b : JBody) (s : State) : State := journalMore false b s

/-- The CMDDATA records of `n` input octets from octet `from_` on, at most 4,064 in each (Table 16-2). -/
def journalData (c : HostCmd) : Nat → Nat → Nat → State → State
  | 0, _, _, s => s
  | k + 1, from_, n, s =>
    if n = 0 then s
    else journalData c k (from_ + 4064) (n - 4064) (journalMore (decide (4064 < n)) (.cmdData c from_ (min n 4064)) s)

/-- A command as the journal carries it: without the key of a `SEC_CIPHER` with KSRC HOST (R425). -/
def unkeyed (c : HostCmd) : HostCmd :=
  match c with
  | .secCipher a => .secCipher (if a.ksrc = 0 then { a with karg := 0, key := [] } else a)
  | c => c

/-- The CMD record of a command with `n` input octets, and its CMDDATA records (Table 16-2). -/
def journalCmd (r : CmdRef) (op n : Nat) (c : HostCmd) (s : State) : State :=
  journalData (unkeyed c) ((n - 4024) / 4064 + 1) 4024 (n - 4024)
    (journalMore (decide (4024 < n)) (.cmd r.ring (r.dindex % 65536) op r.tag r.asn (min n 4024) (unkeyed c)) s)

/-! ## Completions and admission (R391 to R395, R409, R489) -/

def stOk : Nat := 0x00
def stPartial : Nat := 0x01
def stMissed : Nat := 0x02
def stDwell : Nat := 0x03
def stDuty : Nat := 0x04
def stNoRoute : Nat := 0x05
def stNoNode : Nat := 0x06
def stTableFull : Nat := 0x07
def stLen : Nat := 0x08
def stAuthFail : Nat := 0x09
def stKeyUnavail : Nat := 0x0A
def stReconfig : Nat := 0x0B
def stAbort : Nat := 0x0C
def stBad : Nat := 0x0D
def stBadState : Nat := 0x0E
def stTamper : Nat := 0x0F
def stUntrusted : Nat := 0x10
def stBusy : Nat := 0x11
def stCalFail : Nat := 0x12
def stUnlocked : Nat := 0x13
def stPairNot : Nat := 0x14
def stInternal : Nat := 0x15
def stCoex : Nat := 0x16
def stPairLost : Nat := 0x17

/-- Subsystem of a command's owner, by group (Table 01-8, Table 01-1); 11, the host interface, for an unlisted group. -/
def ownerOf (op : Nat) : Nat :=
  match op / 256 with
  | 1 => 5
  | 2 => 4
  | 3 => 5
  | 4 => 8
  | 5 => 10
  | 6 => 9
  | 7 => 5
  | 8 => 4
  | 9 => 4
  | _ => 11

/-- The completion ring a command ring is bound to (`CTL.CPL`). -/
def boundCpl (s : State) (r : Nat) : Nat := s.regF (cringCtl r) 3 0

/-- The admission entry of a command that has not completed. -/
def admOf (s : State) (r : CmdRef) : Option Adm :=
  s.hif.admitted.find? (fun a => a.ref.ring == r.ring && a.ref.dindex == r.dindex)

/-- Room for `need` completions on completion ring `c` (R391). -/
def cplRoom (s : State) (c need : Nat) : Bool :=
  match s.hif.cpl[c]? with
  | some x => ringEn s (cplCtl c) && x.slots.length + need ≤ ringSize s (cplCtl c) - 1
  | none => false

/-- Opcodes that a unit in JOIN_COPY, JOIN_CATCHUP, STANDBY_SYNCED, DIVERGED or REPLAY accepts (R409). -/
def localOp (s : State) (op : Nat) : Bool :=
  op / 256 == 8 || op / 256 == 9 || op == 0x0101 || op == 0x0403 || op == 0x0312 || op == 0x0601 || op == 0x0602 ||
    op == 0x0609 || (s.pair.st == .replay && op == 0x0603)

inductive Gate where
  /-- the descriptor waits: nothing happens -/
  | wait
  /-- admitted and completed at once with this STATUS, UNIT and DETAIL -/
  | stop (st unit detail : Nat)
  | go
  deriving DecidableEq, Repr

/-- What admission does with a command of opcode `op` on ring `r` that needs `need` completion slots. -/
def gateOf (s : State) (r op need : Nat) : Gate :=
  if !(s.up && s.dma && !s.pwr.preparing && decide (r < 16) && ringEn s (cringCtl r)) then .wait
  else if !(s.pair.leads || s.pair.st == .replay || r == 15) then .wait
  else if !cplRoom s (boundCpl s r) need then .wait
  else if !s.pair.leads && !localOp s op then .stop stPairNot 13 0
  else if s.offline (ownerOf op) then .stop stInternal (ownerOf op) 0x0201
  else .go

/-- Reserve the completion slots of a command on its bound ring, in admission order (R391); `seq` is the sequence number of its CMD
record. -/
def reserve (r : CmdRef) (op need : Nat) (seq : Option Nat) (s : State) : State :=
  let c := boundCpl s r.ring
  { s with hif := { s.hif with
      cpl := modAt c (fun x => { x with
        slots := x.slots ++ List.replicate need ⟨r.ring, r.dindex, r.tag, op, .reserved⟩
        nextSlot := (x.nextSlot + need) % ringSize s (cplCtl c) }) s.hif.cpl
      admitted := s.hif.admitted ++ [⟨r, op, some c, s.time.tb, seq⟩] } }

/-- Admit a command: reserve its slots, journal it with its `n` input octets (R391). -/
def admitCmd (r : CmdRef) (op need n : Nat) (c : HostCmd) (s : State) : State := journalCmd r op n c (reserve r op need (if jrnWrites s then some s.jrn.seq else none) s)

/-- Fill the first reserved slot of the descriptor (R392). -/
def fillSlot (r : CmdRef) (st : SlotSt) : List CplSlot → List CplSlot
  | [] => []
  | x :: t =>
    if x.ring = r.ring ∧ x.dindex = r.dindex ∧ x.st = .reserved then { x with st := st } :: t
    else x :: fillSlot r st t

/-- The completion of an admission entry (Table 13-4). -/
def mkCpl (a : Adm) (st unit result detail : Nat) (s : State) : Cpl :=
  ⟨a.opcode, st, unit, a.ref.tag, asnNow s, result, detail, s.jrn.seq⟩

/-- Fill every slot of the descriptor that is still reserved: its final completion (log entry 62). -/
def fillAll (r : CmdRef) (st : SlotSt) (l : List CplSlot) : List CplSlot :=
  l.map (fun x => if x.ring = r.ring ∧ x.dindex = r.dindex ∧ x.st = .reserved then { x with st := st } else x)

/-- Write a completion into the command's reserved slots, as `fill` does; discarded and counted where its ring was reset
(R402). -/
def postBy (fill : SlotSt → List CplSlot → List CplSlot) (r : CmdRef) (st unit result detail : Nat) (s : State) : State :=
  let a := admOf s r
  let ring := a.bind Adm.cpl
  let lost := a.isSome && ring.isNone
  { s with
    hif := { s.hif with
      cpl := match a, ring with
        | some a, some c => modAt c (fun x => { x with
            slots := fill (.done (mkCpl a st unit result detail s)) x.slots }) s.hif.cpl
        | _, _ => s.hif.cpl
      linkReset := match lost, s.hif.linkReset with
        | true, some (c, n) => some (c + 1, n)
        | _, x => x }
    cnt := cntBump 0xE0014 0 32 (b2n lost) s.cnt }

/-- An interim completion: the command's first reserved slot (R344). -/
def post (r : CmdRef) (st unit result detail : Nat) (s : State) : State := postBy (fillSlot r) r st unit result detail s

/-- Complete a command: its completion is posted and its admission entry goes. -/
def complete (r : CmdRef) (st unit result detail : Nat) (s : State) : State :=
  let t := postBy (fillAll r) r st unit result detail s
  { t with hif := { t.hif with
      admitted := t.hif.admitted.filter (fun a => !(a.ref.ring == r.ring && a.ref.dindex == r.dindex)) } }

def done (r : CmdRef) (s : State) : State := complete r stOk 0 0 0 s
def doneWith (r : CmdRef) (result : Nat) (s : State) : State := complete r stOk 0 result 0 s
def refuse (r : CmdRef) (st unit detail : Nat) (s : State) : State := complete r st unit 0 detail s

/-- Run a command of the rings: wait, complete at admission, or enter it and run its meaning (R391, R409). The meaning runs at
the command's place in the journal, so commands are processed in the order of their admission (R41, R49). A command that has
been admitted is not admitted again. -/
def runCmd (r : CmdRef) (op need n : Nat) (c : HostCmd) (s : State) (body : State → State) : State :=
  if (admOf s r).isSome then s
  else match gateOf s r.ring op need with
    | .wait => s
    | .stop st u d => refuse r st u d (admitCmd r op need n (.ended st u d) s)
    | .go => body (admitCmd r op need n c s)

/-- Run the first refusal of a list of checks (condition, STATUS, UNIT, DETAIL), in order, else the effect. -/
def checked (r : CmdRef) : List (Bool × Nat × Nat × Nat) → (State → State) → State → State
  | [], f, s => f s
  | (c, st, u, d) :: t, f, s => if c then refuse r st u d s else checked r t f s

/-- A fresh free value and the state after it. -/
def freshAt (s : State) : Nat := Config.freeValue s.fresh
def useFresh (n : Nat) (s : State) : State := { s with fresh := s.fresh + n }

end Sys2Proof.Machine
end

