-- ==== Sys2Proof/Machine/Frames.lean ====
section
/-! DEFINITION. Node entries by index and EUI-64, frames in packet memory, and how a frame's final outcome reaches its
list, its cells and its command (R209, R210, R275, R287, R297, R300, R304 to R306, R359, R360). -/
namespace Sys2Proof.Machine

/-! ## Node entries -/

def noParent : Nat := 0x7FFFF
def rootParent : Nat := 0x7FFFE

/-- The entry at a node index, tombstones included. -/
def entryAt (s : State) (i : Nat) : Option Node := s.tbl.nodes.find? (fun n => n.idx == i)
/-- The entry a command or cell names: a tombstone counts as none (R305). -/
def nodeAt (s : State) (i : Nat) : Option Node := s.tbl.nodes.find? (fun n => n.idx == i && !n.tomb)
/-- Look up by EUI-64 (R297). -/
def findEui (s : State) (e : Nat) : Option Node := s.tbl.nodes.find? (fun n => n.eui == e && !n.tomb)

/-- Insert or replace an entry, by ascending index. -/
def putNodeIn (n : Node) : List Node → List Node
  | [] => [n]
  | m :: t => if n.idx < m.idx then n :: m :: t else if n.idx = m.idx then n :: t else m :: putNodeIn n t

def withNodes (f : List Node → List Node) (s : State) : State := { s with tbl := { s.tbl with nodes := f s.tbl.nodes } }

/-- Change the entry at index `i`. -/
def modNode (i : Nat) (f : Node → Node) (s : State) : State :=
  withNodes (fun l => l.map (fun n => if n.idx = i then f n else n)) s

/-- ASN[31:0] of the present slot, as node entries hold it. -/
def asn32 (s : State) : Nat := asnNow s % 2 ^ 32

/-- A frame to the node is staged, on air or awaiting its ACK (R207). -/
def inFlight (s : State) (i : Nat) : Bool :=
  s.tx.txs.any (fun t => t.node == i && t.frame.isSome && (t.kind == .unicast || t.kind == .shared))

/-- Whether entry `n` is pinned (R300), its own TOMB flag apart (R306). -/
def pinnedButTomb (s : State) (n : Node) : Bool :=
  n.hpin || n.cellref != 0 || n.childref != 0 || n.herd.txn != 0 || !n.dl.isEmpty || inFlight s n.idx ||
    s.adp.ctxs.any (fun c => c.node == n.idx)

def pinned (s : State) (n : Node) : Bool := n.tomb || pinnedButTomb s n

/-- Clear every tombstone that is no longer pinned (R306). -/
def sweepTombs (s : State) : State :=
  let dead := s.tbl.nodes.filter (fun n => n.tomb && !pinnedButTomb s n)
  bumpN 0xB0034 dead.length (withNodes (fun l => l.filter (fun n => !(n.tomb && !pinnedButTomb s n))) s)

/-- CHILDREF of entry `p` rises or falls (R295). -/
def childRef (p : Nat) (up : Bool) (s : State) : State :=
  modNode p (fun n => { n with childref := if up then n.childref + 1 else n.childref - 1 }) s

/-- Set PARENT of entry `i` (R295, R278). -/
def setParent (i p : Nat) (s : State) : State :=
  match entryAt s i with
  | some n => sweepTombs (modNode i (fun m => { m with parent := p }) (childRef p true (childRef n.parent false s)))
  | none => s

/-! ## Frames -/

def frameAt (s : State) (id : Nat) : Option Frame := s.tx.frames.find? (fun f => f.id == id)

/-- The node a frame is linked to. -/
def Frame.node (f : Frame) : Option Nat :=
  match f.kind with
  | .data n => some n
  | .sixp n _ => some n
  | _ => none

/-- Room on a node's downlink list for `n` more frames (R359). -/
def listRoom (s : State) (nd : Node) (n : Nat) : Bool := nd.dl.length + n ≤ max 1 (s.regF 0xD0004 7 0)

/-- Allocate cells for each of the lengths, or none (R359: linked whole or not at all). -/
def allocMany (s : State) (k : Nat) : List Nat → QueSt → Option (List (List Nat) × QueSt)
  | [], q => some ([], q)
  | n :: t, q =>
    match allocIn s k (cellsFor n) q with
    | some (cs, q1) =>
      match allocMany s k t q1 with
      | some (r, q2) => some (cs :: r, q2)
      | none => none
    | none => none

/-- Frames of one packet, numbered from `id`: of their octets and cells. -/
def mkFrames (id part parts order jseq : Nat) (cmd : Option CmdRef) (kind : FrameKind) (ackReq : Bool) :
    List (List Octet) → List (List Nat) → List Frame
  | oct :: lt, cs :: ct =>
    ⟨id, kind, cmd, part, parts, oct, 0, cs, jseq, order, ackReq, none⟩ ::
      mkFrames (id + 1) (part + 1) parts order jseq cmd kind ackReq lt ct
  | _, _ => []

/-- Link frames of the given octets to a node's downlink list in pool 0 (R359): none when cells or list room lack. -/
def linkNode (i : Nat) (kind : FrameKind) (cmd : Option CmdRef) (octs : List (List Octet)) (s : State) : Option State :=
  match nodeAt s i with
  | none => none
  | some nd =>
    if !listRoom s nd octs.length then none
    else match allocMany s 0 (octs.map List.length) s.que with
      | none => none
      | some (cs, q) =>
        let fs := mkFrames s.tx.next 0 octs.length s.tx.next s.jrn.seq cmd kind true octs cs
        some (modNode i (fun n => { n with dl := n.dl ++ fs.map Frame.id })
          { s with
            que := q
            tx := { s.tx with frames := s.tx.frames ++ fs, next := s.tx.next + fs.length } })

/-- Link broadcast or image frames to the BULK queue in pool 3 (R360). -/
def linkBulk (kind : FrameKind) (cmd : Option CmdRef) (part parts : Nat) (octs : List (List Octet)) (s : State) : Option State :=
  match allocMany s 3 (octs.map List.length) s.que with
  | none => none
  | some (cs, q) =>
    let fs := mkFrames s.tx.next part parts s.tx.next s.jrn.seq cmd kind false octs cs
    some { s with
      que := q
      tx := { s.tx with
        frames := s.tx.frames ++ fs
        bulk := s.tx.bulk ++ fs.map Frame.id
        next := s.tx.next + fs.length } }

/-! ## Final outcomes -/

/-- The part numbers whose frames were sent, as a bitmap. -/
def sentBits (outs : List (Nat × Nat)) : Nat := sumNat ((outs.filter (fun o => o.2 == stOk)).map (fun o => 2 ^ o.1))

/-- The first part in ascending order that did not complete `OK`. -/
def firstBad (p : Parts) : Option (Nat × Nat) :=
  (List.range p.total).findSome? (fun i => p.outs.find? (fun o => o.1 == i && o.2 != stOk))

/-- STATUS and RESULT of a command whose frames have all ended (R275, R287, R419, R420). -/
def partsResult (op : Nat) (p : Parts) : Nat × Nat :=
  if op = 0x0501 then
    match firstBad p with
    | some (i, st) => (st, p.node + p.total * 2 ^ 32 + i * 2 ^ 48)
    | none => (stOk, p.node + p.total * 2 ^ 32)
  else
    let sent := sentBits p.outs
    if firstBad p = none then (stOk, 0)
    else if sent ≠ 0 then (stPartial, sent)
    else (((p.outs.find? (fun o => o.1 == 0)).map Prod.snd).getD stOk, 0)

/-- Add one frame's outcome to its command; the command completes with the last one. -/
def partDone (r : CmdRef) (part st : Nat) (s : State) : State :=
  match s.tx.parts.find? (fun p => p.ref.ring == r.ring && p.ref.dindex == r.dindex) with
  | none => s
  | some p =>
    let p1 := { p with outs := p.outs ++ [(part, st)] }
    let rest := s.tx.parts.filter (fun q => !(q.ref.ring == r.ring && q.ref.dindex == r.dindex))
    if p1.outs.length = p.total then
      let x := partsResult ((admOf s r).map Adm.opcode |>.getD 0) p1
      complete r x.1 0 x.2 0 { s with tx := { s.tx with parts := rest } }
    else { s with tx := { s.tx with parts := rest ++ [p1] } }

/-- Take one frame out of packet memory, its list and the BULK queue, and report its outcome. -/
def endFrame (st : Nat) (f : Frame) (s : State) : State :=
  let t := withNodes (fun l => l.map (fun n => { n with dl := n.dl.filter (· != f.id) }))
    { s with
      que := releaseIn s f.cells s.que
      tx := { s.tx with
        frames := s.tx.frames.filter (fun g => g.id != f.id)
        bulk := s.tx.bulk.filter (· != f.id) } }
  match f.cmd with
  | some r => partDone r f.part st t
  | none => t

/-- The frames that end with `f`: a fragment that does not end `OK` takes the later fragments of its datagram with it
(R275). -/
def endsWith (s : State) (st : Nat) (f : Frame) : List Frame :=
  match f.kind with
  | .data _ => if st = stOk then [f] else f :: s.tx.frames.filter (fun g => g.order == f.order && f.part < g.part)
  | _ => [f]

/-- A frame reaches its final outcome with completion status `st`. -/
def frameDone (id st : Nat) (s : State) : State :=
  match frameAt s id with
  | some f => sweepTombs ((endsWith s st f).foldl (fun u g => endFrame st g u) s)
  | none => s

/-- The attempt of a frame has ended and the frame would stay: no cell serves a removed node any more (R304, R305), so that
its frame completes with `st`. -/
def lastTry (id st : Nat) (s : State) : State :=
  match ((frameAt s id).bind Frame.node).bind (entryAt s) with
  | some n => if n.tomb then frameDone id st s else s
  | none => s

/-- End every frame of a list of identities, in order. -/
def framesDone (ids : List Nat) (st : Nat) (s : State) : State := ids.foldl (fun u i => frameDone i st u) s

/-- Frames staged, on air or awaiting their ACK. -/
def flying (s : State) : List Nat := s.tx.txs.filterMap Tx.frame

/-! ## Cell outcomes (R210) -/

/-- Outcomes of Table 07-7 marked "event". -/
def skipEvent (k : Nat) : Bool := [3, 4, 5, 6, 7, 14, 16, 17, 18].contains k

/-- Count cell outcome `k`, and raise `CELL_SKIPPED` where it is marked and enabled. -/
def cellOut (k asn sfh node : Nat) (s : State) : State :=
  eventIf (s.regB 0x90000 8 && skipEvent k) 0x0410 [asn, sfh, node, k] (bump (0x90040 + 4 * k) s)

end Sys2Proof.Machine
end

