-- ==== Sys2Proof/Machine/Sched.lean ====
section
/-! DEFINITION. Slotframes and cells (R199, R201 to R204, R295), the withdrawal of staged transmissions (R554), and the
commands `SCHED_SLOTFRAME_SET` and `SCHED_CELLS_WRITE`. -/
namespace Sys2Proof.Machine

/-! ## Handles and regions (R201, R202) -/

def sfUses (s : State) (k : Nat) : List SfUse := s.sch.sf.getD k []
def SfUse.inUse (u : SfUse) (a : Nat) : Bool :=
  decide (u.act ≤ a) && (match u.rem with | some r => decide (a < r) | none => true)
/-- The definition of handle `k` whose region is in use at ASN `a`. -/
def sfAt (s : State) (k a : Nat) : Option SfUse := (sfUses s k).find? (fun u => u.inUse a)
/-- A slotframe is active: its region is in use now, and the slot clock runs. -/
def sfActive (s : State) (k : Nat) : Option SfUse := sfAt s k (asnNow s)
/-- The three states of a handle: 0 INACTIVE, 1 ACTIVE, 2 REMOVING. -/
def sfState (s : State) (k : Nat) : Nat :=
  match (sfUses s k).getLast? with
  | none => 0
  | some u => if u.rem.isNone then 1 else 2
def allInactive (s : State) : Bool := s.sch.sf.all (fun l => l.isEmpty)

def SfRec.words (r : SfRec) : Nat := r.length * r.depth
def SfRec.has (r : SfRec) (w : Nat) : Bool := r.base ≤ w && w < r.base + r.words
/-- Word of position `j` of slot offset `o`. -/
def SfRec.wordOf (r : SfRec) (o j : Nat) : Nat := r.base + o * r.depth + j

/-- Whether two definitions are in use at one ASN and overlap. -/
def SfUse.clash (u v : SfUse) : Bool :=
  (match u.rem with | some r => decide (v.act < r) | none => true) &&
    (match v.rem with | some r => decide (u.act < r) | none => true) &&
    decide (u.rec_.base < v.rec_.base + v.rec_.words) && decide (v.rec_.base < u.rec_.base + u.rec_.words)

/-- The slot template fits L (R199); template values in µs. -/
def templateOk (s : State) : Bool :=
  decide (2 * (s.regN 0x90008 + s.regN 0x90014 + max (s.regF 0x9000C 31 16) (s.regF 0x9000C 15 0) + s.regN 0x90018) +
    s.regN 0x90010 ≤ 2 * (s.time.slotLen * 250))

/-! ## Cell words (Table 07-3) -/

def storeGet (st : List (Nat × Word)) (w : Nat) : Word := cellsGet w 0 st
def cellValid (c : Word) : Bool := c.getLsbD 31
def cellTx (c : Word) : Bool := c.getLsbD 30
def cellRx (c : Word) : Bool := c.getLsbD 29
def cellShared (c : Word) : Bool := c.getLsbD 28
def cellChofs (c : Word) : Nat := bitsOf c.toNat 26 19
def cellNode (c : Word) : Nat := bitsOf c.toNat 18 0
def nodeBulk : Nat := 0x7FFFF
def nodeBeacon : Nat := 0x7FFFE
def nodeSharedDl : Nat := 0x7FFFD
/-- A cell names a node index of the buckets (R201, R292). -/
def namesNode (c : Word) : Bool := cellValid c && decide (cellNode c < 327680)
/-- NODE is reserved (R203, R292). -/
def nodeReserved (c : Word) : Bool := decide (327680 ≤ cellNode c) && decide (cellNode c < nodeSharedDl)

/-! ## What later commands and boundaries see -/

/-- The changes that take effect by ASN `a`, in the order of their ASNs and then of their commands: regions cleared by an
activation and cells written. -/
inductive Due where
  | clear (r : SfRec)
  | put (w : Nat) (c : Word)
  deriving DecidableEq, Repr

/-- Put a dated change in order, after those of the same date. -/
def insDue (x : Nat × Due) : List (Nat × Due) → List (Nat × Due)
  | [] => [x]
  | y :: t => if x.1 < y.1 then x :: y :: t else y :: insDue x t

def applyDue (st : List (Nat × Word)) : Due → List (Nat × Word)
  | .clear r => st.filter (fun p => !r.has p.1)
  | .put w c => cellsPut w c 0 st

/-- The definition of its handle that a write was checked against, where its region is still in use at the write's ASN
(R203). -/
def useOf (s : State) (q : CellsReq) : Option SfUse := (sfAt s q.sfh q.asn).filter (fun u => u.act == q.act)

/-- The words that one write of cells puts (R203). -/
def writeWords (s : State) (q : CellsReq) : List (Nat × Due) :=
  match useOf s q with
  | some u => q.entries.map (fun e => (q.asn, .put (u.rec_.wordOf e.slot e.pos) e.word))
  | none => []

/-- The store as it stands for the cells of ASN `a`, pending changes included. -/
def storeFor (s : State) (a : Nat) : List (Nat × Word) :=
  let clears := (s.sch.sf.flatMap (fun l => l.filter (fun u => !u.begun && decide (u.act ≤ a)))).map
    (fun u => (u.act, Due.clear u.rec_))
  let puts := (s.sch.writes.filter (fun q => decide (q.asn ≤ a))).flatMap (writeWords s)
  ((clears ++ puts).foldl (fun l x => insDue x l) []).foldl (fun st x => applyDue st x.2) s.sch.store

/-! ## References to nodes (R295) -/

/-- Change CELLREF of every node named by the words, up or down. -/
def cellRefs (ws : List Word) (up : Bool) (s : State) : State :=
  withNodes (fun l => l.map (fun n =>
    let k := (ws.filter (fun c => namesNode c && cellNode c == n.idx)).length
    { n with cellref := if up then n.cellref + k else n.cellref - k })) s

/-! ## Withdrawal (R554) -/

/-- The on-air end of a transmission (R212). -/
def Tx.endAt (t : Tx) : Nat := t.start + t.airtime

/-- Whether the withdrawal rule takes a transmission: staged, T more than 1,100 µs ahead, ending at or after ASN `n`. An
Enhanced ACK that is staged answers a frame that has ended, so it is sent. -/
def withdrawn (s : State) (n : Nat) (t : Tx) : Bool :=
  t.kind != .ack && (t.phase == .staged || t.phase == .ramping || t.phase == .held) && decide (s.time.tb + 1_100_000 < t.t) &&
    decide (s.time.at_ n ≤ t.endAt)

/-- Release a transmission's airtime reservation (R227). -/
def dropCharge (id : Nat) (s : State) : State :=
  { s with tx := { s.tx with charges := s.tx.charges.filter (fun c => c.id != id) } }

/-- Take a transmission off. -/
def dropTx (id : Nat) (s : State) : State :=
  { s with tx := { s.tx with txs := s.tx.txs.filter (fun t => t.id != id) } }

/-- One staged transmission ends `ABORT_RECONFIG` (R140). -/
def abortTx (t : Tx) (s : State) : State :=
  let u := cellOut 11 t.asn t.sfh t.node (dropCharge t.id (dropTx t.id s))
  match t.frame with
  | some f => frameDone f stReconfig u
  | none => u

/-- Withdraw the staged transmissions on the affected resources (R554). -/
def withdraw (n : Nat) (hit : Tx → Bool) (s : State) : State :=
  (s.tx.txs.filter (fun t => withdrawn s n t && hit t)).foldl (fun u t => abortTx t u) s

/-! ## `SCHED_SLOTFRAME_SET` (R202) -/

/-- The ASN at which a command that names `a` acts: 0 means the current ASN + 2 (R138). -/
def namedAsn (s : State) (a : Nat) : Nat := if a = 0 then asnNow s + 2 else a
/-- A non-zero ASN while the timebase is not loaded. -/
def needsTime (s : State) (a : Nat) : Bool := a != 0 && !s.time.loaded
/-- A non-zero ASN below the current ASN + 2. -/
def tooSoon (s : State) (a : Nat) : Bool := a != 0 && decide (a < asnNow s + 2)

/-- The ASN of the pending activation or removal that a command on handle `k` must follow. -/
def mustFollow (s : State) (k : Nat) (en : Bool) : Nat :=
  match (sfUses s k).getLast? with
  | some u => if en then u.rem.getD 0 else if u.begun || u.rem.isSome then 0 else u.act
  | none => 0

def autoSf (s : State) : Nat := s.regF 0x92000 21 16
def dlSf (s : State) : Nat := s.regF 0x92000 29 24
/-- `SCH_HCTL.MODE`: 0 OFF, 1 ADVISE, 2 FULL; 3 acts as OFF (Table 08-5). -/
def hctlMode (s : State) : Nat := if s.regF 0x92000 1 0 = 3 then 0 else s.regF 0x92000 1 0
/-- The mode Herd works in: in WATCH it acts as OFF (R504). -/
def herdModeReg (s : State) : Nat := if s.pwr.st = .watch then 0 else hctlMode s
/-- R241 forbids the slotframe command. -/
def herdForbids (s : State) (k : Nat) (en : Bool) : Bool :=
  (herdModeReg s == 2 && k == dlSf s) || (!en && herdModeReg s != 0 && (k == autoSf s || k == dlSf s))
/-- Context 0 is enabled with a 64-bit prefix (R273). -/
def ctxZero (s : State) : Bool := s.regB 0xA0050 31 && s.regF 0xA0050 7 0 == 64

/-- The record names a region and fields in range (order 6 of R202). -/
def sfFieldsBad (s : State) (a : SfArgs) (asn : Nat) : Bool :=
  let r : SfRec := ⟨a.long, a.band, a.depth, a.length, a.base⟩
  let u : SfUse := ⟨r, asn, none, false, none, none⟩
  a.depth == 0 || decide (128 < a.depth) || a.length == 0 || decide (65535 < a.length) || decide (3 < a.band) ||
    decide (1_048_576 < a.base + r.words) || !bitOf (s.act (0x91400 + 4 * a.band)) 31 || !templateOk s ||
    (s.sch.sf.flatMap id).any (fun v => u.clash v)

/-- The conditions of R202 in order: STATUS and DETAIL of the first that holds. -/
def sfCheck (s : State) (r : CmdRef) (a : SfArgs) : List (Bool × Nat × Nat × Nat) :=
  [(decide (63 < a.sfh), stBad, 5, 0x000B),
   (needsTime s r.asn, stUnlocked, 5, 0),
   (tooSoon s r.asn || decide (namedAsn s r.asn < mustFollow s a.sfh a.en), stBad, 5, 0x000B),
   ((a.en && sfState s a.sfh == 1) || (!a.en && sfState s a.sfh != 1), stBadState, 5, 0),
   (herdForbids s a.sfh a.en, stBadState, 5, 0),
   (a.en && (!ctxZero s || poolErr s), stBadState, if ctxZero s then 10 else 7, 0),
   (a.en && sfFieldsBad s a (namedAsn s r.asn), stBad, 5, 0x000B)]

/-- The handles after an accepted command. -/
def sfAdmit (s : State) (r : CmdRef) (a : SfArgs) (l : List SfUse) : List SfUse :=
  let n := namedAsn s r.asn
  if a.en then l ++ [⟨⟨a.long, a.band, a.depth, a.length, a.base⟩, n, some r, false, none, none⟩]
  else l.dropLast ++ (l.getLast?.toList.map (fun u => { u with rem := some n, remRef := some r }))

def doSlotframeSet (r : CmdRef) (a : SfArgs) (s : State) : State :=
  checked r (sfCheck s r a) (fun s =>
    let n := namedAsn s r.asn
    let t := { s with sch := { s.sch with sf := modAt a.sfh (sfAdmit s r a) s.sch.sf } }
    if a.en then t else withdraw n (fun x => x.sfh == a.sfh) t) s

/-- `SCHED_SLOTFRAME_SET` (R202): it completes when it takes effect. -/
def execSchedSlotframeSet (r : CmdRef) (a : SfArgs) (s : State) : Res :=
  .next (runCmd r 0x0301 1 0 (.schedSlotframeSet a) s (doSlotframeSet r a))

/-- The effects of one definition that are due at ASN `now` (R202): its region is cleared at its activation; at its removal
its cells' references fall. -/
def sfBegin (k : Nat) (u : SfUse) (s : State) : State :=
  let t := { s with sch := { s.sch with
    sf := modAt k (fun l => l.map (fun v => if v = u then { v with begun := true, actRef := none } else v)) s.sch.sf
    store := s.sch.store.filter (fun p => !u.rec_.has p.1) } }
  match u.actRef with
  | some r => done r t
  | none => t

/-- An open 6P transaction closes as failed, with no CLEAR and no hold-off (R241, R245). -/
def sixpClosed (i : Nat) (s : State) : State :=
  let t := bump 0x920A0 (event 0x0503 [i, 0xFF] s)
  modNode i (fun n => { n with herd := { n.herd with txn := 0 } })
    { t with herd := { t.herd with sixp := t.herd.sixp.filter (fun x => x.node != i) } }

/-- Close the transactions of every node that has one, by ascending index. -/
def closeSixps (s : State) : State :=
  ((s.tbl.nodes.filter (fun n => n.herd.txn != 0)).map Node.idx).foldl (fun u i => sixpClosed i u) s

/-- Herd's cells go with DLSF: DLCELLS becomes 0 and open 6P transactions close as failed (R241). -/
def dlsfGone (s : State) : State :=
  let t := closeSixps s
  withNodes (fun l => l.map (fun n => { n with herd := { n.herd with dlcells := 0 } }))
    { t with herd := { t.herd with idle := [] } }

def sfRemove (k : Nat) (u : SfUse) (s : State) : State :=
  let ws := (s.sch.store.filter (fun p => u.rec_.has p.1)).map Prod.snd
  let t := cellRefs ws false { s with sch := { s.sch with
    sf := modAt k (fun l => l.erase u) s.sch.sf
    store := s.sch.store.filter (fun p => !u.rec_.has p.1) } }
  let v := { t with sch := { t.sch with tmplDrop := t.sch.tmplDrop && !allInactive t } }
  let w := sweepTombs (if k = dlSf s then dlsfGone v else v)
  match u.remRef with
  | some r => done r w
  | none => w

def sfEffect (k now : Nat) (s : State) : State :=
  (sfUses s k).foldl (fun t u =>
    let t1 := if !u.begun && decide (u.act ≤ now) then sfBegin k u t else t
    let u1 := if decide (u.act ≤ now) then { u with begun := true, actRef := none } else u
    match u.rem with
    | some r => if r ≤ now then sfRemove k u1 t1 else t1
    | none => t1) s

/-- Before the slot clock runs no named ASN has come; a command that names none then acts at its admission (R138). -/
def nowFor (s : State) : Nat := if s.time.running then asnNow s else 2

/-- `SLOTFRAME_SET_EFFECT` (R202): at offset 0 of the named ASN. -/
def execSlotframeSetEffect (sfh : Nat) (s : State) : Res := .next (coreOnly s (sfEffect sfh (nowFor s) s))

/-! ## `SCHED_CELLS_WRITE` (R203) -/

/-- Valid words of a store that name node `i`. -/
def refsIn (i : Nat) (st : List (Nat × Word)) : Nat := (st.filter (fun p => namesNode p.2 && cellNode p.2 == i)).length

/-- CELLREF of some node would pass 65,535 by the entries' words in place of those they replace at ASN `n` (R295). -/
def cellRefFull (s : State) (u : Option SfUse) (n : Nat) (es : List CellEntry) : Bool :=
  let old := storeFor s n
  let new := match u with
    | some v => es.foldl (fun st e => cellsPut (v.rec_.wordOf e.slot e.pos) e.word 0 st) old
    | none => old
  s.tbl.nodes.any (fun m => decide (65535 + refsIn m.idx old < m.cellref + refsIn m.idx new))

/-- Conditions 4 to 7 of R203 for entries at ASN `n`. -/
def cellsCheck (s : State) (k n : Nat) (es : List CellEntry) (herd : Bool) : List (Bool × Nat × Nat × Nat) :=
  let u := sfAt s k n
  [(u.isNone || (!herd && herdModeReg s == 2 && k == dlSf s), stBadState, 5, 0),
   (es.any (fun e => (match u with
      | some v => decide (v.rec_.length ≤ e.slot) || decide (v.rec_.depth ≤ e.pos)
      | none => true) || nodeReserved e.word), stBad, 5, 0x000B),
   (es.any (fun e => namesNode e.word && (nodeAt s (cellNode e.word)).isNone), stNoNode, 5, 0),
   (cellRefFull s u n es, stBad, 5, 0)]

def doCellsWrite (r : CmdRef) (sfh : Nat) (es : List CellEntry) (s : State) : State :=
  checked r ([(decide (63 < sfh) || es.isEmpty || decide (64 < es.length), stBad, 5, 0x000B),
    (needsTime s r.asn, stUnlocked, 5, 0),
    (tooSoon s r.asn, stBad, 5, 0x000B)] ++ cellsCheck s sfh (namedAsn s r.asn) es false)
    (fun s => { s with sch := { s.sch with writes := s.sch.writes ++
      [⟨some r, namedAsn s r.asn, sfh, ((sfAt s sfh (namedAsn s r.asn)).map SfUse.act).getD 0, es⟩] } }) s

/-- `SCHED_CELLS_WRITE` (R203): it completes when it takes effect. -/
def execSchedCellsWrite (r : CmdRef) (sfh : Nat) (entries : List CellEntry) (s : State) : Res :=
  .next (runCmd r 0x0302 1 (4 + 8 * entries.length) (.schedCellsWrite sfh entries) s (doCellsWrite r sfh entries))

/-- Write the cells of one request into the region of its handle (R203, R295); the run of NO_FRAME of a cell that is written
starts afresh (R245). -/
def putCells (u : SfRec) (es : List CellEntry) (s : State) : State :=
  es.foldl (fun t e =>
    let w := u.wordOf e.slot e.pos
    cellRefs [e.word] true (cellRefs [storeGet t.sch.store w] false
      { t with
        sch := { t.sch with store := cellsPut w e.word 0 t.sch.store }
        herd := { t.herd with idle := t.herd.idle.filter (fun x => x.1 != w) } })) s

/-- One pending write takes effect: a handle removed in the meantime, and perhaps defined afresh, makes it `BAD_STATE`. -/
def cellsEffect (q : CellsReq) (s : State) : State :=
  let t := { s with sch := { s.sch with writes := s.sch.writes.erase q } }
  match useOf t q with
  | some u =>
    let v := sweepTombs (putCells u.rec_ q.entries t)
    match q.ref with
    | some r => done r v
    | none => v
  | none =>
    match q.ref with
    | some r => refuse r stBadState 5 0 t
    | none => t

/-- `CELLS_WRITE_EFFECT` (R203): every write whose ASN has come, in journal order. -/
def execCellsWriteEffect (s : State) : Res :=
  .next (coreOnly s ((s.sch.writes.filter (fun q => decide (q.asn ≤ nowFor s))).foldl (fun t q => cellsEffect q t) s))

end Sys2Proof.Machine
end

