-- ==== Sys2Proof/Machine/Nodes.lean ====
section
/-! DEFINITION. The node table and the prefix memory (R291 to R313): placement, moves, removal, reading, learning, ageing,
prefix changes. -/
namespace Sys2Proof.Machine

/-- An output buffer is written to host memory before its completion (R395, R410); a unit that executes another unit's records writes
none (R461). -/
def writeOut (addr : Nat) (bs : List Octet) (s : State) : State :=
  { s with hif := { s.hif with outBuf := if s.pair.exec then s.hif.outBuf else [(addr, bs)] } }
/-- A further buffer of the same command. -/
def writeAlso (addr : Nat) (bs : List Octet) (s : State) : State :=
  { s with hif := { s.hif with outBuf := if s.pair.exec then s.hif.outBuf else s.hif.outBuf ++ [(addr, bs)] } }

/-! ## Buckets (R291, R293) -/

def buckets : Nat := 81920
def stashBase : Nat := 327680
def hash0 (e : Nat) : Nat := crc32cInit 0x1EDC_6F41 (octetsBE 8 e) % buckets
def hash1 (e : Nat) : Nat :=
  let h := crc32cInit 0x8F6E_37A0 (octetsBE 8 e) % buckets
  if h = hash0 e then (hash0 e + 40960) % buckets else h

/-- The candidate bucket of an EUI-64 that is not `b`. -/
def otherBucket (e b : Nat) : Nat := if hash0 e = b then hash1 e else hash0 e

def holdsIdx (l : List Node) (i : Nat) : Bool := l.any (fun n => n.idx == i)
def freeWay (l : List Node) (b : Nat) : Option Nat := (List.range 4).find? (fun w => !holdsIdx l (4 * b + w))
def freeStash (l : List Node) : Option Nat := (List.range 64).find? (fun k => !holdsIdx l (stashBase + k))

/-! ## Placement and moves (R301, R302) -/

/-- Where a new entry goes and the moves it needs, in their order, as (from, to). -/
structure Place where
  idx   : Nat
  moves : List (Nat × Nat)
  deriving DecidableEq, Repr

/-- First way of bucket `b`, from `i mod 4`, whose entry is not pinned and not in the path. -/
def pathWay (s : State) (b i : Nat) (path : List (Nat × Nat)) : Option Node :=
  ((List.range 4).map (fun k => 4 * b + (i + k) % 4)).findSome? (fun p =>
    if path.any (fun q => q.1 == p) then none
    else match entryAt s p with
      | some n => if pinned s n then none else some n
      | none => none)

/-- The moves of a path, `path` newest step first, each (position, its alternate bucket); `dest` is where the newest step's
entry goes. -/
def pathMoves : Nat → List (Nat × Nat) → List (Nat × Nat)
  | _, [] => []
  | dest, (p, _) :: t => (p, dest) :: pathMoves p t

/-- The walk of R301 from bucket `b`, `fuel` steps left, `path` newest step first. -/
def walk (s : State) : Nat → Nat → Nat → List (Nat × Nat) → Option Place
  | 0, _, _, _ => none
  | fuel + 1, i, b, path =>
    match pathWay s b i path with
    | none => none
    | some v =>
      let alt := otherBucket v.eui b
      let path' := (v.idx, alt) :: path
      match freeWay s.tbl.nodes alt with
      | some w => some ⟨(path'.getLastD (0, 0)).1, pathMoves (4 * alt + w) path'⟩
      | none => walk s fuel (i + 1) alt path'

def placeFor (s : State) (e : Nat) : Option Place :=
  match freeWay s.tbl.nodes (hash0 e) with
  | some w => some ⟨4 * hash0 e + w, []⟩
  | none =>
    match freeWay s.tbl.nodes (hash1 e) with
    | some w => some ⟨4 * hash1 e + w, []⟩
    | none =>
      match walk s 128 0 (hash0 e) [] with
      | some p => some p
      | none => (freeStash s.tbl.nodes).map (fun k => ⟨stashBase + k, []⟩)

def reIdx (a b i : Nat) : Nat := if i = a then b else i

def HItem.move (a b : Nat) : HItem → HItem
  | .uplink n r q g => .uplink (reIdx a b n) r q g
  | .ack n r q => .ack (reIdx a b n) r q
  | .overheard n r q => .overheard (reIdx a b n) r q
  | .attempt n c k => .attempt (reIdx a b n) c k
  | .census t e => .census t e
  | .sixp n m => .sixp (reIdx a b n) m
  | .lost n => .lost (reIdx a b n)
  | .applied l => .applied l

def HOut.move (a b : Nat) : HOut → HOut
  | .announce n k v => .announce (reIdx a b n) k v
  | .advise n k v => .advise (reIdx a b n) k v
  | .ask n c l => .ask (reIdx a b n) c l
  | .write n x c => .write (reIdx a b n) x c
  | .drop n o l => .drop (reIdx a b n) o l
  | .dropAll n => .dropAll (reIdx a b n)
  | .reply n c q l => .reply (reIdx a b n) c q l
  | .noCell n => .noCell (reIdx a b n)
  | .fail n c => .fail (reIdx a b n) c

/-- What Herd holds for a node goes with its entry to the new index. -/
def HerdSt.move (a b : Nat) (h : HerdSt) : HerdSt :=
  { h with
    items := h.items.map (HItem.move a b)
    decs := h.decs.map (fun d => { d with out := d.out.move a b })
    anns := h.anns.map (fun x => { x with node := reIdx a b x.node })
    holdoff := h.holdoff.map (fun x => (reIdx a b x.1, x.2))
    clear := h.clear.map (reIdx a b) }

/-- Move the entry at `a` to the free index `b` (R302). -/
def moveEntry (a b : Nat) (s : State) : State :=
  match entryAt s a with
  | some n => { s with
      tbl := { s.tbl with nodes := putNodeIn { n with idx := b } (s.tbl.nodes.filter (fun m => m.idx != a)) }
      tx := { s.tx with txs := s.tx.txs.map (fun t => if t.kind = .ack then { t with node := reIdx a b t.node } else t) }
      herd := s.herd.move a b }
  | none => s

def movedEvent (e : Nat) (m : Nat × Nat) (s : State) : State := event 0x0801 [e, m.1, m.2] s

/-- The EUI-64s of the moved entries. -/
def movedEuis (s : State) (ms : List (Nat × Nat)) : List (Nat × (Nat × Nat)) :=
  ms.map (fun m => (((entryAt s m.1).map Node.eui).getD 0, m))

/-! ## `NODE_INSERT` (R299, R417) -/

def HerdRec.initial (rung : Nat) : HerdRec where
  rssi := none
  snr := none
  holdcnt := 0
  txn := 0
  psr := 768
  psrg := [768, 768, 768, 768]
  rung := rung
  dlcells := 0
  pin := 0
  drop := 0
  pend := 0
  hint := 0
  map := 0
  pwr := 0
  seq6p := 0
  dropasn := 0

/-- A new entry (R299). -/
def newNode (s : State) (i : Nat) (a : InsertArgs) : Node where
  idx := i
  eui := a.eui
  tomb := false
  lost := false
  resync := false
  hit := true
  hpin := a.hpin
  pnoexp := false
  nm := 0
  cls := a.cls
  synth := true
  parent := noParent
  pexp := 0
  fcl := a.fcl
  asnl := asn32 s
  lsync := asn32 s
  drift := 0
  noSync := true
  cellref := 0
  fo := 0
  ro := 0
  foAt := 0
  dl := []
  childref := 0
  herd := HerdRec.initial (s.regF 0x92080 (3 * a.cls + 2) (3 * a.cls))
  vref := a.vref

/-- The cell word of R417. -/
def insertWord (c : InsertCell) (i : Nat) : Word :=
  BitVec.ofNat 32 (2 ^ 31 + b2n (c.flags.getLsbD 0) * 2 ^ 30 + b2n (c.flags.getLsbD 1) * 2 ^ 29 +
    b2n (c.flags.getLsbD 2) * 2 ^ 28 + b2n (c.flags.getLsbD 3) * 2 ^ 27 + c.chofs % 256 * 2 ^ 19 + i)

/-- The first condition of R203 that the cell of an insertion meets. -/
def insertCellBad (s : State) (c : InsertCell) (i : Nat) : Option (Nat × Nat) :=
  if 63 < c.sfh then some (stBad, 0x000B)
  else ((cellsCheck s c.sfh (asnNow s + 2) [⟨c.slot, c.pos, insertWord c i⟩] false).find? (fun x => x.1)).map
    (fun x => (x.2.1, x.2.2.2))

/-- The entry placed, with its moves; no events yet. -/
def placed (s : State) (p : Place) (a : InsertArgs) : State :=
  let t := p.moves.foldl (fun u m => moveEntry m.1 m.2 u) s
  withNodes (putNodeIn (newNode s p.idx a)) t

def doNodeInsert (r : CmdRef) (a : InsertArgs) (s : State) : State :=
  if 7 < a.cls then refuse r stBad 8 0x000B s
  else match findEui s a.eui with
  | some n => complete r stBadState 8 n.idx 0 s
  | none =>
    match placeFor s a.eui with
    | none => refuse r stTableFull 8 0 (bump 0xB0028 s)
    | some p =>
      let t := placed s p a
      match a.cell.bind (fun c => insertCellBad t c p.idx) with
      | some (st, d) => refuse r st 5 d s
      | none =>
        let u := match a.cell with
          | some c => { t with sch := { t.sch with writes := t.sch.writes ++
              [⟨none, asnNow s + 2, c.sfh, ((sfAt t c.sfh (asnNow s + 2)).map SfUse.act).getD 0, [⟨c.slot, c.pos, insertWord c p.idx⟩]⟩] } }
          | none => t
        let v := (movedEuis s p.moves).foldl (fun w m => movedEvent m.1 m.2 w) u
        doneWith r (p.idx + p.moves.length * 2 ^ 32)
          (bumpIf (stashBase ≤ p.idx) 0xB002C (bump 0xB0020 (bumpN 0xB0024 p.moves.length v)))

/-- `NODE_INSERT` (R299 to R302, R417). -/
def execNodeInsert (r : CmdRef) (a : InsertArgs) (s : State) : Res := .next (runCmd r 0x0401 1 24 (.nodeInsert a) s (doNodeInsert r a))

/-! ## Removal (R303 to R306) -/

/-- Free the reassembly contexts of a node (R304 step 2). -/
def freeCtxs (i : Nat) (s : State) : State :=
  let mine := s.adp.ctxs.filter (fun c => c.node == i)
  { s with
    que := releaseIn s (mine.flatMap (fun c => c.frags.flatMap (fun f => f.2.2))) s.que
    adp := { s.adp with ctxs := s.adp.ctxs.filter (fun c => c.node != i) } }

/-- Steps 1 to 4 of R304. -/
def unhook (i : Nat) (st : Nat) (s : State) : State :=
  let ids := (((entryAt s i).map Node.dl).getD []).filter (fun f => !(flying s).contains f)
  let t := freeCtxs i (framesDone ids st s)
  setParent i noParent { t with herd := { t.herd with items := t.herd.items ++ [.lost i] } }

/-- Remove the entry at index `i` (R304). -/
def removeNode (i : Nat) (s : State) : State :=
  let t := bump 0xB0030 (unhook i stNoNode s)
  match entryAt t i with
  | some n =>
    if pinnedButTomb t n then modNode i (fun m => { m with tomb := true }) t
    else withNodes (fun l => l.filter (fun m => m.idx != i)) t
  | none => t

def doNodeRemove (r : CmdRef) (index eui : Nat) (s : State) : State :=
  match nodeAt s index with
  | some n => if n.eui = eui then done r (removeNode index s) else refuse r stNoNode 8 0 s
  | none => refuse r stNoNode 8 0 s

/-- `NODE_REMOVE` (R303). -/
def execNodeRemove (r : CmdRef) (index eui : Nat) (s : State) : Res :=
  .next (runCmd r 0x0402 1 0 (.nodeRemove index eui) s (doNodeRemove r index eui))

/-! ## `NODE_READ` (R294, R307) -/

/-- PSRG[g]. -/
def HerdRec.psrgAt (h : HerdRec) (g : Nat) : Nat := h.psrg.getD g 0

/-- First and last packet-memory cell of the node's list. -/
def dlHead (s : State) (n : Node) : Nat := ((n.dl.head?.bind (frameAt s)).bind (fun f => f.cells.head?)).getD 0
def dlTail (s : State) (n : Node) : Nat := ((n.dl.getLast?.bind (frameAt s)).bind (fun f => f.cells.head?)).getD 0

/-- The sixteen words of an entry (Table 10-1). -/
def nodeWords (s : State) (n : Node) : List Nat :=
  let h := n.herd
  [n.eui % 2 ^ 32, n.eui / 2 ^ 32,
   2 ^ 31 + b2n n.tomb * 2 ^ 30 + b2n n.lost * 2 ^ 29 + b2n n.resync * 2 ^ 28 + b2n n.hit * 2 ^ 27 + b2n n.hpin * 2 ^ 26 +
     b2n n.pnoexp * 2 ^ 25 + n.nm % 4 * 2 ^ 23 + n.cls % 8 * 2 ^ 20 + b2n n.synth * 2 ^ 19 + n.parent % 2 ^ 19,
   n.pexp, n.fcl, n.asnl, n.lsync,
   toUnsigned 16 n.drift * 2 ^ 16 + n.cellref,
   toUnsigned 16 n.fo * 2 ^ 16 + toUnsigned 16 n.ro,
   b2n n.dl.isEmpty * 2 ^ 31 + dlHead s n * 2 ^ 16 + dlTail s n,
   n.childref,
   toUnsigned 13 (h.rssi.getD 0) * 2 ^ 19 + toUnsigned 12 (h.snr.getD 0) * 2 ^ 7 + h.holdcnt * 4 + h.txn,
   h.psr * 2 ^ 21 + h.psrgAt 0 * 2 ^ 10 + h.rung * 2 ^ 7 + h.dlcells * 2 ^ 4 + h.pin,
   h.psrgAt 1 * 2 ^ 21 + h.psrgAt 2 * 2 ^ 10 + h.drop * 2 ^ 6 + h.pend * 4 + h.hint,
   h.psrgAt 3 * 2 ^ 21 + h.map * 2 ^ 16 + h.pwr * 2 ^ 12 + h.seq6p * 2 ^ 4,
   h.dropasn * 2 ^ 8 + n.vref]

def doNodeRead (r : CmdRef) (byEui : Bool) (key outAddr : Nat) (s : State) : State :=
  match (if byEui then findEui s key else entryAt s key) with
  | some n => doneWith r n.idx (writeOut outAddr ((nodeWords s n).flatMap (octetsLE 4)) s)
  | none => refuse r stNoNode 8 0 s

/-- `NODE_READ` (R307). -/
def execNodeRead (r : CmdRef) (byEui : Bool) (key outAddr : Nat) (s : State) : Res :=
  .next (runCmd r 0x0403 1 24 (.nodeRead byEui key outAddr) s (doNodeRead r byEui key outAddr))

/-! ## Learning (R308) -/

def learnRing (s : State) : Nat := s.regF 0xB000C 26 24

/-- Within the last HOLDOFF seconds of ASN. -/
def recently (s : State) (e a : Nat) : Bool :=
  s.regF 0xB000C 23 16 != 0 && s.tbl.learned.any (fun x =>
    x.1 == e && decide ((a - x.2) * s.time.l < s.regF 0xB000C 23 16 * 1_000_000_000))

/-- Post a `LEARN_UNKNOWN` notice for a frame received at ASN `a`, or count it as suppressed. -/
def learn (e a ts : Nat) (fields : List Nat) (s : State) : State :=
  let n := ((s.tbl.learnAt.find? (fun x => x.1 == a)).map Prod.snd).getD 0
  if !s.regB 0xB000C 31 then s
  else if recently s e a || s.regF 0xB000C 7 0 ≤ n then bump 0xB0010 s
  else
    offerRec (learnRing s) ⟨2, 0, 0, a, ts, 8 * (fields.length + 3), [e, a, ts] ++ fields, [], s.jrn.seq⟩
      { s with tbl := { s.tbl with
        learned := ((e, a) :: s.tbl.learned.filter (fun x => x.1 != e)).take 64
        learnAt := (a, n + 1) :: s.tbl.learnAt.filter (fun x => x.1 != a && decide (a ≤ x.1 + 65536)) } }

/-! ## Ageing (R309 to R311) -/

/-- S: slots of one sweep. -/
def sweepSlots (s : State) : Nat :=
  max 1 (roundDiv ((max 1 (s.regF 0xB0004 15 0) * 1_000_000_000 : Nat) : Int) (max 1 s.time.l)).toNat

/-- Position of an entry: its bucket, or 81,920 for the stash. -/
def Node.pos (n : Node) : Nat := if n.idx < stashBase then n.idx / 4 else buckets

def ageEntry (a : Nat) (s : State) (i : Nat) : State :=
  match nodeAt s i with
  | some n =>
    if n.hit then modNode i (fun m => { m with hit := false }) s
    else
      let t := bump 0xB0038 (offerRec (learnRing s) ⟨3, 0, 0, a, s.time.tb, 24, [i, n.eui, a], [], s.jrn.seq⟩ s)
      if s.regB 0xB0004 30 then removeNode i t else t
  | none => s

/-- Drain one stash entry into bucket `b` while it has a free way (R311). -/
def drainOne (b : Nat) (s : State) : State :=
  match freeWay s.tbl.nodes b, s.tbl.nodes.find? (fun n =>
      decide (stashBase ≤ n.idx) && !pinned s n && (hash0 n.eui == b || hash1 n.eui == b)) with
  | some w, some n => bump 0xB003C (bump 0xB0024 (movedEvent n.eui (n.idx, 4 * b + w) (moveEntry n.idx (4 * b + w) s)))
  | _, _ => s

def visit (a p : Nat) (s : State) : State :=
  let t := ((s.tbl.nodes.filter (fun n => n.pos == p && !n.tomb)).map Node.idx).foldl (ageEntry a) s
  if p < buckets then (List.range 4).foldl (fun u _ => drainOne p u) t else t

def insAsc (x : Nat) : List Nat → List Nat
  | [] => [x]
  | y :: t => if x < y then x :: y :: t else if x = y then y :: t else y :: insAsc x t

/-- The positions of a visit at which there is anything to do, ascending. -/
def livePositions (s : State) (lo hi : Nat) : List Nat :=
  ((s.tbl.nodes.map Node.pos ++ (s.tbl.nodes.filter (fun n => decide (stashBase ≤ n.idx))).flatMap
    (fun n => [hash0 n.eui, hash1 n.eui])).filter (fun p => decide (lo ≤ p) && decide (p < hi))).foldl
    (fun l p => insAsc p l) []

/-- `AGEING_VISIT` (R309): the positions of the present ASN, once for each boundary. -/
def execAgeingVisit (s : State) : Res :=
  let a := asnNow s
  let n := sweepSlots s
  let lo := ceilDiv (a % n * 81921) n
  let hi := ceilDiv ((a % n + 1) * 81921) n
  .next (coreOnly s (if !(s.time.running && s.up && s.regB 0xB0004 31) || s.tbl.ageAsn == some a then s
    else
      let t := (livePositions s lo hi).foldl (fun u p => visit a p u) s
      { t with tbl := { t.tbl with agePos := hi % 81921, ageAsn := some a } }))

/-! ## Prefix memory (R312, R313) -/

def Pfx.matches_ (p : Pfx) (dst : Nat) : Bool := dst / 2 ^ (128 - p.len) == p.key / 2 ^ (128 - p.len)

/-- Route result of a destination: the longest match, else DEFAULT; an entry with broken parity returns DROP. -/
def routeOf (s : State) (dst : Nat) : Nat :=
  match s.tbl.pfx.find? (fun p => p.matches_ dst) with
  | some p => if s.tbl.pfxBad.contains (p.key, p.len) then 0 else p.res
  | none => if s.regF 0xB0040 15 12 ≤ 4 then s.regF 0xB0040 15 0 else 0

def insPfx (x : Pfx) : List Pfx → List Pfx
  | [] => [x]
  | y :: t =>
    if y.len < x.len ∨ (y.len = x.len ∧ x.key < y.key) then x :: y :: t
    else if y.len = x.len ∧ y.key = x.key then x :: t
    else y :: insPfx x t

/-- Swap to a bank holding `l` (R313). -/
def swapBank (l : List Pfx) (s : State) : State :=
  { s with tbl := { s.tbl with bank := 1 - s.tbl.bank, pfx := l, shadow := s.tbl.pfx } }

def pfxBadArgs (key len : Nat) : Bool := decide (128 < len) || key % 2 ^ (128 - len) != 0

def doPrefixInsert (r : CmdRef) (key len result : Nat) (s : State) : State :=
  let present := s.tbl.pfx.any (fun p => p.key == key && p.len == len)
  checked r
    [(pfxBadArgs key len || decide (4 < bitsOf result 15 12), stBad, 8, 0x000B),
     (!present && decide (8192 ≤ s.tbl.pfx.length), stTableFull, 8, 0)]
    (fun s => done r { swapBank (insPfx ⟨key, len, result⟩ s.tbl.pfx) s with
      tbl := { (swapBank (insPfx ⟨key, len, result⟩ s.tbl.pfx) s).tbl with
        pfxBad := s.tbl.pfxBad.filter (· != (key, len)) } }) s

/-- `PREFIX_INSERT` (R313). -/
def execPrefixInsert (r : CmdRef) (key len result : Nat) (s : State) : Res :=
  .next (runCmd r 0x0410 1 20 (.prefixInsert key len result) s (doPrefixInsert r key len result))

def doPrefixRemove (r : CmdRef) (key len : Nat) (s : State) : State :=
  checked r
    [(pfxBadArgs key len, stBad, 8, 0x000B),
     (!s.tbl.pfx.any (fun p => p.key == key && p.len == len), stNoRoute, 8, 0)]
    (fun s => done r (swapBank (s.tbl.pfx.filter (fun p => !(p.key == key && p.len == len))) s)) s

/-- `PREFIX_REMOVE` (R313). -/
def execPrefixRemove (r : CmdRef) (key len : Nat) (s : State) : Res :=
  .next (runCmd r 0x0411 1 20 (.prefixRemove key len) s (doPrefixRemove r key len))

end Sys2Proof.Machine
end

