-- ==== Sys2Proof/Machine/Adapt.lean ====
section
/-! DEFINITION. The adaptation engine (R30, R271 to R283): contexts, source routes, linking of downlink packets, routing,
decapsulation, parents and reassembly. -/
namespace Sys2Proof.Machine

/-! ## Addresses (R272, R297) -/

def deviceEui (s : State) : Nat := s.regN 0x80800 + 2 ^ 32 * s.regN 0x80804
/-- Interface identifier of an EUI-64: the universal/local bit inverted. -/
def iidOf (e : Nat) : Nat := e ^^^ 2 ^ 57
/-- Context i: its prefix and length while it is enabled. -/
def ctxAt (s : State) (i : Nat) : Option (Nat × Nat) :=
  let b := 0xA0040 + 32 * i
  if s.regB (b + 16) 31 then
    let len := min 128 (s.regF (b + 16) 7 0)
    let p := ((s.regN b * 2 ^ 32 + s.regN (b + 4)) * 2 ^ 32 + s.regN (b + 8)) * 2 ^ 32 + s.regN (b + 12)
    some (p / 2 ^ (128 - len) * 2 ^ (128 - len), len)
  else none

/-- Prefix of context 0. -/
def meshPrefix (s : State) : Nat := (((ctxAt s 0).map Prod.fst).getD 0) / 2 ^ 64 * 2 ^ 64
/-- The root addresses (R272). -/
def rootAddr (s : State) (a : Nat) : Bool :=
  iidPart a == iidOf (deviceEui s) && (a / 2 ^ 64 * 2 ^ 64 == linkLocal || ((ctxAt s 0).isSome && a / 2 ^ 64 * 2 ^ 64 == meshPrefix s))
/-- The node an address's interface identifier maps to (R297). -/
def nodeOfAddr (s : State) (a : Nat) : Option Node := findEui s (iidOf (iidPart a))
/-- The contexts of R272, as compression and decompression read them. -/
def ctxsOf (s : State) : Ctxs := ctxAt s

/-! ## Source routes (R281, R282) -/

/-- Walk the parents: `hops` is what stands in front so far, nearest the device first. -/
def walkUp (s : State) : Nat → Nat → List Nat → Option (List Nat)
  | 0, _, _ => none
  | fuel + 1, n, hops =>
    match entryAt s n with
    | none => none
    | some nd =>
      if nd.parent = rootParent then some hops
      else if nd.parent = noParent ∨ hops.length = 16 then none
      else match nodeAt s nd.parent with
        | none => none
        | some p => if p.lost then none else walkUp s fuel nd.parent (nd.parent :: hops)

def sourceRoute (s : State) (d : Nat) : Option (List Nat) := walkUp s 17 d [d]

/-- The EUI-64 of the entry at an index. -/
def euiAt (s : State) (i : Nat) : Nat := ((entryAt s i).map Node.eui).getD 0
def iidAt (s : State) (i : Nat) : Nat := iidOf (euiAt s i)

/-- Packet `p` as it goes over `hops`: wrapped in the outer header of R282 when there is more than one. -/
def routed (s : State) (p : List Octet) (hops : List Nat) : List Octet :=
  match hops with
  | f :: x :: t =>
    ipWrap (meshPrefix s + iidOf (deviceEui s)) (meshPrefix s + iidAt s f) (s.regF 0xA0004 7 0) (s.regF 0xA0004 31 16)
      ((x :: t).map (iidAt s)) p
  | _ => p

/-- `ADP_FRAGMTU[c]`, the nearer limit for a value outside 64 to 2,000. -/
def fragMtu (s : State) (c : Nat) : Nat := min 2000 (max 64 (s.regF (0xA0020 + 4 * c) 10 0))

/-- The MAC payloads that carry `p` over `hops` to first hop `f` (R274). -/
def downFrames (s : State) (f : Node) (hops : List Nat) (p : List Octet) : List (List Octet) :=
  let w := routed s p hops
  fragments (fragMtu s f.cls) s.adp.fragTag (compress (ctxsOf s) (iidOf (deviceEui s)) (iidOf f.eui) w) w

/-! ## Downlink (R30, R359) -/

inductive Down where
  | noNode
  | noRoute
  | busy (poolFull : Bool)
  | offline
  | linked (node parts : Nat) (s : State)

/-- Steps 2 to 5 of R30 for packet `p`. -/
def downlink (cmd : Option CmdRef) (p : List Octet) (s : State) : Down :=
  if s.offline 7 then .offline
  else match nodeOfAddr s (ipDst p) with
    | none => .noNode
    | some d =>
      match sourceRoute s d.idx with
      | none => .noRoute
      | some hops =>
        match hops.head?.bind (entryAt s) with
        | none => .noRoute
        | some f =>
          if f.lost then .noRoute
          else
            let fs := downFrames s f hops (if hops.length = 1 ∧ cmd.isSome then lowerHlim p else p)
            match linkNode f.idx (.data f.idx) cmd fs s with
            | some t => .linked f.idx fs.length
                (if fs.length = 1 then t else { t with adp := { t.adp with fragTag := (t.adp.fragTag + 1) % 65536 } })
            | none => .busy (listRoom s f fs.length)

/-- A packet from Ethernet or the mesh that is routed to MESH: what cannot be linked is dropped (R359); none above 1,500 octets is
sent (R274). -/
def downDrop (p : List Octet) (s : State) : State :=
  match (if 1500 < p.length then .noRoute else downlink none p s) with
  | .linked _ _ t => t
  | .busy full => bumpIf full 0xD0040 (bump 0xD000C s)
  | _ => s

/-! ## Routing (R280, R283) -/

/-- Where a packet came from: 0 mesh, 1 ETH_A, 2 ETH_B; the sender's EUI-64 and node index; stamps. -/
structure Origin where
  src  : Nat
  eui  : Nat
  node : Nat
  asn  : Nat
  time : Nat

/-- Strip a hop-by-hop header that holds only an RPL option (R280). -/
def stripRpi (s : State) (p : List Octet) : List Octet := if s.regB 0xA0000 1 && onlyRpl p then dropHbh p else p

/-- Queue of an Ethernet port for a packet (R361). -/
def ethQueue (s : State) (port : Nat) (p : List Octet) : Nat := 2 * port + (if s.regF 0xD0008 2 0 ≤ ipTc p / 32 then 0 else 1)

/-- Put a packet on an egress queue, counting a drop. -/
def egress (q : Nat) (p : List Octet) (s : State) : State :=
  let x := enqueue s q p.length (.packet p) s.que
  { s with que := x.1, cnt := bumpAll x.2 s.cnt }

/-- Act on a route result (R283). -/
def route (o : Origin) (p : List Octet) (s : State) : State :=
  let res := routeOf s (ipDst p)
  let k := bitsOf res 15 12
  if k = 0 ∨ 4 < k then bump 0xB0048 s
  else if k = 4 then
    let x := stripRpi s p
    offerRec (res % 8) ⟨1, 0, o.src, o.asn, o.time, 16 + x.length, [o.eui, o.node], x, s.jrn.seq⟩ s
  else if ipHlim p ≤ 1 then bump 0xA0324 s
  else if k = 3 then downDrop (lowerHlim p) s
  else egress (ethQueue s (k - 1) p) (stripRpi s (lowerHlim p)) s

/-! ## Parents (R278, R279) -/

/-- Slots of ASN in `sec` seconds, rounded up. -/
def slotsOf (s : State) (sec : Nat) : Nat := ceilDiv (sec * 1_000_000_000) (max 1 s.time.l)

/-- One target of a DAO. -/
def daoTarget (asn : Nat) (t : DaoTarget) (s : State) : State :=
  match nodeOfAddr s t.target with
  | none => s
  | some n =>
    let known := if rootAddr s t.parent then some rootParent
      else if (ctxAt s 0).isSome && t.parent / 2 ^ 64 * 2 ^ 64 == meshPrefix s then (nodeOfAddr s t.parent).map Node.idx else none
    let p := if t.lifetime = 0 then noParent else known.getD noParent
    let u := setParent n.idx p s
    let life := slotsOf s (t.lifetime * s.regF 0xA0008 15 0)
    bumpIf known.isNone 0xA0328 (modNode n.idx (fun m =>
      { m with
        pnoexp := p != noParent && decide (2 ^ 31 < life)
        pexp := if p = noParent then m.pexp else (asn + life) % 2 ^ 32 }) u)

/-- Learn the parents that a DAO addressed to a root address reports. -/
def learnParents (asn : Nat) (p : List Octet) (s : State) : State :=
  if rootAddr s (ipDst p) then (daoTargets p).foldl (fun u t => daoTarget asn t u) s else s

/-! ## Uplink (R276, R280) -/

/-- The packet that decapsulation leaves (R280). -/
def decapsulated (s : State) (p : List Octet) : List Octet := if rootAddr s (ipDst p) then (ipInner p).getD p else p

/-- A decompressed packet: RPL option check, decapsulation, parents, routing. -/
def uplink (o : Origin) (p : List Octet) (s : State) : State :=
  let q := decapsulated s p
  if s.offline 7 then s
  else if rplO p = some true ∨ rplO q = some true then bump 0xA0320 s
  else route o q (learnParents o.asn q s)

def sameCtx (n tag size : Nat) (c : ReCtx) : Bool := c.node == n && c.tag == tag && c.size == size

def ctxCells (c : ReCtx) : List Nat := c.frags.flatMap (fun f => f.2.2)

/-- Octets held. -/
def ctxHeld (c : ReCtx) : Nat := sumNat (c.frags.map (fun f => f.2.1.length))

/-- Put a fragment in the order of the offsets. -/
def insFrag (x : Nat × List Octet) : List (Nat × List Octet) → List (Nat × List Octet)
  | [] => [x]
  | y :: t => if x.1 < y.1 then x :: y :: t else y :: insFrag x t

/-- The datagram of a context and its last fragment, its elided checksum filled in (R272, log entry 84). -/
def datagram (c : ReCtx) (off : Nat) (p : List Octet) : List Octet :=
  fillChecksum ((c.frags.foldl (fun l f => insFrag (f.1, f.2.1) l) [(off, p)]).flatMap Prod.snd)

/-- Discard a context. -/
def dropCtx (c : ReCtx) (s : State) : State :=
  { s with
    que := releaseIn s (ctxCells c) s.que
    adp := { s.adp with ctxs := s.adp.ctxs.filter (fun d => !sameCtx c.node c.tag c.size d) } }

/-- Hold one more fragment of context `c`; the datagram goes on when it is complete. -/
def addFrag (o : Origin) (c : ReCtx) (off : Nat) (p : List Octet) (s : State) : State :=
  if ctxHeld c + p.length = c.size then uplink o (datagram c off p) (sweepTombs (dropCtx c s))
  else match allocIn s 1 (cellsFor p.length) s.que with
    | none => bump 0xD0044 (bump 0xA0310 s)
    | some (cs, q) => { s with
        que := q
        adp := { s.adp with ctxs := s.adp.ctxs.filter (fun d => !sameCtx c.node c.tag c.size d) ++
          [{ c with frags := c.frags ++ [(off, p, cs)] }] } }

/-- Octets `off` to `off + n - 1` share one with a fragment held. -/
def overlaps (c : ReCtx) (off n : Nat) : Bool :=
  c.frags.any (fun f => decide (f.1 < off + n) && decide (off < f.1 + f.2.1.length))

/-- One fragment of a datagram (R276). -/
def fragment (o : Origin) (tag size off : Nat) (p : List Octet) (s : State) : State :=
  if s.offline 7 then s
  else if 1500 < size then bump 0xA030C s
  else match s.adp.ctxs.find? (sameCtx o.node tag size) with
    | some c =>
      if c.frags.any (fun f => f.1 == off && f.2.1.length == p.length) then bump 0xA0314 s
      else if size < off + p.length || overlaps c off p.length then bump 0xA0318 (sweepTombs (dropCtx c s))
      else addFrag o c off p s
    | none =>
      if 4096 ≤ s.adp.ctxs.length ∨
          max 1 (s.regF 0xA000C 3 0) ≤ (s.adp.ctxs.filter (fun c => c.node == o.node)).length then bump 0xA0310 s
      else if size < off + p.length then bump 0xA0318 s
      else addFrag o ⟨o.node, tag, size, o.asn, []⟩ off p s

/-- The interface identifier of a MAC destination: the device's own, or that of the broadcast short address. -/
def iidTo (s : State) (bcast : Bool) : Nat := if bcast then iidShort 0xFFFF else iidOf (deviceEui s)

/-- The MAC payload of an accepted frame (R271). A frame without one has no dispatch and nothing is done. -/
def payloadIn (o : Origin) (bcast : Bool) (pl : List Octet) (s : State) : State :=
  if pl.isEmpty then s
  else match macPay (ctxsOf s) (s.regB 0xA0000 0) (iidOf o.eui) (iidTo s bcast) pl with
    | .packet p => uplink o p s
    | .frag tag size off p => fragment o tag size off p s
    | .disc k => bump (0xA0300 + 4 * k) s

/-! ## Expiry -/

/-- `REASM_EXPIRE` (R277): contexts 60 s old at the present boundary go. -/
def execReasmExpire (s : State) : Res :=
  let old := s.adp.ctxs.filter (fun c => decide (60_000_000_000 ≤ (asnNow s - c.asn) * s.time.l))
  .next (coreOnly s (sweepTombs (bumpN 0xA031C (sumNat (old.map (fun c => c.frags.length))) (old.foldl (fun u c => dropCtx c u) s))))

/-- `PARENT_EXPIRE` (R278): the parent of a node expires to NONE once the ASN of its expiry has come. -/
def execParentExpire (node : Nat) (s : State) : Res :=
  .next (coreOnly s (match entryAt s node with
    | some n =>
      if n.parent ≠ noParent ∧ !n.pnoexp ∧ (asn32 s + 2 ^ 32 - n.pexp) % 2 ^ 32 < 2 ^ 31 ∧ s.time.running then
        setParent node noParent s
      else s
    | none => s))

end Sys2Proof.Machine
end

