-- ==== Sys2Proof/Machine/Eland.lean ====
section
/-! DEFINITION. What an Eland frame is on air (R170 to R184): preamble, sync word, PHR, scrambler, segmentation, LDPC code
and interleaver; and what the receiver makes of its soft values (R178, R191, R194). Bits and chips are in transmission order. A
soft value is positive where 0 is the likelier value of a chip; a sum of 0 is decided 0 (log entry 93). -/
namespace Sys2Proof.Machine

/-- Bits of octets in the order of R172: least significant bit first. -/
def airBits (bs : List Octet) : List Bool := bs.flatMap (fun b => (List.range 8).map (fun i => bitOf b.toNat i))

/-- Octets packed least significant bit first. -/
def packBits : Nat → List Bool → List Nat
  | 0, _ => []
  | k + 1, l => sumNat ((List.range 8).map (fun i => b2n (l.getD i false) * 2 ^ i)) :: packBits k (l.drop 8)

/-- The preamble pattern (R173) and the sync word (R174). -/
def elandPreamble : List Bool := airBits [0xD3, 0xE2, 0x56, 0xB8]
def elandSync : List Bool := airBits [0x4E, 0xB9, 0x70, 0xD6, 0xB1, 0x4F, 0xCA, 0x35]

/-- The three PHR octets (Table 06-2). -/
def elandPhr (len spread : Nat) : List Octet :=
  let o0 : Octet := BitVec.ofNat 8 (len % 256)
  let o1 : Octet := BitVec.ofNat 8 (len / 256 % 8 + 8 * (spread % 4))
  [o0, o1, BitVec.ofNat 8 (crc8 [o0, o1])]

/-- Outputs of the PN9 generator of R179, `n` of them from state `s`. -/
def pn9 : Nat → Nat → List Bool
  | 0, _ => []
  | n + 1, s => bitOf s 0 :: pn9 n (s / 2 + (if bitOf s 0 != bitOf s 5 then 256 else 0))

/-- Scramble chips from the seed. -/
def scramble (l : List Bool) : List Bool := List.zipWith (· != ·) l (pn9 l.length 0x1FF)

/-- Octets whitened by PN9 from its seed, or a whitened PSDU restored (Table 05-2): the standard's generator is that of R179. -/
def whiten (bs : List Octet) : List Octet := (packBits bs.length (scramble (airBits bs))).map (BitVec.ofNat 8)

/-- Repeat every bit `k` times (R177, R184). -/
def spreadBits (k : Nat) (l : List Bool) : List Bool := l.flatMap (fun b => List.replicate k b)

/-! ## LDPC code (R181, R182) -/

/-- Base matrix of Table 06-3; 64 stands for the zero block. -/
def baseMatrix : List (List Nat) :=
 [[17, 42, 64, 5, 64, 64, 58, 64, 23, 64, 64, 31, 1, 0, 64, 64, 64, 64, 64, 64, 64, 64, 64, 64],
  [3, 64, 49, 64, 12, 64, 64, 40, 64, 61, 64, 64, 64, 0, 0, 64, 64, 64, 64, 64, 64, 64, 64, 64],
  [64, 27, 64, 64, 64, 8, 36, 64, 64, 64, 14, 52, 64, 64, 0, 0, 64, 64, 64, 64, 64, 64, 64, 64],
  [45, 64, 64, 33, 64, 64, 64, 19, 60, 64, 7, 64, 64, 64, 64, 0, 0, 64, 64, 64, 64, 64, 64, 64],
  [64, 11, 25, 64, 55, 64, 64, 64, 64, 38, 64, 2, 64, 64, 64, 64, 0, 0, 64, 64, 64, 64, 64, 64],
  [29, 64, 64, 21, 64, 47, 9, 64, 64, 64, 56, 64, 64, 64, 64, 64, 64, 0, 0, 64, 64, 64, 64, 64],
  [64, 62, 64, 64, 30, 64, 64, 13, 44, 64, 64, 26, 0, 64, 64, 64, 64, 64, 0, 0, 64, 64, 64, 64],
  [51, 64, 6, 64, 64, 57, 64, 64, 64, 24, 39, 64, 64, 64, 64, 64, 64, 64, 64, 0, 0, 64, 64, 64],
  [64, 35, 64, 48, 64, 64, 20, 64, 1, 64, 64, 63, 64, 64, 64, 64, 64, 64, 64, 64, 0, 0, 64, 64],
  [10, 28, 64, 64, 41, 16, 64, 54, 64, 64, 64, 64, 64, 64, 64, 64, 64, 64, 64, 64, 64, 0, 0, 64],
  [64, 64, 59, 37, 64, 64, 64, 64, 22, 4, 64, 46, 64, 64, 64, 64, 64, 64, 64, 64, 64, 64, 0, 0],
  [34, 64, 64, 64, 0, 64, 50, 43, 64, 64, 18, 64, 1, 64, 64, 64, 64, 64, 64, 64, 64, 64, 64, 0]]

def baseEntry (r c : Nat) : Nat := (baseMatrix.getD r []).getD c 64

/-- shift(v, s)[i] = v[(i + s) mod 64]. -/
def shiftBlock (s : Nat) (v : List Bool) : List Bool := v.drop (s % 64) ++ v.take (s % 64)
def xorBlock (a b : List Bool) : List Bool := List.zipWith (· != ·) a b
def zeroBlock : List Bool := List.replicate 64 false

/-- Row r of the base matrix applied to blocks from column `c` on. -/
def rowSum (r : Nat) : Nat → List (List Bool) → List Bool
  | _, [] => zeroBlock
  | c, x :: t =>
    if baseEntry r c = 64 then rowSum r (c + 1) t
    else xorBlock (shiftBlock (baseEntry r c) x) (rowSum r (c + 1) t)

/-- Cut a stream into `n` blocks of 64 bits, filling with zeros. -/
def blocksOf : Nat → List Bool → List (List Bool)
  | 0, _ => []
  | n + 1, l => ((l.take 64) ++ List.replicate (64 - (l.take 64).length) false) :: blocksOf n (l.drop 64)

/-- The parity blocks p[r+1] for r from `r` on (R182). -/
def parityFrom (lam : List (List Bool)) (p0 : List Bool) : Nat → Nat → List Bool → List (List Bool)
  | 0, _, _ => []
  | n + 1, r, p =>
    let q := xorBlock (lam.getD r zeroBlock) p
    let q' := if r = 6 then xorBlock q p0 else q
    q' :: parityFrom lam p0 n (r + 1) q'

/-- The twelve parity blocks of twelve information blocks. -/
def parityBlocks (x : List (List Bool)) : List (List Bool) :=
  let lam := (List.range 12).map (fun r => rowSum r 0 x)
  let p0 := lam.foldl xorBlock zeroBlock
  let p1 := xorBlock (lam.getD 0 zeroBlock) (shiftBlock 1 p0)
  p0 :: p1 :: parityFrom lam p0 10 1 p1

/-- A codeword of 1,536 bits from at most 768 information bits. -/
def elandEncode (info : List Bool) : List Bool :=
  let x := blocksOf 12 info
  (x ++ parityBlocks x).flatten

/-- Every check of the matrix holds (R182, R191). -/
def elandSyndromeZero (w : List Bool) : Bool :=
  let bs := blocksOf 24 w
  (List.range 12).all (fun r => rowSum r 0 bs == zeroBlock)

/-- The interleaver's positions in sending order, for K information bits (R183). -/
def interleave (k : Nat) : List Nat :=
  (List.range 32).flatMap (fun c => ((List.range 48).map (fun r => r * 32 + c)).filter (fun i => i < k || 768 ≤ i))

/-- The coded bits of one codeword with `k` information bits, in sending order. -/
def sendWord (info : List Bool) : List Bool :=
  let w := elandEncode info
  (interleave info.length).map (fun i => w.getD i false)

/-- The codewords of an information stream. -/
def cutWords : Nat → List Bool → List (List Bool)
  | 0, _ => []
  | n + 1, l => l.take 768 :: cutWords n (l.drop 768)

/-- The chips of a whole frame (R170): PSDU octets with their FCS, spreading code, preamble repetitions. -/
def elandChips (psdu : List Octet) (spread npre : Nat) : List Bool :=
  let bits := airBits psdu
  let words := cutWords ((bits.length + 767) / 768) bits
  (List.replicate npre elandPreamble).flatten ++ elandSync
    ++ scramble (spreadBits 32 (airBits (elandPhr psdu.length spread)))
    ++ scramble (spreadBits (2 ^ spread) (words.flatMap sendWord))

/-- Deviation of a chip in Hz: the steady value of a run of equal chips (R171). -/
def chipDeviation (c : Bool) : Int := if c then 6_250 else -6_250

/-- The phase at the end of each chip, in quarter turns from that at the start: it is continuous, and a chip of 40 µs at h = 0.5
adds or takes a quarter turn (R171). -/
def chipPhases : Int → List Bool → List Int
  | _, [] => []
  | p, c :: t => let q := p + (if c then 1 else -1); q :: chipPhases q t

/-! ## Receiver (R178, R191, R194) -/

/-- Outputs of the PN9 generator from its output `from_` on, whose period is 511. -/
def pn9From (from_ n : Nat) : List Bool := (pn9 (from_ % 511 + n) 0x1FF).drop (from_ % 511)

/-- Soft values inverted wherever the PN9 output is 1, from output `from_` on. -/
def descramble (from_ : Nat) (l : List Int) : List Int :=
  List.zipWith (fun (x : Int) (b : Bool) => if b then -x else x) l (pn9From from_ l.length)

/-- Sums of `k` values each. -/
def sumEach (k : Nat) : Nat → List Int → List Int
  | 0, _ => []
  | n + 1, l => sumInt (l.take k) :: sumEach k n (l.drop k)

/-- The PHR octets of 768 soft values. -/
def phrOctets (soft : List Int) : List Octet :=
  (packBits 3 ((sumEach 32 24 (descramble 0 soft)).map (fun x => decide (x < 0)))).map (BitVec.ofNat 8)

/-- What the PHR octets say: the reason to discard (0 PHR_BAD, 1 LEN, 2 UNSUPPORTED), else LENGTH and SPREAD. -/
def phrRead (o : List Octet) : Except Nat (Nat × Nat) :=
  let a := (o.getD 0 0).toNat
  let b := (o.getD 1 0).toNat
  let len := a + 256 * bitsOf b 2 0
  if crc8 (o.take 2) ≠ (o.getD 2 0).toNat then .error 0
  else if len < 5 then .error 1
  else if bitsOf b 7 5 ≠ 0 then .error 2
  else .ok (len, bitsOf b 4 3)

/-- A value in the decoder; none is a certain zero. -/
abbrev Llr := Option Rat

/-- The decoder's inputs by codeword position: the sums in sending order put back in place, shortened positions certain. -/
def llrIn (k : Nat) (sums : List Int) : List Llr :=
  let at_ := (interleave k).zip sums
  (List.range 1536).map (fun i =>
    if k ≤ i ∧ i < 768 then none else some (((at_.find? (fun x => x.1 == i)).map (fun x => (x.2 : Rat))).getD 0))

def llrBit (x : Llr) : Bool := match x with | some v => decide (v < 0) | none => false
def llrAbs (x : Rat) : Rat := if x < 0 then -x else x

/-- What a check tells one bit of the values of its other bits: normalised min-sum with 0.75. -/
def checkMsg (others : List Llr) : Llr :=
  match others.filterMap id with
  | [] => none
  | x :: t =>
    let m := t.foldl (fun a y => min a (llrAbs y)) (llrAbs x)
    some (if ((x :: t).filter (fun y => decide (y < 0))).length % 2 = 1 then -(m * 3 / 4) else m * 3 / 4)

def llrSub (a b : Llr) : Llr := match a, b with | some x, some y => some (x - y) | x, _ => x
def llrAdd (a b : Llr) : Llr := match a, b with | some x, some y => some (x + y) | _, _ => none

/-- Columns of a row that are not "−". -/
def rowCols (r : Nat) : List Nat := (List.range 24).filter (fun c => baseEntry r c != 64)

/-- A list turned by `s` places, and back. -/
def turn {α : Type} (s : Nat) (l : List α) : List α := l.drop (s % 64) ++ l.take (s % 64)
def turnBack {α : Type} (s : Nat) (l : List α) : List α := l.drop ((64 - s % 64) % 64) ++ l.take ((64 - s % 64) % 64)

/-- One layer: row `r` of the matrix over the 24 blocks of values, with the row's messages of the iteration before. -/
def layer (r : Nat) (bs : List (List Llr)) (old : List (List Llr)) : List (List Llr) × List (List Llr) :=
  let cols := rowCols r
  let q := List.zipWith (fun c m => List.zipWith llrSub (turn (baseEntry r c) (bs.getD c [])) m) cols old
  let new := (List.range cols.length).map (fun j =>
    (List.range 64).map (fun i => checkMsg ((q.eraseIdx j).map (fun b => b.getD i none))))
  let post := List.zipWith (fun b m => List.zipWith llrAdd b m) q new
  ((cols.zip post).foldl (fun l x => setAt l x.1 (turnBack (baseEntry r x.1) x.2)) bs, new)

/-- One full iteration, rows 0 to 11 in order. -/
def iterate (bs : List (List Llr)) (ms : List (List (List Llr))) : List (List Llr) × List (List (List Llr)) :=
  (List.range 12).foldl (fun x r =>
    let y := layer r x.1 (x.2.getD r [])
    (y.1, setAt x.2 r y.2)) (bs, ms)

/-- Iterate until the syndrome of the hard decisions is zero or none of the `n` iterations is left: hard decisions, whether the
syndrome is zero, iterations. -/
def decodeLoop : Nat → Nat → List (List Llr) → List (List (List Llr)) → List Bool × Bool × Nat
  | 0, done, bs, _ => ((bs.flatMap id).map llrBit, false, done)
  | n + 1, done, bs, ms =>
    let x := iterate bs ms
    let w := (x.1.flatMap id).map llrBit
    if elandSyndromeZero w then (w, true, done + 1) else decodeLoop n (done + 1) x.1 x.2

/-- The blocks of the decoder's values. -/
def llrBlocks : Nat → List Llr → List (List Llr)
  | 0, _ => []
  | n + 1, l => l.take 64 :: llrBlocks n (l.drop 64)

/-- What the pool makes of a codeword: information bits, whether it stopped with a zero syndrome, iterations, coded bits whose
hard decision changed. -/
structure CwResult where
  bits  : List Bool
  good  : Bool
  iters : Nat
  fixed : Nat
  deriving DecidableEq, Repr

/-- Decode a codeword of `info` information bits, the `index`-th of its frame, of its chips' soft values (R191). -/
def decodeWord (maxit index info spread : Nat) (soft : List Int) : CwResult :=
  let sent := interleave info
  let llr := llrIn info (sumEach spread sent.length (descramble (spread * 1536 * index) soft))
  let zero := (List.range 12).map (fun r => (rowCols r).map (fun _ => List.replicate 64 (some 0)))
  let x := decodeLoop maxit 0 (llrBlocks 24 llr) zero
  ⟨x.1.take info, x.2.1, x.2.2, (sent.filter (fun i => x.1.getD i false != llrBit (llr.getD i none))).length⟩

/-- The PSDU of the information bits of a frame's codewords, in order. -/
def psduOfBits (len : Nat) (bits : List Bool) : List Octet := (packBits len bits).map (BitVec.ofNat 8)

end Sys2Proof.Machine
end

