-- ==== Sys2Proof/Machine/HostIf.lean ====
section
/-! DEFINITION. The host interface: doorbells (R385 to R388), admission (R391, R393, R406), delivery of completions and
records (R392, R396), interrupts (R389), ring control (R380), link and configuration-space events (R377, R402). -/
namespace Sys2Proof.Machine

/-! ## Command descriptors -/

/-- Octets of a descriptor (Table 13-3). -/
def RawDesc.oct (d : RawDesc) (i : Nat) : Nat := (d.octets.getD i 0).toNat
def dLe (d : RawDesc) (off n : Nat) : Nat := leOf (slice d.octets off n)
def dOp (d : RawDesc) : Nat := dLe d 0 2
def dExt (d : RawDesc) : Bool := bitOf (RawDesc.oct d 2) 0
def dPhase (d : RawDesc) : Bool := bitOf (RawDesc.oct d 3) 7
def dTag (d : RawDesc) : Word := BitVec.ofNat 32 (dLe d 4 4)
def dAsn (d : RawDesc) : Nat := dLe d 8 5
def dArgLen (d : RawDesc) : Nat := dLe d 24 2

/-- The arguments of a command: inline or in the argument buffer (R381). -/
def dArgs (d : RawDesc) : List Octet := if dExt d then d.buf else slice d.octets 16 14
def argN (a : List Octet) (off n : Nat) : Nat := leOf (slice a off n)

/-- The form of one command's arguments (Tables 14-2 to 14-14): whether they stand in a buffer of `len` octets, the octets
marked 0 as (first, last), the address fields as (offset, alignment), and whether the command reads a descriptor ASN. -/
structure CmdForm where
  op   : Nat
  ext  : Bool
  len  : Nat
  zero : List (Nat × Nat)
  addr : List (Nat × Nat)
  asn  : Bool
  deriving DecidableEq, Repr

/-- Every assigned opcode with its argument form. -/
def cmdForms : List CmdForm :=
  [⟨0x0101, false, 14, [(12, 13)], [(0, 8)], false⟩,
   ⟨0x0110, false, 14, [(9, 13)], [], false⟩,
   ⟨0x0111, false, 14, [(9, 13)], [], true⟩,
   ⟨0x0112, false, 14, [(0, 13)], [], false⟩,
   ⟨0x0201, false, 14, [(2, 13)], [], true⟩,
   ⟨0x0202, false, 14, [(1, 13)], [], true⟩,
   ⟨0x0203, false, 14, [(0, 13)], [], true⟩,
   ⟨0x0301, false, 14, [(9, 13)], [], true⟩,
   ⟨0x0302, true, 0, [(2, 3)], [], true⟩,
   ⟨0x0310, false, 14, [(4, 13)], [], false⟩,
   ⟨0x0311, false, 14, [(9, 13)], [], false⟩,
   ⟨0x0312, false, 14, [(3, 3), (12, 13)], [(4, 8)], false⟩,
   ⟨0x0401, true, 24, [(15, 15), (22, 23)], [], false⟩,
   ⟨0x0402, false, 14, [(12, 13)], [], false⟩,
   ⟨0x0403, true, 24, [(9, 15)], [(16, 8)], false⟩,
   ⟨0x0410, true, 20, [(17, 17)], [], false⟩,
   ⟨0x0411, true, 20, [(17, 19)], [], false⟩,
   ⟨0x0501, true, 16, [(10, 15)], [(0, 8)], false⟩,
   ⟨0x0502, true, 16, [(12, 15)], [(0, 8)], false⟩,
   ⟨0x0520, true, 40, [(1, 1), (11, 11)], [(32, 8)], false⟩,
   ⟨0x0521, true, 24, [(1, 3), (12, 15)], [(16, 4)], false⟩,
   ⟨0x0522, false, 14, [(6, 13)], [], false⟩,
   ⟨0x0523, false, 14, [(1, 13)], [], false⟩] ++
  [⟨0x0601, false, 14, [(8, 13)], [(0, 8)], false⟩,
   ⟨0x0602, true, 48, [(1, 7)], [(8, 8)], false⟩,
   ⟨0x0603, true, 24, [(10, 15)], [(0, 8), (16, 8)], true⟩,
   ⟨0x0604, false, 14, [(0, 13)], [], true⟩,
   ⟨0x0605, false, 14, [(0, 13)], [], false⟩,
   ⟨0x0606, false, 14, [(6, 13)], [], false⟩,
   ⟨0x0607, false, 14, [(6, 13)], [], false⟩,
   ⟨0x0608, false, 14, [(1, 5)], [(6, 8)], false⟩,
   ⟨0x0609, false, 14, [(0, 13)], [], false⟩,
   ⟨0x060A, false, 14, [(1, 5)], [], false⟩,
   ⟨0x060B, false, 14, [(12, 13)], [(0, 4)], false⟩,
   ⟨0x0610, true, 64, [(6, 7)], [(56, 8)], false⟩,
   ⟨0x0701, false, 14, [(1, 1), (6, 13)], [], true⟩,
   ⟨0x0801, false, 14, [(1, 13)], [], false⟩,
   ⟨0x0802, false, 14, [(0, 13)], [], false⟩,
   ⟨0x0803, false, 14, [(1, 13)], [], true⟩,
   ⟨0x0804, false, 14, [(0, 13)], [], false⟩,
   ⟨0x0810, false, 14, [(1, 13)], [], false⟩,
   ⟨0x0811, false, 14, [(0, 13)], [], false⟩,
   ⟨0x0812, false, 14, [(0, 13)], [], false⟩,
   ⟨0x0813, true, 16, [(12, 15)], [(0, 8)], false⟩,
   ⟨0x0901, false, 14, [(0, 13)], [], false⟩,
   ⟨0x0902, false, 14, [(2, 3), (12, 13)], [], true⟩]

def formOf (op : Nat) : Option CmdForm := cmdForms.find? (fun f => f.op == op)

/-- The length the command's table names (R406): 4 + 8 × COUNT for `SCHED_CELLS_WRITE`. -/
def formLen (f : CmdForm) (args : List Octet) : Nat := if f.op = 0x0302 then 4 + 8 * argN args 1 1 else f.len

/-- Octets that must be zero beyond the table's fixed ones: the entries of `SCHED_CELLS_WRITE`, bits 23:20 of BASE,
TOKENADDR for a target other than RMA, the upper octets of an OWNERTAMP value, NONCEADDR and OUTADDR for CMAC (Table 14-10). -/
def moreZero (op : Nat) (args : List Octet) : Bool :=
  if op = 0x0302 then (List.range (argN args 1 1)).all (fun i => argN args (7 + 8 * i) 1 == 0)
  else if op = 0x0301 then argN args 8 1 / 16 == 0
  else if op = 0x0608 then argN args 0 1 == 3 || argN args 6 8 == 0
  else if op = 0x060A then argN args 0 1 != 1 || argN args 8 6 == 0
  else if op = 0x0610 then argN args 0 1 != 2 || (argN args 16 8 == 0 && argN args 48 8 == 0)
  else true

/-- The owner's common checks of Table 14-1 up to 0x000A, in order, and the range of `NODE_READ`'s MODE: the DETAIL of the first
that fails. -/
def ownerCheck (d : RawDesc) (f : CmdForm) : Option Nat :=
  let a := dArgs d
  if dExt d != f.ext then some 6
  else if f.ext && dArgLen d != formLen f a then some 7
  else if !(f.zero.all (fun z => argN a z.1 (z.2 - z.1 + 1) == 0)) || !moreZero f.op a then some 8
  else if !f.asn && dAsn d != 0 then some 9
  else if !(f.addr.all (fun x => argN a x.1 8 % x.2 == 0)) ||
      (f.op == 0x0610 && argN a 2 1 == 0 && argN a 8 8 % 8 != 0) then some 0xA
  else if f.op == 0x0403 && 1 < argN a 8 1 then some 0xB
  else none

/-- The admission checks of Table 13-10, in order: STATUS, UNIT and DETAIL of the first that fails. -/
def admCheck (s : State) (d : RawDesc) : Option (Nat × Nat × Nat) :=
  if s.regB 0xE0004 0 && dLe d 30 2 != crc16 (d.octets.take 30) then some (stBad, 11, 1)
  else if RawDesc.oct d 2 / 2 != 0 || RawDesc.oct d 3 % 128 != 0 || dLe d 13 3 != 0 || (dExt d && dLe d 26 4 != 0) then
    some (stBad, 11, 2)
  else if (formOf (dOp d)).isNone then some (stBad, 11, 3)
  else if dExt d && (dArgLen d < 1 || 4096 < dArgLen d || dLe d 16 8 % 4 != 0) then some (stBad, 11, 4)
  else if !d.busOk then some (stInternal, 11, 5)
  else none

/-- Completion slots a command needs: two for a `SEC_CIPHER` GCM decryption of more than 4,096 octets (R391, R344). -/
def slotsNeeded (d : RawDesc) : Nat :=
  if dOp d = 0x0610 ∧ argN (dArgs d) 0 1 = 1 ∧ argN (dArgs d) 1 1 = 1 ∧ 4096 < argN (dArgs d) 36 4 then 2 else 1

/-- Advance the consumer index past one descriptor (R379, R387). -/
def takeDesc (size : Nat) (x : CRing) : CRing :=
  let ci := (x.ci + 1) % size
  { x with
    ci := ci
    phase := if ci = 0 then !x.phase else x.phase
    pass := if ci = 0 then x.pass + 1 else x.pass
    fetched := x.fetched.drop 1 }

/-- The descriptor of ring `r` at its consumer index. -/
def descRef (r : Nat) (x : CRing) (tag : Word) (asn : Nat) : CmdRef := ⟨r, x.ci + 65536 * x.pass, tag, asn⟩

/-- A ring that is disabled by a reset of the host interface. -/
def CRing.clear (x : CRing) : CRing := { CRing.reset with pass := x.pass + 1 }

/-- A ring starts again at index 0, pass 1: PHASE 1 is expected (R379). -/
def CRing.restart (x : CRing) : CRing := { x.clear with phase := true }

/-- Host-visible outputs are held back for a synced standby (R459). -/
def holdsBack (s : State) : Bool := s.pair.st == .active && s.pair.peerOk

/-- The shadow word of a ring is written, or held back from journal position `seq` on. -/
def CRing.shade (hold : Bool) (seq : Nat) (x : CRing) : CRing :=
  if hold then { x with held := x.held ++ [(x.ci, seq)] }
  else { x with shadow := x.ci, held := [] }

/-- Write the shadow word of ring `r`, or hold it back (R387, R459). -/
def shadowOut (r : Nat) (s : State) : State :=
  { s with hif := { s.hif with cring := modAt r (CRing.shade (holdsBack s) s.jrn.seq) s.hif.cring } }

/-- Write the shadow words of a ring that nothing holds back any more. -/
def CRing.release (hold : Bool) (acked : Nat) (x : CRing) : CRing :=
  let due := x.held.filter (fun h => !hold || decide (h.2 ≤ acked))
  { x with
    shadow := (due.getLast?.map Prod.fst).getD x.shadow
    held := x.held.filter (fun h => !due.contains h) }

def shadowsOut (s : State) : State :=
  { s with hif := { s.hif with cring := s.hif.cring.map (CRing.release (holdsBack s) s.pair.acked) } }

/-! ## Doorbells -/

/-- Entries whose PHASE is that of their pass, from index `i` on (R379, R386). -/
def readable (size : Nat) (phase : Bool) : Nat → Nat → List RawDesc → List RawDesc
  | 0, _, _ => []
  | _ + 1, _, [] => []
  | n + 1, i, d :: t => if dPhase d == (phase == decide (i < size)) then d :: readable size phase n (i + 1) t else []

/-- Whether the unit reads descriptors of ring `r` from host memory (R409, R461). -/
def readsRing (s : State) (r : Nat) : Bool :=
  s.up && s.dma && (s.pair.leads || s.pair.st == .replay || r == 15)

/-- `DB_CMD_PI` (R386): `descs` are the entries host memory holds from the first one not yet known. A unit that does not read the
ring latches the index; the entries wait in host memory (R460, R461). -/
def execDbCmdPi (page : Nat) (value : Word) (descs : List RawDesc) (s : State) : Res :=
  let pi := value.toNat % 65536
  let size := ringSize s (cringCtl page)
  .next (match s.hif.cring[page]? with
    | none => s
    | some x =>
      let bad := !ringEn s (cringCtl page) || size ≤ pi
      let from_ := x.ci + x.fetched.length
      let want := (pi + size - from_ % size) % size
      let got := readable size x.phase want from_ descs
      { s with
        hif := { s.hif with
          cring := if bad then s.hif.cring
            else modAt page (fun y => { y with pi := pi, fetched := y.fetched ++ got }) s.hif.cring }
        cnt := cntBump (if bad then 0xE000C else 0xE0010) 0 32
          (b2n (bad || (readsRing s page && got.length < want))) s.cnt })

/-- Leading slots of a completion ring that are valid (R392). -/
def validRun (l : List CplSlot) : Nat :=
  (l.takeWhile (fun x => match x.st with | .valid _ => true | _ => false)).length

/-- When the first counted entry of a ring became available (R389): now, if entries wait at the arming. -/
def firstNow (s : State) (n : Nat) : Option Nat := if n = 0 then none else some s.time.tb

/-- The slots of a ring that start at its latched host consumer index: those before it have been consumed from the active unit
(R401, R461). -/
def CplRing.prune (size : Nat) (x : CplRing) : CplRing :=
  let base := (x.nextSlot + size - x.slots.length % size) % size
  let k := (x.hostCi + size - base) % size
  { x with slots := if k ≤ x.slots.length then x.slots.drop k else x.slots }

/-- Whether the completion ring is one that another unit writes (R461). -/
def cplMirrored (s : State) (c : Nat) : Bool := s.pair.follows && c != 15

/-- `DB_CPL_CI` (R388); a unit that follows latches the index. -/
def execDbCplCi (page : Nat) (value : Word) (s : State) : Res :=
  let ci := value.toNat % 65536
  let size := ringSize s (cplCtl page)
  .next (match s.hif.cpl[page]? with
    | none => s
    | some x =>
      let k := (ci + size - x.hostCi) % size
      let mir := cplMirrored s page
      let bad := !ringEn s (cplCtl page) || size ≤ ci || (!mir && decide (validRun x.slots < k))
      let arm := bitOf value.toNat 31
      let next := if mir then (CplRing.prune size { x with hostCi := ci }).slots else x.slots.drop k
      { s with
        hif := { s.hif with
          cpl := if bad then s.hif.cpl else modAt page (fun y =>
            { y with
              hostCi := ci
              slots := next
              armed := y.armed || arm
              firstAt := if arm then firstNow s (validRun next) else y.firstAt }) s.hif.cpl }
        cnt := cntBump 0xE000C 0 32 (b2n bad) s.cnt })

/-- `DB_DLV_CI` (R388). -/
def execDbDlvCi (page : Nat) (value : Word) (s : State) : Res :=
  let ci := value.toNat % 65536
  let size := ringSize s (dlvCtl page)
  .next (match s.hif.dring[page]? with
    | none => s
    | some x =>
      let k := (ci + size - x.hostCi) % size
      let bad := !ringEn s (dlvCtl page) || size ≤ ci || x.out.length < k
      let arm := bitOf value.toNat 31
      { s with
        hif := { s.hif with
          dring := if bad then s.hif.dring else modAt page (fun y =>
            { y with
              hostCi := ci
              out := y.out.drop k
              armed := y.armed || arm
              firstAt := if arm then firstNow s (y.out.drop k).length else y.firstAt }) s.hif.dring }
        cnt := cntBump 0xE000C 0 32 (b2n bad) s.cnt })

/-! ## Delivery -/

/-- The journal position of an output is acknowledged, or no standby holds it back (R459). -/
def released (s : State) (jseq : Nat) : Bool := !holdsBack s || decide (jseq ≤ s.pair.acked)

/-- A `NODE_MOVED` event that a rule places before a completion of position `jseq` waits still (R302, R395). -/
def movedWaits (s : State) (jseq : Nat) : Bool :=
  s.que.egress.any (fun q => q.any (fun i => match i.body with
    | .record r => r.typ == 4 && r.info == 0x0801 && decide (r.jseq ≤ jseq)
    | _ => false))

/-- A completion may be written: released, and of a `NODE_INSERT` after the events of its moves. -/
def cplReady (s : State) (c : Cpl) : Bool := released s c.jseq && !(c.opcode == 0x0401 && movedWaits s c.jseq)

/-- Write the first completion that is done and may be written (R392); answers the slots and whether one was. -/
def writeFirst (ok : Cpl → Bool) : List CplSlot → List CplSlot × Bool
  | [] => ([], false)
  | x :: t =>
    match x.st with
    | .done c => if ok c then ({ x with st := .valid c } :: t, true) else let r := writeFirst ok t; (x :: r.1, r.2)
    | _ => let r := writeFirst ok t; (x :: r.1, r.2)

/-- The device writes host memory: DMA permitted, not a unit that follows (R377, R458); completion ring 15 is each unit's
own (R461). -/
def writesHost (s : State) : Bool := s.dma && !s.pair.follows

def deliverCpl (c : Nat) (s : State) : State :=
  { s with hif := { s.hif with
      cpl := if (writesHost s || (s.dma && c == 15)) && ringEn s (cplCtl c) then
          modAt c (fun x =>
            let sl := (writeFirst (cplReady s) x.slots).1
            { x with
              slots := sl
              firstAt := if x.armed && x.firstAt.isNone then firstNow s (validRun sl) else x.firstAt }) s.hif.cpl
        else s.hif.cpl } }

/-- Write one record into ring `d` with the ring's next SEQ (R396); `n` is the numbers it takes. -/
def putOut (s : State) (size : Nat) (r : HRec) (seq n : Nat) (x : DRing) : DRing :=
  { x with
    seq := (seq + n) % 2 ^ 32
    out := x.out ++ [(r, decide ((x.prod / size) % 2 = 0), seq)]
    prod := x.prod + 1
    firstAt := if x.armed && x.firstAt.isNone then some s.time.tb else x.firstAt }

/-- SEQ of a record: the journal sequence number on the journal ring, else the ring's own count (R396). -/
def seqOf (d : Nat) (r : HRec) (x : DRing) : Nat := if d = 8 then leOf (slice r.tail 8 4) else x.seq

def gapRec (s : State) (n : Nat) : HRec := ⟨7, 0, 0, asnNow s, s.time.tb, n, [], [], 0⟩

/-- Deliver the head of ring `d`'s queue; a GAP only when a record follows it. -/
def deliverHead (d : Nat) (x : DRing) (items : List EgItem) (s : State) : State :=
  let size := ringSize s (dlvCtl d)
  match items with
  | ⟨.record r, cs⟩ :: rest =>
    if released s r.jseq then
      { s with
        que := releaseIn s cs { s.que with egress := setAt s.que.egress (dlvQueue d) rest }
        hif := { s.hif with dring := setAt s.hif.dring d (putOut s size r (seqOf d r x) 1 x) } }
    else s
  | ⟨.gap n first, _⟩ :: i :: rest =>
    { s with
      que := { s.que with egress := setAt s.que.egress (dlvQueue d) (i :: rest) }
      hif := { s.hif with
        dring := setAt s.hif.dring d (putOut s size (gapRec s n) (first.getD x.seq % 2 ^ 32) n x) } }
  | ⟨.packet .., cs⟩ :: rest =>
    { s with que := releaseIn s cs { s.que with egress := setAt s.que.egress (dlvQueue d) rest } }
  | _ => s

/-- A `JOURNAL_DUMP` completes once its last record is written (R427). -/
def dumpDone (s : State) : State :=
  match s.jrn.dump with
  | some r => if (s.que.egress.getD 12 []).isEmpty then done r { s with jrn := { s.jrn with dump := none } } else s
  | none => s

/-- `RECORD_DELIVER` (R392, R396): DMA writes the next completion or record of a ring. -/
def execRecordDeliver (ring : RingSel) (s : State) : Res :=
  .next (match ring with
    | .cpl c => deliverCpl c s
    | .dlv d =>
      match s.hif.dring[d]? with
      | some x =>
        if writesHost s && ringEn s (dlvCtl d) && x.out.length + 1 < ringSize s (dlvCtl d) then
          dumpDone (deliverHead d x (s.que.egress.getD (dlvQueue d) []) s)
        else s
      | none => s
    | .cmd _ => s)

/-! ## Interrupts (R389, R390) -/

/-- Send vector `v`, or set its pending bit while it is masked. -/
def sendMsi (v : Nat) (s : State) : State :=
  { s with hif := { s.hif with
      msgs := if s.regB (0xE800C + 16 * v) 0 then s.hif.msgs else v :: s.hif.msgs
      pba := if s.regB (0xE800C + 16 * v) 0 && !s.hif.pba.contains v then s.hif.pba ++ [v] else s.hif.pba } }

/-- CNT and TIME of a MOD register, 0 acting as 1. -/
def modCnt (v : Nat) : Nat := max 1 (bitsOf v 31 16)
def modTime (v : Nat) : Nat := max 1 (bitsOf v 15 0)

/-- When an armed ring with `n` entries available signals: at once at CNT, else TIME µs after the first. -/
def signalAt (s : State) (modr n : Nat) (firstAt : Option Nat) : Option Nat :=
  if n = 0 then none
  else if modCnt (s.regN modr) ≤ n then some s.time.tb
  else firstAt.map (fun t => t + 1000 * modTime (s.regN modr))

/-- `INTERRUPT_SEND` (R389). -/
def execInterruptSend (ring : RingSel) (s : State) : Res :=
  .next (match ring with
    | .cpl c =>
      match s.hif.cpl[c]? with
      | some x =>
        match signalAt s (0xE040C + 32 * c) (validRun x.slots) x.firstAt with
        | some t =>
          if x.armed && s.dma && ringEn s (cplCtl c) then
            sendMsi (s.regF (cplCtl c) 13 8) { reach t s with hif := { s.hif with
              cpl := modAt c (fun y => { y with armed := false, firstAt := none }) s.hif.cpl } }
          else s
        | none => s
      | none => s
    | .dlv d =>
      match s.hif.dring[d]? with
      | some x =>
        match signalAt s (0xE0614 + 32 * d) x.out.length x.firstAt with
        | some t =>
          if x.armed && s.dma && ringEn s (dlvCtl d) then
            sendMsi (s.regF (dlvCtl d) 13 8) { reach t s with hif := { s.hif with
              dring := modAt d (fun y => { y with armed := false, firstAt := none }) s.hif.dring } }
          else s
        | none => s
      | none => s
    | .cmd _ => s)

/-! ## Ring control (R380) -/

/-- Set `HIF_STATUS.CFGERR`. -/
def cfgErr (s : State) : State := s.setReg 0xE0000 (s.reg 0xE0000 ||| 4)

def RingSel.ctl : RingSel → Nat
  | .cmd r => cringCtl r
  | .cpl c => cplCtl c
  | .dlv d => dlvCtl d

def ringExists : RingSel → Bool
  | .cmd r => decide (r < 16)
  | .cpl c => decide (c < 16)
  | .dlv d => decide (d < 10)

/-- The bits a write of the ring's CTL sets. -/
def ctlMask : RingSel → Nat
  | .cmd _ => 0x800F_000F
  | .cpl _ => 0x800F_3F00
  | .dlv _ => 0x80FF_3F00

/-- CTL writes that are journaled: all but those of the local rings (R405, R461). -/
def ctlJournaled : RingSel → Bool
  | .cmd r => r != 15
  | .cpl c => c != 15
  | .dlv _ => true

/-- Why setting or clearing EN is discarded (R380). -/
def enRefused (ring : RingSel) (s : State) (v : Nat) : Bool :=
  match bitOf v 31, ring with
  | true, .cmd _ => bitsOf v 19 16 < 6 || 16 < bitsOf v 19 16 || !ringEn s (cplCtl (bitsOf v 3 0))
  | true, _ => bitsOf v 19 16 < 6 || 16 < bitsOf v 19 16
  | false, .cpl c =>
    (List.range 16).any (fun r => ringEn s (cringCtl r) && boundCpl s r == c) ||
      s.hif.admitted.any (fun a => a.cpl == some c)
  | false, _ => false

/-- Records waiting for ring `d`, dropped: their cells are released and they count in LOST (R380). -/
def dropWaiting (d : Nat) (s : State) : State :=
  let l := s.que.egress.getD (dlvQueue d) []
  { s with
    que := releaseIn s (l.flatMap EgItem.cells) { s.que with egress := setAt s.que.egress (dlvQueue d) [] }
    cnt := cntBump (0xE061C + 32 * d) 0 32 l.length s.cnt
    hif := { s.hif with linkReset := s.hif.linkReset.map (fun p => (p.1, p.2 + l.length)) } }

/-- A ring restarts at index 0, pass 1 and SEQ 0, armed (R380, R389). -/
def ringStart (ring : RingSel) (s : State) : State :=
  match ring with
  | .cmd r => { s with hif := { s.hif with cring := modAt r CRing.restart s.hif.cring } }
  | .cpl c => { s with hif := { s.hif with cpl := setAt s.hif.cpl c { CplRing.reset with armed := true } } }
  | .dlv d =>
    let x := { DRing.reset with
      armed := true
      seq := if d = 8 then s.jrn.seq % 2 ^ 32 else 0 }
    let t := { s with hif := { s.hif with dring := setAt s.hif.dring d x } }
    match (if d = evtRing s then s.hif.linkReset else none) with
    | some (c, n) =>
      let u := event 0x0B01 [c, n] t
      { u with hif := { u.hif with linkReset := none } }
    | none => t

def ringStop (ring : RingSel) (s : State) : State :=
  match ring with
  | .cmd r => { s with hif := { s.hif with cring := modAt r (fun x => { x with fetched := [] }) s.hif.cring } }
  | .cpl _ => s
  | .dlv d => dropWaiting d s

/-- Journal one configuration item (R44). -/
def journalCfg (a : Nat) (v : Word) (s : State) : State := journal (.cfg a v) s

/-- `RING_CTL_WRITE` (R380): while EN is 1 only a write that clears EN is taken, and it leaves the other fields. -/
def ringCtlWrite (ring : RingSel) (value : Word) (s : State) : State :=
  let a := RingSel.ctl ring
  let en := ringEn s a
  let v := value &&& BitVec.ofNat 32 (ctlMask ring)
  let w := if en then s.reg a &&& 0x7FFF_FFFF else v
  if !ringExists ring then s
  else if en && bitOf v.toNat 31 then cfgErr s
  else if en != bitOf v.toNat 31 && enRefused ring s v.toNat then cfgErr s
  else
    let t := (if ctlJournaled ring then journalCfg a w s else s).setReg a w
    if en then ringStop ring t else if bitOf v.toNat 31 then ringStart ring t else t

def execRingCtlWrite (ring : RingSel) (value : Word) (s : State) : Res :=
  .next (if ctlJournaled ring then jwr (ringCtlWrite ring value) s else if bar0 s then ringCtlWrite ring value s else s)

/-! ## Link and configuration space -/

def allRings : List RingSel :=
  (List.range 16).map RingSel.cmd ++ (List.range 16).map RingSel.cpl ++ (List.range 10).map RingSel.dlv

/-- Disable one ring at a link reset; its EN is journaled where it was enabled (R402). -/
def ringDown (s : State) (ring : RingSel) : State :=
  let a := RingSel.ctl ring
  if ringEn s a then
    let w := s.reg a &&& 0x7FFF_FFFF
    ringStop ring ((if ctlJournaled ring then journalCfg a w s else s).setReg a w)
  else s

/-- Completions written into slots and not yet to memory, discarded with their rings. -/
def unwritten (s : State) : Nat :=
  sumNat (s.hif.cpl.map (fun x => (x.slots.filter (fun y => match y.st with | .done _ => true | _ => false)).length))

/-- Reset of the host interface (R402). -/
def linkDown (s : State) : State :=
  let n := unwritten s
  let s1 := { s with
    hif := { s.hif with linkReset := some (n, 0), speed := 0, width := 0, busMaster := false, d3hot := false, pba := [] }
    cnt := cntBump 0xE0014 0 32 n s.cnt }
  let s2 := allRings.foldl ringDown s1
  let s3 := if s2.reg 0xE0004 = resetAt 0xE0004 then s2
    else (journalCfg 0xE0004 (resetAt 0xE0004) s2).setReg 0xE0004 (resetAt 0xE0004)
  { s3 with
    regs := s3.regs.filter (fun p => !(0xE8000 ≤ p.1 && p.1 < 0xE8400))
    hif := { s3.hif with
      cring := s3.hif.cring.map CRing.clear
      cpl := s3.hif.cpl.map (fun _ => CplRing.reset)
      dring := s3.hif.dring.map (fun x => { x with out := [], armed := false, firstAt := none })
      admitted := s3.hif.admitted.map (fun a => { a with cpl := none }) } }

/-- `HIF_LINK_RESET` (R402). -/
def execHifLinkReset (s : State) : Res := .next (if s.hif.speed = 0 then s else linkDown s)

/-- `PCIE_CONFIG_WRITE` (R377): Bus Master Enable and the D-state. It arrives over a link that is up. -/
def execPcieConfigWrite (busMaster d3hot : Bool) (s : State) : Res :=
  .next { s with
    hif := if s.pwr.phase < 4 then s.hif
      else { s.hif with
        busMaster := busMaster
        d3hot := d3hot
        speed := if s.hif.speed = 0 then 4 else s.hif.speed
        width := if s.hif.width = 0 then 4 else s.hif.width } }

end Sys2Proof.Machine
end

