-- ==== Sys2Proof/Machine/Hash.lean ====
section
/-! DEFINITION. SHA-256 (FIPS 180-4), HMAC over it, and ECDH and ECDSA on P-256 (FIPS 186-5). -/
namespace Sys2Proof.Machine

/-! ## SHA-256 -/

/-- Largest r below 2^k with r³ ≤ n. -/
def icbrtAux (n : Nat) : Nat → Nat → Nat
  | 0, r => r
  | k + 1, r => icbrtAux n k (if (r + 2 ^ k) ^ 3 ≤ n then r + 2 ^ k else r)

/-- The first primes, from which the constants of SHA-256 come. -/
def primes64 : List Nat :=
  [2, 3, 5, 7, 11, 13, 17, 19, 23, 29, 31, 37, 41, 43, 47, 53, 59, 61, 67, 71, 73, 79, 83, 89, 97, 101, 103, 107, 109, 113,
   127, 131] ++
  [137, 139, 149, 151, 157, 163, 167, 173, 179, 181, 191, 193, 197, 199, 211, 223, 227, 229, 233, 239, 241, 251, 257, 263,
   269, 271, 277, 281, 283, 293, 307, 311]

/-- 32 fraction bits of the cube roots, and of the square roots of the first eight. -/
def shaK : List (BitVec 32) := primes64.map (fun p => BitVec.ofNat 32 (icbrtAux (p * 2 ^ 96) 36 0))
def shaH0 : List (BitVec 32) := (primes64.take 8).map (fun p => BitVec.ofNat 32 (isqrtAux (p * 2 ^ 64) 40 0))

def shaPad (m : List Octet) : List Octet :=
  m ++ [0x80] ++ List.replicate ((119 - m.length % 64) % 64) 0 ++ octetsBE 8 (8 * m.length)

/-- The message schedule, latest word first. -/
def shaSched : Nat → List (BitVec 32) → List (BitVec 32)
  | 0, w => w
  | k + 1, w =>
    let a := w.getD 14 0
    let b := w.getD 1 0
    let s0 := a.rotateRight 7 ^^^ a.rotateRight 18 ^^^ (a >>> 3)
    let s1 := b.rotateRight 17 ^^^ b.rotateRight 19 ^^^ (b >>> 10)
    shaSched k ((w.getD 15 0 + s0 + w.getD 6 0 + s1) :: w)

def shaRound (v : List (BitVec 32)) (kw : BitVec 32) : List (BitVec 32) :=
  match v with
  | [a, b, c, d, e, f, g, h] =>
    let s1 := e.rotateRight 6 ^^^ e.rotateRight 11 ^^^ e.rotateRight 25
    let t1 := h + s1 + ((e &&& f) ^^^ ((~~~ e) &&& g)) + kw
    let s0 := a.rotateRight 2 ^^^ a.rotateRight 13 ^^^ a.rotateRight 22
    let t2 := s0 + ((a &&& b) ^^^ (a &&& c) ^^^ (b &&& c))
    [t1 + t2, a, b, c, d + t1, e, f, g]
  | _ => v

def shaBlock (h : List (BitVec 32)) (block : List Octet) : List (BitVec 32) :=
  let w0 := (List.range 16).map (fun i => BitVec.ofNat 32 (beOf (slice block (4 * i) 4)))
  let w := (shaSched 48 w0.reverse).reverse
  List.zipWith (· + ·) h ((List.zipWith (· + ·) shaK w).foldl shaRound h)

def shaBlocks : Nat → List (BitVec 32) → List Octet → List (BitVec 32)
  | 0, h, _ => h
  | k + 1, h, bs => shaBlocks k (shaBlock h (bs.take 64)) (bs.drop 64)

def sha256 (m : List Octet) : List Octet :=
  let p := shaPad m
  (shaBlocks (p.length / 64) shaH0 p).flatMap (fun x => octetsBE 4 x.toNat)

/-- HMAC-SHA-256 for keys of at most 64 octets. -/
def hmac (key msg : List Octet) : List Octet :=
  let k := key ++ List.replicate (64 - key.length) 0
  sha256 (k.map (· ^^^ 0x5C) ++ sha256 (k.map (· ^^^ 0x36) ++ msg))

/-! ## P-256 -/

def p256P : Nat := 0xFFFFFFFF_00000001_00000000_00000000_00000000_FFFFFFFF_FFFFFFFF_FFFFFFFF
def p256N : Nat := 0xFFFFFFFF_00000000_FFFFFFFF_FFFFFFFF_BCE6FAAD_A7179E84_F3B9CAC2_FC632551
def p256B : Nat := 0x5AC635D8_AA3A93E7_B3EBBD55_769886BC_651D06B0_CC53B0F6_3BCE3C3E_27D2604B
def p256G : Nat × Nat :=
  (0x6B17D1F2_E12C4247_F8BCE6E5_63A440F2_77037D81_2DEB33A0_F4A13945_D898C296,
   0x4FE342E2_FE1A7F9B_8EE7EB4A_7C0F9E16_2BCE3357_6B315ECE_CBB64068_37BF51F5)

def powModAux : Nat → Nat → Nat → Nat → Nat → Nat
  | 0, _, _, _, r => r
  | k + 1, b, e, m, r => powModAux k (b * b % m) (e / 2) m (if e % 2 = 1 then r * b % m else r)
/-- b to the power e modulo m, for e below 2^256. -/
def powMod (b e m : Nat) : Nat := powModAux 256 (b % m) e m 1
/-- The inverse modulo a prime. -/
def invMod (a m : Nat) : Nat := powMod a (m - 2) m

/-- A point of the curve; none is the point at infinity. -/
abbrev EcPoint := Option (Nat × Nat)

def onP256 (x y : Nat) : Bool :=
  decide (x < p256P) && decide (y < p256P) && y * y % p256P == (x * x * x + (p256P - 3) * x + p256B) % p256P

def ecAdd (a b : EcPoint) : EcPoint :=
  match a, b with
  | none, q => q
  | q, none => q
  | some (x1, y1), some (x2, y2) =>
    if x1 = x2 ∧ (y1 + y2) % p256P = 0 then none
    else
      let l := if x1 = x2 then (3 * x1 * x1 + (p256P - 3)) * invMod (2 * y1) p256P
        else (y2 + p256P - y1) * invMod (x2 + p256P - x1) p256P
      let x3 := (l * l + 2 * p256P - x1 - x2) % p256P
      some (x3, (l % p256P * (x1 + p256P - x3) + p256P - y1) % p256P)

def ecMulAux : Nat → Nat → EcPoint → EcPoint → EcPoint
  | 0, _, _, r => r
  | k + 1, d, q, r => ecMulAux k (d / 2) (ecAdd q q) (if d % 2 = 1 then ecAdd r q else r)
/-- d times a point, for d below 2^256. -/
def ecMul (d : Nat) (q : EcPoint) : EcPoint := ecMulAux 256 d q none

/-- The public key of a private scalar: 0x04, X, Y (R332). -/
def pubKey (d : Nat) : List Octet :=
  match ecMul d (some p256G) with
  | some (x, y) => 0x04 :: octetsBE 32 x ++ octetsBE 32 y
  | none => 0x04 :: octetsBE 32 0 ++ octetsBE 32 0

/-- A public key of 65 octets as a point of the curve. -/
def pointOf (bs : List Octet) : EcPoint :=
  let x := beOf (slice bs 1 32)
  let y := beOf (slice bs 33 32)
  if bs.length = 65 ∧ bs.headD 0 = 0x04 ∧ onP256 x y then some (x, y) else none

/-- The shared x-coordinate of ECDH. -/
def ecdh (d : Nat) (q : EcPoint) : List Octet := octetsBE 32 (((ecMul d q).map Prod.fst).getD 0)

/-- A private scalar from the 320-bit output of a derivation (R324). -/
def scalarOf (bs : List Octet) : Nat := beOf bs % (p256N - 1) + 1

/-! ## ECDSA -/

/-- The per-message number of deterministic ECDSA: candidates until one lies in 1 to n - 1, at most `fuel` of them. -/
def ecdsaK (fuel : Nat) (k v : List Octet) : Nat :=
  let t := hmac k v
  match fuel with
  | 0 => beOf t
  | f + 1 =>
    if 1 ≤ beOf t ∧ beOf t < p256N then beOf t
    else
      let k' := hmac k (t ++ [0x00])
      ecdsaK f k' (hmac k' t)

/-- Deterministic ECDSA over a SHA-256 hash: r and s, 32 octets each (R346). -/
def ecdsaSign (d : Nat) (hash : List Octet) : List Octet :=
  let e := beOf hash
  let seed := octetsBE 32 d ++ octetsBE 32 (e % p256N)
  let v0 := List.replicate 32 (0x01 : Octet)
  let k1 := hmac (List.replicate 32 0) (v0 ++ [0x00] ++ seed)
  let v1 := hmac k1 v0
  let k2 := hmac k1 (v1 ++ [0x01] ++ seed)
  let k := ecdsaK 16 k2 (hmac k2 v1)
  let r := ((ecMul k (some p256G)).map Prod.fst).getD 0 % p256N
  let s := invMod k p256N * (e + r * d) % p256N
  octetsBE 32 r ++ octetsBE 32 s

/-- Whether a signature of 64 octets verifies under a point over a SHA-256 hash. -/
def ecdsaVerify (q : EcPoint) (hash sig : List Octet) : Bool :=
  let r := beOf (sig.take 32)
  let s := beOf (slice sig 32 32)
  let w := invMod s p256N
  let x := ecAdd (ecMul (beOf hash * w % p256N) (some p256G)) (ecMul (r * w % p256N) q)
  q.isSome && sig.length == 64 && decide (1 ≤ r) && decide (r < p256N) && decide (1 ≤ s) && decide (s < p256N) &&
    (x.map Prod.fst).getD 0 % p256N == r && x.isSome

end Sys2Proof.Machine
end

