-- ==== Sys2Proof/Machine/Keys.lean ====
section
/-! DEFINITION. The key tree (R316, R323, R324), vault slots, the key cache, the outgoing frame counter (R265, R266, R325, R330, R334 to R339), and the
opening and closing of the journal (R78, R446, R447). -/
namespace Sys2Proof.Machine

/-! ## The key tree (R316, R323, R324) -/

/-- Labels of Table 11-3, in ASCII. -/
def lblWrap : List Octet := [0x57, 0x52, 0x41, 0x50]
def lblAttest : List Octet := [0x41, 0x54, 0x54, 0x45, 0x53, 0x54]
def lblImport : List Octet := [0x49, 0x4D, 0x50, 0x4F, 0x52, 0x54]
def lblXport : List Octet := [0x58, 0x50, 0x4F, 0x52, 0x54]
def lblGen : List Octet := [0x47, 0x45, 0x4E]
def lblLink : List Octet := [0x4C, 0x49, 0x4E, 0x4B]
def lblBcast : List Octet := [0x42, 0x43, 0x41, 0x53, 0x54]
def lblImage : List Octet := [0x49, 0x4D, 0x41, 0x47, 0x45]
def lblJrnl : List Octet := [0x4A, 0x52, 0x4E, 0x4C]
def lblPair : List Octet := [0x50, 0x41, 0x49, 0x52]

/-- A fuse field in the 64-bit words `lo` to `hi` of the OTP array: it reads as zero when one of them is uncorrectable
(R315). -/
def fuseField (x : SecSt) (lo hi v : Nat) : Nat := if x.otpBad.any (fun w => decide (lo ≤ w) && decide (w ≤ hi)) then 0 else v
/-- DEVID, and its octets, most significant first (R323). -/
def devIdOf (x : SecSt) : Nat := fuseField x 24 24 (Config.devid % 2 ^ 64)
def devOct (x : SecSt) : List Octet := octetsBE 8 (devIdOf x)

/-- The root of TEST (0), MISSION (1) or RMA (2): the XOR of its two shares (R316). -/
def rootVal (k : Nat) : Nat := (Config.rootShare k 0 ^^^ Config.rootShare k 1) % 2 ^ 256
/-- A root whose combined value is all zeros or all ones is treated as unprogrammed (R316). -/
def rootProgrammed (k : Nat) : Bool := rootVal k != 0 && rootVal k != 2 ^ 256 - 1
/-- Which root a life-cycle state uses (Table 11-2); SCRAP has none. -/
def rootOfState (st : Nat) : Option Nat :=
  match st with
  | 0 => some 0
  | 1 => some 1
  | 2 => some 1
  | 3 => some 2
  | _ => none
/-- The octets of the root of a state. -/
def rootOct (st : Nat) : List Octet := octetsBE 32 (((rootOfState st).map rootVal).getD 0)

/-- The life-cycle state of the LC fuses: the highest pair with a fuse blown (R318). -/
def lcOf (lc : Nat) : Nat :=
  if bitsOf lc 7 6 != 0 then 4 else if bitsOf lc 5 4 != 0 then 3 else if bitsOf lc 3 2 != 0 then 2
  else if bitsOf lc 1 0 != 0 then 1 else 0
/-- The life-cycle state: SCRAP when the LC word is uncorrectable (R315). -/
def lcIn (x : SecSt) : Nat := if x.otpBad.contains 25 then 4 else lcOf x.lc
def lcState (s : State) : Nat := lcIn s.sec

/-- DWK: wraps storage blobs. -/
def keyDwk (x : SecSt) : List Octet := kdf (rootOct (lcIn x)) lblWrap (devOct x ++ octetsBE 1 (lcIn x)) 256
/-- The private scalars of AK and IK. -/
def keyAk (x : SecSt) : Nat := scalarOf (kdf (rootOct (lcIn x)) lblAttest (devOct x) 320)
def keyIk (x : SecSt) : Nat := scalarOf (kdf (rootOct (lcIn x)) lblImport (devOct x ++ octetsBE 1 (lcIn x)) 320)
/-- KEK of a transport blob: of the shared x-coordinate and the ephemeral key's X. -/
def keyKek (x : SecSt) (z epkX : List Octet) : List Octet := kdf z lblXport (devOct x ++ epkX) 256
/-- K_gen of a network master and its generation. -/
def keyKgen (master gen : Nat) : List Octet := kdf (octetsBE 32 master) lblGen (octetsBE 4 gen) 256
def keyImg (master gen objid : Nat) : List Octet := kdf (keyKgen master gen) lblImage (octetsBE 2 objid) 256
/-- K_jrnl of the master that CURRENT holds when the journal opens. -/
def keyJrnl (master jid : Nat) : List Octet := kdf (octetsBE 32 master) lblJrnl (octetsBE 8 jid) 256
/-- K_pair: of the shared x-coordinate and the DEVIDs of the active and the standby unit. -/
def keyPair (z : List Octet) (active standby : Nat) : List Octet := kdf z lblPair (octetsBE 8 active ++ octetsBE 8 standby) 256

/-- The derived key of a frame: K_node, whose context ends with VREF when that is not 0, or K_bcast. -/
def keyOct (k : KeyId) : List Octet :=
  match k with
  | .node m g e v => kdf (keyKgen m g) lblLink (octetsBE 8 e ++ (if v = 0 then [] else octetsBE 1 v)) 128
  | .bcast m g p => kdf (keyKgen m g) lblBcast (octetsBE 2 p) 128
  | .bad => []

/-! ## Random numbers (R42, R455) -/

/-- `n` octets from the DRBG: AES-256 in counter mode under octets 0 to 31 of the seed, from the counter block in octets 32 to
47, past the blocks already drawn; the state after it. -/
def drbg (n : Nat) (s : State) : List Octet × State :=
  let seed := octetsBE 48 s.jrn.seed
  let k := ceilDiv n 16
  ((ctrBlocks (roundKeys (seed.take 32)) (seed.drop 32) k s.jrn.drawn).take n,
   { s with jrn := { s.jrn with drawn := s.jrn.drawn + k } })

/-- `n` octets from the TRNG: free values. -/
def trng (n k : Nat) (s : State) : Nat := Config.freeValue (s.fresh + k) % 256 ^ n

/-- A new DRBG seed from the TRNG (R455). -/
def reseed (v : Nat) (j : JrnSt) : JrnSt := { j with seed := v, drawn := 0 }

/-! ## Slots and keys -/

def curSlot (s : State) : KeySlot := s.sec.slots.getD s.sec.cur KeySlot.reset
def nextSlot (s : State) : KeySlot := s.sec.slots.getD (1 - s.sec.cur) KeySlot.reset
/-- GEN of CURRENT. -/
def curGen (s : State) : Nat := (curSlot s).gen

/-- Key index octet of a generation, bit 7 apart (R265). -/
def keyIndexOf (gen : Nat) : Nat := 1 + gen % 127

/-- The slot of CURRENT and NEXT that a received key index matches (R266). -/
def resolveKey (s : State) (idx : Nat) : Option KeySlot :=
  if (curSlot s).valid && idx % 128 == keyIndexOf (curGen s) then some (curSlot s)
  else if (nextSlot s).valid && idx % 128 == keyIndexOf (nextSlot s).gen then some (nextSlot s)
  else none

def KeySlot.node (k : KeySlot) (eui vref : Nat) : KeyId := .node k.master k.gen eui vref
def KeySlot.bcast (k : KeySlot) (pan : Nat) : KeyId := .bcast k.master k.gen pan

def keyGen : KeyId → Nat
  | .node _ g _ _ => g
  | .bcast _ g _ => g
  | .bad => 0

/-- The cache set of a key (R339). -/
def keySet (boot : Nat) : KeyId → Nat
  | .node _ g e v => Config.cacheSet boot e g v
  | .bcast _ g p => Config.cacheSet boot p g 0
  | .bad => 0

/-- Put a key at the front; its set keeps four (R339). -/
def cacheIn (set_ : Nat) (k : KeyId) (l : List (Nat × KeyId)) : List (Nat × KeyId) :=
  let mine := (l.filter (fun e => e.1 == set_ && e.2 != k)).take 3
  (set_, k) :: l.filter (fun e => (e.1 != set_ || mine.contains e) && e.2 != k)

/-- Use a derived key: a hit or a miss is counted, and it becomes the most recently used of its set. -/
def useKey (k : KeyId) (s : State) : State :=
  let hit := s.sec.cache.any (fun e => e.2 == k)
  { s with
    sec := { s.sec with cache := cacheIn (keySet s.sec.cacheKey k) k s.sec.cache }
    cnt := cntBump (if hit then 0xC0050 else 0xC0054) 0 32 1 s.cnt }

/-- Zeroise the cached keys of generation `g`. -/
def dropGen (g : Nat) (x : SecSt) : SecSt := { x with cache := x.cache.filter (fun e => keyGen e.2 != g) }

/-! ## The outgoing frame counter (R334 to R338) -/

/-- Why no value can be drawn: 1 not valid, 2 exhausted, 0 the next block is unacknowledged. -/
def fcReason (s : State) : Option Nat :=
  if !s.sec.fcValid then some 1
  else if 2 ^ 32 ≤ s.sec.fcNext then some 2
  else if s.sec.fcAck < s.sec.fcNext / 2 ^ 20 then some 0
  else none

/-- Raise `FC_STALL` once per stall (R336). -/
def fcStallCheck (s : State) : State :=
  eventIf ((fcReason s).isSome && !s.sec.fcStalled) 0x0902 [curGen s, (fcReason s).getD 0]
    { s with sec := { s.sec with fcStalled := (fcReason s).isSome } }

/-- The counter has entered its low blocks (R338). -/
def inLow (s : State) : Bool := 4096 - s.regF 0xC0038 11 0 ≤ s.sec.fcNext / 2 ^ 20 && s.sec.fcValid

def fcLowCheck (s : State) : State :=
  eventIf (inLow s && !s.sec.fcLow) 0x0903 [curGen s] { s with sec := { s.sec with fcLow := s.sec.fcLow || inLow s } }

/-- At the midpoint of block b, `FC_RESERVE` names block b + 1; block 4,095 has none (R335). -/
def fcReserveCheck (s : State) : State :=
  let b := s.sec.fcNext / 2 ^ 20
  let mid := s.sec.fcNext % 2 ^ 20 == 2 ^ 19 && decide (b < 4095)
  eventIf mid 0x0901 [curGen s, b + 1] { s with sec := { s.sec with fcRes := if mid then b + 1 else s.sec.fcRes } }

/-- Draw the next value; the state after it. The value is `s.sec.fcNext`. -/
def drawFc (s : State) : State :=
  fcLowCheck (fcReserveCheck { s with sec := { s.sec with fcNext := s.sec.fcNext + 1 } })

/-- The counter of a generation never drawn from (R334): 0, with block 0 acknowledged. -/
def fcRestart (x : SecSt) : SecSt := { x with fcNext := 0, fcRes := 0, fcAck := 0, fcLow := false }

/-! ## The switch (R329, R330, R334) -/

/-- Change vault slot `i`. -/
def modSlot (i : Nat) (f : KeySlot → KeySlot) (x : SecSt) : SecSt := { x with slots := modAt i f x.slots }

/-- The pointers swap: the former CURRENT becomes NEXT, RETIRED, and the counter restarts. Its command completes. -/
def takeSwitch (s : State) : State :=
  let x := fcRestart (modSlot (1 - s.sec.cur) (fun k => { k with pending := false })
    (modSlot s.sec.cur (fun k => { k with retired := true }) s.sec))
  let t := { s with sec := { x with cur := 1 - s.sec.cur, sw := none, swRef := none, fcNext := s.sec.fcPre, fcPre := 0 } }
  match s.sec.swRef with
  | some r => done r t
  | none => t

/-- The pending switch, if its ASN has come. -/
def switchIfDue (now : Nat) (s : State) : State :=
  match s.sec.sw with
  | some n => if n ≤ now then takeSwitch s else s
  | none => s

/-! ## The journal -/

/-- K_jrnl of a journal that opens now; none while CURRENT is empty (R450). -/
def sealKey (s : State) (jid : Nat) : List Octet := if (curSlot s).valid then keyJrnl (curSlot s).master jid else []

/-- Open a journal (R447): a new ID from the TRNG, OPEN, then the DRBG seed. REASON: 0 time loaded, 1 wake, 2 `TIME_FORCE`. -/
def openJournal (reason : Nat) (s : State) : State :=
  let id := Config.freeValue s.fresh
  let seed := trng 48 1 s
  let gen := if (curSlot s).valid then some (curGen s) else none
  let t := { s with
    fresh := s.fresh + 2
    jrn := { reseed seed s.jrn with
      isOpen := s.jrn.isOpen || s.pair.leads
      started := true
      id := if s.pair.leads then id else s.jrn.id
      seq := if s.pair.leads then 0 else s.jrn.seq
      ringNext := if s.pair.leads then 0 else s.jrn.ringNext
      keyed := if s.pair.leads then gen.isSome else s.jrn.keyed
      key := if s.pair.leads then sealKey s id else s.jrn.key
      slotRecs := []
      coreAt := []
      owed := [] } }
  journal (.seed seed) (journal (.opn id (devIdOf s.sec) s.sec.romRev reason gen) t)

/-- Close the journal (R447). REASON: 0 KEEP, 1 reset, 2 DIVERGED. -/
def closeJournal (reason : Nat) (s : State) : State :=
  let t := journal (.close reason) s
  { t with jrn := { t.jrn with isOpen := false, owed := [] } }

end Sys2Proof.Machine
end

