-- ==== Sys2Proof/Machine/Mac.lean ====
section
/-! DEFINITION. IEEE 802.15.4-2020 frames as octets (R259, R261 to R268): the MHR, the IEs, CCM*, and 6P messages (RFC 8480). The
places of the standard's bits are logged in entry 85. -/
namespace Sys2Proof.Machine

/-! ## The MHR (Table 09-1) -/

/-- Destination of a frame. -/
inductive MacDst where
  | eui (e : Nat)
  | bcast
  deriving DecidableEq, Repr

/-- A received MHR. `hdr` is the MHR through the auxiliary security header, `rest` what follows it, FCS left out. -/
structure Mhr where
  version : Nat
  typ     : Nat
  /-- addressing as in Table 09-1, nothing suppressed -/
  addrOk  : Bool
  secured : Bool
  ackReq  : Bool
  ie      : Bool
  seq     : Nat
  pan     : Nat
  dst     : MacDst
  src     : Nat
  level   : Nat
  fc      : Nat
  /-- the key index octet; none in another key identifier mode -/
  key     : Option Nat
  hdr     : List Octet
  rest    : List Octet
  deriving DecidableEq, Repr

/-- Addressing of a frame type: destination modes and source mode of Table 09-1, and PAN ID compression as the standard has it
with the destination PAN ID present and the source PAN ID compressed. -/
def addrForm (typ dm sm : Nat) (comp : Bool) : Bool :=
  if typ = 0 then dm == 2 && sm == 3 && comp
  else if typ = 1 then (dm == 3 && sm == 3 && !comp) || (dm == 2 && sm == 3 && comp)
  else dm == 3 && sm == 0 && !comp

/-- Octets of a key identifier by mode. -/
def keyIdLen (mode : Nat) : Nat := match mode with | 0 => 0 | 1 => 1 | 2 => 5 | _ => 9

/-- Read the MHR of a frame without its FCS. -/
def mhrOf (b : List Octet) : Mhr :=
  let w := leOf (b.take 2)
  let typ := bitsOf w 2 0
  let dm := bitsOf w 11 10
  let sm := bitsOf w 15 14
  let dl := if dm = 3 then 8 else 2
  let da := leOf (slice b 5 dl)
  let n := 5 + dl + (if sm = 3 then 8 else 0)
  let sec := bitOf w 3
  let sc := (b.getD n 0).toNat
  let hl := if sec then n + 5 + keyIdLen (bitsOf sc 4 3) else n
  { version := bitsOf w 13 12
    typ := typ
    addrOk := !bitOf w 8 && addrForm typ dm sm (bitOf w 6) && (dm == 3 || da == 0xFFFF) && !(sec && bitOf sc 5) &&
      decide (hl ≤ b.length)
    secured := sec
    ackReq := bitOf w 5
    ie := bitOf w 9
    seq := (b.getD 2 0).toNat
    pan := leOf (slice b 3 2)
    dst := if dm = 3 then .eui da else .bcast
    src := if sm = 3 then leOf (slice b (5 + dl) 8) else 0
    level := if sec then bitsOf sc 2 0 else 0
    fc := leOf (slice b (n + 1) 4)
    key := if bitsOf sc 4 3 = 1 then some (b.getD (n + 5) 0).toNat else none
    hdr := b.take hl
    rest := b.drop hl }

/-- Security fields of a frame sent: level, counter, key index octet. -/
structure SecHdr where
  level : Nat
  fc    : Nat
  key   : Nat

/-- The MHR of a frame the device sends (Table 09-1); an Enhanced ACK has no source address. -/
def mkMhr (typ seq pan : Nat) (ackReq ie : Bool) (dst : MacDst) (src : Option Nat) (sec : Option SecHdr) : List Octet :=
  let dm := match dst with | .eui _ => 3 | .bcast => 2
  octetsLE 2 (typ + 8 * b2n sec.isSome + 32 * b2n ackReq + 64 * b2n (dst == .bcast) + 512 * b2n ie + 1024 * dm + 0x2000 +
      0x4000 * (if src.isSome then 3 else 0)) ++
    octetsLE 1 seq ++ octetsLE 2 pan ++ (match dst with | .eui e => octetsLE 8 e | .bcast => octetsLE 2 0xFFFF) ++
    (match src with | some e => octetsLE 8 e | none => []) ++
    (match sec with | some x => octetsLE 1 (x.level + 8) ++ octetsLE 4 x.fc ++ octetsLE 1 x.key | none => [])

/-! ## Information elements (Table 09-3) -/

def headerIe (id : Nat) (v : List Octet) : List Octet := octetsLE 2 (v.length + 128 * id) ++ v
def payloadIe (group : Nat) (v : List Octet) : List Octet := octetsLE 2 (v.length + 2048 * group + 32768) ++ v
def shortIe (sub : Nat) (v : List Octet) : List Octet := octetsLE 2 (v.length + 256 * sub) ++ v
def longIe (sub : Nat) (v : List Octet) : List Octet := octetsLE 2 (v.length + 2048 * sub + 32768) ++ v

/-- Header termination 1 before payload IEs, and payload termination where a payload follows them. -/
def ht1 (pies : List Octet) : List Octet := if pies.isEmpty then [] else headerIe 0x7E []
def pTerm (pies payload : List Octet) : List Octet := if pies.isEmpty || payload.isEmpty then [] else payloadIe 0xF []

/-- The time-correction IE: 12-bit signed microseconds, NACK 0. -/
def timeCorrIe (us : Int) : List Octet := headerIe 0x1E (octetsLE 2 (toUnsigned 12 us))
/-- The 6top IE. -/
def sixtopIe (msg : List Octet) : List Octet := payloadIe 5 (0xC9 :: msg)
/-- The Daxanvan vendor IE with its sub-elements, each TYPE and VALUE (Table 09-4); absent without any. -/
def vendorIe (subs : List (Nat × List Octet)) : List Octet :=
  if subs.isEmpty then []
  else payloadIe 2 ([0xDA, 0x58, 0x3E, 0x01] ++ subs.flatMap (fun x => octetsLE 1 x.1 ++ octetsLE 1 x.2.length ++ x.2))

/-- Split header IEs off: their IDs and contents, whether payload IEs follow, what follows; none where a length runs past the
frame. The list ends at a header termination or at the end. -/
def hdrIes : Nat → List Octet → Option (List (Nat × List Octet) × Bool × List Octet)
  | 0, b => if b.isEmpty then some ([], false, []) else none
  | k + 1, b =>
    if b.isEmpty then some ([], false, [])
    else
      let w := leOf (b.take 2)
      let id := bitsOf w 14 7
      let n := 2 + bitsOf w 6 0
      if b.length < n ∨ bitOf w 15 then none
      else if id = 0x7E then some ([], true, b.drop n)
      else if id = 0x7F then some ([], false, b.drop n)
      else (hdrIes k (b.drop n)).map (fun r => ((id, slice b 2 (n - 2)) :: r.1, r.2))

/-- Payload IEs: groups and contents, and the payload behind the termination. -/
def payIes : Nat → List Octet → Option (List (Nat × List Octet) × List Octet)
  | 0, b => if b.isEmpty then some ([], []) else none
  | k + 1, b =>
    if b.isEmpty then some ([], [])
    else
      let w := leOf (b.take 2)
      let n := 2 + bitsOf w 10 0
      if b.length < n ∨ !bitOf w 15 then none
      else if bitsOf w 14 11 = 0xF then some ([], b.drop n)
      else (payIes k (b.drop n)).map (fun r => ((bitsOf w 14 11, slice b 2 (n - 2)) :: r.1, r.2))

/-- The nested IEs of an MLME IE: sub-ID, 128 added for the long form, and content. -/
def mlmeIes : Nat → List Octet → Option (List (Nat × List Octet))
  | 0, b => if b.isEmpty then some [] else none
  | k + 1, b =>
    if b.isEmpty then some []
    else
      let w := leOf (b.take 2)
      let n := 2 + (if bitOf w 15 then bitsOf w 10 0 else bitsOf w 7 0)
      if b.length < n then none
      else (mlmeIes k (b.drop n)).map (fun r =>
        ((if bitOf w 15 then 128 + bitsOf w 14 11 else bitsOf w 14 8), slice b 2 (n - 2)) :: r)

/-! ## 6P messages (RFC 8480) -/

/-- The cells of a list: slot offset and channel offset, 2 octets each. -/
def cellsOf : Nat → List Octet → List (Nat × Nat)
  | 0, _ => []
  | k + 1, b => if b.length < 4 then [] else (leOf (b.take 2), leOf (slice b 2 2)) :: cellsOf k (b.drop 4)
def cellOct (l : List (Nat × Nat)) : List Octet := l.flatMap (fun c => octetsLE 2 c.1 ++ octetsLE 2 c.2)

/-- Read a 6P message: version and type in the first octet, code, SFID, SeqNum, then what the code has. A request of ADD (1) or
DELETE (2) gives its cell list behind Metadata, CellOptions and NumCells. -/
def sixpOf (b : List Octet) : Option SixpMsg :=
  let h := (b.getD 0 0).toNat
  let code := (b.getD 1 0).toNat
  if b.length < 4 then none
  else if h / 16 % 4 = 0 then
    some (.request (h % 16) (b.getD 2 0).toNat (b.getD 3 0).toNat code (b.getD 6 0).toNat (b.getD 7 0).toNat
      (if code = 1 ∨ code = 2 then cellsOf b.length (b.drop 8) else []))
  else if h / 16 % 4 = 1 then some (.response (b.getD 3 0).toNat code (cellsOf b.length (b.drop 4)))
  else none

/-- A 6P request of the device: ADD and DELETE carry Metadata 0, the cell options, NumCells and the list; CLEAR Metadata alone. -/
def sixpRequest (sfid seq cmd opts num : Nat) (cells : List (Nat × Nat)) : List Octet :=
  [0x00] ++ octetsLE 1 cmd ++ octetsLE 1 sfid ++ octetsLE 1 seq ++ octetsLE 2 0 ++
    (if cmd = 1 ∨ cmd = 2 then octetsLE 1 opts ++ octetsLE 1 num ++ cellOct cells else [])

/-- A 6P response: return code, SFID, SeqNum, and `body` behind the header. -/
def sixpAnswer (sfid seq code : Nat) (body : List Octet) : List Octet :=
  [0x10] ++ octetsLE 1 code ++ octetsLE 1 sfid ++ octetsLE 1 seq ++ body

/-! ## What a verified frame carries -/

/-- The content behind the MHR: IEs well formed, how many are unknown, the time correction in µs, the ASN of a TSCH
synchronisation IE, a 6P message, the payload. -/
structure MacBody where
  ieOk    : Bool
  unknown : Nat
  tcorr   : Option Int
  sync    : Option Nat
  sixp    : Option SixpMsg
  payload : List Octet
  deriving DecidableEq, Repr

/-- Header IEs the device knows; payload IE groups it knows. -/
def knownHie (x : Nat × List Octet) : Bool := x.1 == 0x1E
def knownPie (x : Nat × List Octet) : Bool := x.1 == 1 || x.1 == 2 || (x.1 == 5 && x.2.take 1 == [0xC9])
def knownMlme (x : Nat × List Octet) : Bool := x.1 == 0x1A || x.1 == 0x1B || x.1 == 128 + 9

/-- Read the header IEs `h` and the decrypted octets `m` behind them (R261). -/
def macBody (ie : Bool) (h m : List Octet) : MacBody :=
  match (if ie then hdrIes h.length h else some ([], false, [])) with
  | none => ⟨false, 0, none, none, none, []⟩
  | some (hs, more, _) =>
    match (if more then payIes m.length m else some ([], m)) with
    | none => ⟨false, 0, none, none, none, []⟩
    | some (ps, pay) =>
      match (ps.filter (fun x => x.1 == 1)).foldl (fun a x => a.bind (fun l => (mlmeIes x.2.length x.2).map (l ++ ·))) (some []) with
      | none => ⟨false, 0, none, none, none, []⟩
      | some ms =>
        { ieOk := true
          unknown := (hs.filter (fun x => !knownHie x)).length + (ps.filter (fun x => !knownPie x)).length +
            (ms.filter (fun x => !knownMlme x)).length
          tcorr := (hs.find? (fun x => x.1 == 0x1E)).map (fun x => signedOf 12 (leOf (x.2.take 2) % 4096))
          sync := (ms.find? (fun x => x.1 == 0x1A)).map (fun x => leOf (x.2.take 5))
          sixp := (ps.find? (fun x => x.1 == 5 && x.2.take 1 == [0xC9])).bind (fun x => sixpOf (x.2.drop 1))
          payload := pay }

/-- The octets of the header IEs and any header termination at the front of `b`: all of `b` where no termination ends them. -/
def hdrIeLen : Nat → List Octet → Nat
  | 0, b => b.length
  | k + 1, b =>
    let w := leOf (b.take 2)
    let n := 2 + bitsOf w 6 0
    if b.length ≤ n ∨ bitOf w 15 then b.length
    else if bitsOf w 14 7 = 0x7E ∨ bitsOf w 14 7 = 0x7F then n
    else n + hdrIeLen k (b.drop n)

/-! ## CCM* (R267) -/

/-- MIC octets of a security level; levels 0 to 4 act as 5 (Table 09-11). -/
def micLen (level : Nat) : Nat := if level = 7 then 16 else if level = 6 then 8 else 4

/-- The nonce: sender's EUI-64 and frame counter, most significant octet first, then the level. -/
def ccmNonce (sender fc level : Nat) : List Octet := octetsBE 8 sender ++ octetsBE 4 fc ++ octetsBE 1 level

/-- A frame before it is sealed: MHR, header IEs, payload IEs and payload. -/
structure Plain where
  mhr  : List Octet
  hies : List Octet
  msg  : List Octet

/-- Octets of the PSDU that a frame makes, MIC and FCS included. -/
def Plain.psduLen (x : Plain) (level : Option Nat) (fcs : Nat) : Nat :=
  x.mhr.length + x.hies.length + x.msg.length + (match level with | some l => micLen l | none => 0) + fcs

/-- Seal a frame under `key` at ASN `asn` and append the FCS; an unsecured frame goes as it is. -/
def Plain.psdu (x : Plain) (key : Option (List Octet)) (sender fc level asn fcs : Nat) : List Octet :=
  withFcs fcs (match key with
    | none => x.mhr ++ x.hies ++ x.msg
    | some k =>
      let y := ccmSeal k (ccmNonce sender fc level) (octetsLE 5 asn ++ x.mhr ++ x.hies) x.msg (micLen level)
      x.mhr ++ x.hies ++ y.1 ++ y.2)

/-- Verify and decrypt what follows the MHR of a received frame at ASN `asn`: the header IEs and the octets behind them. -/
def macOpen (key : List Octet) (sender asn : Nat) (f : Mhr) : Option (List Octet × List Octet) :=
  let body := f.rest.take (f.rest.length - micLen f.level)
  let n := if f.ie then hdrIeLen body.length body else 0
  if f.rest.length < micLen f.level then none
  else (ccmOpen key (ccmNonce sender f.fc f.level) (octetsLE 5 asn ++ f.hdr ++ body.take n) (body.drop n)
      (f.rest.drop (f.rest.length - micLen f.level))).map (fun m => (body.take n, m))

/-- The header IEs and what follows of an unsecured frame. -/
def macPlain (f : Mhr) : List Octet × List Octet :=
  let n := if f.ie then hdrIeLen f.rest.length f.rest else 0
  (f.rest.take n, f.rest.drop n)

end Sys2Proof.Machine
end

