-- ==== Sys2Proof/Machine/Send.lean ====
section
/-! DEFINITION. The frame-transmission commands (R284 to R288, R356, R360, R418 to R420). -/
namespace Sys2Proof.Machine

/-- Count a failed allocation of pool `k` (R356). -/
def poolDrop (c : Bool) (k : Nat) (s : State) : State := bumpIf c (0xD0040 + 4 * k) s

/-- A command waits for the outcomes of `n` frames. -/
def awaitParts (r : CmdRef) (node n : Nat) (s : State) : State :=
  { s with tx := { s.tx with parts := s.tx.parts ++ [⟨r, node, n, []⟩] } }

/-- The checks of R419 on PKTLEN and the header. -/
def pktChecks (p : List Octet) : List (Bool × Nat × Nat × Nat) :=
  [(decide (1500 < p.length), stLen, 10, 0),
   (decide (p.length < 40), stBad, 10, 0x000B),
   (ipVersion p != 6 || ipPayLen p != p.length - 40, stBad, 10, 0x0102)]

def sendPacket (r : CmdRef) (p : List Octet) (s : State) : State :=
  match downlink (some r) p s with
  | .offline => refuse r stInternal 7 0x0201 s
  | .noNode => refuse r stNoNode 10 0 s
  | .noRoute => refuse r stNoRoute 10 0 s
  | .busy full => refuse r stBusy 10 0 (poolDrop full 0 s)
  | .linked node n t => awaitParts r node n t

def doPktSend (r : CmdRef) (p : List Octet) (s : State) : State := checked r (pktChecks p) (sendPacket r p) s

/-- `PKT_SEND` (R419). -/
def execPktSend (r : CmdRef) (p : List Octet) (s : State) : Res :=
  .next (runCmd r 0x0501 1 (16 + p.length) (.pktSend p) s (doPktSend r p))

/-! ## Frames before they are sealed (Table 09-1, R261) -/

/-- `MAC_SECCTL.TXLEVEL`; values 0 to 4 act as 5. -/
def txLevel (s : State) : Nat := max 5 (s.regF 0x8080C 2 0)
def panId (s : State) : Nat := s.regF 0x80808 15 0

/-- A secured data frame with payload IEs `pies`. -/
def dataPlain (s : State) (dst : MacDst) (seq : Nat) (ackReq : Bool) (pies payload : List Octet) (sec : SecHdr) : Plain :=
  ⟨mkMhr 1 seq (panId s) ackReq (!pies.isEmpty) dst (some (deviceEui s)) (some sec), ht1 pies, pies ++ pTerm pies payload ++ payload⟩

/-- PSDU octets of a broadcast data frame. -/
def bcastLen (s : State) (q : Prof) (payload : List Octet) : Nat :=
  (dataPlain s .bcast 0 false [] payload ⟨txLevel s, 0, 0⟩).psduLen (some (txLevel s)) q.fcsLen

/-- MAC payload of a packet that goes to the broadcast address (R272). -/
def bcastPayload (s : State) (p : List Octet) : List Octet :=
  let c := compress (ctxsOf s) (iidOf (deviceEui s)) (iidTo s true) p
  c.1 ++ p.drop c.2

def doBcastSend (r : CmdRef) (p : List Octet) (copies profile : Nat) (s : State) : State :=
  let q := profAt s.act profile
  let m := bcastPayload s p
  checked r (pktChecks p ++
    [(copies == 0 || decide (8 < copies) || decide (31 < profile), stBad, 10, 0x000B),
     (!isMulticast (ipDst p), stBad, 10, 0x0103),
     (s.offline 7, stInternal, 7, 0x0201),
     (decide (Prof.maxPsdu q < bcastLen s q m), stLen, 10, 0)])
    (fun s => match linkBulk (.bcast profile) (some r) 0 copies (List.replicate copies m) s with
      | some t => awaitParts r 0 copies t
      | none => refuse r stBusy 10 0 (poolDrop true 3 s)) s

/-- `BCAST_SEND` (R420). -/
def execBcastSend (r : CmdRef) (p : List Octet) (copies profile : Nat) (s : State) : Res :=
  .next (runCmd r 0x0502 1 (16 + p.length) (.bcastSend p copies profile) s (doBcastSend r p copies profile))

/-! ## Image sessions (R284 to R287) -/

def sessAt (s : State) (k : Nat) : Option ImgSess := (s.adp.img[k]?).join
def kMax (t : Nat) : Nat := min 8192 (524_288 / max 1 t)
def srcSymbols (f t : Nat) : Nat := ceilDiv f (max 1 t)
def srcBlocks (f t : Nat) : Nat := ceilDiv (srcSymbols f t) (kMax t)
/-- Partition[i, j] of RFC 6330: the two sizes and how many have each. -/
def partition (i j : Nat) : Nat × Nat × Nat × Nat := (ceilDiv i j, i / j, i - i / j * j, j - (i - i / j * j))

/-- Cells of an object of F octets (R286). -/
def imgCells (f : Nat) : Nat := ceilDiv f 256
def imgCellsUsed (s : State) : Nat := sumNat (s.adp.img.map (fun x => (x.map (fun y => y.cells.length)).getD 0))

def withImg (k : Nat) (x : Option ImgSess) (s : State) : State := { s with adp := { s.adp with img := setAt s.adp.img k x } }

/-- The 12 octets of the FEC OTI of RFC 6330: F, reserved, T, Z, N = 1, Al = 4. -/
def fecOti (f t z : Nat) : List Octet := octetsBE 5 f ++ octetsBE 1 0 ++ octetsBE 2 t ++ octetsBE 1 z ++ octetsBE 2 1 ++ octetsBE 1 4

/-- The packet of R285: UDP from the device's link-local root address; its hop limit is the model's (log entry 95). -/
def imgPacket (s : State) (dst sport dport : Nat) (body : List Octet) : List Octet :=
  let src := linkLocal + iidOf (deviceEui s)
  ipPacket 0 0 17 255 src dst
    (udpFilled src dst (octetsBE 2 sport ++ octetsBE 2 dport ++ octetsBE 2 (8 + body.length) ++ zeros 2 ++ body))

/-- Payload of a symbol's packet: OBJID, SBN, ESI and the symbol. -/
def imgBody (objid sbn esi : Nat) (symbol : List Octet) : List Octet := octetsLE 2 objid ++ octetsLE 1 sbn ++ octetsLE 3 esi ++ symbol

def imgOpened (r : CmdRef) (a : ImgOpenArgs) (cs : List Nat) (q : QueSt) (s : State) : State :=
  let z := srcBlocks a.size a.sym
  let p := partition (srcSymbols a.size a.sym) z
  let x : ImgSess := ⟨a.objid, a.size, a.sym, z, p.1, p.2.1, p.2.2.1, p.2.2.2, a.profile, a.sport, a.dport, a.dst, 0, [], cs⟩
  let t := writeOut a.outAddr (fecOti a.size a.sym z) { withImg a.session (some x) s with que := q }
  doneWith r (z + x.zl * 2 ^ 8 + x.zs * 2 ^ 16 + x.kl * 2 ^ 32 + x.ks * 2 ^ 48) t

/-- PSDU octets of a session's frames. -/
def imgLen (s : State) (q : Prof) (a : ImgOpenArgs) : Nat :=
  bcastLen s q (bcastPayload s (imgPacket s a.dst a.sport a.dport (imgBody a.objid 0 0 (zeros a.sym))))

def doImgOpen (r : CmdRef) (a : ImgOpenArgs) (s : State) : State :=
  let q := profAt s.act a.profile
  checked r
    [(decide (1 < a.session) || decide (31 < a.profile) || a.size == 0 || decide (4_194_304 < a.size) ||
        decide (a.sym < 64) || decide (1024 < a.sym) || a.sym % 4 != 0, stBad, 10, 0x000B),
     (decide (Prof.maxPsdu q < imgLen s q a), stLen, 10, 0),
     ((sessAt s a.session).isSome || decide (16384 < imgCellsUsed s + imgCells a.size), stBadState, 10, 0)]
    (fun s => match allocIn s 2 (imgCells a.size) s.que with
      | some (cs, q) => imgOpened r a cs q s
      | none => refuse r stBusy 10 0 (poolDrop true 2 s)) s

/-- `IMG_OPEN` (R286). -/
def execImgOpen (r : CmdRef) (a : ImgOpenArgs) (s : State) : Res :=
  .next (runCmd r 0x0520 1 40 (.imgOpen a) s (doImgOpen r a))

def doImgLoad (r : CmdRef) (session offset : Nat) (data : List Octet) (s : State) : State :=
  if 1 < session ∨ data.length = 0 ∨ 65536 < data.length then refuse r stBad 10 0x000B s
  else match sessAt s session with
    | none => refuse r stBadState 10 0 s
    | some x =>
      if offset ≠ x.loaded ∨ x.f < x.loaded + data.length then refuse r stBad 10 0x000B s
      else done r (withImg session
        (some { x with loaded := x.loaded + data.length, data := x.data ++ data }) s)

/-- `IMG_LOAD` (R286): the octets are journaled with the command. -/
def execImgLoad (r : CmdRef) (session offset : Nat) (data : List Octet) (s : State) : Res :=
  .next (runCmd r 0x0521 1 (24 + data.length) (.imgLoad session offset data) s (doImgLoad r session offset data))

/-- K of block SBN, and the number of the object's symbol with which it starts. -/
def ImgSess.k (x : ImgSess) (sbn : Nat) : Nat := if sbn < x.zl then x.kl else x.ks
def ImgSess.first (x : ImgSess) (sbn : Nat) : Nat := min sbn x.zl * x.kl + (sbn - x.zl) * x.ks
/-- Largest encoding symbol ID of a block (Table 09-9); K' is the standard's. -/
def ImgSess.esiMax (x : ImgSess) (sbn : Nat) : Nat := 2 ^ 24 - 1 - (Config.rqPadded (x.k sbn) - x.k sbn)

/-- Source symbol `i` of the object, the last one padded with zeros. -/
def ImgSess.source (x : ImgSess) (i : Nat) : List Octet := (slice x.data (x.t * i) x.t ++ zeros x.t).take x.t

/-- An encoding symbol (R284): a source symbol below K, else a repair symbol. -/
def ImgSess.symbol (x : ImgSess) (sbn esi : Nat) : List Octet :=
  if esi < x.k sbn then x.source (x.first sbn + esi)
  else ((Config.rqRepair ((List.range (x.k sbn)).map (fun i => x.source (x.first sbn + i))) esi) ++ zeros x.t).take x.t

def rqLag (s : State) : Nat := s.regF 0xA0400 15 0

def doImgSend (r : CmdRef) (session sbn esi count : Nat) (s : State) : State :=
  if 1 < session ∨ count = 0 ∨ 64 < count then refuse r stBad 10 0x000B s
  else match sessAt s session with
    | none => refuse r stBadState 10 0 s
    | some x =>
      checked r
        [(x.loaded != x.f, stBadState, 10, 0),
         (decide (x.z ≤ sbn) || decide (x.esiMax sbn < esi + count - 1) ||
            decide (rqLag s * s.time.l < 300_000_000), stBad, 10, 0x000B)]
        (fun s => { s with adp := { s.adp with
          rq := s.adp.rq ++ [⟨r, session, sbn, esi, count, asnNow s + rqLag s⟩] } }) s

/-- `IMG_SEND` (R286): the frames are linked at the boundary of the admission ASN + LAG. -/
def execImgSend (r : CmdRef) (session sbn esi count : Nat) (s : State) : Res :=
  .next (runCmd r 0x0522 1 0 (.imgSend session sbn esi count) s (doImgSend r session sbn esi count))

/-- MAC payload of frame `i` of a command. -/
def symbolFrame (s : State) (q : RqReq) (x : ImgSess) (i : Nat) : List Octet :=
  bcastPayload s (imgPacket s x.dst x.sport x.dport (imgBody x.objid q.sbn (q.esi + i) (x.symbol q.sbn (q.esi + i))))

/-- Link symbol frames `i` to `i + n - 1` of a command; one that finds no cells ends `BUSY_RETRY` (Table 12-1). -/
def linkSymbols (q : RqReq) (x : ImgSess) : Nat → Nat → State → State
  | _, 0, s => s
  | i, n + 1, s =>
    linkSymbols q x (i + 1) n
      (match linkBulk (.image q.session x.profile) (some q.ref) i q.count [symbolFrame s q x i] s with
        | some t => t
        | none => partDone q.ref i stBusy (poolDrop true 3 s))

def linkDue (q : RqReq) (s : State) : State :=
  let t := awaitParts q.ref 0 q.count { s with adp := { s.adp with rq := s.adp.rq.erase q } }
  match sessAt s q.session with
  | some x => linkSymbols q x 0 q.count t
  | none => t

/-- `IMG_SEND_LINK` (R285, R288): the symbol frames whose boundary has come join the BULK queue. -/
def execImgSendLink (s : State) : Res :=
  .next (coreOnly s (if s.time.running then
      (s.adp.rq.filter (fun q => decide (q.asn ≤ asnNow s))).foldl (fun t q => linkDue q t) s
    else s))

/-- An `IMG_SEND` of the session has not completed. -/
def imgBusy (s : State) (k : Nat) : Bool :=
  s.adp.rq.any (fun q => q.session == k) ||
    s.tx.frames.any (fun f => match f.kind with | .image j _ => j == k | _ => false)

def doImgClose (r : CmdRef) (session : Nat) (s : State) : State :=
  if 1 < session then refuse r stBad 10 0x000B s
  else match sessAt s session with
    | none => refuse r stBadState 10 0 s
    | some x =>
      if imgBusy s session then refuse r stBadState 10 0 s
      else done r (withImg session none { s with que := releaseIn s x.cells s.que })

/-- `IMG_CLOSE` (R286). -/
def execImgClose (r : CmdRef) (session : Nat) (s : State) : Res :=
  .next (runCmd r 0x0523 1 0 (.imgClose session) s (doImgClose r session))

end Sys2Proof.Machine
end

