-- ==== Sys2Proof/Machine/TimeBase.lean ====
section
/-! DEFINITION. The timebase and its servo (R57 to R60, R72 to R82): qualification, selection, filter, loop, estimated
error, state machine, loads and steps. Offsets in ns, frequencies in ppb. -/
namespace Sys2Proof.Machine

/-! ## The SLCK counter -/

/-- The SLCK counter now: it counts on beside the timebase, one period each measured ratio of ns (R83, log entry 91). -/
def slckNow (s : State) : Nat :=
  if s.pwr.st = .run ∨ s.pwr.st = .watch then s.pwr.slck + (s.time.tb - s.pwr.slckTb) * 2 ^ 32 / max 1 s.time.ratio
  else s.pwr.slck

/-- Count on from the present value at timebase `tb`. -/
def rebaseSlck (tb : Nat) (s : State) : State := { s with pwr := { s.pwr with slck := slckNow s, slckTb := tb } }

/-! ## Sources -/

/-- Priority order: the first occurrence of each code counts, codes 5 to 7 act as NONE (R57). -/
def srcPrio (s : State) : List Nat :=
  ([(2, 0), (6, 4), (10, 8), (14, 12)].map (fun p => s.regF 0x30004 p.1 p.2)).foldl
    (fun l c => if 1 ≤ c ∧ c ≤ 4 ∧ !l.contains c then l ++ [c] else l) []

def qualCnt (s : State) : Nat := max 1 (s.regF 0x30008 3 0)

/-- Air peer `i` is enabled (R70). -/
def peerEn (s : State) (i : Nat) : Bool := s.regB (0x3010C + 16 * i) 31
def peerPeriod (s : State) (i : Nat) : Nat := s.regF (0x3010C + 16 * i) 30 16
/-- The followed peer: the lowest-index enabled one that is qualified. -/
def followed (s : State) : Option Nat :=
  (List.range 4).find? (fun i => peerEn s i && (s.time.peers.getD i SrcSt.reset).qualified)

/-- Qualification state of a source code; the followed peer's for AIR. -/
def srcOf (s : State) (c : Nat) : SrcSt :=
  if c = 4 then s.time.peers.getD ((followed s).getD 0) SrcSt.reset else s.time.srcs.getD (c - 1) SrcSt.reset

/-- QUALIFIED: never without a priority (R57, R70). -/
def srcQual (s : State) (c : Nat) : Bool :=
  (srcPrio s).contains c && (if c = 4 then (followed s).isSome else (srcOf s c).qualified)

/-- Accuracy term (Table 02-1). -/
def accuracy (c : Nat) : Nat := if c = 3 then 20 else if c = 4 then 1000 else 100
/-- Outlier limit (Table 02-1). -/
def outlierLim (s : State) (c : Nat) : Nat :=
  if c = 1 then s.regF 0x30090 23 8 else if c = 2 then s.regF 0x30094 23 8
  else if c = 3 then 1000 else s.regF 0x300F0 23 0

/-- Mean of the last QUALCNT accepted offsets (R72). -/
def filtOf (s : State) (x : SrcSt) : Rat := meanRat ((x.offs.take (qualCnt s)).map (fun (i : Int) => (i : Rat)))
def filtered (s : State) (c : Nat) : Rat := filtOf s (srcOf s c)

def ratAbs (q : Rat) : Rat := if q < 0 then -q else q
/-- Whole part of a non-negative rational. -/
def ratFloor (q : Rat) : Nat := (q.num / (q.den : Int)).toNat

/-- Phase slew the servo has applied up to timebase `t`. -/
def slewTo (x : TimeSt) (t : Nat) : Rat := x.slew + x.f * (((t : Int) - (x.slewAt : Int) : Int) : Rat) / 1_000_000_000

/-- Set the adjustment from now on. -/
def TimeSt.setF (f : Rat) (x : TimeSt) : TimeSt :=
  { x with slew := slewTo x x.tb, slewAt := x.tb, f := clampRat (-50_000) 50_000 f }

def withTime (g : TimeSt → TimeSt) (s : State) : State := { s with time := g s.time }

/-! ## Estimated error (R73) -/

/-- Estimated error in ns. -/
def estErr (s : State) : Rat :=
  let x := s.time
  if x.src ≠ 0 ∧ srcQual s x.src ∧ !x.noSlew then ratAbs (filtered s x.src) + (accuracy x.src : Rat)
  else
    let t : Rat := ((x.tb - x.accAt : Nat) : Rat) / 1_000_000_000
    x.e0 + (x.freqUnc : Rat) * t + (s.regN 0x3001C : Rat) / 1000 * t * t / 2

/-- `TIME_ESTERR`, saturating; the reset value until the timebase is loaded. -/
def estErrReg (s : State) : Nat := if s.time.loaded then min (ratFloor (estErr s)) 0xFFFF_FFFF else 0xFFFF_FFFF

def holdLimNs (s : State) : Rat := (s.regN 0x30010 * 1000 : Nat)

/-! ## Events (Table 02-5) -/

def timeCode : TimeState → Nat
  | .acquire => 0
  | .locked => 1
  | .holdover => 2
  | .drifted => 3

/-- Enter a state; `TIME_STATE` is raised when it changes. LOCKED clears FORCED and ends the wake allowance. -/
def setTimeState (n : TimeState) (s : State) : State :=
  let t := withTime (fun x => { x with
    st := n
    forced := x.forced && n != .locked
    sinceWake := x.sinceWake && n != .locked
    recon := if n = .locked then none else x.recon }) s
  eventIf (s.time.st != n) 0x0401 [timeCode s.time.st, timeCode n, t.time.src, estErrReg t] t

/-- Select a source; `TIME_SOURCE` is raised when it changes. -/
def setSource (c : Nat) (s : State) : State :=
  let t := withTime (fun x => { x with src := c, noSlew := x.noSlew && x.src == c }) s
  eventIf (s.time.src != c) 0x0402 [s.time.src, c, sx (roundRat (filtered t c))] t

/-- Outside LOCKED: the highest-priority QUALIFIED source (R59). -/
def bestSrc (s : State) : Nat := ((srcPrio s).find? (fun c => srcQual s c)).getD 0
def reselect (s : State) : State := setSource (bestSrc s) s

/-- Mark that a source's disagreement has been raised in its present qualification. -/
def markDisagreed (c : Nat) (s : State) : State :=
  withTime (fun x =>
    if c = 4 then { x with peers := modAt ((followed s).getD 0) (fun y => { y with disagreed := true }) x.peers }
    else { x with srcs := modAt (c - 1) (fun y => { y with disagreed := true }) x.srcs }) s

/-- The revert rule of R59 over the higher-priority sources in order: the first that agrees is selected; each that disagrees
raises its event once per qualification. -/
def revertTo : List Nat → State → State
  | [], s => s
  | c :: t, s =>
    if ratAbs (filtered s c) ≤ 1000 then setSource c s
    else if (srcOf s c).disagreed then revertTo t s
    else revertTo t (event 0x0403 [c, sx (roundRat (filtered s c))] (markDisagreed c s))

/-- The higher-priority sources that have been QUALIFIED for REVERTHOLD. -/
def revertible (s : State) : List Nat :=
  ((srcPrio s).takeWhile (· != s.time.src)).filter (fun c => srcQual s c &&
    decide ((srcOf s c).qualAt + 1_000_000_000 * s.regF 0x30008 15 8 ≤ s.time.tb))

def revert (s : State) : State :=
  if s.time.st != .locked || !s.regB 0x30004 16 then s else revertTo (revertible s) s

/-! ## The loop (R72, R74) -/

def bwOf (s : State) : Rat :=
  match s.regF 0x3000C 1 0 with
  | 0 => 1 / 100
  | 1 => 3 / 100
  | 2 => 1 / 10
  | _ => 3 / 10

/-- The servo acts on an accepted offset of the selected source. -/
def servo (off : Int) (s : State) : State :=
  let now := s.time.tb
  let tau : Rat := match s.time.loopAt with
    | some t => min 16 (((now - t : Nat) : Rat) / 1_000_000_000)
    | none => 1
  let bw := if tau = 0 then bwOf s else min (bwOf s) (1 / 10 / tau)
  let wn := 2 * Config.pi * bw
  let fi := clampRat (-50_000) 50_000 (s.time.fi + wn * wn * (off : Rat) * tau)
  withTime (fun x =>
    { x.setF (fi + 14142 / 10000 * wn * (off : Rat)) with
      fi := fi
      loopAt := some now
      noSlew := false
      e0 := ratAbs (filtered s s.time.src) + (accuracy s.time.src : Rat)
      accAt := now }) s

/-- Entry to HOLDOVER holds f and fi at the mean of the last 64 s (R74). -/
def holdF (s : State) : State :=
  withTime (fun x =>
    let m := if x.samples.isEmpty then x.f else meanRat (x.samples.map Prod.snd)
    { x.setF m with
      fi := m }) s

/-! ## Moving the timebase (R75, R79, R80) -/

def mv (d : Int) (t : Nat) : Nat := ((t : Int) + d).toNat

def SrcSt.shift (d : Int) (x : SrcSt) : SrcSt := { x with prev := none, offs := [], qualAt := mv d x.qualAt }

/-- What the time unit itself keeps as timebase values moves with a load or step; previous references are forgotten
(R58, R63). -/
def TimeSt.shift (d : Int) (x : TimeSt) : TimeSt :=
  { x with
    tb := mv d x.tb
    slewAt := mv d x.slewAt
    accAt := mv d x.accAt
    loopAt := x.loopAt.map (mv d)
    samples := x.samples.map (fun p => (mv d p.1, p.2))
    srcs := x.srcs.map (SrcSt.shift d)
    peers := x.peers.map (SrcSt.shift d)
    pps := { x.pps with
      lastActive := x.pps.lastActive.map (mv d)
      lastEdge := x.pps.lastEdge.map (mv d)
      enabledAt := mv d x.pps.enabledAt
      pulse := x.pps.pulse.map (fun p => { p with
        edge := mv d p.edge
        msg := p.msg.map (fun m => (mv d m.1, m.2)) })
      prevGood := none
      noisyAt := mv d x.pps.noisyAt
      todFor := x.pps.todFor.map (fun p => (mv d p.1, p.2))
      todAt := mv d x.pps.todAt }
    ptp := x.ptp.map (fun q => { q with
      wait := q.wait.map (fun w => (w.1, w.2.1 + 65536 * d, w.2.2 + d))
      sync := q.sync.map (fun w => (w.1, w.2 + 65536 * d))
      delayReq := q.delayReq.map (fun w => (w.1, w.2 + 65536 * d))
      reqAt := q.reqAt.map (mv d)
      mpdAt := mv d q.mpdAt
      lastSync := mv d q.lastSync }) }

def Port.shift (d : Int) (p : Port) : Port :=
  { p with
    trans := p.trans.map (fun t => (t.1, mv d t.2))
    clipUntil := mv d p.clipUntil
    calRun := p.calRun.map (fun t => (t.1, mv d t.2))
    linger := p.linger.map (mv d)
    carriers := p.carriers.map (fun c => { c with until_ := c.until_.map (mv d) })
    femUntil := p.femUntil.map (mv d) }

/-- Deadlines that elapsed time sets, not the slot grid, move with the timebase: a load or step is no passing of time. -/
def shiftTimes (d : Int) (s : State) : State :=
  { s with
    time := s.time.shift d
    rf := { s.rf with
      refLostAt := s.rf.refLostAt.map (mv d)
      spllRun := s.rf.spllRun.map (fun t => (t.1, mv d t.2))
      spllAt := mv d s.rf.spllAt
      spllFrom := mv d s.rf.spllFrom
      ports := s.rf.ports.map (Port.shift d)
      denied := s.rf.denied.map (mv d)
      deaf := s.rf.deaf.map (fun t => { t with since := mv d t.since, until_ := t.until_.map (mv d) }) }
    rx := { s.rx with
      locks := s.rx.locks.map (fun x => { x with lock := { x.lock with
        at_ := mv d x.lock.at_
        sfd := x.lock.sfd.map (fun t => { t with tick := mv (d * 4 / 5) t.tick })
        msUntil := x.lock.msUntil.map (mv d) } })
      pool := s.rx.pool.map (fun c => { c with frameAt := mv d c.frameAt, at_ := mv d c.at_ })
      cws := s.rx.cws.map (fun c => { c with frameAt := mv d c.frameAt })
      elWait := s.rx.elWait.map (fun w => { w with frameAt := mv d w.frameAt }) }
    tbl := { s.tbl with nodes := s.tbl.nodes.map (fun n => { n with foAt := mv d n.foAt }) }
    tx := { s.tx with
      txs := (s.tx.txs.map (fun t => { t with onTick := t.onTick.map (mv (d * 4 / 5)) })).map (fun t =>
        if t.phase = .onAir ∨ t.phase = .ackWait then { t with t := mv d t.t, start := mv d t.start } else t)
      air := s.tx.air.map (fun a => { a with from_ := mv d a.from_, to_ := mv d a.to_ }) }
    hif := { s.hif with
      admitted := s.hif.admitted.map (fun a => { a with at_ := mv d a.at_ })
      cpl := s.hif.cpl.map (fun x => { x with firstAt := x.firstAt.map (mv d) })
      dring := s.hif.dring.map (fun x => { x with firstAt := x.firstAt.map (mv d) }) }
    que := { s.que with
      qflow := s.que.qflow.map (fun x => { x with since := mv d x.since })
      pauseAt := s.que.pauseAt.map (fun x => x.map (mv d)) }
    eth := s.eth.map (fun x => { x with
      filledAt := mv d x.filledAt
      paused := x.paused.map (mv d)
      ptpAt := mv d x.ptpAt })
    herd := { s.herd with
      holdoff := s.herd.holdoff.map (fun h => (h.1, mv d h.2))
      sixp := s.herd.sixp.map (fun h => { h with ackAt := h.ackAt.map (mv d) }) }
    sec := { s.sec with alarmAt := s.sec.alarmAt.map (fun a => (a.1, mv d a.2)) }
    pwr := { s.pwr with slckTb := mv d s.pwr.slckTb }
    pair := { s.pair with
      joinAt := mv d s.pair.joinAt
      divergedAt := s.pair.divergedAt.map (mv d)
      rejoinAt := s.pair.rejoinAt.map (mv d) } }

/-- Load the timebase in ACQUIRE (Table 02-4): the journal starts, and a switch whose ASN has passed is taken (R329). -/
def loadTime (value : Nat) (s : State) : State :=
  let t := withTime (fun x => { x with
    tb := value
    sub := 0
    loaded := true
    acqLoaded := true
    recon := none
    fi := 0
    loopAt := none
    samples := []
    sampled := 0
    freqUnc := 50_000
    e0 := (accuracy s.time.src : Rat)
    accAt := value
    lastAsn := none }) (shiftTimes ((value : Int) - (s.time.tb : Int)) s)
  switchIfDue (asnNow t) (if t.jrn.isOpen then t else openJournal 0 t)

/-! ## The state machine (R75, Table 02-4) -/

/-- An accepted offset beyond `TIME_SLEWLIM` (R79). -/
def beyondSlew (s : State) (off : Int) : Bool := decide (s.regN 0x30014 * 1000 < off.natAbs)

/-- `TIME_STEP_NEEDED` or `TIME_AHEAD` (R79, R82). -/
def slewEvent (off : Int) (s : State) : State := event (if off > 0 then 0x0404 else 0x0405) [s.time.src, sx off] s

/-- The servo follows an accepted offset, or, outside ACQUIRE and beyond `TIME_SLEWLIM`, does not slew and raises its event
(R79). -/
def slewOr (off : Int) (s : State) : State :=
  if s.time.st != .acquire && beyondSlew s off then slewEvent off s else servo off s

/-- What an accepted offset of the selected source does outside LOCKED once the timebase is loaded. -/
def followRef (off : Int) (s : State) : State :=
  if ratAbs (filtered s s.time.src) ≤ 100 then setTimeState .locked (slewOr off s)
  else if s.time.st != .acquire && beyondSlew s off then slewEvent off (withTime (fun x => { x with noSlew := true }) s)
  else servo off s

/-- The load row of Table 02-4 holds for an accepted reference of source `c`. -/
def mayLoad (s : State) (c : Nat) (off : Int) : Bool :=
  s.time.epochSet && !s.time.acqLoaded && decide ((s.time.epoch : Int) ≤ s.time.tb + off) && (c != 3 || s.regB 0x30020 2)

/-- Table 02-4 after an outcome of source `c`: whether it was accepted, and whether it changed the source's qualification. -/
def timeTable (c : Nat) (acc changed lost : Bool) (off : Int) (s : State) : State :=
  let mine := fun (t : State) => acc && t.time.src == c
  match s.time.st with
  | .acquire =>
    let t := if changed then reselect s else s
    if mine t && srcQual t c then
      if t.time.acqLoaded then followRef off t else if mayLoad t c off then loadTime ((t.time.tb : Int) + off).toNat t else t
    else t
  | .locked =>
    if lost && s.time.src == c then reselect (setTimeState .holdover (holdF s))
    else revert (if mine s then slewOr off s else s)
  | _ =>
    let t := if changed then reselect s else s
    if mine t then followRef off t else t

/-- Run counters and qualification of one source after an outcome (R57). -/
def SrcSt.note (s : State) (c : Nat) (acc : Bool) (off : Int) (x : SrcSt) : SrcSt :=
  if acc then
    let q := x.qualified || (qualCnt s ≤ x.okRun + 1 && (srcPrio s).contains c)
    { x with
      qualified := q
      okRun := x.okRun + 1
      badRun := 0
      prev := some (off, slewTo s.time s.time.tb)
      offs := (off :: x.offs).take 16
      qualAt := if x.qualified then x.qualAt else s.time.tb
      disagreed := x.disagreed && x.qualified }
  else
    { x with
      qualified := x.qualified && x.badRun + 1 < 3
      okRun := 0
      badRun := x.badRun + 1
      prev := if x.badRun + 1 < 3 then x.prev else none }

/-- The source or air peer of an outcome. -/
def srcIn (s : State) (c p : Nat) : SrcSt :=
  if c = 4 then s.time.peers.getD p SrcSt.reset else s.time.srcs.getD (c - 1) SrcSt.reset
def modSrc (c p : Nat) (g : SrcSt → SrcSt) (s : State) : State :=
  withTime (fun x =>
    if c = 4 then { x with peers := modAt p g x.peers } else { x with srcs := modAt (c - 1) g x.srcs }) s

/-- An outcome of source `c` noted in its counters and qualification. -/
def noted (c p : Nat) (acc : Bool) (off : Int) (s : State) : State := modSrc c p (SrcSt.note s c acc off) s

/-- Act on a journaled outcome of source `c` (air peer `p` for AIR): 0 accepted, 1 missed, 2 rejected. -/
def sourceOutcome (c p outcome : Nat) (off : Int) (s : State) : State :=
  let was := srcQual s c
  let t := noted c p (outcome == 0) off s
  let now := srcQual t c
  if c = 0 ∨ 4 < c then s
  else
    let lost := outcome != 0 && !now && (was || (srcIn s c p).badRun == 2)
    timeTable c (outcome == 0 && (c != 4 || followed t == some p)) (was != now) lost off t

/-! ## References as inputs -/

/-- R58: whether an offset of source state `x`, code `c`, is an outlier. -/
def outlier (s : State) (c : Nat) (x : SrcSt) (off : Int) : Bool :=
  if s.time.st = .locked ∧ s.time.src = c ∧ (c ≠ 4 ∨ (followed s).isSome) then
    !x.offs.isEmpty && decide ((outlierLim s c : Rat) < ratAbs ((off : Rat) - filtOf s x))
  else
    match x.prev with
    | some (o, sl) =>
      decide ((outlierLim s c : Rat) + ratAbs (slewTo s.time s.time.tb - sl) < ((off - o).natAbs : Rat))
    | none => false

/-- R56: the reference, once accepted, would load the timebase with a value before E: it would be of the selected source and
every other condition of the load row of Table 02-4 would hold. -/
def beforeEpoch (s : State) (c p : Nat) (off : Int) : Bool :=
  let t := noted c p true off s
  s.time.st == .acquire && s.time.epochSet && !s.time.acqLoaded && bestSrc t == c && (c != 4 || followed t == some p) &&
    (c != 3 || s.regB 0x30020 2) && decide ((s.time.tb : Int) + off < s.time.epoch)

/-- One reference of source `c` is decided: discarded when its interval spans a step (R81), else checked (R56, R58),
journaled (R60) and acted on. `kind` 0 offers an offset, 1 is a miss, 2 a rejection. -/
def reference (c p kind : Nat) (off : Int) (pps : Nat) (mpd : Int) (s : State) : State :=
  let x := srcIn s c p
  if x.skip then modSrc c p (fun z => { z with skip := false }) s
  else
    let early := kind == 0 && beforeEpoch s c p off
    let o := if kind = 0 ∧ (early ∨ outlier s c x off) then 2 else kind
    let t := withTime (fun y => { y with epochRej := y.epochRej + b2n early }) s
    sourceOutcome c p o off (journal (.tsrc c o pps off mpd) t)

/-- Slot-boundary rows of Table 02-4. -/
def timeBoundary (s : State) : State :=
  match s.time.st with
  | .holdover => if holdLimNs s < estErr s then setTimeState .drifted s else s
  | .drifted => if estErr s ≤ holdLimNs s then setTimeState .holdover s else s
  | .locked => revert s
  | .acquire => s

end Sys2Proof.Machine
end

