-- ==== Sys2Proof/Machine/Prep.lean ====
section
/-! DEFINITION. Preparation of the cells of a slot (R31, R204 to R208, R212, R213, R218, R219, R224 to R227, R130, R131,
R133, R140, R158, R262 to R269): frame selection, channel, airtime, guard, the checks of Table 07-5, staging. -/
namespace Sys2Proof.Machine

/-! ## Configuration of a slot (R140, R206, R504) -/

/-- The value of a staged register that serves the cells of ASN `n`; the Collie maps are not staged. -/
def cfgAt (s : State) (n x : Nat) : Nat :=
  if 0x91B00 ≤ x ∧ x < 0x91D00 then (cellsGet ((x - 0x91900) / 4) 0 s.sch.maps).toNat
  else match s.bank.apply with
    | some a => if a.asn ≤ n then (cellsGet x (resetAt x) a.snap).toNat else s.act x
    | none => s.act x

/-- The cells of ASN `n` are prepared under the rules of WATCH. -/
def watchAt (s : State) (n : Nat) : Bool :=
  match s.pwr.commit with
  | some c => if c.asn ≤ n then c.target == .watch else s.pwr.st == .watch
  | none => s.pwr.st == .watch

/-- No cell is prepared at or after a commit to KEEP (R513). -/
def keepAt (s : State) (n : Nat) : Bool :=
  match s.pwr.commit with
  | some c => c.target == .keep && decide (c.asn ≤ n)
  | none => false

/-! ## Nodes (R217, R248, R251) -/

/-- Octet of `SCH_HLADDER[c]` for rung `r`. -/
def ladderAt (s : State) (c r : Nat) : Nat :=
  bitsOf (s.regN (0x92040 + 8 * c + 4 * (r / 4))) (8 * (r % 4) + 7) (8 * (r % 4))
def nodeProf (s : State) (n : Node) : Nat := ladderAt s n.cls n.herd.rung % 32

def classReg (c : Nat) : Nat := 0x90400 + 16 * c
def classVie (s : State) (c : Nat) : Bool := s.regB (classReg c + 12) 31
def supto (s : State) (c : Nat) : Nat := s.regF (classReg c + 12) 15 0

/-- The announcements pending for a node. -/
def annsOf (s : State) (i : Nat) : List Ann := s.herd.anns.filter (fun a => a.node == i)

/-! ## Vendor IE (R263, R264) -/

/-- The words of channel map `m`. -/
def mapOctets (g : Nat → Nat) (m : Nat) : List Octet := (List.range 8).flatMap (fun j => octetsLE 4 (g (0x91900 + 0x20 * m + 4 * j)))

/-- The sub-element of an announcement to a node (Table 09-5). -/
def annSub (s : State) (g : Nat → Nat) (nd : Node) (a : Ann) : Nat × List Octet :=
  match a.kind with
  | .map => (3, mapOctets g a.value.toNat)
  | .profile =>
    let q := profAt g (ladderAt s nd.cls a.value.toNat % 32)
    (4, octetsLE 1 q.typ ++ zeros 3 ++ octetsLE 4 q.param ++ octetsLE 4 q.pre)
  | .power => (5, octetsInt 1 a.value)
  | .hint => (6, octetsLE 1 a.value.toNat)

/-- The announcements in the order of their sub-elements. -/
def annsInOrder (l : List Ann) : List Ann :=
  [AnnKind.map, AnnKind.profile, AnnKind.power, AnnKind.hint].filterMap (fun k => l.find? (fun a => a.kind == k))

/-- STEER: the node's estimates, and whether this frame is steered. -/
def steerSub (s : State) (nd : Node) (valid steered : Bool) : List (Nat × List Octet) :=
  if s.regB 0x80814 0 then [(7, octetsLE 1 (b2n steered + 2 * b2n valid) ++ octetsInt 2 nd.fo ++ octetsInt 2 nd.ro)] else []

/-- EFFECT: the ASN from which the changes apply, that of the cell and one. -/
def effectSub (n : Nat) (l : List Ann) : List (Nat × List Octet) :=
  if l.any (fun a => a.kind != .hint) then [(1, octetsLE 5 (n + 1))] else []

def guardSub (g : Option Nat) : List (Nat × List Octet) := match g with | some x => [(2, octetsLE 4 x)] | none => []

/-! ## Channels (R205) -/

/-- Transmit entry that a channel index maps to, where it is enabled. -/
def entryOf (g : Nat → Nat) (c : Nat) : Option Nat :=
  if (chanAt g c).txen && (txChAt g (chanAt g c).txch).en then some (chanAt g c).txch else none

/-- The channel index of a cell: by the sequence alone, or under channel map `m`. -/
def cellChan (g : Nat → Nat) (band a chofs : Nat) (m : Option Nat) : Option Nat :=
  let len := hopLen g band
  if !hopEn g band || len = 0 then none
  else
    let idx := (a + chofs) % len
    let raw := hopEntry g band idx
    match m with
    | none => some raw
    | some m =>
      if mapHas g m raw then some raw
      else
        let u := (hopList g band).filter (mapHas g m)
        u[idx % max 1 u.length]?

/-! ## Airtime accounts (R224 to R227) -/

/-- First enabled sub-band that holds a centre frequency in Hz. -/
def subBandOf (s : State) (f : Nat) : Option Nat :=
  (List.range 16).find? (fun k => s.regB (0x80108 + 16 * k) 31 && decide (1000 * s.regN (0x80100 + 16 * k) ≤ f) &&
    decide (f ≤ 1000 * s.regN (0x80104 + 16 * k)))

/-- Time of the airtime accounts: ns since E less the steps taken. -/
def acctTime (s : State) (t : Nat) : Nat := t - s.time.epoch - s.time.stepSum

/-- Airtime charged in the current bucket and the `k` before it, buckets of `w` ns, at account time `at_`. -/
def chargedIn (w k at_ : Nat) (l : List Charge) : Nat :=
  sumNat ((l.filter (fun c => decide (c.at_ / max 1 w + k ≥ at_ / max 1 w) && decide (c.at_ / max 1 w ≤ at_ / max 1 w))).map Charge.ns)

def dwellW (s : State) : Nat := s.regF 0x80004 31 16
def dwellUse (s : State) (entry at_ : Nat) : Nat :=
  if dwellW s = 0 then 0
  else chargedIn (dwellW s * 1_000_000_000 / 16) 16 at_ (s.tx.charges.filter (fun c => c.entry == some entry))
def dutyUse (s : State) (sub at_ : Nat) : Nat :=
  chargedIn 60_000_000_000 60 at_ (s.tx.charges.filter (fun c => c.sub == some sub))

def dwellDenied (s : State) (entry at_ ns : Nat) (bulk : Bool) : Bool :=
  s.regB 0x80000 0 && !bulk && decide (s.regF 0x80004 15 0 * 1_000_000 < dwellUse s entry at_ + ns)

def dutyDenied (s : State) (sub : Option Nat) (at_ ns : Nat) (bulk : Bool) : Bool :=
  match sub with
  | none => false
  | some k =>
    let d := s.regF (0x80108 + 16 * k) 13 0
    (bulk || s.regB 0x80000 8) && d != 0 && decide (d * 360_000_000 < dutyUse s k at_ + ns)

/-- The entry a charge counts for: none while W is 0 (R225). -/
def chargedEntry (s : State) (e : Nat) : Option Nat := if dwellW s = 0 then none else some e

/-- Reserve airtime. -/
def reserveAir (c : Charge) (s : State) : State := { s with tx := { s.tx with charges := s.tx.charges ++ [c] } }

/-! ## Guard (R218, R219) -/

/-- Slots from LSYNC to ASN `n`, modulo 2^32. -/
def sinceSync (nd : Node) (n : Nat) : Nat := (n % 2 ^ 32 + 2 ^ 32 - nd.lsync) % 2 ^ 32

/-- Guard in ns for a transmission in slot `n`. -/
def guardNs (s : State) (nd : Node) (n : Nat) : Rat :=
  let t : Nat := sinceSync nd n * s.time.l + 1000 * s.regN 0x90008
  let b := classReg nd.cls
  let g : Rat := max ((1000 * s.regN (b + 4) : Nat) : Rat)
    ((nd.drift.natAbs * t : Nat) / 100_000_000 + ((2 * s.regN b : Nat) : Rat))
  if s.time.sinceWake then g + (estErrReg s : Rat) else g

/-- A guard in whole preamble units: those added to the preamble, and G in ns. -/
structure Guard where
  ext   : Nat
  early : Nat

/-- The guard rounded up to whole preamble units; none when it does not fit, the airtime apart (R219). -/
def guardOf (s : State) (q : Prof) (nd : Node) (n : Nat) : Option Guard :=
  let gd := guardNs s nd n
  if nd.resync then none
  else if q.typ = 1 ∨ q.typ = 2 then
    if gd ≤ ((1000 * s.regN (classReg nd.cls + 8) : Nat) : Rat) / 2 then some ⟨0, 0⟩ else none
  else
    let unit : Rat := if q.typ = 0 then ((8_000_000 : Nat) : Rat) / (max 1 q.fskKbps : Nat) else 1_280_000
    let units := (gd / unit).ceil.toNat
    let ns : Rat := (units : Rat) * unit
    let ext := if classVie s nd.cls then 2 * units else units
    if ((1000 * s.regN 0x9001C : Nat) : Rat) < ns then none
    else if (q.typ = 0 ∧ 1000 < q.prelen + ext) ∨ (q.typ = 3 ∧ 64 < q.elPrerep + ext) then none
    else some ⟨ext, ns.floor.toNat⟩

/-- G as the GUARD sub-element gives it: to a node whose class has VIE = 1, when it is not 0. -/
def guardTold (s : State) (nd : Node) (x : Option Guard) : Option Nat :=
  match x with
  | some g => if classVie s nd.cls && g.early != 0 then some g.early else none
  | none => none

/-! ## Beacons (R254, R261 to R263) -/

def bcnSecured (s : State) : Bool := s.regB 0x80810 31

/-- Slotframes that a beacon of slot `n` describes: handle, LENGTH and shared cells by ascending slot offset. -/
def bcnFrames (s : State) (n : Nat) : List (Nat × Nat × List (Nat × Word)) :=
  let st := storeFor s n
  (List.range 64).filterMap (fun k =>
    if (if k < 32 then s.regB 0x80818 k else s.regB 0x8081C (k - 32)) then
      (sfAt s k n).map (fun u => (k, u.rec_.length, (st.filter (fun p => u.rec_.has p.1 && cellValid p.2 && cellShared p.2)).map
        (fun p => ((p.1 - u.rec_.base) / max 1 u.rec_.depth, p.2))))
    else none)

/-- A link: slot offset, channel offset, and the options of the node's side. -/
def linkOct (x : Nat × Word) : List Octet :=
  octetsLE 2 x.1 ++ octetsLE 2 (cellChofs x.2) ++
    octetsLE 1 (b2n (cellRx x.2) + 2 * b2n (cellTx x.2) + 4 * b2n (cellShared x.2) + 8 * b2n (x.2.getLsbD 27))

/-- The slotframes with at most `m` links in all. -/
def framesOct : Nat → List (Nat × Nat × List (Nat × Word)) → List Octet
  | _, [] => []
  | m, (k, len, cells) :: t =>
    octetsLE 1 k ++ octetsLE 2 len ++ octetsLE 1 (min m cells.length) ++ (cells.take m).flatMap linkOct ++ framesOct (m - cells.length) t

/-- The timebase is not DRIFTED: cross-collector handover is offered (R254). -/
def handoverOffered (s : State) : Bool := s.time.st != .drifted

/-- Content of the channel hopping IE: the sequence ID, and with HOPFULL the standard's fields with HOPLEN and the list. -/
def hopContent (s : State) (g : Nat → Nat) : List Octet :=
  let b := s.regF 0x80810 1 0
  octetsLE 1 b ++ (if s.regB 0x80810 30 then
    octetsLE 7 Config.hopPhy ++ octetsLE 2 (hopLen g b) ++ (hopList g b).flatMap (octetsLE 2) ++ octetsLE 2 Config.hopNow else [])

/-- The MLME IE of a beacon: TSCH synchronisation, slotframe and link, channel hopping. -/
def bcnMlme (s : State) (g : Nat → Nat) (n : Nat) : List Octet :=
  let sfs := bcnFrames s n
  payloadIe 1 (shortIe 0x1A (octetsLE 5 n ++ octetsLE 1 (if handoverOffered s then s.regF 0x92024 15 8 else 0xFF)) ++
    shortIe 0x1B (octetsLE 1 sfs.length ++ framesOct (min 16 (s.regF 0x80810 20 16)) sfs) ++ longIe 9 (hopContent s g))

/-- BEACON (Table 09-6). -/
def bcnValue (s : State) (n : Nat) : List Octet :=
  octetsLE 1 (b2n (handoverOffered s)) ++ octetsLE 1 s.time.slotLen ++
    octetsLE 1 (if (sfAt s (autoSf s) n).isSome then autoSf s else 0xFF) ++ octetsLE 1 (s.regF 0x92004 7 0) ++
    octetsLE 2 (s.regN 0x90008) ++ octetsLE 2 (s.regF 0x9000C 31 16) ++ octetsLE 2 (s.regF 0x9000C 15 0) ++
    octetsLE 2 (s.regN 0x90010) ++ octetsLE 2 (s.regN 0x90014) ++ octetsLE 2 (s.regN 0x90018)

/-- ELAND: an entry for each enabled `MAC_BCNEL`. -/
def bcnEland (s : State) : List Octet :=
  ((List.range 8).filter (fun i => s.regB (0x80820 + 4 * i) 31)).flatMap (fun i =>
    let a := 0x80820 + 4 * i
    octetsLE 1 (s.regF a 23 16) ++ octetsLE 1 (s.regF a 14 8) ++ octetsLE 1 (s.regF a 1 0))

/-- An enhanced beacon of slot `n`. -/
def bcnPlain (s : State) (g : Nat → Nat) (n seq : Nat) (sec : SecHdr) : Plain :=
  let el := bcnEland s
  let pies := bcnMlme s g n ++ vendorIe ((8, bcnValue s n) :: (if el.isEmpty then [] else [(9, el)]))
  ⟨mkMhr 0 seq (panId s) false true .bcast (some (deviceEui s)) (if bcnSecured s then some sec else none), ht1 pies, pies⟩

/-! ## Steering (R130, R157, R158) -/

structure Steer where
  freq      : Nat
  /-- symbol-clock correction, 0.01 ppm -/
  rate      : Int
  steered   : Bool
  clamped   : Bool
  rateClamp : Bool
  stale     : Bool

/-- The estimates are valid and not stale. -/
def steerValid (s : State) (nd : Node) : Bool :=
  decide (2 ≤ nd.nm) && decide (s.time.tb ≤ nd.foAt + s.regN 0x7000C * 1_000_000_000)

/-- Carrier and symbol clock of a frame to a node under its profile's treatment; a BULK frame is never steered. -/
def steerFor (s : State) (q : Prof) (e : TxCh) (bulk : Bool) (nd : Option Node) : Steer :=
  match nd with
  | some m =>
    if !q.steer || bulk then ⟨e.freq, 0, false, false, false, false⟩
    else if !steerValid s m then ⟨e.freq, 0, false, false, false, true⟩
    else
      let want := roundDiv (m.fo * (e.freq : Int)) 100_000_000
      let got := clampInt (-(e.steermax : Int)) e.steermax want
      ⟨((e.freq : Int) + got).toNat, clampInt (-20_000) 20_000 m.ro, true, want != got, decide (20_000 < m.ro.natAbs), false⟩
  | none => ⟨e.freq, 0, false, false, false, false⟩

def countSteer (x : Steer) (s : State) : State :=
  bumpIf x.stale 0x70014 (bumpIf x.rateClamp 0x70010 (bumpIf x.clamped 0x6000C s))

/-! ## Level (R131, R252) -/

/-- Sensitivity of a profile in 1/16 dB, while it is set. -/
def sensOf (s : State) (p : Nat) : Option Int :=
  if s.regB (0x920C0 + 4 * p) 31 then some (4 * signedOf 12 (s.regF (0x920C0 + 4 * p) 11 0)) else none
/-- TARGET in 1/16 dB. -/
def targetOf (s : State) : Int := 16 * (s.regF 0x92010 7 0 : Int)
/-- M(r) in 1/16 dB. -/
def marginAt (s : State) (nd : Node) (r : Nat) : Option Int :=
  match nd.herd.rssi, sensOf s (ladderAt s nd.cls r % 32) with
  | some x, some y => some (x - y)
  | _, _ => none

/-- Per-frame backoff in 0.25 dB: Herd applies it in FULL while DLBACKOFF is 1. -/
def backoffOf (s : State) (nd : Option Node) : Int :=
  match nd with
  | some m =>
    if s.regB 0x92010 31 ∧ herdModeReg s = 2 then
      match marginAt s m m.herd.rung with
      | some x => max 0 (min (x - targetOf s - 96) 192) / 4
      | none => 0
    else 0
  | none => 0

/-! ## Withdrawal at preparation (R554) -/

/-- A command admitted before the instant `bef`, where one is given. -/
def admBefore (s : State) (bef : Option Nat) (r : CmdRef) : Bool :=
  match bef, admOf s r with
  | some e, some a => decide (a.at_ < e)
  | _, _ => true

/-- An `RF_PORT_SET` that takes an RFOUT port down is in effect: it has not reached its target, or the target is OFF. -/
def setDown (p : Port) (ok : CmdRef → Bool) : Bool := p.waiting.any (fun x => ok x.1) || (p.told && p.cmd == .off)

/-- The ASN of a pending change that affects a transmission on `port` in slotframe `sfh`, for slot `n`; of an Enhanced ACK,
only of commands admitted before the end of the frame that it answers. -/
def cutsOf (s : State) (n port sfh : Nat) (bef : Option Nat) : List Nat :=
  let ok := admBefore s bef
  (match s.bank.apply with
    | some a => if n < a.asn && ok a.ref then [a.asn] else []
    | none => []) ++
  ((s.rf.ports.getD port Port.reset).pending.filterMap (fun x =>
    if (x.2.1 == .off || x.2.1 == .idle) && ok x.1 then some x.2.2 else none)) ++
  (if setDown (s.rf.ports.getD port Port.reset) ok then [0] else []) ++
  (match s.pwr.commit with
    | some c => if c.target == .watch && s.pwr.st == .run && port != 4 + b2n (s.regB 0x10008 1) && ok c.ref then [c.asn] else []
    | none => []) ++
  (if sfh < 64 then (sfUses s sfh).filterMap (fun u => if u.inUse n then u.rem else none) else [])

def cutOff (s : State) (n port sfh end_ : Nat) (bef : Option Nat) : Bool :=
  (cutsOf s n port sfh bef).any (fun a => decide (s.time.at_ a ≤ end_))

/-! ## Frame selection (R204, R207) -/

/-- What a cell sends. -/
structure Pick where
  kind  : TxKind
  node  : Option Node
  frame : Option Frame

inductive Sel where
  | skip (k : Nat)
  | pick (p : Pick)

/-- Nodes that have a transmit cell in some slotframe in use at ASN `n`. -/
def cellNodes (s : State) (n : Nat) (st : List (Nat × Word)) : List Nat :=
  (List.range 64).flatMap (fun k => match sfAt s k n with
    | some u => (st.filter (fun p => u.rec_.has p.1 && cellTx p.2 && namesNode p.2)).map (fun p => cellNode p.2)
    | none => [])

/-- The head frame in admission order among the nodes without a transmit cell. -/
def sharedHead (s : State) (named : List Nat) : Option (Node × Frame) :=
  (s.tbl.nodes.filter (fun m => !m.tomb && !named.contains m.idx && !inFlight s m.idx)).foldl (fun b m =>
    match m.dl.head?.bind (frameAt s) with
    | some f => match b with
      | some (_, e) => if f.order < e.order then some (m, f) else b
      | none => some (m, f)
    | none => b) none

/-- The first frame of the BULK queue that is neither staged nor on air. -/
def bulkHead (s : State) : Option Frame := ((s.tx.bulk.filter (fun i => !(flying s).contains i)).head?).bind (frameAt s)

/-- The slot whose keys secure a transmission at ASN `n`, and whether a pending switch comes first (R330). -/
def switchBy (s : State) (n : Nat) : Bool := match s.sec.sw with | some m => decide (m ≤ n) | none => false
def txSlot (s : State) (n : Nat) : KeySlot := if switchBy s n then nextSlot s else curSlot s

/-- The counter a transmission at ASN `n` draws from is stalled (R336): CURRENT's, or that of a pending generation, whose
block 0 counts as acknowledged (R334). -/
def fcHeld (s : State) (n : Nat) : Bool :=
  if switchBy s n then !s.sec.fcValid || decide (2 ^ 20 ≤ s.sec.fcPre) else (fcReason s).isSome

/-- Node of a plain cell. -/
def pickNode (s : State) (i : Nat) (used : List Nat) : Sel :=
  if used.contains i then .skip 12
  else match nodeAt s i with
    | none => .skip 13
    | some m =>
      if inFlight s i then .skip 8
      else match m.dl.head?.bind (frameAt s) with
        | some f => .pick ⟨.unicast, some m, some f⟩
        | none => .skip 13

def select (s : State) (n : Nat) (named used : List Nat) (w : Word) : Sel :=
  let i := cellNode w
  if fcHeld s n || s.offline 6 || s.offline 9 || (watchAt s n && i != nodeBeacon) then
    (if used.contains i then .skip 12 else .skip 13)
  else if i = nodeBeacon then .pick ⟨.beacon, none, none⟩
  else if i = nodeBulk then
    match bulkHead s with
    | some f => .pick ⟨.bulk, none, some f⟩
    | none => .skip 13
  else if i = nodeSharedDl then
    match sharedHead s named with
    | some (m, f) => .pick ⟨.shared, some m, some f⟩
    | none => .skip 13
  else pickNode s i used

/-! ## The checks of Table 07-5 -/

/-- What preparation decides for a picked frame. -/
inductive Prep where
  /-- cell outcome; the status with which the frame completes, if it does; `CHB_PROFDENY` and `MAC_DENYCNT` counts -/
  | fail (k : Nat) (st : Option Nat)
  | stage (t : Tx) (sub : Option Nat) (x : Steer) (mk : SecHdr → Plain)

/-- The profile of a picked frame on entry `e`: a node's rung, the command's, and for a beacon one the entry permits, which
no rule names (log entry 97). -/
def pickProf (s : State) (g : Nat → Nat) (e n : Nat) (p : Pick) : Nat :=
  match p.frame.map Frame.kind, p.node with
  | some (.bcast q), _ => q
  | some (.image _ q), _ => q
  | _, some m => nodeProf s m
  | _, none => (permitted g e).getD (Config.beaconProfile (permitted g e) n % max 1 (permitted g e).length) 32

def profOk (g : Nat → Nat) (e p : Nat) : Bool :=
  let l := permitted g e
  l.contains p && (!(profAt g p).msen || l.contains (profAt g p).msbase)

/-- A picked frame before it is sealed: its sequence number, what GUARD and STEER say. -/
def pickPlain (s : State) (g : Nat → Nat) (n seq : Nat) (p : Pick) (told : Option Nat) (x : Steer) (sec : SecHdr) : Plain :=
  match p.node, p.frame with
  | some m, some f =>
    let anns := annsInOrder (annsOf s m.idx)
    let vie := vendorIe (effectSub n anns ++ guardSub told ++ anns.map (annSub s g m) ++ steerSub s m (steerValid s m) x.steered)
    match f.kind with
    | .sixp .. => dataPlain s (.eui m.eui) seq f.ackReq (vie ++ sixtopIe f.oct) [] sec
    | _ => dataPlain s (.eui m.eui) seq f.ackReq vie f.oct sec
  | none, some f => dataPlain s .bcast seq false [] f.oct sec
  | _, none => bcnPlain s g n seq sec

/-- Level at which a picked frame is secured (Table 09-1). -/
def pickLevel (s : State) (p : Pick) : Option Nat :=
  match p.frame with
  | some _ => some (txLevel s)
  | none => if bcnSecured s then some 5 else none

/-- The transmit entry is busy for an interval in slot `n` (R213, R247). -/
def entryBusy (s : State) (e n from_ to_ : Nat) (shielded : Option Nat) : Bool :=
  s.tx.txs.any (fun t => t.entry == e && t.phase != .ackWait && decide (t.start < to_) && decide (from_ < t.start + t.airtime)) ||
    s.herd.busy.any (fun b => b.1 == e && b.2.1 == n && shielded != some b.2.2)

def prioBit (k : TxKind) (bulk : Bool) : Nat :=
  match k with
  | .ack => 0
  | .beacon => 1
  | _ => if bulk then 3 else 2

/-- Checks 3 to 8 and R554 for a frame on entry `e`, with what the transmission will be. A level that LEVEL less the backoff puts
below −40 dBm is −40 dBm (log entry 98). -/
def prepOn (s : State) (g : Nat → Nat) (n sfh : Nat) (long : Bool) (c e : Nat) (p : Pick) : Prep :=
  let x := txChAt g e
  let prof := pickProf s g e n p
  let q := profAt g prof
  let gap := s.regN 0x70008
  let bulk := p.kind == .bulk || (q.typ == 3 && (subBandOf s x.freq).isSome)
  let fit := match p.node with | some m => if bulk then some ⟨0, 0⟩ else guardOf s q m n | none => some ⟨0, 0⟩
  let told := match p.node with | some m => guardTold s m fit | none => none
  let seq := (p.frame.bind Frame.seq).getD s.adp.macSeq
  let st := steerFor s q x bulk p.node
  let sub := subBandOf s st.freq
  let mk := pickPlain s g n seq p told st
  let psdu := (mk ⟨(pickLevel s p).getD 0, 0, 0⟩).psduLen (pickLevel s p) q.fcsLen
  let t := s.time.at_ n + 1000 * s.regN 0x90008
  let gd := fit.getD ⟨0, 0⟩
  let air := airNs g gap prof psdu gd.ext
  let start := t - gd.early
  let at_ := acctTime s t
  let fits := fit.isSome && (long || gd.ext == 0 || decide (air ≤ 1000 * s.regN 0x90014))
  if !profOk g e prof then .fail 17 (some stBad)
  else if decide (Prof.maxPsdu q < psdu) || (!long && decide (1000 * s.regN 0x90014 < airNs g gap prof psdu 0)) then .fail 18 (some stLen)
  else if entryBusy s e n start (start + air) none then .fail 7 none
  else if !fits then .fail 6 none
  else if dwellDenied s e at_ air bulk then .fail 9 (some stDwell)
  else if dutyDenied s sub at_ air bulk then .fail 10 (some stDuty)
  else if cutOff s n (4 + x.port) sfh (start + air) none then .fail 11 (some stReconfig)
  else
    .stage
      { id := s.tx.next
        kind := p.kind
        phase := .staged
        port := 4 + x.port
        entry := e
        chIdx := c
        freq := st.freq
        profile := prof
        node := (p.node.map Node.idx).getD nodeBulk
        frame := p.frame.map Frame.id
        sfh := sfh
        asn := n
        vasn := (start - s.time.epoch) / max 1 s.time.l
        ext := gd.ext
        t := t
        start := start
        airtime := air
        rate := st.rate
        msKey := if q.msen then msKeyOf g prof else none
        psdu := []
        onTick := none
        asked := false
        late := 0
        yield := none
        ackReq := ((p.frame.map Frame.ackReq).getD false)
        seq := seq
        level := max (-160) (x.level - backoffOf s p.node)
        cls := prioBit p.kind bulk
        lbt := match sub with | some k => s.regB (0x80108 + 16 * k) 30 | none => false
        coexFrom := 0
        ann := match p.node with | some m => annsOf s m.idx | none => []
        sync := none } sub st mk

/-- Checks 1 and 2, then the rest. -/
def prepPick (s : State) (n sfh : Nat) (r : SfRec) (w : Word) (p : Pick) : Prep :=
  let g := cfgAt s n
  let m := if p.kind = .unicast then p.node.map (fun x => x.herd.map) else none
  if (p.node.map Node.lost).getD false then .fail 16 (some stNoRoute)
  else match cellChan g r.band n (cellChofs w) m with
    | none => .fail 14 none
    | some c =>
      match entryOf g c with
      | none =>
        if s.bank.apply.isSome && (entryOf s.act c).isSome then .fail 11 (some stReconfig) else .fail 14 none
      | some e =>
        if watchAt s n && (txChAt g e).port != b2n (s.regB 0x10008 1) then .fail 14 none
        else if !(txSlot s n).valid && (p.kind != .beacon || bcnSecured s) then .fail 13 none
        else prepOn s g n sfh r.long c e p

/-! ## Staging -/

/-- The key that secures a transmission (Table 09-7); none for an unsecured beacon. -/
def txKey (s : State) (n : Nat) (nd : Option Node) (kind : TxKind) : Option KeyId :=
  match nd with
  | some m => some ((txSlot s n).node m.eui m.vref)
  | none => if kind = .beacon ∧ !bcnSecured s then none else some ((txSlot s n).bcast (panId s))

def useKeyOpt (k : Option KeyId) (s : State) : State := match k with | some x => useKey x s | none => s

/-- Draw the counter under the generation of ASN `n`. -/
def drawFor (n : Nat) (s : State) : State :=
  if switchBy s n then { s with sec := { s.sec with fcPre := s.sec.fcPre + 1 } } else drawFc s

/-- A frame takes its sequence number at its first preparation. -/
def setSeq (id v : Nat) (s : State) : State :=
  { s with tx := { s.tx with frames := s.tx.frames.map (fun f => if f.id = id then { f with seq := some v } else f) } }

/-- The security fields of a transmission at ASN `n` under key `k`: the counter it draws, the key index octet (R265). -/
def secHdr (s : State) (n level : Nat) (k : KeyId) : SecHdr :=
  ⟨level, if switchBy s n then s.sec.fcPre else s.sec.fcNext,
    keyIndexOf (keyGen k) + (match k with | .bcast .. => 128 | _ => 0)⟩

/-- The PSDU of a transmission as it goes on air. -/
def sealedPsdu (s : State) (t : Tx) (fcs : Nat) (level : Option Nat) (k : Option KeyId) (mk : SecHdr → Plain) : List Octet :=
  let h := secHdr s t.asn (level.getD 0) (k.getD .bad)
  (mk h).psdu (match level with | some _ => k.map keyOct | none => none) (deviceEui s) h.fc h.level t.vasn fcs

/-- Draw the counter, secure at `level`, stage and reserve airtime (R208, R227). -/
def stageTx (t : Tx) (sub : Option Nat) (x : Steer) (mk : SecHdr → Plain) (level : Option Nat) (p : Pick) (s : State) : State :=
  let k := txKey s t.asn p.node t.kind
  let q := profAt (cfgAt s t.asn) t.profile
  let t1 := { t with psdu := sealedPsdu s t q.fcsLen level k mk }
  let u := countSteer x (useKeyOpt k (drawFor t.asn s))
  let v := match t.frame with | some f => setSeq f t.seq u | none => u
  reserveAir ⟨t.id, chargedEntry s t.entry, sub, acctTime s t.t, t.airtime, false⟩
    { v with
      adp := { v.adp with macSeq := if p.kind != .ack && (p.frame.bind Frame.seq).isNone then (v.adp.macSeq + 1) % 256 else v.adp.macSeq }
      tx := { v.tx with txs := v.tx.txs ++ [t1], next := v.tx.next + 1 } }

/-- Count a denial (`MAC_DENYCNT`) or a profile that is not permitted (`CHB_PROFDENY`). -/
def countFail (k : Nat) (s : State) : State :=
  if k = 17 then bump 0x60010 s
  else if k = 9 then { s with cnt := cntBump 0x8000C 0 16 1 s.cnt }
  else if k = 10 then { s with cnt := cntBump 0x8000C 16 16 1 s.cnt }
  else s

/-- A DLSF cell's run of NO_FRAME, by its store word (R245). -/
def cellIdle (sfh a : Nat) (w : Word) (idle : Bool) (s : State) : State :=
  let rest := s.herd.idle.filter (fun x => x.1 != a)
  let k := ((s.herd.idle.find? (fun x => x.1 == a)).map Prod.snd).getD 0
  { s with herd := { s.herd with
      idle := if sfh = dlSf s ∧ namesNode w then (if idle then rest ++ [(a, k + 1)] else rest) else s.herd.idle } }

/-- Prepare one cell of slot `n`, store word `a`. -/
def prepCell (n sfh : Nat) (r : SfRec) (named used : List Nat) (a : Nat) (w : Word) (s : State) : State :=
  let tag := cellNode w
  match select s n named used w with
  | .skip k => cellIdle sfh a w (k == 13) (cellOut k n sfh tag s)
  | .pick p =>
    let who := (p.node.map Node.idx).getD tag
    match prepPick s n sfh r w p with
    | .fail k st =>
      let t := cellIdle sfh a w (k == 13) (cellOut k n sfh who (countFail k s))
      match st, p.frame with
      | some x, some f => frameDone f.id x t
      | _, _ => t
    | .stage t sub x mk => cellIdle sfh a w false (stageTx t sub x mk (pickLevel s p) p s)

/-- The cells of slotframe `k` in slot `n`, in order of position. -/
def slotCells (s : State) (st : List (Nat × Word)) (n k : Nat) : List (Nat × SfRec × Nat × Word) :=
  match sfAt s k n with
  | some u => ((List.range u.rec_.depth).map (fun j =>
      let a := u.rec_.wordOf (n % max 1 u.rec_.length) j
      (k, u.rec_, a, storeGet st a))).filter (fun x => cellValid x.2.2.2 && cellTx x.2.2.2)
  | none => []

/-- Prepare cells in order; a node index used once is a conflict later in the slot (R204). -/
def prepCells (n : Nat) (named : List Nat) : List Nat → List (Nat × SfRec × Nat × Word) → State → State
  | _, [], s => s
  | used, (k, r, a, w) :: t, s =>
    prepCells n named (if namesNode w then cellNode w :: used else used) t (prepCell n k r named used a w s)

/-- Prepare the cells of slot `n` (R207); none in ACQUIRE (R76), at or after a commit to KEEP, or after a fatal error. -/
def prepSlot (n : Nat) (s : State) : State :=
  if s.time.st == .acquire || keepAt s n || !s.up then s
  else
    let st := storeFor s n
    prepCells n (cellNodes s n st) [] ((List.range 64).flatMap (slotCells s st n)) s

end Sys2Proof.Machine
end

