-- ==== Sys2Proof/Machine/RadioOps.lean ====
section
/-! DEFINITION. The radio side's shared operations: port states and their transitions (Tables 03-2 and 03-3), carriers,
FEM rows and coexistence lines (R111, R113), what the SPLL's loss does (R91), demodulator locks that are lost, and the
DEAF rule (R107). -/
namespace Sys2Proof.Machine

/-! ## Ports -/

def portOf (s : State) (p : Nat) : Port := s.rf.ports.getD p Port.reset
def modPort (p : Nat) (f : Port → Port) (s : State) : State := { s with rf := { s.rf with ports := modAt p f s.rf.ports } }
def withRf (f : RfSt → RfSt) (s : State) : State := { s with rf := f s.rf }
/-- RFOUT_A and RFOUT_B are ports 4 and 5 (R413). -/
def isOut (p : Nat) : Bool := 4 ≤ p
def txCtl (p : Nat) : Nat := 0x50000 + 4 * (p - 4)
/-- Ports are held as WATCH holds them (R504), up to the slot before a commit to RUN, in which they start back (R505). -/
def inWatch (s : State) : Bool :=
  s.pwr.st == .watch && !(match s.pwr.commit, s.time.lastAsn with
    | some c, some a => c.target == .run && decide (c.asn ≤ a + 1)
    | _, _ => false)

/-- The state a port is to rest in: the commanded one, or in WATCH that of R504, or on a standby that of R458. -/
def wanted (s : State) (p : Nat) : PortState :=
  if s.pair.follows then (if isOut p then .idle else .on)
  else if inWatch s then
    if isOut p then (if p = 4 + b2n (s.regB 0x10008 1) then (portOf s p).cmd else .off)
    else if p / 2 = b2n (s.regB 0x10008 0) then .on else .off
  else (portOf s p).cmd

/-- The state that `RFTX_CTL.TX_RETURN` selects. -/
def txReturn (s : State) (p : Nat) : PortState := if s.regF (txCtl p) 1 0 = 1 || inWatch s then .off else .idle
def lingerNs (s : State) (p : Nat) : Nat := 1000 * s.regF (txCtl p) 31 24
def femHoldNs (s : State) (p : Nat) : Nat := 1000 * s.regF (txCtl p) 23 20
def femLeadNs (s : State) (p : Nat) : Nat := 1000 * min 11 (max 1 (s.regF (txCtl p) 15 12))
/-- Subsystem 1 or 2 is offline: every port is held OFF (Table 17-5). -/
def portsHeld (s : State) : Bool := s.offline 1 || s.offline 2

/-- The next state on the way from one state to another, and its transition time in ns (Table 03-3). -/
def hop (out : Bool) (a b : PortState) : Option (PortState × Nat) :=
  if a = b then none
  else match a with
    | .off => some (.idle, 60_000)
    | .cal => some (.idle, 0)
    | .idle =>
      match b with
      | .on => some (.on, if out then 12_000 else 4_000)
      | .cal => some (.cal, 0)
      | _ => some (.off, 2_000)
    | .on => if out then (if b = .off then some (.off, 8_000) else some (.idle, 6_000)) else some (.idle, 1_000)

/-- Start the next transition towards state `b` at `now`. A port leaves OFF only while the SPLL is LOCKED (R94). -/
def startHop (out : Bool) (now : Nat) (b : PortState) (p : Port) : Port :=
  { p with trans := (hop out p.st b).map (fun h => (h.1, now + h.2)) }

def startTo (s : State) (p now : Nat) (b : PortState) (y : Port) : Port :=
  if y.st == .off && b != .off && s.rf.spll != .locked then y else startHop (isOut p) now b y

/-- The levels that the eight FEM lines of RFOUT port `p` take from its row of `RFTX_FEMTT` (R111): bit k is line k; none while they
float, in KEEP and OFF (R112); low in main reset (Table 18-8). -/
def femLines (s : State) (p : Nat) : Option Nat :=
  let k := 8 * ((s.rf.ports.getD p Port.reset).femRow % 4)
  if s.pwr.st == .keep || s.pwr.st == .off then none
  else if s.pwr.phase == 0 then some 0
  else some (s.regF (0x50010 + 4 * (p - 4)) (k + 7) k)

/-- The FEM row of a state: 0 OFF, 1 CAL, 2 IDLE, 3 TX. -/
def femRowOf (x : PortState) : Nat :=
  match x with
  | .off => 0
  | .cal => 1
  | .idle => 2
  | .on => 3

/-- Where a port rests when nothing asks for more: an RFIN port in its commanded state, an RFOUT port in OFF only by
command. -/
def restOf (s : State) (p : Nat) : PortState :=
  let x := portOf s p
  if portsHeld s || x.failed then .off
  else if isOut p then (if wanted s p = .off then .off else if x.st = .on then txReturn s p else x.st)
  else wanted s p

/-- A transmission that the radio side has not yet started or given up. -/
def Tx.waits (t : Tx) : Bool := (t.phase == .staged || t.phase == .ramping || t.phase == .held) && t.yield.isNone

/-- Frames wait for RFOUT port `p` that R554 lets start: those that the command's admission did not withdraw. -/
def owesFrames (s : State) (p : Nat) : Bool := isOut p && s.tx.txs.any (fun t => t.port == p && t.waits)

/-- Complete the waiting `RF_PORT_SET` commands of a port that has reached its commanded state (R95). -/
def portReached (p : Nat) (s : State) : State :=
  let x := portOf s p
  if x.st = x.cmd ∧ x.trans = none ∧ !(owesFrames s p && !x.waiting.isEmpty) then
    x.waiting.foldl (fun u w => done w.1 u) (modPort p (fun y => { y with waiting := [] }) s)
  else s

/-! ## Carriers -/

/-- The carriers of a port that still take a position. -/
def carriersOf (s : State) (p : Nat) : List Carrier :=
  (portOf s p).carriers.filter (fun c => match c.until_ with | some u => decide (s.time.tb < u) | none => true)
/-- The carriers on air. -/
def onAir (p : Port) : List Carrier := p.carriers.filter (fun c => c.until_.isNone)

def txAt (s : State) (id : Nat) : Option Tx := s.tx.txs.find? (fun t => t.id == id)
def modTx (id : Nat) (f : Tx → Tx) (s : State) : State :=
  { s with tx := { s.tx with txs := s.tx.txs.map (fun t => if t.id = id then f t else t) } }
/-- The coexistence outputs go once no request waits and no port's FEM lines are in the TX row (R113). -/
def coexSettle (s : State) : State :=
  let held := (portOf s 4).femRow == 3 || (portOf s 5).femRow == 3 || s.tx.txs.any (fun t => t.asked && t.waits)
  withRf (fun r => { r with coexReq := r.coexReq && held, coexPri := r.coexPri && held }) s

/-- Where an RFOUT port goes from TX with no carrier: its return state, or what an `RF_PORT_SET` in effect commands once the
frames have gone that R554 lets start. -/
def leaveTo (s : State) (p : Nat) : PortState :=
  if (portOf s p).waiting.isEmpty then (if wanted s p = .off then .off else txReturn s p)
  else if owesFrames s p then .idle else wanted s p

/-- With no carrier on air, an RFOUT port in TX lingers when another carrier is due within LINGER of `now`, else moves to
its return state (R96); its FEM lines follow after FEMHOLD (R111). -/
def portIdle (p now : Nat) (s : State) : State :=
  let x := portOf s p
  let due := s.tx.txs.any (fun t => t.port == p && t.waits && decide (t.start ≤ now + lingerNs s p))
  if !isOut p || x.st != .on || x.trans.isSome || !(onAir x).isEmpty then s
  else if due && !portsHeld s && !x.failed then
    modPort p (fun y => { y with linger := some (now + lingerNs s p) }) s
  else
    modPort p (fun y => { startHop true now (leaveTo s p) y with
      linger := none
      femUntil := some (now + femHoldNs s p) }) s

/-! ## Demodulator locks -/

/-- Count index `k` of Table 16-3 for channel slot `ch`, `n` times, at most 0xFFFF. -/
def sumCount (s : State) (ch k n : Nat) (r : RxSt) : RxSt :=
  let f := fun (x : RxCounts) => { x with counts := modAt k (fun c => min 0xFFFF (c + n)) x.counts }
  { r with sums := modAt (winPair (slotWin s.act ch)) f r.sums }

/-- Change the counts of the pair of channel slot `ch`. -/
def modSums (s : State) (ch : Nat) (f : RxCounts → RxCounts) (r : RxSt) : RxSt :=
  { r with sums := modAt (winPair (slotWin s.act ch)) f r.sums }

/-- The demodulators in `hit` give up their locks; a frame whose SFD has been found counts as lost under `k`. A lock whose SFD has
not come is no frame in progress and is not counted (log entry 99). -/
def loseLocks (hit : Demod → Bool) (k : Nat) (s : State) : State :=
  let rest := { s.rx with locks := s.rx.locks.filter (fun d => !hit d) }
  { s with rx := ((s.rx.locks.filter hit).filter (fun d => d.lock.sfd.isSome)).foldl (fun r d => sumCount s d.ch k 1 r) rest }

/-- A port of the pair that feeds channel slot `ch` is in RX (R125). -/
def pairHears (s : State) (ch : Nat) : Bool :=
  let p := 2 * winPair (slotWin s.act ch)
  (portOf s p).st == .on || (portOf s (p + 1)).st == .on

/-- Where neither port of a pair is in RX its channel slots receive nothing more, which is no loss (R125). -/
def dropUnheard (s : State) : State := { s with rx := { s.rx with locks := s.rx.locks.filter (fun d => pairHears s d.ch) } }

/-! ## Loss of the sample clock (R91) -/

/-- An RFOUT port when carriers stop: IDLE, or OFF where it was off or on its way there. -/
def haltPort (p : Port) : Port :=
  let off := p.st == .off && p.trans.isNone || p.trans.any (fun t => t.1 == .off)
  let cal := p.st == .cal
  { p with
    st := if cal then .cal else if off then .off else .idle
    trans := none
    carriers := []
    linger := none
    femRow := if cal then 1 else if off then 0 else 2
    femUntil := none }

/-- Stop every active carrier: each yields INTERRUPTED (R104); the FEM lines and the coexistence request follow. -/
def stopCarriers (s : State) : State :=
  let live := [4, 5].flatMap (fun p => (onAir (portOf s p)).map Carrier.id)
  { s with
    rf := { s.rf with
      ports := modAt 4 haltPort (modAt 5 haltPort s.rf.ports)
      coexReq := false
      coexPri := false }
    tx := { s.tx with txs := s.tx.txs.map (fun t =>
      if live.contains t.id then { t with yield := some (3, 0) }
      else if t.phase = .ramping then { t with phase := .held } else t) } }

/-- A receive port whose samples stop: RX falls back to IDLE (R96, log entry 100), a start-up from OFF to OFF. -/
def haltIn (p : Port) : Port :=
  match p.st with
  | .off => { p with trans := none }
  | .on => { p with st := .idle, trans := none }
  | .idle => if p.trans.any (fun t => t.1 == .off) then p else { p with trans := none }
  | .cal => p

/-- What leaving LOCKED does (R91): carriers stop, demodulators reset. -/
def spllStop (s : State) : State :=
  let t := portReached 4 (portReached 5 (stopCarriers s))
  loseLocks (fun _ => true) 4 (withRf (fun r => { r with
    ports := modAt 0 haltIn (modAt 1 haltIn (modAt 2 haltIn (modAt 3 haltIn r.ports))) }) t)

/-- Every port starts back towards its commanded state (R92), unless it is held. -/
def returnPorts (s : State) : State :=
  [0, 1, 2, 3, 4, 5].foldl (fun u p =>
    let x := portOf u p
    let tgt := if isOut p && wanted u p != .off && !portsHeld u && !x.failed then
        (if x.st = .off ∧ txReturn u p = .off ∧ x.waiting = [] then .off else .idle) else restOf u p
    if x.st = .cal || x.trans.isSome then u
    else portReached p (modPort p (startTo u p u.time.tb tgt) u)) s

/-! ## DEAF (R107) -/

def deafPre (s : State) : Nat := 1000 * s.regF 0x40014 23 16
def deafPost (s : State) : Nat := 1000 * s.regF 0x40014 31 24
def deafSpan (s : State) : Nat := 1000 * min 20_000 (s.regF 0x40014 15 0)

/-- The channel slot `ch` is fed by ports listed for RFOUT port `p`, and its centre lies within the DEAF span of `f`. One listed port
of its pair is enough (log entry 101). -/
def inDeafSpan (s : State) (p f ch : Nat) : Bool :=
  let pair := winPair (slotWin s.act ch)
  (s.regB 0x40018 (4 * (p - 4) + 2 * pair) || s.regB 0x40018 (4 * (p - 4) + 2 * pair + 1)) &&
    decide (2 * (slotCentre s.act ch - (f : Int)).natAbs ≤ 2 * deafSpan s + slotSpacing s.act ch) && slotEn s.act ch

/-- Whether a carrier of centre `f` on RFOUT port `p` makes channel slot `ch` DEAF; a span of 0 disables the protection
(R108). -/
def deafens (s : State) (p f ch : Nat) : Bool := decide (0 < deafSpan s) && inDeafSpan s p f ch

/-- Take the DEAF records out that `gone` names: a slot that none deafens any more has been DEAF since its first record (R108). -/
def deafClose (gone : DeafRec → Bool) (s : State) : State :=
  let rest := s.rf.deaf.filter (fun d => !gone d)
  (s.rf.deaf.filter gone).foldl (fun u d =>
    if rest.any (fun x => x.ch == d.ch) then
      { u with rf := { u.rf with deaf := u.rf.deaf.map (fun x => if x.ch = d.ch then { x with since := min x.since d.since } else x) } }
    else { u with rx := modSums u d.ch (fun c => { c with deaf := (d.ch, u.time.tb - d.since) :: c.deaf }) u.rx })
    { s with rf := { s.rf with deaf := rest } }

/-! ## Power (R132) -/

/-- 10^(k/40) for k = 0 to 39, in units of 10^-12, rounded. -/
def tenth40 : List Nat :=
  [1_000_000_000_000, 1_059_253_725_177, 1_122_018_454_302, 1_188_502_227_437, 1_258_925_411_794, 1_333_521_432_163,
   1_412_537_544_623, 1_496_235_656_094, 1_584_893_192_461, 1_678_804_018_123] ++
  [1_778_279_410_039, 1_883_649_089_490, 1_995_262_314_969, 2_113_489_039_837, 2_238_721_138_568, 2_371_373_705_662,
   2_511_886_431_510, 2_660_725_059_799, 2_818_382_931_264, 2_985_382_618_918] ++
  [3_162_277_660_168, 3_349_654_391_578, 3_548_133_892_336, 3_758_374_042_884, 3_981_071_705_535, 4_216_965_034_286,
   4_466_835_921_510, 4_731_512_589_615, 5_011_872_336_273, 5_308_844_442_310] ++
  [5_623_413_251_903, 5_956_621_435_290, 6_309_573_444_802, 6_683_439_175_686, 7_079_457_843_841, 7_498_942_093_325,
   7_943_282_347_243, 8_413_951_416_452, 8_912_509_381_337, 9_440_608_762_859]

/-- The power of a level in 0.25 dBm above −128 dBm, in a linear unit. -/
def linearOf (level : Int) : Nat :=
  let k := (level + 512).toNat
  tenth40.getD (k % 40) 0 * 10 ^ (k / 40)

/-- The composite limit of an RFOUT port allows one more carrier of this level (R132). -/
def powerFits (s : State) (p : Nat) (level : Int) : Bool :=
  decide (sumNat ((onAir (portOf s p)).map (fun c => linearOf c.level)) + linearOf level ≤
    linearOf (min 24 (signedOf 10 (bitsOf (s.act (0x60408 + 4 * (p - 4))) 9 0))))

/-- The lowest free carrier position (R127). -/
def freePos (s : State) (p : Nat) : Option Nat :=
  (List.range 16).find? (fun i => !(carriersOf s p).any (fun c => c.pos == i))

end Sys2Proof.Machine
end

