-- ==== Sys2Proof/Machine/ErrOps.lean ====
section
/-! DEFINITION. Changes of pair state (R456), entry of an error record (R483 to R486), frozen staging (R469), and the
stop on a DEVICE_FATAL error (R491). -/
namespace Sys2Proof.Machine

/-! ## Pair state -/

/-- `PAIR_STATUS.STATE` (Table 16-8). -/
def pairCode : PairState → Nat
  | .solo => 0
  | .joinCopy => 1
  | .joinCatchup => 2
  | .standbySynced => 3
  | .active => 4
  | .takeover => 5
  | .diverged => 6
  | .replay => 7

def withPair (f : PairSt → PairSt) (s : State) : State := { s with pair := f s.pair }

/-- Change pair state: PAIR_ACTIVE follows, and `PAIR_STATE` is raised with its trigger. -/
def setPair (n : PairState) (trig : Nat) (s : State) : State :=
  let t := withPair (fun p => { p with st := n, activeOut := n == .solo || n == .active }) s
  eventIf (s.pair.st != n) 0x0D01 [pairCode s.pair.st, pairCode n, trig] t

/-- The IV of the next pair-link message: its direction, 0 from the active unit and 1 towards it, and the message counter (R453,
R12). -/
def linkIv (s : State) : List Octet := octetsLE 4 (b2n (!s.pair.leads)) ++ octetsLE 8 (s.pair.msgs + s.jrn.seq)

/-- A pair-link message as the link carries it: sealed with AES-256-GCM under K_pair, its tag behind it (R453). IDENT, from which K_pair
comes, goes before there is one. -/
def linkSealed (s : State) (m : List Octet) : List Octet :=
  match s.pair.kpair with
  | some k => (gcmSeal k (linkIv s) [] m).1 ++ (gcmSeal k (linkIv s) [] m).2
  | none => m

/-- A pair-link message is sent while the link is up (R453): 0 heartbeat, 1 FAIL, 2 TAKEOVER, 3 DRILL, 4 acknowledgement, 5 IDENT,
6 the join copy, 7 a network master, 8 a HOST cipher key, 9 a timing mark. -/
def sendPair (kind v : Nat) (s : State) : State :=
  withPair (fun p => { p with
    sent := if p.link then ((kind, v) :: p.sent).take 16 else p.sent
    wire := if p.link then linkSealed s (Config.linkOctets kind v) else p.wire
    msgs := if p.link then p.msgs + 1 else p.msgs }) s

/-- The core state goes (Table 16-4): schedule, transmissions, Herd, nodes, prefixes, adaptation, packet memory and the
commands that had not completed. -/
def clearCore (s : State) : State :=
  { s with
    sch := SchSt.reset
    tx := TxSt.reset
    herd := HerdSt.reset
    tbl := TblSt.reset
    adp := AdpSt.reset
    bank := { s.bank with apply := none }
    time := { s.time with step := none }
    que := { s.que with
      free := (List.range 5).map (fun k =>
        let lo := poolBase s k
        let hi := min 32768 (lo + poolSize s k)
        if lo < hi then [(lo, hi)] else [])
      used := []
      egress := List.replicate 14 [] }
    rf := { s.rf with
      spllPend := none
      ports := s.rf.ports.map (fun p => { p with pending := [], waiting := [], calPend := none }) }
    sec := { s.sec with sw := none, swRef := none, fcPre := 0, ops := [] }
    snap := none
    hif := { s.hif with admitted := s.hif.admitted.filter (fun a => a.ref.ring == 15) } }

/-- Enter DIVERGED: the journal closes where this unit writes one, carriers stop, a pending join of this unit ends. -/
def enterDiverged (trig : Nat) (mismatch : Bool) (s : State) : State :=
  let t := closeJournal 2 (stopCarriers s)
  setPair .diverged trig { t with
    cnt := cntBump 0x110038 0 32 1 t.cnt
    pair := { t.pair with
      divergedAt := if mismatch then some t.time.tb else none
      drill := none
      drillB := none } }

/-! ## Staging and errors -/

/-- An error of class `c` freezes staging when `PAIR_CTL.FRZ` selects it (R469). -/
def freezeFor (c : Nat) (s : State) : State :=
  let f := s.regF 0x110004 9 8
  let on := (f == 1 || f == 3) && decide (2 ≤ c) || f == 2 && c == 3
  let go := on && !s.jrn.frozen
  eventIf go 0x0D05 [c, (s.jrn.staging.head?.map JRec.seq).getD 0, (s.jrn.staging.getLast?.map JRec.seq).getD 0]
    { s with jrn := { s.jrn with frozen := s.jrn.frozen || on } }

/-- The 32 octets of an error record (Table 17-3). -/
def errOctets (r : ErrRec) : List Octet :=
  octetsLE 2 r.code ++ octetsLE 1 (r.cls + 4 * b2n r.esc + 8 * b2n r.rsv) ++ octetsLE 1 r.unit ++ octetsLE 1 r.sub ++ zeros 1 ++
    octetsLE 2 r.lost ++ octetsLE 5 r.asn ++ zeros 3 ++ octetsLE 8 r.time ++ octetsLE 4 r.where_ ++ octetsLE 2 r.detail ++
    octetsLE 2 r.eseq

/-- The ERROR record of an error record (Table 13-6). -/
def errHRec (s : State) (r : ErrRec) : HRec := ⟨5, 0, 0, r.asn, r.time, 32, [], errOctets r, s.jrn.seq⟩

def postErr (r : ErrRec) (s : State) : State := offerRec (evtRing s) (errHRec s r) s

/-- The class under which a record is handled (R489, R490, R493): a subsystem the device cannot serve without, a subsystem
that failed again within 1 s of its restart, and an active unit with a synced standby make UNIT_FATAL or CONTAINED a
DEVICE_FATAL. -/
def handledAs (s : State) (r : ErrRec) : Nat :=
  let again := s.err.restarted.any (fun x => x.1 == r.unit && decide (r.time < x.2 + 1_000_000_000))
  if 1 ≤ r.cls ∧ again then 3
  else if r.cls = 2 ∧ (r.unit = 4 ∨ r.unit = 10 ∨ r.unit = 14 ∨ (r.unit = 13 ∧ r.sub = 1)) then 3
  else if r.cls = 2 ∧ s.pair.st = .active ∧ s.pair.peerOk ∧ s.regB 0x120004 2 then 3
  else r.cls

/-- Records queued for a ring make one GAP (R491). -/
def gapAll (q : Nat) (s : State) : State :=
  let l := s.que.egress.getD q []
  let n := sumNat (l.map (fun i => match i.body with | .gap k _ => k | _ => 1))
  let fst := l.findSome? (fun i => match i.body with | .gap _ (some f) => some f | _ => none)
  { s with que := releaseIn s (l.flatMap EgItem.cells) { s.que with
      egress := setAt s.que.egress q (if l.isEmpty then [] else [⟨.gap (min n gapMax) fst, []⟩]) } }

/-- The GAP that stands alone in the queue of ring `d` is written, with no record behind it (R491, R531). -/
def gapOut (s : State) (d : Nat) : State :=
  match s.hif.dring[d]?, s.que.egress.getD (dlvQueue d) [] with
  | some x, [⟨.gap n first, _⟩] =>
    let size := ringSize s (dlvCtl d)
    if s.dma && ringEn s (dlvCtl d) && decide (x.out.length + 1 < size) then
      { s with
        que := { s.que with egress := setAt s.que.egress (dlvQueue d) [] }
        hif := { s.hif with dring := setAt s.hif.dring d (putOut s size (gapRec s n) (first.getD x.seq % 2 ^ 32) n x) } }
    else s
  | _, _ => s

/-- Every enabled delivery and journal ring receives one GAP for the records still queued (R491, R531). -/
def gapRings (s : State) : State :=
  (List.range 9).foldl gapOut ([4, 5, 6, 7, 8, 9, 10, 11, 12].foldl (fun u q => gapAll q u) s)

/-- What a SOLO unit tells the host at a DEVICE_FATAL stop (R491). -/
def fatalReport (r : ErrRec) (s : State) : State :=
  let t := s.hif.admitted.foldl (fun u a => refuse a.ref stAbort r.unit 0 u) s
  sendMsi (s.regF 0xE0004 21 16) (postErr r (gapRings t))

/-- A DEVICE_FATAL error stops the device (R491). -/
def deviceFatal (r : ErrRec) (s : State) : State :=
  let t := sendPair 1 (asnNow s) (stopCarriers s)
  let u := freezeFor 3 { t with
    pair := { t.pair with activeOut := false }
    err := { t.err with
      fatal := some (t.err.fatal.getD r)
      devFatal := true } }
  let v := if s.pair.st = .solo ∧ !s.offline 11 then fatalReport r u else u
  if s.pair.follows then event 0x0D03 [asnNow v, r.unit, 0, 0] (enterDiverged 4 false v) else v

/-- Enter an error record: counting, escalation, the FIFO and its reserved entries (R483 to R486). -/
def raiseErr (code cls unit sub where_ detail lost : Nat) (s : State) : State :=
  if s.offline unit then bump 0x120018 s
  else
    let esc := s.err.busy && decide (cls < 3) && (s.err.fifo.head?.map ErrRec.unit) == some unit
    let c := if esc then cls + 1 else cls
    let full := decide (60 ≤ s.err.fifo.length)
    let r : ErrRec := ⟨code, c, esc, decide (2 ≤ c) && full, unit, sub, lost, asnNow s, s.time.tb, where_, detail, s.err.eseq⟩
    let t := { s with
      cnt := cntBump (0x120020 + 4 * c) 0 32 1 (cntBump (0x120040 + 4 * unit) 0 32 (b2n (decide (1 ≤ c))) s.cnt)
      err := { s.err with eseq := (s.err.eseq + 1) % 65536 } }
    if c = 0 then
      if full then bump 0x120014 t else if s.regB 0x120004 0 then postErr r t else t
    else if c = 1 ∧ full then
      bump 0x120014 { t with err := { t.err with pendRst := t.err.pendRst ++ [(unit, sub)] } }
    else if 64 ≤ s.err.fifo.length then deviceFatal { r with cls := 3 } t
    else { t with err := { t.err with fifo := t.err.fifo ++ [r] } }

end Sys2Proof.Machine
end

