-- ==== Sys2Proof/Machine/Radio.lean ====
section
/-! DEFINITION. RF ports, calibration, the sample clock, clipping, DEAF channel slots and the coexistence fault
(R89 to R102, R107 to R109, R115). -/
namespace Sys2Proof.Machine

/-! ## `RF_PORT_SET` (R95) -/

def portTarget (t : Nat) : PortState := if t = 0 then .off else if t = 1 then .idle else .on
def portArgsBad (port target : Nat) : Bool := decide (5 < port) || decide ((if isOut port then 1 else 2) < target)

/-- Whether the port has to finish something first: a calibration, or carriers that may still be sent (R554). -/
def portHeldUp (s : State) (p : Nat) : Bool :=
  (portOf s p).st == .cal || (portOf s p).trans.isSome || (isOut p && (portOf s p).st == .on) || owesFrames s p

/-- Move a port towards its commanded state, where the SPLL permits it. -/
def portGo (p : Nat) (s : State) : State :=
  let tgt := if portsHeld s || (portOf s p).failed then .off else wanted s p
  if portHeldUp s p || (s.rf.spll != .locked && tgt != .off) then portIdle p s.time.tb s
  else dropUnheard (portReached p (modPort p (startTo s p s.time.tb tgt) s))

/-- The commands of a port whose ASN has come take effect (R95). -/
def portEffect (p now : Nat) (s : State) : State :=
  ((portOf s p).pending.filter (fun x => decide (x.2.2 ≤ now))).foldl (fun u x =>
    portGo p (modPort p (fun y => { y with
      pending := y.pending.filter (fun z => z != x)
      cmd := x.2.1
      told := true
      waiting := y.waiting ++ [(x.1, x.2.1)] }) u)) s

def doRfPortSet (r : CmdRef) (port target : Nat) (s : State) : State :=
  let tgt := portTarget target
  checked r [(portArgsBad port target, stBad, 4, 0x000B),
    ((s.rf.spll != .locked && tgt != .off) || (portOf s port).failed, stBadState, 4, 0),
    (needsTime s r.asn, stUnlocked, 4, 0)] (fun s =>
      let n := if r.asn = 0 then asnNow s else r.asn
      let t := modPort port (fun y => { y with pending := y.pending ++ [(r, tgt, n)] }) s
      let u := if isOut port then withdraw n (fun x => x.port == port) t else t
      if r.asn = 0 then portEffect port (asnNow s) u else u) s

/-- `RF_PORT_SET` (R95): it completes when the port reaches its target. -/
def execRfPortSet (r : CmdRef) (port target : Nat) (s : State) : Res :=
  .next (runCmd r 0x0201 1 0 (.rfPortSet port target) s (doRfPortSet r port target))

/-- `PORT_SET_EFFECT` (R95). -/
def execPortSetEffect (port : Nat) (s : State) : Res := .next (coreOnly s (portEffect port (nowFor s) s))

/-- The FEM row of an RFOUT port as it arrives in state `n`: that of the state, but after TX the row follows FEMHOLD (R111). -/
def arriveRow (out : Bool) (n : PortState) (y : Port) : Nat :=
  if !out then y.femRow
  else match n with
    | .off => 0
    | .idle => if y.st = .on then y.femRow else 2
    | .cal => 1
    | .on => y.femRow

/-- The end of a port's transition (Table 03-3): its state, its FEM row, the next transition, what waited for it. -/
def transDone (p : Nat) (n : PortState) (at_ : Nat) (s : State) : State :=
  let t := modPort p (fun y => { y with
    st := n
    trans := none
    femRow := arriveRow (isOut p) n y }) (reach at_ s)
  let u := if isOut p && n == .on then t else modPort p (startTo t p t.time.tb (restOf t p)) t
  dropUnheard (portReached p u)

/-- `PORT_TRANSITION_DONE` (R94). -/
def execPortTransitionDone (port : Nat) (s : State) : Res :=
  .next (match (portOf s port).trans with
    | some (n, at_) => transDone port n at_ s
    | none => s)

/-! ## Calibration (R97 to R102) -/

/-- One calibration result: the journal record and `CAL_DONE` (R102). Kind 0 start-up, 1 on request, 2 SPLL; `t0` is the
timebase of its start. -/
def calResult (port kind : Nat) (ok : Bool) (t0 : Nat) (s : State) : State :=
  let a := if s.time.running then (t0 - s.time.epoch) / s.time.l else 0
  let o := if s.time.running then (t0 - s.time.epoch) % s.time.l else 0
  event 0x0104 [port, kind, if ok then stOk else stCalFail, a, o, asnNow s, s.time.ofs] (journal (.cal port kind ok a o 0 0) s)

def partner (p : Nat) : Nat := if p % 2 = 0 then p + 1 else p - 1
/-- The other port of the RFIN pair is, or will be, in CAL during the 25 ms from `t0`; the port itself has a run. -/
def calBusy (s : State) (p t0 : Nat) : Bool :=
  let clash := fun (q : Port) =>
    (match q.calRun with | some (_, b) => decide (t0 < b + 25_000_000) && decide (b < t0 + 25_000_000) | none => false) ||
    (match q.calPend with
      | some (_, n) => decide (t0 < s.time.at_ n + 25_000_000) && decide (s.time.at_ n < t0 + 25_000_000)
      | none => false)
  if 6 ≤ p then s.rf.spllPend.isSome || s.rf.spllRun.isSome
  else (portOf s p).calRun.isSome || (portOf s p).calPend.isSome || (decide (p < 4) && clash (portOf s (partner p)))

/-- The SPLL leaves LOCKED (R91): journaled, counted, `SPLL_UNLOCK` raised. -/
def spllLeave (n : SpllState) (s : State) : State :=
  let t := event 0x0102 [] (journal (.clock 1) (spllStop s))
  { t with
    rf := { t.rf with
      spll := n
      attempts := 0
      spllAt := t.time.tb + (if n = .band then 4_800_000 else 2_000_000)
      spllFrom := t.time.tb }
    cnt := cntBump 0x20104 0 16 1 t.cnt }

/-- The SPLL locks (R92). -/
def spllLocked (s : State) : State :=
  returnPorts (event 0x0103 [] (journal (.clock 0) (withRf (fun r => { r with
    spll := .locked
    attempts := 0
    failed := false }) s)))

/-- Start a run that is due: for a port, CAL for 25 ms; for the SPLL, a BAND and LOCKING run with every port in IDLE. -/
def calStart (p now : Nat) (s : State) : State :=
  if p = 6 then
    match s.rf.spllPend with
    | some (r, n) =>
      if now < n then s
      else
        let t := if s.rf.spll = .locked then spllLeave .band s else s
        withRf (fun x => { x with
          spll := .band
          spllPend := none
          spllRun := some (r, t.time.tb)
          spllAt := t.time.tb + 4_800_000
          spllFrom := t.time.tb
          ports := x.ports.map haltIn }) t
    | none => s
  else
    match (portOf s p).calPend with
    | some (r, n) =>
      let clear := modPort p (fun y => { y with calPend := none }) s
      if now < n then s
      else if s.rf.spll ≠ .locked then refuse r stBadState 4 0 clear
      else if p < 4 ∧ (portOf s (partner p)).calRun.isSome then refuse r stBusy 4 0 clear
      else if !(onAir (portOf s p)).isEmpty then s
      else dropUnheard (modPort p (fun y => { y with
        st := .cal
        trans := none
        linger := none
        femRow := if isOut p then 1 else y.femRow
        femUntil := none
        calRun := some (some r, s.time.tb) }) { clear with
          tx := { clear.tx with txs := clear.tx.txs.map (fun t => if t.port = p ∧ t.phase = .ramping then { t with phase := .held } else t) } })
    | none => s

def doRfCalibrate (r : CmdRef) (port : Nat) (s : State) : State :=
  let n := if r.asn = 0 then asnNow s else r.asn
  let t0 := if r.asn = 0 then s.time.tb else s.time.at_ r.asn
  checked r [(decide (6 < port), stBad, 4, 0x000B),
    (calBusy s port t0, stBusy, 4, 0),
    (port != 6 && s.rf.spll != .locked, stBadState, 4, 0),
    (needsTime s r.asn, stUnlocked, 4, 0)] (fun s =>
      let t := if port = 6 then withRf (fun x => { x with spllPend := some (r, n) }) s
        else modPort port (fun y => { y with calPend := some (r, n) }) s
      if r.asn = 0 then calStart port n t else t) s

/-- `RF_CALIBRATE` (R99). -/
def execRfCalibrate (r : CmdRef) (port : Nat) (s : State) : Res := .next (runCmd r 0x0202 1 0 (.rfCalibrate port) s (doRfCalibrate r port))

/-- `CALIBRATE_START` (R99): at the named ASN, or when the last carrier on the port has ended. -/
def execCalibrateStart (port : Nat) (s : State) : Res := .next (coreOnly s (calStart port (nowFor s) s))

/-- `CAL_RUN_DONE` (R99, R102). After a failed run of the SPLL it goes back to LOCKING with fresh attempts (log entry 103). -/
def execCalRunDone (port : Nat) (ok : Bool) (s : State) : Res :=
  .next (if port = 6 then
      match s.rf.spllRun with
      | some (r, t0) =>
        let t := withRf (fun x => { x with spllRun := none }) (reach (t0 + 6_000_000) s)
        let u := calResult 6 2 ok t0 (if ok then spllLocked t else withRf (fun x => { x with
          spll := if x.refOk then .locking else .unlocked
          attempts := 0
          spllAt := t.time.tb + 2_000_000
          spllFrom := t.time.tb }) t)
        if ok then done r u else complete r stCalFail 4 6 0 u
      | none => s
    else
      match (portOf s port).calRun with
      | some (ref, t0) =>
        let t := modPort port (fun y => { y with
          calRun := none
          st := .idle
          femRow := if isOut port then 2 else y.femRow
          failed := y.failed && !ok
          tempDelta := if ok then 0 else y.tempDelta
          advised := y.advised && !ok }) (reach (t0 + 25_000_000) s)
        let u := portGo port (calResult port 1 ok t0 t)
        match ref with
        | some r => if ok then done r u else complete r stCalFail 4 port 0 u
        | none => u
      | none => s)

/-- Background trim is enabled on a port (R101). -/
def trimOn (s : State) (p : Nat) : Bool :=
  s.up && decide (p < 6) && (if isOut p then s.regB (txCtl p) 2 else s.regB 0x40020 p) && (portOf s p).calRun.isNone

/-- `BGTRIM_STEP` (R101): `tempDelta` is the port's die temperature against its last calibration, in °C. CAL_ADVISED does not ask
whether the trim is enabled. -/
def execBgtrimStep (port tempDelta : Nat) (s : State) : Res :=
  .next (if !s.up || decide (5 < port) then s
    else
      let adv := decide (25 < tempDelta) && !(portOf s port).advised
      eventIf adv 0x0105 [port, min 255 tempDelta] (modPort port (fun y => { y with
        trims := y.trims + b2n (trimOn s port)
        tempDelta := min 255 tempDelta
        advised := y.advised || adv }) s))

/-! ## Reference and sample clock (R89 to R92) -/

/-- `REF_LOST` (R90, R91): an SPLL in LOCKED leaves it. -/
def execRefLost (s : State) : Res :=
  .next (if !s.up || !s.rf.refOk then s
    else
      let t := event 0x0101 [] (journal (.clock 2) { s with
        rf := { s.rf with
          refOk := false
          refLostAt := some s.time.tb }
        cnt := cntBump 0x20104 16 16 1 s.cnt })
      let u := raiseErr 0x0401 1 1 0 0 0 0 t
      if u.rf.spll = .locked then spllLeave .unlocked u
      else withRf (fun r => { r with spll := if r.spll = .off ∨ r.spllRun.isSome then r.spll else .unlocked }) u)

/-- `REF_GOOD` (R90, R92): the SPLL returns to LOCKING by itself. -/
def execRefGood (s : State) : Res :=
  .next (if !s.up || s.rf.refOk then s
    else
      journal (.clock 3) (withRf (fun r => { r with
        refOk := true
        refLostAt := none
        spll := if r.spll = .unlocked then .locking else r.spll
        attempts := if r.spll = .unlocked then 0 else r.attempts
        spllAt := if r.spll = .unlocked then s.time.tb + 2_000_000 else r.spllAt
        spllFrom := if r.spll = .unlocked then s.time.tb else r.spllFrom }) s))

/-- `REF_RECOVERY_TIMEOUT` (R481): code 0x0402. -/
def execRefRecoveryTimeout (s : State) : Res :=
  .next (match s.rf.refLostAt with
    | some t0 => if s.up then raiseErr 0x0402 3 14 0 0 0 0 (withRf (fun r => { r with refLostAt := none }) (reach (t0 + 1_000_000_000) s)) else s
    | none => s)

/-- `SPLL_UNLOCK` (R91): with REF_IN good the loss is code 0x0403, and LOCKING begins again. -/
def execSpllUnlock (s : State) : Res :=
  .next (if !s.up || s.rf.spll != .locked then s
    else if s.rf.refOk then raiseErr 0x0403 1 1 0 0 0 0 (spllLeave .locking s) else spllLeave .unlocked s)

/-- `SPLL_LOCK` (R92). -/
def execSpllLock (s : State) : Res :=
  .next (if (s.rf.spll == .locking || s.rf.spll == .band) && s.rf.spllRun.isNone && s.up && s.rf.refOk then spllLocked s else s)

/-- The third failed attempt (R92): FAILED, `CAL_DONE` for the SPLL, code 0x0404; port commands that waited for a lock end. -/
def spllGiveUp (s : State) : State :=
  let t := calResult 6 2 false s.rf.spllFrom (withRf (fun r => { r with
    spll := .off
    failed := true
    attempts := 3 }) s)
  let u := [0, 1, 2, 3, 4, 5].foldl (fun v p =>
    ((portOf v p).waiting.filter (fun w => w.2 != .off)).foldl (fun x w => refuse w.1 stBadState 4 0 x)
      (modPort p (fun y => { y with waiting := y.waiting.filter (fun w => w.2 == .off) }) v)) t
  raiseErr 0x0404 2 1 0 0 0 0 u

/-- When the lock attempt in progress ends without lock: 2 ms of LOCKING, which follows BAND. -/
def lockEnd (s : State) : Nat := s.rf.spllAt + (if s.rf.spll = .band then 2_000_000 else 0)

/-- The SPLL state that shows now: BAND has become LOCKING after 4.8 ms (R89). -/
def spllNow (s : State) : SpllState := if s.rf.spll = .band ∧ s.rf.spllAt ≤ s.time.tb then .locking else s.rf.spll

/-- `SPLL_LOCK_TIMEOUT` (R92): BAND and another attempt, or OFF after three. -/
def execSpllLockTimeout (s : State) : Res :=
  .next (if !((s.rf.spll == .locking || s.rf.spll == .band) && s.rf.spllRun.isNone && s.up) then s
    else
      let t := reach (lockEnd s) s
      if 2 ≤ t.rf.attempts then spllGiveUp t
      else withRf (fun r => { r with
        spll := .band
        attempts := r.attempts + 1
        spllAt := t.time.tb + 4_800_000 }) t)

/-! ## DEAF, clipping, coexistence fault -/

/-- `CHANNEL_DEAF_START` (R107, R108): a frame in progress on the channel slot is `DEAF_LOST`. -/
def execChannelDeafStart (ch id : Nat) (s : State) : Res :=
  .next (match txAt s id with
    | some t =>
      if t.phase == .ackWait || !deafens s t.port t.freq ch || s.rf.deaf.any (fun d => d.ch == ch && d.id == id) then s
      else
        let u := reach (t.start - deafPre s) s
        loseLocks (fun d => d.ch == ch) 1 (withRf (fun r => { r with deaf := r.deaf ++ [⟨ch, id, u.time.tb, none⟩] }) u)
    | none => s)

/-- `CHANNEL_DEAF_END` (R107, R108): POST after the carrier's end; one that never started is over at once. -/
def execChannelDeafEnd (ch id : Nat) (s : State) : Res :=
  let mine := fun (d : DeafRec) => d.ch == ch && d.id == id
  .next (match s.rf.deaf.find? mine with
    | some d =>
      match d.until_ with
      | some u => deafClose mine (reach u s)
      | none => if (txAt s id).isSome then s else deafClose mine s
    | none => s)

/-- `CLIP_DETECT` (R109): the port is paused, and frames chosen on it are `CLIP_LOST`. A clip of a port that is paused already
lengthens the pause and is no further clip event (log entry 104). -/
def execClipDetect (port : Nat) (s : State) : Res :=
  let hit := fun (d : Demod) => d.lock.sfd.any (fun x => x.port == port)
  let n := (s.rx.locks.filter hit).length
  .next (if 4 ≤ port || (portOf s port).st != .on then s
    else
      let t := loseLocks hit 2 (modPort port (fun y => { y with
        clipping := true
        clipUntil := s.time.tb + 1000 * s.regF 0x4001C 31 24 }) s)
      bumpN (0x40040 + 4 * port) n (bumpIf (!(portOf s port).clipping) (0x40030 + 4 * port) t))

/-- `CLIP_HANG_EXPIRE` (R109). -/
def execClipHangExpire (port : Nat) (s : State) : Res :=
  .next (if (portOf s port).clipping then
      modPort port (fun y => { y with clipping := false }) (reach (portOf s port).clipUntil s)
    else s)

def coexEn (s : State) : Bool := s.regB 0x50020 0

/-- `COEX_FAULT` (R115): 5 s of denial set FAULT. -/
def execCoexFault (s : State) : Res :=
  .next (if !s.up || !coexEn s || (!s.rf.grant && s.regB 0x50020 16) then s
    else
      let t0 := s.rf.denied.getD s.time.tb
      let t := reach (t0 + 5_000_000_000) s
      event 0x0106 [] ((withRf (fun r => { r with
        grant := false
        denied := some t0 }) t).setReg 0x50020 (t.reg 0x50020 ||| 0x10000)))

/-- `COEX_CLEAR` (R115): the grant is given again after a fault; FAULT itself stays until it is written. -/
def execCoexClear (s : State) : Res :=
  .next (match s.rf.denied with
    | some t0 =>
      if s.up && decide (t0 + 5_000_000_000 ≤ s.time.tb) then
        event 0x0107 [] (withRf (fun r => { r with
          grant := true
          denied := none }) s)
      else s
    | none => s)

end Sys2Proof.Machine
end

