-- ==== Sys2Proof/Machine/Tx.lean ====
section
/-! DEFINITION. A transmission from its staging to its end: the radio side's part (R96, R103 to R105, R111, R113, R116,
R127, R132, R229) and the cell's states on journaled outcomes (R104, R209, R210, R216, R227, R239). -/
namespace Sys2Proof.Machine

/-! ## Before the transmit instant -/

/-- `TX_PORT_WAKE` (R96): a port that rests in OFF by `TX_RETURN` is started 80 µs before its next transmit instant. -/
def execTxPortWake (port : Nat) (s : State) : Res :=
  let due := ((s.tx.txs.filter (fun t => t.port == port && t.waits)).map Tx.start)
  let x := portOf s port
  .next (coreOnly s (match due with
    | [] => s
    | a :: l =>
      let at_ := l.foldl min a
      if !s.up || s.rf.spll != .locked || portsHeld s || x.failed || x.st != .off || x.trans.isSome || (wanted s port == .off && x.waiting.isEmpty) || !isOut port
      then s
      else
        let t := reach (at_ - 80_000) s
        modPort port (startHop true t.time.tb .idle) t))

/-- `COEX_REQUEST_ASSERT` (R113). Of overlapping requests COEX_PRI is that of the latest (log entry 105). -/
def execCoexRequestAssert (id : Nat) (s : State) : Res :=
  .next (coreOnly s (match txAt s id with
    | some t =>
      if !s.up || !coexEn s || !t.waits then s
      else
        let u := reach (max (t.start - 1000 * min 1000 (s.regN 0x50024)) t.coexFrom) s
        modTx id (fun x => { x with asked := true }) (withRf (fun r => { r with
          coexReq := true
          coexPri := s.regB 0x50020 (8 + t.cls) }) u)
    | none => s))

/-- A calibration run of the port is due and waits for its carriers: no new one starts (log entry 102). -/
def calDue (s : State) (p : Nat) : Bool :=
  match (portOf s p).calPend with
  | some (_, n) => decide (n ≤ asnNow s) && s.time.running
  | none => false

/-- Neither a hold nor a command keeps RFOUT port `p` from new carriers; while an `RF_PORT_SET` is in effect and has not reached
its target, the frames that are left are those that R554 lets start. -/
def portServes (s : State) (p : Nat) : Bool :=
  s.rf.spll == .locked && !portsHeld s && !(portOf s p).failed && (wanted s p != .off || !(portOf s p).waiting.isEmpty) && !calDue s p

/-- The port can begin IDLE to TX. -/
def canRamp (s : State) (p : Nat) : Bool :=
  let x := portOf s p
  portServes s p && x.st == .idle && x.trans.isNone

/-- A port in TX, or on its way there, takes another carrier without settling. -/
def inTx (s : State) (p : Nat) : Bool :=
  let x := portOf s p
  portServes s p && (x.st == .on && x.trans.isNone || x.trans.any (fun h => h.1 == .on))

/-- `TX_RAMP_START` (Table 03-5): the request is judged by the state of the port and the SPLL. A held one is judged again
once the port is back. -/
def execTxRampStart (id : Nat) (s : State) : Res :=
  .next (coreOnly s (match txAt s id with
    | some t =>
      if !t.waits || t.phase == .ramping then s
      else
        let u := reach (t.start - 12_000) s
        if canRamp u t.port then
          modPort t.port (startHop true (max u.time.tb (t.start - 12_000)) .on) (modTx id (fun x => { x with phase := .ramping }) u)
        else if inTx u t.port then modTx id (fun x => { x with phase := .ramping }) u
        else modTx id (fun x => { x with phase := .held }) u
    | none => s))

/-- `FEM_LEAD_SWITCH` (R111). -/
def execFemLeadSwitch (id : Nat) (s : State) : Res :=
  .next (coreOnly s (match txAt s id with
    | some t =>
      if t.phase == .ramping && t.yield.isNone && inTx s t.port then
        modPort t.port (fun y => { y with
          femRow := 3
          femUntil := none }) (reach (t.start - femLeadNs s t.port) s)
      else s
    | none => s))

/-! ## At the transmit instant -/

/-- The first sample at or after an instant, in units of 1.25 ns (R35). -/
def tickAt (ns : Nat) : Nat := ceilDiv (4 * ns) 5

/-- When a transmission's carrier started, as the radio side has it. -/
def Tx.onAt (t : Tx) : Nat := match t.onTick with | some k => k * 5 / 4 | none => t.start + t.late

/-- A carrier of the device within the DEAF span was active during the listen-before-talk measurement (R229). -/
def ownEnergy (s : State) (t : Tx) (now : Nat) : Bool :=
  let hi := now - 12_000
  let lo := hi - 1000 * s.regF 0x80008 31 16
  [4, 5].any (fun p => (portOf s p).carriers.any (fun c =>
    decide (((c.freq : Int) - t.freq).natAbs ≤ deafSpan s) &&
      (match txAt s c.id with | some x => decide (x.onAt ≤ hi) | none => true) &&
      (match c.until_ with | some e => decide (lo < e - 1000) | none => true)))

/-- The radio side gives up or is denied: the outcome waits for the journal, and the port returns (R104, R113). -/
def yieldOut (id outcome : Nat) (t : Tx) (s : State) : State :=
  let u := modTx id (fun x => { x with
    phase := .held
    yield := some (outcome, 0) }) s
  let v := portIdle t.port (u.time.tb + 1000) u
  coexSettle (if (portOf v t.port).waiting.isEmpty then v else portGo t.port v)

/-- After a denial the FEM lines take the return-state row, unless a carrier is on air or the port lingers (Table 03-8). -/
def denyRow (p : Nat) (s : State) : State :=
  coexSettle (modPort p (fun y => if !(onAir y).isEmpty || y.linger.isSome then y else { y with
    femRow := femRowOf (leaveTo s p)
    femUntil := none }) s)

/-- The carrier starts: it takes the lowest free position (R127). The core's instants stay as they are until the outcome is
journaled (R213, R230). -/
def startCarrier (id pos : Nat) (t : Tx) (s : State) : State :=
  modPort t.port (fun y => { y with
      carriers := y.carriers ++ [⟨pos, id, t.entry, t.freq, t.level, none⟩]
      linger := none
      femUntil := none })
    (modTx id (fun x => { x with
      yield := some (0, (s.time.tb - t.start) / 1000)
      onTick := some (tickAt s.time.tb) }) s)

/-- The grant as sampled at a start instant; `COEX_CLEAR` when it is given again after a fault (R114, R115). -/
def sampleGrant (granted : Bool) (s : State) : State :=
  if !coexEn s then s
  else
    let fault := match s.rf.denied with | some t0 => decide (t0 + 5_000_000_000 ≤ s.time.tb) | none => false
    eventIf (granted && fault) 0x0107 [] (withRf (fun r => { r with
      grant := granted
      denied := if granted then none else some (r.denied.getD s.time.tb) }) s)

/-- `TX_INSTANT` (R103, R114, R116, R229): a port that cannot carry the frame holds it; then listen-before-talk, then the
grant. `granted` is the filtered level at the instant, `lbtBusy` says that the measured energy reached the threshold. -/
def execTxInstant (id : Nat) (granted lbtBusy : Bool) (s : State) : Res :=
  .next (coreOnly s (match txAt s id with
    | some t =>
      let u := reach t.start s
      if !t.waits || !s.up || decide (t.start + 100_000 < u.time.tb) then s
      else if !(t.phase == .ramping && (portOf u t.port).st == .on && (portOf u t.port).trans.isNone && powerFits u t.port t.level) then
        modTx id (fun x => { x with phase := if x.phase = .ramping then .ramping else .held }) u
      else
        match freePos u t.port with
        | none => u
        | some pos =>
          if t.lbt && (lbtBusy || ownEnergy u t u.time.tb) then yieldOut id 4 t u
          else
            let deny := coexEn u && !granted
            let w := bumpIf deny 0x50028 (sampleGrant granted u)
            if deny && !u.regB 0x50020 12 then denyRow t.port (yieldOut id 2 t w) else startCarrier id pos t w
    | none => s))

/-- `TX_HOLD_EXPIRE` (R103): not started by T + 100 µs. -/
def execTxHoldExpire (id : Nat) (s : State) : Res :=
  .next (coreOnly s (match txAt s id with
    | some t => if t.waits then bump (0x50030 + 4 * (t.port - 4)) (yieldOut id 1 t (reach (t.start + 100_000) s)) else s
    | none => s))

/-! ## Journaled outcomes (R104, R209) -/

/-- A DEAF interval of the device's own journaled carriers meets [lo, hi] on channel slot `ch` (R239). -/
def deafBetween (s : State) (ch lo hi : Nat) : Bool :=
  s.tx.air.any (fun a => deafens s a.port a.freq ch && decide (a.from_ ≤ hi + deafPre s) && decide (lo ≤ a.to_ + deafPost s))

/-- The end of a transmission with its journaled hold (R105). -/
def Tx.sentEnd (t : Tx) : Nat := t.endAt + t.late

/-- The ACK window of a transmission that ended (R216): its opening and its close. -/
def ackOpen (s : State) (t : Tx) : Nat := t.sentEnd + 1000 * s.regF 0x9000C 15 0 - 500 * s.regN 0x90010
def ackClose (s : State) (t : Tx) : Nat :=
  t.sentEnd + 1000 * s.regF 0x9000C 15 0 + 500 * s.regN 0x90010 + 1000 * s.regN 0x90018

/-- A NO_ACK attempt is excused (R239). -/
def excused (s : State) (t : Tx) (interrupted : Bool) : Bool :=
  interrupted || ((entryAt s t.node).map Node.resync).getD false ||
    ((chanAt s.act t.chIdx).rxen && deafBetween s (chanAt s.act t.chIdx).slot (ackOpen s t) (ackClose s t))

def herdItem (i : HItem) (s : State) : State := { s with herd := { s.herd with items := s.herd.items ++ [i] } }
def herdItemIf (c : Bool) (i : HItem) (s : State) : State :=
  { s with herd := { s.herd with items := if c then s.herd.items ++ [i] else s.herd.items } }

/-- A frame's attempt counts: one retry more, or `NO_ROUTE` (R209). -/
def retryFrame (id : Nat) (s : State) : State :=
  match frameAt s id with
  | some f =>
    if f.retries < s.regF 0x90000 3 0 then
      lastTry id stNoRoute
        { s with tx := { s.tx with frames := s.tx.frames.map (fun g => if g.id = id then { g with retries := g.retries + 1 } else g) } }
    else frameDone id stNoRoute s
  | none => s

def unicastTx (t : Tx) : Bool := t.kind == .unicast || t.kind == .shared

/-- An attempt that got no ACK (Table 07-6), and what Herd measures of it (R237, R239). -/
def noAck (interrupted : Bool) (t : Tx) (s : State) : State :=
  let x := excused s t interrupted
  let u := herdItemIf (unicastTx t && !x) (.attempt t.node t.chIdx false) (cellOut 1 t.asn t.sfh t.node (dropTx t.id s))
  sweepTombs (match t.frame with | some f => retryFrame f u | none => u)

/-- A reservation is kept on SENT (R227). -/
def keepCharge (id : Nat) (s : State) : State :=
  { s with tx := { s.tx with charges := s.tx.charges.map (fun c => if c.id = id then { c with kept := true } else c) } }

/-! ## Synchronisation of nodes (R220, R222) -/

/-- Range of the time-correction IE, ns. -/
def corrLim : Int := 2_047_000

/-- m of R220 in 0.01 ppm, for a clock offset `o` over `t` ns. -/
def driftOf (o : Int) (t : Nat) : Int := clampInt (-32767) 32767 (roundDiv (o * 100_000_000) (max 1 t))

/-- A sync of node `i` with clock offset `o` at ASN `a` (R220, R222). -/
def syncNode (i : Nat) (o : Int) (a : Nat) (s : State) : State :=
  modNode i (fun n =>
    let t := sinceSync n a * s.time.l
    let m := driftOf o t
    { n with
      drift := if t = 0 then n.drift else if n.noSync then m else clampInt (-32768) 32767 (n.drift + asr (m - n.drift) 2)
      noSync := n.noSync && t == 0
      lsync := a % 2 ^ 32
      resync := n.resync && decide (corrLim < o.natAbs) }) s

/-- The uplink that an Enhanced ACK answers counts as a sync once the ACK is sent. -/
def ackSync (t : Tx) (s : State) : State :=
  match t.sync with
  | some (e, o, a) =>
    match findEui s e with
    | some n => syncNode n.idx o a s
    | none => s
  | none => s

/-- The cell outcome of an outcome that is neither SENT nor INTERRUPTED. -/
def skipOf (t : Tx) (outcome : Nat) : Nat :=
  if t.kind = .ack then 15 else if outcome = 1 then 3 else if outcome = 2 then 4 else 5

/-- The core acts on an outcome (Table 07-6). -/
def outcomeIn (t : Tx) (o h : Nat) (s : State) : State :=
  if o = 3 then
    if t.kind = .ack then dropTx t.id s else noAck true t (keepCharge t.id s)
  else if t.phase = .onAir ∨ t.phase = .ackWait then s
  else if o = 0 then
    let u := keepCharge t.id (modTx t.id (fun x => { x with
      phase := .onAir
      yield := none
      late := 1000 * h }) s)
    let a := t.start + 1000 * h
    ackSync t { u with tx := { u.tx with air := u.tx.air ++ [⟨t.port, t.freq, a, a + t.airtime⟩] } }
  else
    let u := cellOut (skipOf t o) t.asn t.sfh t.node (dropCharge t.id (dropTx t.id s))
    sweepTombs (match t.frame with | some f => lastTry f stNoNode u | none => u)

/-- `TX_OUTCOME` (R104): the outcome the radio side yielded, else the one that arrives, is journaled and acted on. -/
def execTxOutcome (id outcome hold : Nat) (s : State) : Res :=
  .next (coreOnly s (match txAt s id with
    | some t =>
      let y := t.yield.getD (min outcome 4, min hold 100)
      outcomeIn t y.1 y.2 (journal (.txout t.port y.1 y.2 t.entry t.asn t.sfh t.node) s)
    | none => s))

/-- `TX_FRAME_END` (R209): the carrier ends; the frame completes, or its ACK window opens. -/
def execTxFrameEnd (id : Nat) (s : State) : Res :=
  .next (coreOnly s (match txAt s id with
    | some t =>
      if t.phase != .onAir || t.yield.isSome then s
      else
        let u := reach (t.onAt + t.airtime) s
        let v := portIdle t.port u.time.tb (withRf (fun r => { r with
          deaf := r.deaf.map (fun d => if d.id = id then { d with until_ := some (u.time.tb + deafPost s) } else d) })
          (modPort t.port (fun y => { y with
            carriers := y.carriers.map (fun c => if c.id = id then { c with until_ := some (u.time.tb + 1000) } else c) }) u))
        match t.kind with
        | .ack => dropTx id v
        | .bulk | .beacon =>
          let w := cellOut 2 t.asn t.sfh t.node (dropTx id v)
          sweepTombs (match t.frame with | some f => frameDone f stOk w | none => w)
        | .unicast | .shared =>
          if t.ackReq then modTx id (fun x => { x with phase := .ackWait }) v
          else
            let w := cellOut 19 t.asn t.sfh t.node (dropTx id v)
            sweepTombs (match t.frame with | some f => frameDone f stOk w | none => w)
    | none => s))

/-- `TX_LINGER_EXPIRE` (R96): no carrier came within LINGER. -/
def execTxLingerExpire (port : Nat) (s : State) : Res :=
  .next (match (portOf s port).linger with
    | some at_ =>
      let t := reach at_ s
      let x := portOf t port
      if !(onAir x).isEmpty || x.st != .on || x.trans.isSome then modPort port (fun y => { y with linger := none }) s
      else modPort port (fun y => { startHop true t.time.tb (leaveTo t port) y with
        linger := none
        femUntil := some (t.time.tb + femHoldNs t port) }) t
    | none => s)

/-- `FEM_HOLD_EXPIRE` (R111, R113): the FEM lines take the return-state row, and the request is released. -/
def execFemHoldExpire (port : Nat) (s : State) : Res :=
  .next (match (portOf s port).femUntil with
    | some at_ =>
      let t := reach at_ s
      coexSettle (modPort port (fun y => { y with
        femUntil := none
        femRow := femRowOf (match y.trans with | some h => h.1 | none => y.st) }) t)
    | none => s)

/-- `ACK_WINDOW_CLOSE` (R216). -/
def execAckWindowClose (id : Nat) (s : State) : Res :=
  .next (coreOnly s (match txAt s id with
    | some t => if t.phase = .ackWait then noAck false t (reach (ackClose s t) s) else s
    | none => s))

end Sys2Proof.Machine
end

