-- ==== Sys2Proof/Machine/Herd.lean ====
section
/-! DEFINITION. Herd (R232 to R257, R555): measurement, channel drops, the profile ladder, power, hints, dedicated downlink
cells under 6P, the Eland shield, announcements, and the host's commands. RSSI, SNR and margins in 1/16 dB. -/
namespace Sys2Proof.Machine

def withHerd (f : HerdSt → HerdSt) (s : State) : State := { s with herd := f s.herd }
def modRec (i : Nat) (f : HerdRec → HerdRec) (s : State) : State := modNode i (fun n => { n with herd := f n.herd }) s
def hcnt (k : Nat) (s : State) : State := bump (0x92090 + 4 * k) s
/-- LAG: 0 and 1 act as 2 (Table 08-5). -/
def herdLag (s : State) : Nat := max 2 (s.regF 0x92000 11 8)
/-- Herd makes decisions (R235). -/
def deciding (s : State) : Bool := herdModeReg s != 0 && s.time.st != .acquire
/-- A live entry. -/
def liveNodes (s : State) : List Node := s.tbl.nodes.filter (fun n => !n.tomb)
def kindCode : AnnKind → Nat
  | .map => 0
  | .profile => 1
  | .power => 2
  | .hint => 3

/-- The active configuration, the maps Collie writes included. -/
def cfgNow (s : State) (x : Nat) : Nat :=
  if 0x91B00 ≤ x ∧ x < 0x91D00 then (cellsGet ((x - 0x91900) / 4) 0 s.sch.maps).toNat else s.act x

/-! ## Metrics (R237) -/

/-- v + ((x − v) >> k). -/
def smooth (v x : Int) (k : Nat) : Int := v + asr (x - v) k
def smoothN (v x k : Nat) : Nat := (smooth v x k).toNat
def loadSmooth (v : Option Int) (x : Int) : Int := match v with | some y => smooth y x 3 | none => x
/-- ETX in 1/16. -/
def etxOf (h : HerdRec) : Nat := min 255 (16384 / max h.psr 1)

/-! ## Channel groups and drop sets (R249, R250) -/

def groupOf (s : State) (c : Nat) : Nat := s.regF (0x92140 + 4 * (c / 16)) (2 * (c % 16) + 1) (2 * (c % 16))
/-- A drop set keeps MINCHAN entries of every enabled hopping sequence; map 31 is never assigned. -/
def setValid (s : State) (g : Nat) : Bool :=
  g != 15 && (List.range 4).all (fun b => !hopEn (cfgNow s) b ||
    decide (s.regF 0x92008 15 12 ≤ ((hopList (cfgNow s) b).filter (fun c => !bitOf g (groupOf s c))).length))
def mapOf (g : Nat) : Nat := if g = 0 then 0 else 16 + g
/-- The effective drop set: DROP, then GD groups in ascending order while the set stays valid. -/
def effBy (valid : Nat → Bool) (gd drop : Nat) : Nat :=
  [0, 1, 2, 3].foldl (fun d g => if bitOf gd g && !bitOf d g && valid (d + 2 ^ g) then d + 2 ^ g else d) drop
def effDrop (s : State) (gd drop : Nat) : Nat := effBy (setValid s) gd drop
/-- The drop sets that are valid. -/
def validSets (s : State) : List Nat := (List.range 16).filter (setValid s)

/-- The Collie maps as (8 × map + j, word), those that are 0 left out. -/
def collieMaps (s : State) : List (Nat × Word) :=
  ((List.range 15).flatMap (fun g => (List.range 8).map (fun j => (g, j)))).foldl (fun l x =>
    let w := sumNat ((List.range 32).map (fun i => if bitOf x.1 (groupOf s (32 * x.2 + i)) then 0 else 2 ^ i))
    cellsPut (8 * (16 + x.1) + x.2) (BitVec.ofNat 32 w) 0 l) []

/-! ## Decisions and announcements (R232, R235, R248, R555) -/

def decAt (s : State) (n : Nat) (o : HOut) : State := withHerd (fun h => { h with decs := h.decs ++ [⟨n + herdLag s, n, o⟩] }) s

/-- A decision of this kind is pending for a node: its value, the latest one first. -/
def pendingOf (s : State) (i : Nat) (k : AnnKind) : Option Int :=
  match (s.herd.decs.filterMap (fun d => match d.out with
      | .announce j q v => if j = i ∧ q = k then some v else none
      | _ => none)).getLast? with
  | some v => some v
  | none => (s.herd.anns.find? (fun a => a.node == i && a.kind == k)).map Ann.value

/-- Decide at boundary `n`: applied in FULL, advised in ADVISE. -/
def decide_ (n i : Nat) (k : AnnKind) (v : Int) (s : State) : State :=
  decAt s n (if herdModeReg s = 2 then .announce i k v else .advise i (kindCode k) v)

def pendBits (l : List Ann) (i : Nat) : Nat :=
  sumNat ([AnnKind.map, .profile, .power, .hint].map (fun k => if l.any (fun a => a.node == i && a.kind == k) then 2 ^ kindCode k else 0))
/-- PEND follows the announcements. -/
def syncPend (i : Nat) (s : State) : State := modRec i (fun h => { h with pend := pendBits s.herd.anns i }) s

/-- Link a notice frame to a node with an empty list and a decision pending (R248). -/
def notice (i : Nat) (s : State) : State :=
  match nodeAt s i with
  | some nd =>
    if nd.lost || !nd.dl.isEmpty || (annsOf s i).isEmpty then s
    else match linkNode i (.data i) none [[]] s with
      | some t => hcnt 7 t
      | none => s
  | none => s

/-- A decision takes effect: it is pending for the node's next preparation, in place of an older one of its kind; PWR holds
the sum of power changes (R252). -/
def announce (i : Nat) (k : AnnKind) (v : Int) (s : State) : State :=
  let old := ((s.herd.anns.find? (fun a => a.node == i && a.kind == k)).map Ann.value).getD 0
  let t := withHerd (fun h => { h with anns := h.anns.filter (fun a => !(a.node == i && a.kind == k)) ++ [⟨i, k, v⟩] }) s
  let u := if k = .power then
      modRec i (fun h => { h with pwr := toUnsigned 4 (signedOf 4 h.pwr - old + v) }) t
    else t
  notice i (syncPend i u)

/-- The announcements that an acknowledged attempt carried are in force (R248). -/
def annsAcked (i : Nat) (carried : List Ann) (s : State) : State :=
  let t := carried.foldl (fun u a => modRec i (fun h =>
    match a.kind with
    | .map => { h with map := a.value.toNat }
    | .profile => { h with rung := a.value.toNat }
    | .power => h
    | .hint => { h with hint := a.value.toNat }) u) s
  syncPend i (withHerd (fun h => { h with anns := h.anns.filter (fun a => !carried.contains a) }) t)

/-! ## Channel maps (R250) -/

/-- Announce the effective drop set where it differs from the node's map, unless PIN_MAP is set. -/
def announceMap (n : Nat) (nd : Node) (s : State) : State :=
  let want : Int := (mapOf (effDrop s s.herd.gd nd.herd.drop) : Nat)
  if herdModeReg s != 2 || bitOf nd.herd.pin 1 || (pendingOf s nd.idx .map).getD (nd.herd.map : Nat) == want then s
  else hcnt 2 (decide_ n nd.idx .map want s)

/-- In ADVISE, a change of a node's effective drop set raises one `HERD_ADVICE` (R555). -/
def adviseMap (n i old new : Nat) (s : State) : State :=
  if herdModeReg s = 1 ∧ old ≠ new then decide_ n i .map ((mapOf new : Nat) : Int) s else s

/-- DROP changes: DROPASN is set, and the effective set is announced or, in ADVISE, advised (R555). -/
def setDrop (n : Nat) (nd : Node) (d : Nat) (s : State) : State :=
  let u := adviseMap n nd.idx (effDrop s s.herd.gd nd.herd.drop) (effDrop s s.herd.gd d)
    (modRec nd.idx (fun h => { h with drop := d, dropasn := n / 256 % 2 ^ 24 }) s)
  match nodeAt u nd.idx with
  | some m => announceMap n m u
  | none => u

/-- The groups of a drop set that still can be dropped, in ascending order while the set stays valid. -/
def keptGroups (s : State) (d : Nat) : Nat :=
  [0, 1, 2, 3].foldl (fun e g => if bitOf d g && setValid s (e + 2 ^ g) then e + 2 ^ g else e) 0

/-- The check of a node's map after `RF_BANK_APPLY`: a drop set that has become invalid is replaced (R250). `was` holds the sets
that were valid before it. -/
def recheckMap (n : Nat) (was : List Nat) (s : State) (nd : Node) : State :=
  let drop := if setValid s nd.herd.drop then nd.herd.drop else keptGroups s nd.herd.drop
  let t := adviseMap n nd.idx (effBy was.contains s.herd.gd nd.herd.drop) (effDrop s s.herd.gd drop)
    (if drop = nd.herd.drop then s else modRec nd.idx (fun h => { h with drop := drop, dropasn := n / 256 % 2 ^ 24 }) s)
  match nodeAt t nd.idx with
  | some m => announceMap n m t
  | none => t

/-- The readmission check (R250). -/
def readmit (n i : Nat) (s : State) : State :=
  match nodeAt s i with
  | none => s
  | some nd =>
    let d : Nat := (n / 256 + 2 ^ 24 - nd.herd.dropasn) % 2 ^ 24
    if nd.herd.drop != 0 && decide (((s.regF 0x92008 31 16 * 60_000_000_000 : Nat) : Int) ≤ ((d : Int) - 1) * 256 * (s.time.l : Int)) then
      setDrop n nd 0 (modRec i (fun h => { h with
        psrg := (List.range 4).map (fun g => if bitOf nd.herd.drop g then 717 else h.psrgAt g) }) s)
    else announceMap n nd s

/-- A node's PSRG has changed in group `g` (R250). -/
def afterPsrg (n i g : Nat) (s : State) : State :=
  let t := readmit n i s
  match nodeAt t i with
  | some nd =>
    if decide (nd.herd.psrgAt g < s.regF 0x92008 10 0) && !bitOf nd.herd.drop g && setValid t (nd.herd.drop + 2 ^ g) then
      setDrop n nd (nd.herd.drop + 2 ^ g) t
    else t
  | none => t

/-! ## Profile ladder and power (R251, R252) -/

/-- Channel indexes of the node's map that occur in an enabled hopping sequence. -/
def nodeChans (s : State) (nd : Node) : List Nat :=
  let g := cfgNow s
  let used := (List.range 4).flatMap (fun b => if hopEn g b then hopList g b else [])
  (List.range 256).filter (fun c => mapHas g nd.herd.map c && used.contains c)

def slotSet (s : State) (ch : Nat) : Nat := if ch < 128 then s.act (0x70400 + 4 * ch) else s.act (0x70600 + 4 * (ch - 128))

/-- Rung `r` is usable for a node whose channels are `cs`. -/
def usable (s : State) (nd : Node) (cs : List Nat) (r : Nat) : Bool :=
  let g := cfgNow s
  let p := ladderAt s nd.cls r % 32
  bitOf (ladderAt s nd.cls r) 7 && (profAt g p).en && (sensOf s p).isSome &&
    cs.all (fun c => (chanAt g c).rxen && slotEn g (chanAt g c).slot && bitOf (slotSet s (chanAt g c).slot) p &&
      (match entryOf g c with | some e => (permitted g e).contains p | none => false))

/-- The next rung and whether it is a step up; none for no decision. -/
def ladderStep (s : State) (nd : Node) (us : List Nat) : Option (Nat × Bool) :=
  let below := (us.filter (fun r => decide (r < nd.herd.rung))).getLast?
  let above := (us.filter (fun r => decide (nd.herd.rung < r))).head?
  let psrdn := s.regF 0x92010 26 16
  if !us.contains nd.herd.rung then
    match below, above with
    | some r, _ => some (r, false)
    | none, some r => some (r, true)
    | none, none => none
  else if ((marginAt s nd nd.herd.rung).map (fun m => decide (m < targetOf s))).getD false || decide (nd.herd.psr < psrdn) then
    below.map (fun r => (r, false))
  else
    match above with
    | some r =>
      if ((marginAt s nd r).map (fun m => decide (targetOf s + 48 ≤ m))).getD false && decide (psrdn ≤ nd.herd.psr) then
        some (r, true)
      else none
    | none => none

/-- The power change that the margins ask for. -/
def powerStep (s : State) (nd : Node) (us : List Nat) : Option Int :=
  match marginAt s nd nd.herd.rung with
  | none => none
  | some m =>
    let d : Int := if us.getLast? = some nd.herd.rung ∧ targetOf s + 144 ≤ m then -3
      else if us.head? = some nd.herd.rung ∧ m < targetOf s then 3 else 0
    let p := signedOf 4 nd.herd.pwr + d
    if d = 0 ∨ p < -8 ∨ 7 < p then none else some d

/-- After an RSSI update of node `i` (R251, R252). -/
def adapt (n i : Nat) (s : State) : State :=
  match nodeAt s i with
  | none => s
  | some nd =>
    let cs := nodeChans s nd
    let us := (List.range 8).filter (usable s nd cs)
    let step := if s.regF 0x92010 15 8 ≤ nd.herd.holdcnt ∧ (pendingOf s i .profile).isNone ∧ !bitOf nd.herd.pin 0 then
      ladderStep s nd us else none
    let t := match step with
      | some (r, up) =>
        let u := decide_ n i .profile ((r : Nat) : Int) (modRec i (fun h => { h with holdcnt := 0 }) s)
        if herdModeReg s = 2 then hcnt (if up then 0 else 1) u else u
      | none => s
    if bitOf nd.herd.pin 2 || us.isEmpty || (pendingOf t i .profile).isSome || (pendingOf t i .power).isSome || step.isSome then t
    else match powerStep s nd us with
      | some d => decide_ n i .power d t
      | none => t

/-! ## Hints (R253, R254) -/

def parentOf (s : State) (nd : Node) : Option Node := if nd.parent < stashBase + 64 then nodeAt s nd.parent else none
/-- The first-hop ancestor. -/
def firstHop (s : State) : Nat → Node → Option Node
  | 0, _ => none
  | k + 1, nd => if nd.parent = rootParent then some nd else (parentOf s nd).bind (firstHop s k)

def hintTo (n i v : Nat) (s : State) : State :=
  match nodeAt s i with
  | some nd =>
    if (pendingOf s i .hint).getD (nd.herd.hint : Nat) == (v : Int) then s else decide_ n i .hint ((v : Nat) : Int) s
  | none => s

def hintsOn (s : State) : Bool := s.regB 0x92024 31

/-- ROOT to a node that is overheard well (R253); none while DRIFTED (R254). -/
def rootHint (n i : Nat) (s : State) : State :=
  match nodeAt s i with
  | some nd =>
    if hintsOn s && nd.parent != rootParent && s.time.st != .drifted &&
        ((marginAt s nd nd.herd.rung).map (fun m => decide (targetOf s + 48 ≤ m))).getD false then hintTo n i 1 s
    else s
  | none => s

def avoidHint (n : Nat) (s : State) (nd : Node) : State :=
  if hintsOn s && nd.parent != rootParent && nd.parent != noParent &&
      (((parentOf s nd).map Node.lost).getD false ||
        ((firstHop s 17 nd).map (fun m => decide (s.regF 0x92024 7 0 ≤ etxOf m.herd))).getD false) then hintTo n nd.idx 2 s
  else s

/-! ## Dedicated downlink cells (R240 to R246) -/

/-- The autonomous uplink cell of an EUI-64: slot offset in a slotframe of `len` slots, and channel offset (R240). -/
def autoHash (e : Nat) : Nat := crc32cInit 0x3B9A_C6E5 (octetsBE 8 e)
def autoCell (s : State) (e len : Nat) : Nat × Nat :=
  (autoHash e % max 1 len, autoHash e / 65536 % min 128 (max 1 (s.regF 0x92004 7 0)))

/-- The definition of DLSF for the cells that the work of boundary `n` changes: that in use when its outputs take effect. -/
def dlUse (s : State) (n : Nat) : Option SfUse := sfAt s (dlSf s) (n + herdLag s)

/-- The transmit cells of DLSF as they stand then, pending changes included: store word, slot offset, channel offset, node. -/
def dlCells (s : State) (n : Nat) : List (Nat × Nat × Nat × Nat) :=
  match dlUse s n with
  | some u => ((storeFor s (n + herdLag s)).filter (fun p => u.rec_.has p.1 && cellValid p.2 && cellTx p.2)).map (fun p =>
      (p.1, (p.1 - u.rec_.base) / max 1 u.rec_.depth, cellChofs p.2, cellNode p.2))
  | none => []

def cellsOfNode (s : State) (n i : Nat) : List (Nat × Nat × Nat × Nat) := (dlCells s n).filter (fun c => c.2.2.2 == i)
/-- Slot and channel offsets proposed and not yet answered. -/
def proposed (s : State) : List (Nat × Nat) := s.herd.sixp.flatMap (fun x => if x.cmd = 1 then x.cands else [])

/-- Transmit frequency of an entry of a hopping sequence under map 0. -/
def hopFreq (g : Nat → Nat) (b i : Nat) : Nat := (txChAt g (chanAt g (hopEntry g b i)).txch).freq
/-- SEP[b][d] (R246). -/
def sepOf (g : Nat → Nat) (b d : Nat) : Nat :=
  let len := hopLen g b
  ((List.range len).map (fun i => ((hopFreq g b i : Int) - hopFreq g b ((i + d) % max 1 len)).natAbs)).foldl min (2 ^ 40)
/-- The band holds a transmit entry inside an enabled LBT sub-band. -/
def bandLbt (s : State) (b : Nat) : Bool :=
  let g := cfgNow s
  (hopList g b).any (fun c => match subBandOf s (txChAt g (chanAt g c).txch).freq with
    | some k => s.regB (0x80108 + 16 * k) 30
    | none => false)

/-- The lowest channel offset at a slot offset that no DLSF cell there uses and that the separation rule allows. -/
def freeChofs (s : State) (b : Nat) (used : List Nat) : Option Nat :=
  let g := cfgNow s
  let len := hopLen g b
  let lbt := bandLbt s b
  (List.range (min 256 len)).find? (fun c => used.all (fun u =>
    u != c && (!lbt || decide (deafSpan s < sepOf g b ((c + len - u) % max 1 len)))))

/-- Insert a candidate by ascending load, ties kept in order. -/
def insLoad (x : Nat × Nat) : List (Nat × Nat) → List (Nat × Nat)
  | [] => [x]
  | y :: t => if x.1 < y.1 then x :: y :: t else y :: insLoad x t

/-- Candidate cells for a node (R242): slot offset and channel offset. -/
def candidates (s : State) (n : Nat) (nd : Node) : List (Nat × Nat) :=
  match dlUse s n with
  | none => []
  | some u =>
    let r := u.rec_
    let st := storeFor s (n + herdLag s)
    let taken := (dlCells s n).map (fun c => (c.2.1, c.2.2.1)) ++ proposed s
    let auto := (autoCell s nd.eui (((sfActive s (autoSf s)).map (fun u => u.rec_.length)).getD 1)).1
    let offs := (List.range r.length).map (fun k => (auto + k) % max 1 r.length)
    let load := fun o => (taken.filter (fun c => c.1 == o)).length
    let room := fun o => (List.range r.depth).any (fun j => !cellValid (storeGet st (r.wordOf o j)))
    let ok := offs.filter (fun o => room o && decide (load o < min 16 (s.regF 0x9201C 4 0)))
    let best := (ok.map (fun o => (load o, o))).foldl (fun l x => insLoad x l) []
    ((best.filterMap (fun x => (freeChofs s r.band ((taken.filter (fun c => c.1 == x.2)).map Prod.snd)).map
      (fun c => (x.2, c)))).take (s.regF 0x92014 19 16))

/-- SFID of the device's transactions. -/
def sfid (s : State) : Nat := s.regF 0x92018 7 0

def setTxn (i v : Nat) (s : State) : State := modRec i (fun h => { h with txn := v }) s
/-- The 6P sequence number after a transaction: 255 is followed by 1. -/
def nextSeq (v : Nat) : Nat := if v = 255 then 1 else v + 1
/-- TXN of a 6P command code. -/
def txnOf (cmd : Nat) : Nat := if cmd = 1 then 1 else if cmd = 2 then 2 else 3

/-- Open a transaction of the device's own: its request is linked when the decision takes effect. -/
def askTo (n i cmd : Nat) (cands : List (Nat × Nat)) (s : State) : State :=
  decAt (withHerd (fun h => { h with sixp := h.sixp ++ [⟨i, cmd, cands, none⟩] }) (setTxn i (txnOf cmd) s)) n (.ask i cmd cands)

/-- The open transaction of a node ends unanswered: nothing more is accepted for it. -/
def endAsk (i : Nat) (s : State) : State := withHerd (fun h => { h with sixp := h.sixp.filter (fun x => x.node != i) }) s
def closeTxn (i : Nat) (s : State) : State := setTxn i 0 (endAsk i s)

/-- Node `i` owes a CLEAR as its next transaction. -/
def oweClear (i : Nat) (s : State) : State := withHerd (fun h => { h with clear := h.clear.filter (· != i) ++ [i] }) s

/-- The request goes out. One that cannot be linked closes its transaction; a CLEAR is owed then (log entry 34). -/
def linkAsk (i cmd : Nat) (cands : List (Nat × Nat)) (s : State) : State :=
  let seq := ((nodeAt s i).map (fun n => n.herd.seq6p)).getD 0
  match linkNode i (.sixp i true) none [sixpRequest (sfid s) seq cmd 1 1 cands] s with
  | some t => t
  | none => sweepTombs (closeTxn i (if cmd = 7 then oweClear i s else s))

/-- Herd writes cells of DLSF through the path of R203, with effect at ASN n + LAG (R232). -/
def putDl (n : Nat) (es : List CellEntry) (s : State) : State :=
  match dlUse s n with
  | some u =>
    if es.isEmpty then s
    else { s with sch := { s.sch with writes := s.sch.writes ++ [⟨none, n + herdLag s, dlSf s, u.act, es⟩] } }
  | none => s

/-- Remove DLSF cells of node `i`, those of `only` where it is given. -/
def dropDl (n i : Nat) (only : Option (List (Nat × Nat))) (s : State) : State × List (Nat × Nat) :=
  match dlUse s n with
  | some u =>
    let gone := (cellsOfNode s n i).filter (fun c => match only with | some l => l.contains (c.2.1, c.2.2.1) | none => true)
    (putDl n (gone.map (fun c => ⟨c.2.1, (c.1 - u.rec_.base) % max 1 u.rec_.depth, 0⟩)) s, gone.map (fun c => (c.2.1, c.2.2.1)))
  | none => (s, [])

/-- A transaction has failed (R244): its cells are removed, and at n + LAG come the event, the CLEAR and the hold-off. -/
def failAsk (n i code : Nat) (s : State) : State := decAt (dropDl n i none (endAsk i s)).1 n (.fail i code)

/-- The failure takes effect. -/
def sixpFail (i code : Nat) (s : State) : State :=
  let t := hcnt 4 (event 0x0503 [i, code] s)
  let u := modRec i (fun h => { h with dlcells := 0, txn := 3 }) (withHerd (fun h => { h with
    sixp := h.sixp.filter (fun x => x.node != i) ++ [⟨i, 7, [], none⟩]
    holdoff := h.holdoff.filter (fun x => x.1 != i) ++ [(i, t.time.tb + 1_000_000_000 * t.regF 0x92018 23 8)] }) t)
  linkAsk i 7 [] u

/-- The agreed cell as a write of DLSF at the first free position of its slot offset. -/
def agreedCell (s : State) (n i : Nat) (c : Nat × Nat) : Option CellEntry :=
  (dlUse s n).bind (fun u =>
    ((List.range u.rec_.depth).find? (fun j => !cellValid (storeGet (storeFor s (n + herdLag s)) (u.rec_.wordOf c.1 j)))).map
      (fun j => ⟨c.1, j, BitVec.ofNat 32 (2 ^ 31 + 2 ^ 30 + c.2 % 256 * 2 ^ 19 + i)⟩))

/-- Herd writes the agreed cell; a cell that the checks of R203 refuse makes the transaction fail (log entry 106). -/
def writeDl (n i code : Nat) (c : Nat × Nat) (s : State) : State :=
  match agreedCell s n i c with
  | some e =>
    if (cellsCheck s (dlSf s) (n + herdLag s) [e] true).any (fun x => x.1) then failAsk n i code s
    else decAt (putDl n [e] (endAsk i s)) n (.write i c.1 c.2)
  | none => failAsk n i code s

/-- A response to the device's own request (R244). -/
def sixpResponse (n i seq code : Nat) (cells : List (Nat × Nat)) (s : State) : State :=
  match s.herd.sixp.find? (fun x => x.node == i), nodeAt s i with
  | some x, some nd =>
    if x.ackAt.isNone || seq != nd.herd.seq6p then s
    else if code ≠ 0 then failAsk n i code s
    else if x.cmd = 1 then
      match cells.head? with
      | some c => if x.cands.contains c then writeDl n i code c s else failAsk n i code s
      | none => failAsk n i code s
    else
      let y := dropDl n i (if x.cmd = 7 then none else some x.cands) (endAsk i s)
      decAt y.1 n (.drop i true y.2)
  | _, _ => s

/-- Return code of a request from the node, in the order of R244, and the cells that go. -/
def sixpReply (s : State) (n : Nat) (nd : Node) (version sf seq cmd : Nat) (cells : List (Nat × Nat)) : Nat × Option (List (Nat × Nat)) :=
  let own := (cellsOfNode s n nd.idx).map (fun c => (c.2.1, c.2.2.1))
  if version ≠ 0 then (4, none)
  else if sf ≠ sfid s then (5, none)
  else if nd.herd.txn ≠ 0 then (8, none)
  else if seq ≠ nd.herd.seq6p then (6, none)
  else if cmd = 2 then (if cells.all (fun c => own.contains c) then (0, some cells) else (7, none))
  else if cmd = 7 then (0, some own)
  else if cmd = 4 then (0, none)
  else (2, none)

/-- What follows the header of a response: the cells deleted, or the count (R243). -/
def replyBody (s : State) (n i code cmd : Nat) (cells : List (Nat × Nat)) : List Octet :=
  if code ≠ 0 then [] else if cmd = 2 then cellOct cells else if cmd = 4 then octetsLE 2 (cellsOfNode s n i).length else []

def sixpIn (n i : Nat) (m : SixpMsg) (s : State) : State :=
  match m with
  | .response seq code cells => sixpResponse n i seq code cells s
  | .request v f q cmd _ _ cells =>
    match nodeAt s i with
    | some nd =>
      let x := sixpReply s n nd v f q cmd cells
      let body := replyBody s n i x.1 cmd cells
      let t := match x.2 with
        | some l =>
          let y := dropDl n i (some l) s
          decAt y.1 n (.drop i false y.2)
        | none => s
      let u := if x.1 = 0 then modRec i (fun h => { h with seq6p := if cmd = 7 then 0 else nextSeq h.seq6p }) t else t
      decAt u n (.reply i x.1 q body)
    | none => s

/-- The agreed cells of a node have gone; a transaction of the device's own that ends with it closes. -/
def dropAgreed (i : Nat) (own : Bool) (gone : Nat) (s : State) : State :=
  modRec i (fun h => { h with
    dlcells := h.dlcells - gone
    seq6p := if !own then h.seq6p else if h.txn = 3 then 0 else if h.txn = 2 then nextSeq h.seq6p else h.seq6p
    txn := if own then 0 else h.txn }) s

/-- The agreed cell has been written: the ADD ends, and DLCELLS rises. -/
def addAgreed (i : Nat) (s : State) : State :=
  match nodeAt s i with
  | some nd =>
    if nd.herd.txn = 1 then
      hcnt 3 (modRec i (fun h => { h with dlcells := min 7 (h.dlcells + 1), txn := 0, seq6p := nextSeq h.seq6p }) s)
    else s
  | none => s

/-! ## Effects at ASN n + LAG -/

def applyOut (o : HOut) (s : State) : State :=
  match o with
  | .announce i k v => if (nodeAt s i).isSome then announce i k v s else s
  | .advise i k v => event 0x0501 [i, k, sx v] s
  | .ask i c l => if s.herd.sixp.any (fun x => x.node == i) then linkAsk i c l s else s
  | .write i _ _ => addAgreed i s
  | .drop i own l => dropAgreed i own l.length s
  | .dropAll i => sweepTombs (modRec i (fun h => { h with dlcells := 0 }) (closeTxn i s))
  | .reply i code seq body => (linkNode i (.sixp i false) none [sixpAnswer (sfid s) seq code body] s).getD s
  | .noCell i => hcnt 5 (event 0x0502 [i] s)
  | .fail i c => sixpFail i c s

def applyDecs (n : Nat) (s : State) : State :=
  (s.herd.decs.filter (fun d => decide (d.at_ ≤ n))).foldl (fun u d => applyOut d.out u)
    (withHerd (fun h => { h with
      decs := h.decs.filter (fun d => !decide (d.at_ ≤ n))
      busy := h.busy.filter (fun b => decide (n ≤ b.2.1)) }) s)

/-! ## Measurement (R232, R237, R247) -/

def meter (n i : Nat) (rssi snr : Int) (s : State) : State :=
  let t := modRec i (fun h => { h with
    rssi := some (loadSmooth h.rssi rssi)
    snr := some (loadSmooth h.snr snr)
    holdcnt := min 31 (h.holdcnt + 1) }) s
  if deciding t then adapt n i t else t

def psrIn (i x : Nat) (s : State) : State := modRec i (fun h => { h with psr := smoothN h.psr x 4 }) s

/-- One census entry: OCC and LEVEL of the channel indexes of its slot (R237). -/
def censusEntry (s : State) (e : RxSumEntry) (l : List (Nat × Nat × Int)) : List (Nat × Nat × Int) :=
  ((List.range 256).filter (fun c => (chanAt s.act c).rxen && (chanAt s.act c).slot == e.slot)).foldl (fun l c =>
    let old := ((l.find? (fun x => x.1 == c)).map Prod.snd).getD (0, 0)
    let new := (smoothN old.1 e.occ 6, smooth old.2 e.level 6)
    let rest := l.filter (fun x => x.1 != c)
    if new = (0, 0) then rest else (rest.filter (fun x => decide (x.1 < c))) ++ [(c, new)] ++ rest.filter (fun x => decide (c < x.1))) l

/-- Transmit entries that a locked Eland frame on a channel slot shields (R247). -/
def shielded (s : State) (ch : Nat) : List Nat :=
  (txEntries s.act).filter (fun i => inDeafSpan s (4 + (txChAt s.act i).port) (txChAt s.act i).freq ch)

def shieldMarks (s : State) (asn : Nat) (es : List RxSumEntry) : List (Nat × Nat × Nat) :=
  if s.regB 0x92000 31 then
    (es.filter (fun e => e.elock && decide (e.slot < 128))).flatMap (fun e => (shielded s e.slot).map (fun i => (i, asn + herdLag s, e.slot)))
  else []

/-- GD after the census (R250). -/
def gdOf (s : State) : Nat :=
  sumNat ((List.range 4).map (fun g =>
    let cs := (List.range 256).filter (fun c => groupOf s c == g)
    let sum := sumNat ((s.herd.occ.filter (fun x => cs.contains x.1)).map (fun x => x.2.1))
    let lim := s.regF 0x9200C 26 16 * cs.length
    let on := if bitOf s.herd.gd g then !decide (2 * sum < lim) else decide (lim < sum)
    if on && !cs.isEmpty then 2 ^ g else 0))

/-- GD changes: every node whose effective drop set changes is announced or advised. -/
def setGd (n gd : Nat) (s : State) : State :=
  if gd = s.herd.gd then s
  else (liveNodes s).foldl (fun u nd =>
    announceMap n nd (adviseMap n nd.idx (effDrop s s.herd.gd nd.herd.drop) (effDrop s gd nd.herd.drop) u))
    (withHerd (fun h => { h with gd := gd }) s)

def census (n asn : Nat) (es : List RxSumEntry) (s : State) : State :=
  let m := shieldMarks s asn es
  let t := bumpN 0x920A8 m.length (withHerd (fun h => { h with
    occ := es.foldl (fun l e => censusEntry s e l) h.occ
    busy := h.busy ++ m }) s)
  if deciding t then setGd n (gdOf t) t else t

/-- One journal item in the work of boundary `n`. -/
def herdItemIn (n : Nat) (s : State) (i : HItem) : State :=
  match i with
  | .uplink k r q gap =>
    match nodeAt s k with
    | none => s
    | some nd =>
      let miss := if s.regB 0x92000 30 && nd.parent == rootParent && decide (1 < gap) then min (gap - 1) 8 else 0
      psrIn k 1024 ((List.range miss).foldl (fun u _ => psrIn k 0 u) (meter n k r q s))
  | .ack k r q => if (nodeAt s k).isSome then meter n k r q s else s
  | .overheard k r q =>
    let t := if (nodeAt s k).isSome then meter n k r q s else s
    if deciding t then rootHint n k t else t
  | .attempt k c acked =>
    if (nodeAt s k).isNone then s
    else
      let g := groupOf s c
      let x := if acked then 1024 else 0
      let t := psrIn k x (modRec k (fun h => { h with
        psrg := (List.range 4).map (fun j => if j = g then smoothN (h.psrgAt j) x 4 else h.psrgAt j) }) s)
      if deciding t then afterPsrg n k g t else t
  | .census a es => census n a es s
  | .sixp k m => sixpIn n k m s
  | .lost k => decAt (dropDl n k none (endAsk k (oweClear k s))).1 n (.dropAll k)
  | .applied was => if deciding s then (liveNodes s).foldl (recheckMap n was) s else s

/-! ## The work of a boundary -/

/-- A request of the device's own ended without an ACK: its frame is gone and no ACK came. -/
def askLost (s : State) (x : Sixp) : Bool :=
  x.ackAt.isNone && !s.herd.decs.any (fun d => match d.out with | .ask i _ _ => i == x.node | _ => false) &&
    !s.tx.frames.any (fun f => f.kind == .sixp x.node true)

/-- A cell of the node has been idle for IDLEDEL occurrences (R245). -/
def idleCell (s : State) (n i : Nat) : Option (Nat × Nat) :=
  ((cellsOfNode s n i).find? (fun c =>
    s.herd.idle.any (fun x => x.1 == c.1 && decide (max 1 (s.regF 0x92014 15 8) ≤ x.2)))).map (fun c => (c.2.1, c.2.2.1))

/-- The conditions of R241 for a new cell, MODE apart, and no hold-off (R244). -/
def wantsCell (s : State) (nd : Node) : Bool :=
  !bitOf nd.herd.pin 3 && !nd.lost && !nd.resync && decide (nd.idx < stashBase) &&
    decide (s.regF 0x92014 3 0 ≤ nd.dl.length) && decide (nd.herd.dlcells < s.regF 0x92014 7 4) &&
    !s.herd.holdoff.any (fun h => h.1 == nd.idx && decide (s.time.tb < h.2))

/-- One node's 6P work: a CLEAR after `NODE_FOUND` or a failure, a DELETE of an idle cell, an ADD on demand (R241, R245). -/
def sixpWork (n : Nat) (s : State) (nd : Node) : State :=
  if nd.herd.txn != 0 || nd.lost then s
  else if s.herd.clear.contains nd.idx then
    askTo n nd.idx 7 [] (withHerd (fun h => { h with clear := h.clear.filter (· != nd.idx) }) s)
  else
    match idleCell s n nd.idx with
    | some c => askTo n nd.idx 2 [c] s
    | none =>
      if wantsCell s nd then
        match candidates s n nd with
        | [] => decAt s n (.noCell nd.idx)
        | l => askTo n nd.idx 1 l s
      else s

/-- In ADVISE, the decision that `sixpWork` would start with is advised as kind 4 (R235, Table 13-8; log entry 107). -/
def adviseCell (n : Nat) (s : State) (nd : Node) : State :=
  if nd.herd.txn != 0 || nd.lost then s
  else
    match idleCell s n nd.idx with
    | some c => decAt s n (.advise nd.idx 4 (Config.cellAdvice 2 [c] : Nat))
    | none =>
      if wantsCell s nd then
        match candidates s n nd with
        | [] => s
        | l => decAt s n (.advise nd.idx 4 (Config.cellAdvice 1 l : Nat))
      else s

/-- Herd's work at the boundary of ASN `n` (R232). -/
def herdBoundary (n : Nat) (s : State) : State :=
  let t := applyDecs n s
  let u := t.herd.items.foldl (herdItemIn n) (withHerd (fun h => { h with items := [] }) t)
  let v := (u.herd.sixp.filter (askLost u)).foldl (fun w x => failAsk n x.node 0xFF w) u
  let w := (liveNodes v).foldl (fun x nd => if (annsOf x nd.idx).isEmpty then x else notice nd.idx x) v
  if !deciding w then w
  else
    let x := (liveNodes w).foldl (fun y nd => if n % 65536 = nd.idx % 65536 then readmit n nd.idx y else y) w
    let y := (liveNodes x).foldl (fun z nd => avoidHint n z nd) x
    if herdModeReg y = 2 then (liveNodes y).foldl (sixpWork n) y else (liveNodes y).foldl (adviseCell n) y

/-! ## Rows of their own -/

/-- The transaction that a decision would have carried on. -/
def HOut.txnOf : HOut → Option Nat
  | .ask i _ _ => some i
  | .write i _ _ => some i
  | .drop i own _ => if own then some i else none
  | .dropAll i => some i
  | .fail i _ => some i
  | _ => none

/-- The decisions of boundary `b` are dropped, with the cells and busy marks they would have written; the transactions they belong
to close (log entry 33). -/
def dropDecs (b : Nat) (s : State) : State :=
  let gone := s.herd.decs.filter (fun d => d.from_ == b)
  (gone.filterMap (fun d => d.out.txnOf)).foldl (fun u i => closeTxn i u)
    { withHerd (fun h => { h with
        decs := h.decs.filter (fun d => d.from_ != b)
        busy := h.busy.filter (fun x => x.2.1 + 2 != b + herdLag s) }) s with
      sch := { s.sch with writes := s.sch.writes.filter (fun q =>
        !(q.ref.isNone && q.sfh == dlSf s && q.asn == b + herdLag s)) } }

/-- `HERD_OVERRUN` (R234, code 0x0501): the decisions whose time has come are dropped, the measurements stand. -/
def execHerdOverrun (s : State) : Res :=
  .next (coreOnly s (if !s.up then s
    else
      let b := asnNow s + 1 - herdLag s
      raiseErr 0x0501 1 5 0 0 0 (s.herd.decs.filter (fun d => d.from_ == b)).length (dropDecs b s)))

/-- `SIXP_TIMEOUT` (R244): no response within TIMEOUT of the request's ACK. The work of the next boundary takes it (R232). -/
def execSixpTimeout (node : Nat) (s : State) : Res :=
  .next (coreOnly s (match s.herd.sixp.find? (fun x => x.node == node) with
    | some x =>
      match x.ackAt with
      | some a =>
        let t := reach (a + 1_000_000_000 * s.regF 0x92018 23 8) s
        if s.up then failAsk (asnNow t + 1) node 0xFF t else s
      | none => s
    | none => s))

/-- `DROP_READMIT_CHECK` (R250): the check of the boundary at which a node's turn comes. -/
def execDropReadmitCheck (node : Nat) (s : State) : Res :=
  .next (coreOnly s (if s.up && deciding s && asnNow s % 65536 == node % 65536 then readmit (asnNow s) node s else s))

/-! ## The host's commands (R255 to R258) -/

/-- MODE, AUTOSF, DLSF and LAG break the rules of R255: STATUS. -/
def modeBreach (s : State) (mode autosf dlsf lag : Nat) : Option Nat :=
  if autosf = dlsf ∨ lag < 2 ∨ 15 < lag then some stBad
  else if (mode = 1 ∨ mode = 2) ∧ ((sfActive s autosf).isNone ∨ (sfActive s dlsf).isNone) then some stBadState
  else none

/-- A new `SCH_HCTL` word: Collie's maps are written when MODE leaves OFF, GRP_WRDROP falls when MODE is OFF (R249). -/
def setHctl (v : Word) (s : State) : State :=
  let t := s.setReg 0x92000 v
  let on := hctlMode t != 0
  { t with
    sch := { t.sch with maps := if on && hctlMode s == 0 then collieMaps t else t.sch.maps }
    herd := { t.herd with
      mapsOn := t.herd.mapsOn || on
      grpDrop := t.herd.grpDrop && on } }

def doHerdModeSet (r : CmdRef) (mode autosf dlsf lag : Nat) (s : State) : State :=
  checked r [(decide (3 < mode) || decide (63 < autosf) || decide (63 < dlsf), stBad, 5, 0x000B),
    (modeBreach s mode autosf dlsf lag == some stBad, stBad, 5, 0x000B),
    (modeBreach s mode autosf dlsf lag == some stBadState, stBadState, 5, 0)] (fun s =>
      let old := (s.reg 0x92000).toNat
      let keep := bitsOf old 31 30 * 2 ^ 30
      done r (setHctl (BitVec.ofNat 32 (keep + dlsf * 2 ^ 24 + autosf * 2 ^ 16 + lag * 2 ^ 8 + mode)) s)) s

/-- `HERD_MODE_SET` (R255). -/
def execHerdModeSet (r : CmdRef) (mode autosf dlsf lag : Nat) (s : State) : Res :=
  .next (runCmd r 0x0310 1 0 (.herdModeSet mode autosf dlsf lag) s (doHerdModeSet r mode autosf dlsf lag))

/-- `SCH_HCTL_WRITE` (R258): a write that breaks R255 writes MODE as OFF and the other fields as given. -/
def execSchHctlWrite (value : Word) (s : State) : Res :=
  let v := value &&& 0xFF3F_0F03
  let n := v.toNat
  .next (jwr (fun s =>
    let bad := (modeBreach s (bitsOf n 1 0) (bitsOf n 21 16) (bitsOf n 29 24) (bitsOf n 11 8)).isSome
    let w := if bad then v &&& 0xFFFF_FFFC else v
    setHctl w (journalCfg 0x92000 w s)) s)

def forced (a : HerdSetArgs) (i : Nat) : Bool := a.force.getLsbD i

/-- A forced value: it replaces Herd's decisions of its kind that came before it in the journal (R256). -/
def announceForced (i : Nat) (k : AnnKind) (v : Int) (s : State) : State :=
  announce i k v (withHerd (fun h => { h with decs := h.decs.filter (fun d => match d.out with
    | .announce j q _ => !(j == i && q == k)
    | _ => true) }) s)

def doHerdNodeSet (r : CmdRef) (a : HerdSetArgs) (s : State) : State :=
  match nodeAt s a.index with
  | none => refuse r stNoNode 5 0 s
  | some nd =>
    let old := if s.herd.anns.any (fun x => x.node == a.index && x.kind == .power) then (pendingOf s a.index .power).getD 0 else 0
    let p := signedOf 4 nd.herd.pwr - old + a.power
    checked r [(forced a 0 && (decide (7 < a.rung) || !usable s nd (nodeChans s nd) a.rung), stBad, 5, 0),
      (forced a 1 && !setValid s (a.drop.toNat % 16), stBad, 5, 0),
      (forced a 2 && (decide (p < -8) || decide (7 < p)), stBad, 5, 0x0101),
      (forced a 3 && a.hint != 1 && a.hint != 2, stBad, 5, 0x000B)] (fun s =>
        let n := asnNow s
        let t := modRec a.index (fun h => { h with
          pin := ((BitVec.ofNat 4 h.pin &&& ~~~a.pinwe) ||| (a.pin &&& a.pinwe)).toNat
          holdcnt := if forced a 0 then 0 else h.holdcnt
          drop := if forced a 1 then a.drop.toNat % 16 else h.drop
          dropasn := if forced a 1 then n / 256 % 2 ^ 24 else h.dropasn }) s
        let u := if forced a 0 then announceForced a.index .profile (a.rung : Nat) t else t
        let v := if forced a 1 then announceForced a.index .map ((mapOf (effDrop u u.herd.gd (a.drop.toNat % 16)) : Nat) : Int) u else u
        let w := if forced a 2 then announceForced a.index .power a.power v else v
        done r (if forced a 3 then announceForced a.index .hint (a.hint : Nat) w else w)) s

/-- `HERD_NODE_SET` (R256). -/
def execHerdNodeSet (r : CmdRef) (a : HerdSetArgs) (s : State) : Res := .next (runCmd r 0x0311 1 0 (.herdNodeSet a) s (doHerdNodeSet r a))

/-- The 32 octets of Table 14-5. -/
def herdOctets (h : HerdRec) : List Octet :=
  octetsLE 2 (toUnsigned 16 (h.rssi.getD 0)) ++ octetsLE 2 (toUnsigned 16 (h.snr.getD 0)) ++ octetsLE 2 h.psr ++
    (List.range 4).flatMap (fun g => octetsLE 2 (h.psrgAt g)) ++
    [h.rung, h.drop, h.map, h.holdcnt, toUnsigned 8 (signedOf 4 h.pwr), h.pend, h.seq6p, h.txn, h.dlcells, h.pin, h.hint,
      etxOf h].flatMap (octetsLE 1) ++ octetsLE 3 h.dropasn ++ octetsLE 3 0

def doHerdNodeRead (r : CmdRef) (index outAddr : Nat) (s : State) : State :=
  match nodeAt s index with
  | some nd => done r (writeOut outAddr (herdOctets nd.herd) s)
  | none => refuse r stNoNode 5 0 s

/-- `HERD_NODE_READ` (R257, R415). -/
def execHerdNodeRead (r : CmdRef) (index outAddr : Nat) (s : State) : Res :=
  .next (runCmd r 0x0312 1 0 (.herdNodeRead index outAddr) s (doHerdNodeRead r index outAddr))

end Sys2Proof.Machine
end

