-- ==== Sys2Proof/Machine/Queues.lean ====
section
/-! DEFINITION. Pools, watermarks and the QFLOW pins (R357, R369 to R372). -/
namespace Sys2Proof.Machine

/-- Cells in use of pool `k`: those in its present range (R357). -/
def poolInUse (s : State) (k : Nat) : Nat := (s.que.used.filter (inPool s k)).length

/-! ## Asynchronous FIFOs (R362 to R368)

A FIFO's frames are the items themselves where the state holds them: received frames in `rx.out`, staged transmissions in `tx`,
cipher operations in `sec.ops`, Ethernet frames in `eth`, descriptors in the command rings. An item of the other FIFOs is written
and read within one row of the table (95_what_each_step_holds.md), and a writer writes its frame whole at its end, so no open
frame outlasts a row and the flags of R364, which lag by at most three cycles, show the pointers (log entry 89). -/

/-- Receive handoff FIFO of a demodulator (Table 12-3). -/
def handoffFifo (ch : Nat) : Nat := if ch < 128 then ch / 8 else ch - 128

/-- Entries of a received frame: the metadata, 32 octets, and the PSDU, at 128 bits an entry. -/
def handoffEntries (psdu : Nat) : Nat := ceilDiv (32 + psdu) 16

/-- The transmissions handed to the radio side of RFOUT port `p` (0 or 1) and not yet started (R104). -/
def handedOver (s : State) (p : Nat) : List Tx :=
  s.tx.txs.filter (fun t => t.port == 4 + p && t.yield.isNone && (t.phase == .staged || t.phase == .held || t.phase == .ramping))

/-- The frames of FIFO `f`, oldest first, in entries (R363). A staged request takes one entry beside its PSDU. -/
def fifoFrames (s : State) (f : Nat) : List Nat :=
  if f < 16 then (s.rx.out.getD f []).map (fun x => handoffEntries x.2.length)
  else if f < 18 then (handedOver s (f - 16)).map (fun t => 1 + ceilDiv t.psdu.length 16)
  else if f = 19 then (handedOver s 0 ++ handedOver s 1).map (fun _ => 1)
  else if f = 26 then (s.sec.ops.take 63).map (fun _ => 1)
  else if f = 31 ∨ f = 32 then ((s.eth.getD (f - 31) EthPort.reset).fifo).map (fun x => ceilDiv x.frame.length 16)
  else if f = 33 ∨ f = 34 then ((s.eth.getD (f - 33) EthPort.reset).out).map (fun x => ceilDiv x.length 16)
  else if f = 35 then s.hif.cring.flatMap (fun x => x.fetched.map (fun _ => 2))
  else []

/-- Entries written and not yet read. -/
def fifoLevel (s : State) (f : Nat) : Nat := sumNat (fifoFrames s f)

/-- Entries of FIFO `f` (Table 12-3). -/
def fifoDepth (f : Nat) : Nat :=
  if f < 16 then 512 else if f < 18 then 1024 else if f < 28 then 64 else if f = 28 then 4 else if f < 31 then 16
  else if f < 33 then 2048 else if f < 35 then 1024 else if f < 37 then 2048 else 3584

/-- Writers that never stall. -/
def fifoNeverStalls (f : Nat) : Bool := f < 16 || f == 18 || f == 19 || f == 31 || f == 32

/-- `QUE_FCNT[f][k]`. -/
def fcnt (f k : Nat) : Nat := 0xD0800 + 16 * f + 4 * k

/-- What becomes of a frame of `n` entries offered to FIFO `f`: 0 written, 1 OVERSIZE, 2 NOROOM, 3 the writer waits. The
write pointer never reaches the read pointer. -/
def fifoFit (s : State) (f n : Nat) : Nat :=
  if fifoLevel s f + n < fifoDepth f then 0
  else if fifoLevel s f = 0 then 1
  else if fifoNeverStalls f then 2
  else 3

/-- Offer a frame of `n` entries to FIFO `f`: `put` writes it where it fits; else it is counted and lost, or left to wait
(R363, R366). -/
def fifoPut (f n : Nat) (put : State → State) (s : State) : State :=
  match fifoFit s f n with
  | 0 => put s
  | 1 => bump (fcnt f 1) s
  | 2 => bump (fcnt f 2) s
  | _ => s

/-- A use of `DROP_FRAME` on FIFO `f` (R367). -/
def dropFrame (c : Bool) (f : Nat) (s : State) : State := bumpIf c (fcnt f 3) s

/-- LEVEL of watermark source `w` (R369). -/
def wmLevel (s : State) (w : Nat) : Nat :=
  if w < 39 then fifoLevel s w
  else if w < 48 then poolInUse s (w - 40)
  else heldCells (s.que.egress.getD (w - 48) [])

def wmExists (w : Nat) : Bool := w < 39 || (40 ≤ w && w < 45) || (48 ≤ w && w < 60)
def wmHigh (s : State) (w : Nat) : Nat := s.regF (0xD0100 + 16 * w) 15 0
/-- LOW, acting as HIGH - 1 when it is not below HIGH. -/
def wmLow (s : State) (w : Nat) : Nat :=
  if wmHigh s w ≤ s.regF (0xD0100 + 16 * w) 31 16 then wmHigh s w - 1 else s.regF (0xD0100 + 16 * w) 31 16

/-- Whether a source selected for QFLOW pin `p` is above (R371). -/
def qflowWants (s : State) (above : List Nat) (p : Nat) : Bool :=
  above.any (fun w => s.regB (0xD0068 + 8 * p + 4 * (w / 32)) (w % 32))

/-- MINHOLD in ns. -/
def minHold (s : State) : Nat := 1000 * max 1 (s.regF 0xD0060 15 8)

/-- The pins after ABOVE has become `above`: active at once, inactive once MINHOLD has elapsed (R371). -/
def qflowNext (s : State) (above : List Nat) (p : Nat) (x : QPin) : QPin :=
  if qflowWants s above p then (if x.active then x else ⟨true, s.time.tb⟩)
  else if x.active && x.since + minHold s ≤ s.time.tb then ⟨false, s.time.tb⟩ else x

/-- The PAUSE frame that a change of ABOVE of an ingress FIFO makes its port send (R372). -/
def pauseOn (s : State) (w : Nat) (up : Bool) (l : List (List Nat)) : List (List Nat) :=
  if (w = 31 ∨ w = 32) ∧ s.regB (0xD0A80 + 4 * (w - 31)) 31 then
    modAt (w - 31) (· ++ [if up then max 1 (s.regF (0xD0A80 + 4 * (w - 31)) 15 0) else 0]) l
  else l

/-- ABOVE of source `w` goes to 1 (R370). -/
def wmRise (w : Nat) (s : State) : State :=
  let a := 0xD0104 + 16 * w
  let above := s.que.above ++ [w]
  let seen := s.regB a 0
  let t := ({ s with
    que := { s.que with
      above := above
      qflow := [qflowNext s above 0 (s.que.qflow.getD 0 ⟨false, 0⟩), qflowNext s above 1 (s.que.qflow.getD 1 ⟨false, 0⟩)]
      pauseTx := pauseOn s w true s.que.pauseTx }
    cnt := cntBump (0xD010C + 16 * w) 0 16 1 s.cnt }).setReg a (s.reg a ||| 1)
  eventIf (!seen && s.regB a 8) 0x0A01 [w, wmLevel s w, (cellsGet (0xD010C + 16 * w) 0 t.cnt).toNat] t

/-- ABOVE of source `w` goes to 0 (R370). -/
def wmFall (w : Nat) (s : State) : State :=
  let a := 0xD0104 + 16 * w
  let above := s.que.above.filter (· != w)
  { s with
    que := { s.que with
      above := above
      qflow := [qflowNext s above 0 (s.que.qflow.getD 0 ⟨false, 0⟩), qflowNext s above 1 (s.que.qflow.getD 1 ⟨false, 0⟩)]
      pauseAt := if w = 31 ∨ w = 32 then setAt s.que.pauseAt (w - 31) none else s.que.pauseAt
      pauseTx := pauseOn s w false s.que.pauseTx }
    regs := cellsPut a (s.reg a ||| 2) (resetAt a) s.regs }

/-- `WATERMARK_CROSSING` (R370): the source's level is compared with HIGH and LOW. -/
def execWatermarkCrossing (source : Nat) (s : State) : Res :=
  .next (if !wmExists source then s
    else if s.que.above.contains source then (if wmLevel s source ≤ wmLow s source then wmFall source s else s)
    else if wmHigh s source ≤ wmLevel s source then wmRise source s else s)

/-- `QFLOW_HOLD_EXPIRE` (R371): MINHOLD has elapsed on a pin that no selected source holds. -/
def execQflowHoldExpire (pin : Nat) (s : State) : Res :=
  .next (match s.que.qflow[pin]? with
    | some x =>
      if x.active && !qflowWants s s.que.above pin then
        let t := reach (x.since + minHold s) s
        { t with que := { t.que with qflow := setAt t.que.qflow pin ⟨false, t.time.tb⟩ } }
      else s
    | none => s)

/-- Take cell `c` out of free intervals. -/
def cutCell (c : Nat) (l : List (Nat × Nat)) : List (Nat × Nat) :=
  l.flatMap (fun p =>
    if p.1 ≤ c ∧ c < p.2 then
      (if p.1 < c then [(p.1, c)] else []) ++ (if c + 1 < p.2 then [(c + 1, p.2)] else [])
    else [p])

/-- The free list of pool `k`: the free cells of its range in ascending order (R357). -/
def freshFree (s : State) (k : Nat) : List (Nat × Nat) :=
  let lo := poolBase s k
  let hi := min 32768 (lo + poolSize s k)
  s.que.used.foldl (fun l c => cutCell c l) (if lo < hi then [(lo, hi)] else [])

/-- `QUE_POOL_WRITE` (R357). -/
def execQuePoolWrite (k : Nat) (value : Word) (s : State) : Res :=
  .next (jwr (fun s => if 5 ≤ k then s
    else if s.jrn.started then { s with que := { s.que with wrDrop := true } }
    else
      let t := s.setReg (poolCtl k) (value &&& 0xFFFF_7FFF)
      { t with que := { t.que with free := (List.range 5).map (freshFree t) } }) s)

end Sys2Proof.Machine
end

