-- ==== Sys2Proof/Machine/Demod.lean ====
section
/-! DEFINITION. The demodulators (R108 to R110, R146 to R154, R159 to R164, R178, R180, R190 to R194): detection, capture, the
diversity choice, false locks, mode switch, OFDM equalisation, Eland codewords, and the end of a frame. -/
namespace Sys2Proof.Machine

/-! ## Demodulators -/

def demodAt (s : State) (ch : Nat) : Option Lock := (s.rx.locks.find? (fun d => d.ch == ch)).map Demod.lock

/-- Insert a lock, by ascending channel slot. -/
def insLock (d : Demod) : List Demod → List Demod
  | [] => [d]
  | e :: t => if d.ch < e.ch then d :: e :: t else if d.ch = e.ch then d :: t else e :: insLock d t

def setLock (ch : Nat) (l : Lock) (s : State) : State := { s with rx := { s.rx with locks := insLock ⟨ch, l⟩ s.rx.locks } }
def freeLock (ch : Nat) (s : State) : State :=
  { s with rx := { s.rx with locks := s.rx.locks.filter (fun d => d.ch != ch) } }
def demDisc (k : Nat) (s : State) : State := bump (0x70040 + 4 * k) s
/-- Count index `k` of Table 16-3 for a channel slot. -/
def rxCount (ch k : Nat) (s : State) : State := { s with rx := sumCount s ch k 1 s.rx }

/-- An RFIN port whose samples reach the windows: in RX and not paused (R109). -/
def hearing (s : State) (p : Nat) : Bool := (portOf s p).st == .on && !(portOf s p).clipping
/-- The two RFIN ports of a channel slot's pair. -/
def portA (s : State) (ch : Nat) : Nat := 2 * winPair (slotWin s.act ch)
def slotDeaf (s : State) (ch : Nat) : Bool := s.rf.deaf.any (fun d => d.ch == ch)

/-- In WATCH only the selected narrowband channel slots run (R504). -/
def runsInWatch (s : State) (ch : Nat) : Bool :=
  s.pwr.st != .watch || (ch < 128 && s.regB (0x10010 + 4 * (ch / 32)) (ch % 32))

/-- The demodulator of channel slot `ch` runs and receives samples (R125, R108). -/
def demRuns (s : State) (ch : Nat) : Bool :=
  s.up && ch < 144 && slotEn s.act ch && runsInWatch s ch && s.rf.spll == .locked && !slotDeaf s ch &&
    !s.offline 1 && !s.offline 2 && !s.offline 3 && (hearing s (portA s ch) || hearing s (portA s ch + 1))

/-- A profile the channel slot searches for: enabled, in its set, of the demodulator's kind (R146). -/
def searches (s : State) (ch p : Nat) : Bool :=
  let q := profAt s.act p
  p < 32 && bitOf (slotSet s ch) p && q.en && ((q.typ == 0 || q.typ == 3) == decide (ch < 128))

def freshLock (s : State) (p : Nat) (rssiQ : Int) (msUntil : Option Nat) (ms : Bool) : Lock := ⟨p, rssiQ, s.time.tb, none, msUntil, ms⟩

/-- The profile under which channel slot `ch` finds a preamble of the kind of profile `p`: one of its set that it searches for
(R146). -/
def finds (s : State) (ch p : Nat) : Option Nat := (heardAs s.act ch p).filter (searches s ch)

/-- Time from the start of a preamble to its detection (Tables 05-6 and 06-6). -/
def detectNs (q : Prof) : Nat :=
  if q.typ = 0 then octetsNs 2 q.fskKbps else if q.typ = 1 then 240_000 else if q.typ = 2 then 64_000 else 5_120_000

/-- Release time without an SFD: the longest PREMAX of the family in the set counts (R160, R190). -/
def releaseNs (s : State) (ch p : Nat) : Nat :=
  let q := profAt s.act p
  let longest := fun (typ : Nat) (f : Prof → Nat) =>
    ((List.range 32).filter (fun i => searches s ch i && (profAt s.act i).typ == typ)).foldl (fun m i => max m (f (profAt s.act i))) (f q)
  if q.typ = 0 then octetsNs (2 * longest 0 Prof.premax) q.fskKbps
  else if q.typ = 1 then 1_440_000
  else if q.typ = 2 then 320_000
  else 2 * longest 3 Prof.elPremax * 1_280_000

/-! ## Detection and capture -/

/-- `PREAMBLE_DETECT` (R146, R149, R160): a preamble of the kind of `profile` at channel slot `ch`. A free demodulator locks; one
that awaits a new-mode preamble takes it when it began in time. -/
def execPreambleDetect (ch profile : Nat) (rssiQ : Int) (s : State) : Res :=
  .next (if !demRuns s ch then s
    else match demodAt s ch with
      | none =>
        match finds s ch profile with
        | some p => setLock ch (freshLock s p rssiQ none false) s
        | none => s
      | some l =>
        match l.msUntil with
        | some u =>
          if samePreamble (profAt s.act l.profile) (profAt s.act profile) ∧ s.time.tb ≤ u + detectNs (profAt s.act profile) then
            setLock ch { l with
              msUntil := none
              at_ := s.time.tb
              rssiQ := rssiQ } s
          else s
        | none => s)

/-- `SECOND_PREAMBLE_DETECT` (R161, R162, R164), at the end of the new preamble's SNR window. Before the SFD a preamble PRE_DB
stronger than the lock replaces it; after it one CAPTURE_DB stronger than the frame's mean RSSI captures. Where the frame's
last bit has come first there is no lock, and the preamble, already detected, is received. -/
def execSecondPreambleDetect (ch profile : Nat) (lv : PreLevels) (s : State) : Res :=
  .next (match (if demRuns s ch then finds s ch profile else none) with
    | none => s
    | some p =>
      let pre := 4 * s.regF 0x70004 12 8
      let cap := 4 * s.regF 0x70004 4 0
      let new := setLock ch (freshLock s p lv.rssiQ none false)
      match demodAt s ch with
      | none => new s
      | some l =>
        if l.sfd.isNone then (if l.rssiQ + (pre : Int) ≤ lv.rssiQ then new (demDisc 5 (rxCount ch 8 s)) else s)
        else if cap != 0 && decide (lv.meanQ + (cap : Int) ≤ lv.rssiQ) then new (demDisc 7 (rxCount ch 3 s))
        else s)

/-- The diversity choice of R110: which port of the pair, and whether the frame is single-port. Mode 3, which the register's table
does not list, acts as SELECT (log entry 108). -/
def diversity (s : State) (ch : Nat) (snr1 snr2 : Int) : Nat × Bool :=
  let a := portA s ch
  let mode := s.regF 0x40010 (2 * winPair (slotWin s.act ch) + 1) (2 * winPair (slotWin s.act ch))
  if !hearing s a then (a + 1, true)
  else if !hearing s (a + 1) then (a, true)
  else if mode = 1 then (a, false)
  else if mode = 2 then (a + 1, false)
  else (if snr1 + 1 < snr2 then a + 1 else a, false)

/-- The diversity statistics of a choice, at most 0xFFFF each (Table 16-3). -/
def divCount (second single : Bool) (v : List Nat) : List Nat :=
  let up := fun (c : Nat) => min 0xFFFF (c + 1)
  modAt (b2n second) up (if single then modAt 2 up v else v)

/-- `SFD_DETECT` (R110, R154): the port is chosen and the timestamp taken. -/
def execSfdDetect (ch : Nat) (snr1 snr2 : Int) (x : SfdMark) (s : State) : Res :=
  .next (match demodAt s ch with
    | none => s
    | some l =>
      if !demRuns s ch || l.sfd.isSome || l.msUntil.isSome then s
      else
        let d := diversity s ch snr1 snr2
        let t := setLock ch { l with sfd := some ⟨x.tick, x.fec, d.1, d.2, snr1, snr2⟩ } (reach (x.tick * 5 / 4) s)
        { t with rx := modSums t ch (fun y => { y with divs := divCount (d.1 != portA s ch) d.2 y.divs }) t.rx })

/-- `FALSE_DET_RELEASE` (R163). -/
def execFalseDetRelease (ch : Nat) (s : State) : Res :=
  .next (match demodAt s ch with
    | none => s
    | some l =>
      if l.sfd.isSome || l.msUntil.isSome then s
      else freeLock ch (demDisc 6 (rxCount ch 7 (reach (l.at_ + releaseNs s ch l.profile) s))))

/-! ## Mode switch (R149) -/

/-- Profile that a mode-switch key maps to. -/
def msProfile (g : Nat → Nat) (key : Nat) : Option Nat :=
  ((List.range 16).find? (fun i => (msAt g i).en && (msAt g i).key == key % 128)).map (fun i => (msAt g i).profile)

/-- The wideband channel slot that takes a new-mode SUN OFDM packet from narrowband slot `ch`. -/
def msWide (s : State) (ch p : Nat) : Option Nat :=
  (List.range 16).find? (fun m => slotEn s.act (128 + m) && bitOf (slotSet s (128 + m)) p &&
    decide ((slotCentre s.act (128 + m) - slotCentre s.act ch).natAbs ≤ 1000))

/-- The value of PHR bits `lo` to `hi`, the first on air most significant. -/
def phrField (phr : BitVec 16) (lo hi : Nat) : Nat := ((List.range (hi - lo + 1)).map (· + lo)).foldl (fun v i => 2 * v + b2n (phr.getLsbD i)) 0

/-- The four check bits of BCH(15,11) over eleven bits: the remainder of the message times x^4 by x^4 + x + 1. -/
def bchCheck (msg : Nat) : Nat := (List.range 11).foldl (fun r i => crcBit 4 3 r (bitOf msg (10 - i))) 0

/-- A mode-switch PHR passes its parity: bits 0 to 10 are the message, 11 to 14 its check, 15 makes the number of ones even
(log entry 85). -/
def msPhrOk (phr : BitVec 16) : Bool :=
  bchCheck (phrField phr 0 10) == phrField phr 11 14 && sumNat ((List.range 16).map (fun i => b2n (phr.getLsbD i))) % 2 == 0

/-- The key of a mode-switch PHR: its page, modulation-scheme and mode fields. -/
def msKey (phr : BitVec 16) : Nat := phrField phr 4 10

/-- A mode-switch PHR at a narrowband demodulator (R149): the first condition that applies. A wideband demodulator that holds a lock
keeps it. -/
def msPhr (ch : Nat) (l : Lock) (phr : BitVec 16) (s : State) : State :=
  let until_ := some (s.time.tb + 1_000_000)
  let t := freeLock ch s
  if !msPhrOk phr then demDisc 0 t
  else match msProfile s.act (msKey phr) with
    | none => demDisc 3 t
    | some p =>
      if (profAt s.act p).typ = 0 then setLock ch (freshLock s p l.rssiQ until_ true) s
      else if (profAt s.act p).typ = 1 then
        match msWide s ch p with
        | some m => if (demodAt s (128 + m)).isSome then t else setLock (128 + m) (freshLock s p l.rssiQ until_ true) t
        | none => demDisc 3 t
      else demDisc 3 t

/-- A demodulator has a frame whose SFD it has found and whose last bit has not come. -/
def inFrame (s : State) (ch : Nat) : Option (Lock × Sfd) :=
  match demodAt s ch with
  | some l => if l.msUntil.isSome || !pairHears s ch then none else l.sfd.map (fun d => (l, d))
  | none => none

/-- `MS_PHR_RX` (R149): the 11 message bits and the 5 check bits of a mode-switch PHR. -/
def execMsPhrRx (ch : Nat) (msg : BitVec 11) (check : BitVec 5) (s : State) : Res :=
  .next (match inFrame s ch with
    | some (l, _) => if (profAt s.act l.profile).typ = 0 then msPhr ch l (check ++ msg) s else s
    | none => s)

/-- `MS_TIMEOUT` (R149). -/
def execMsTimeout (ch : Nat) (s : State) : Res :=
  .next (match (demodAt s ch).bind Lock.msUntil with
    | some u => freeLock ch (demDisc 4 (reach u s))
    | none => s)

/-! ## OFDM equalisation (R159) -/

/-- Complex numbers with rational parts. -/
abbrev RCx := Rat × Rat
def cxMul (a b : RCx) : RCx := (a.1 * b.1 - a.2 * b.2, a.1 * b.2 + a.2 * b.1)
def cxConj (a : RCx) : RCx := (a.1, -a.2)
def cxNorm (a : RCx) : Rat := a.1 * a.1 + a.2 * a.2
def cxOf (c : Cplx) : RCx := ((c.re : Rat), (c.im : Rat))
def cxSum (l : List RCx) : RCx := l.foldl (fun a b => (a.1 + b.1, a.2 + b.2)) (0, 0)

/-- The taps h[k] of the two LTF symbols, held for the whole frame. -/
def ofdmTaps (x : OfdmIn) : List RCx :=
  (List.range x.ref.length).map (fun k =>
    let a := cxSum [cxOf (x.ltf1.getD k ⟨0, 0⟩), cxOf (x.ltf2.getD k ⟨0, 0⟩)]
    let d : Rat := 2 * (x.ref.getD k 1 : Rat)
    (a.1 / d, a.2 / d))

/-- c of one symbol: its argument is the common phase. -/
def ofdmPhase (h : List RCx) (pilots : List Nat) (y : List Cplx) (p : List Int) : RCx :=
  cxSum ((pilots.zip p).map (fun q =>
    cxMul (cxOf (y.getD q.1 ⟨0, 0⟩)) (cxConj (cxMul (h.getD q.1 (0, 0)) ((q.2 : Rat), 0)))))

/-- The soft decisions of one symbol, for each data subcarrier. e^(-jφ) is conj(c) / |c|, so that z[k] is the numerator
y · conj(c) · conj(h) over |c| · |h|²: its two parts, the square of that scale, and the weight |h|², 0 for an erasure. -/
def ofdmSymbol (x : OfdmIn) (y : List Cplx × List Int) : List (Rat × Rat × Rat × Rat) :=
  let h := ofdmTaps x
  let mean := meanRat (h.map cxNorm)
  let c := ofdmPhase h x.pilots y.1 y.2
  ((List.range h.length).filter (fun k => !x.pilots.contains k)).map (fun k =>
    let t := h.getD k (0, 0)
    let w := cxNorm t
    if w < mean / 1024 then (0, 0, 1, 0)
    else
      let z := cxMul (cxMul (cxOf (y.1.getD k ⟨0, 0⟩)) (cxConj c)) (cxConj t)
      (z.1, z.2, cxNorm c * w * w, w))

/-! ## What arrived of a frame -/

/-- What the PHR of a frame says: the reason to discard it (Table 05-7), or the decoded mode without its FCS length, the FCS length
and the PSDU. -/
inductive Arrived where
  | ms (phr : BitVec 16)
  | bad (k : Nat)
  | psdu (mode fcs : Nat) (b : List Octet)
  | eland (len spread : Nat)

/-- SUN FSK (R147, R148): bit 0 MS, 1 and 2 reserved, 3 the FCS type, 4 DW, 5 to 15 the length (log entry 85). -/
def fskArrived (l : Lock) (fec : Nat) (phr : BitVec 16) (b : List Octet) : Arrived :=
  let len := phrField phr 5 15
  let fcs := if phr.getLsbD 3 then 2 else 4
  if phr.getLsbD 0 then .ms phr
  else if len < fcs then .bad 1
  else if phr.getLsbD 1 || phr.getLsbD 2 then .bad 2
  else
    let p := fitOct len b
    .psdu (fec % 4 + 4 * b2n (phr.getLsbD 4) + 8 * b2n l.ms) fcs (if phr.getLsbD 4 then whiten p else p)

/-- SUN OFDM (R151): the FCS is the one of the two lengths that verifies, 2 octets where neither does. -/
def ofdmArrived (q : Prof) (x : OfdmIn) : Arrived :=
  let h := Config.ofdmPhr (x.phr.map (ofdmSymbol x))
  let len := h.2.1
  if !h.2.2 then .bad 0
  else if ofdmRate q.option h.1 = 0 then .bad 2
  else if len < 2 ∨ 2047 < len then .bad 1
  else
    let p := fitOct len (Config.ofdmPsdu h.1 len (x.data.map (ofdmSymbol x)))
    .psdu h.1 (if fcsGood 4 p then 4 else 2) p

def arrived (q : Prof) (l : Lock) (d : Sfd) (x : RxSig) : Arrived :=
  match x with
  | .fsk phr b => if q.typ = 0 then fskArrived l d.fec phr b else .bad 0
  | .oqpsk phr b =>
    let len := bitsOf phr.toNat 6 0
    if q.typ ≠ 2 then .bad 0
    else if len < 2 then .bad 1
    else if bitOf phr.toNat 7 then .bad 2
    else .psdu 0 2 (fitOct len b)
  | .ofdm x => if q.typ = 1 then ofdmArrived q x else .bad 0
  | .eland phr =>
    if q.typ ≠ 3 then .bad 0
    else match phrRead (phrOctets phr) with
      | .error k => .bad k
      | .ok (len, spread) => .eland len spread

/-- The metadata of a frame (Table 05-5). -/
def metaOf (s : State) (ch : Nat) (l : Lock) (d : Sfd) (m : RxMeas) (mode fcs fec : Nat) : RxMeta :=
  { chSlot := ch
    profile := l.profile
    mode := mode % 256 + 256 * fcs
    tick := d.tick
    port := d.port
    single := d.single
    snr1Q := d.snr1Q
    snr2Q := d.snr2Q
    rssiQ := clampInt (-560) 40 (m.ballQ + signedOf 10 (s.regF (0x70020 + 4 * (d.port % 4)) 9 0))
    cfoHz := m.cfoHz
    rateOfs := m.rateOfs
    fec := min 65535 fec }

/-! ## The end of a frame -/

/-- `DEM_ELCTL.MAXIT`: 0 acts as 1, 25 to 31 as 24. -/
def elMaxIt (s : State) : Nat := min 24 (max 1 (s.regF 0x70060 4 0))

/-- Count an FCS failure (R26). -/
def fcsFail (ch : Nat) (s : State) : State :=
  let t := rxCount ch 0 s
  let one := fun (l : List (Nat × Nat)) =>
    l.filter (fun p => p.1 != ch) ++ [(ch, min 255 (((l.find? (fun p => p.1 == ch)).map Prod.snd).getD 0 + 1))]
  { t with rx := modSums t ch (fun x => { x with fcs := one x.fcs }) t.rx }

/-- A frame that verifies goes into its receive handoff FIFO; one that does not fit is FIFO_LOST (R363, R366, Table 16-3). -/
def handOver (m : RxMeta) (psdu : List Octet) (s : State) : State :=
  let f := handoffFifo m.chSlot
  let n := handoffEntries psdu.length
  if fifoFit s f n = 0 then { s with rx := { s.rx with out := modAt f (· ++ [(m, psdu)]) s.rx.out } }
  else rxCount m.chSlot 6 (fifoPut f n id s)

/-- The FCS decides. -/
def rxEnd (m : RxMeta) (psdu : List Octet) (s : State) : State :=
  if fcsGood m.fcs psdu then handOver m psdu s else fcsFail m.chSlot s

/-! ### Eland codewords (R191 to R194) -/

/-- A codeword is decoded before another: its last chip came earlier; at one instant the frame's last goes first, then the lower
channel slot. -/
def cwBefore (a b : SoftCw) : Bool :=
  decide (a.at_ < b.at_) || (a.at_ == b.at_ && ((a.last && !b.last) || (a.last == b.last && decide (a.ch < b.ch))))

def insCw (x : SoftCw) : List SoftCw → List SoftCw
  | [] => [x]
  | y :: t => if cwBefore x y then x :: y :: t else y :: insCw x t

/-- The frame of a codeword is being received, or waits for its codewords. -/
def elLive (s : State) (ch at_ : Nat) : Bool :=
  (match inFrame s ch with
    | some (l, _) => l.at_ == at_ && (profAt s.act l.profile).typ == 3
    | none => false) || s.rx.elWait.any (fun w => w.md.chSlot == ch && w.frameAt == at_)

/-- The decoded codewords of a frame. -/
def cwsOf (s : State) (ch at_ : Nat) : List CwDone := s.rx.cws.filter (fun c => c.ch == ch && c.frameAt == at_)

/-- A frame whose last chip has come and whose codewords are all decoded ends (R192). -/
def elandEnd (w : ElWait) (s : State) : State :=
  let ch := w.md.chSlot
  let cs := cwsOf s ch w.frameAt
  let word := fun (i : Nat) => cs.find? (fun c => c.index == i)
  let n := elandWords w.len
  if !(List.range n).all (fun i => (word i).isSome) then s
  else
    let t := { s with rx := { s.rx with
      elWait := s.rx.elWait.erase w
      cws := s.rx.cws.filter (fun c => !(c.ch == ch && c.frameAt == w.frameAt)) } }
    if cs.all CwDone.good then
      rxEnd { w.md with fec := min 65535 (sumNat (cs.map CwDone.fixed)) }
        (psduOfBits w.len ((List.range n).flatMap (fun i => ((word i).map CwDone.bits).getD []))) t
    else fcsFail ch t

/-- The first codeword of the pool is decoded (R191, R193). -/
def decodeNext (s : State) : State :=
  match s.rx.pool with
  | [] => s
  | c :: rest =>
    let r := decodeWord (elMaxIt s) c.index c.info c.spread c.soft
    let t := bumpN 0x7006C r.iters (bumpIf (!r.good) 0x70068 (bump 0x70064 { s with rx := { s.rx with
      pool := rest
      cws := if elLive s c.ch c.frameAt then s.rx.cws ++ [⟨c.ch, c.frameAt, c.index, r.bits, r.good, r.fixed⟩] else s.rx.cws } }))
    match t.rx.elWait.find? (fun w => w.md.chSlot == c.ch && w.frameAt == c.frameAt) with
    | some w => elandEnd w t
    | none => t

/-- `LDPC_CODEWORD_DONE` (R191, R193): the codewords that have arrived join the pool, and the one named, which is the first of it,
is decoded. What is left of frames that were given up goes. -/
def execLdpcCodewordDone (arrived : List SoftCw) (ch index : Nat) (s : State) : Res :=
  let t := { s with rx := { s.rx with
    pool := (arrived.filter (fun c => elLive s c.ch c.frameAt)).foldl (fun l c => insCw c l) s.rx.pool
    cws := s.rx.cws.filter (fun c => elLive s c.ch c.frameAt) } }
  .next (if t.rx.pool.head?.map (fun c => (c.ch, c.index)) = some (ch, index) then decodeNext t else t)

/-- `RX_FRAME_END` (R148, R151, R152, R178, R192): the PHR and length are checked, then the codewords and the FCS; a frame
that passes enters its receive handoff FIFO. `fec` counts the corrections of a convolutional code. -/
def execRxFrameEnd (ch : Nat) (x : RxSig) (m : RxMeas) (fec : Nat) (s : State) : Res :=
  .next (match inFrame s ch with
    | none => s
    | some (l, d) =>
      let t := freeLock ch s
      match arrived (profAt s.act l.profile) l d x with
      | .ms phr => msPhr ch l phr s
      | .bad k => demDisc k t
      | .psdu mode fcs b => rxEnd (metaOf s ch l d m mode fcs fec) b t
      | .eland len spread =>
        let w : ElWait := ⟨metaOf s ch l d m spread 4 0, l.at_, len⟩
        elandEnd w { t with rx := { t.rx with elWait := t.rx.elWait ++ [w] } })

end Sys2Proof.Machine
end

