-- ==== Sys2Proof/Machine/TimeRef.lean ====
section
/-! DEFINITION. The commands of mesh time and the references: epoch, step, force (R54, R79 to R81), servo samples (R73),
SLCK ratio (R83), 1PPS and TOD (R61 to R67), PTP (R68, R69, R443), air follow (R70), UTC offset (R67). -/
namespace Sys2Proof.Machine

/-! ## Commands -/

def doTimeSetEpoch (r : CmdRef) (e l : Nat) (s : State) : State :=
  checked r
    [(!allInactive s, stBadState, 5, 0),
     (decide (l < 8) || decide (160 < l), stBad, 5, 0x000B),
     (s.time.loaded && decide (s.time.tb < e), stBad, 5, 0x000B)]
    (fun s => done r (withTime (fun x => { x with epoch := e, slotLen := l, epochSet := true, lastAsn := none }) s)) s

/-- `TIME_SET_EPOCH` (R54). -/
def execTimeSetEpoch (r : CmdRef) (e l : Nat) (s : State) : Res := .next (runCmd r 0x0110 1 0 (.timeSetEpoch e l) s (doTimeSetEpoch r e l))

/-- The first boundary of a slotframe of `len` slots at or after ASN `after`, not one already passed (R80). -/
def stepBoundary (s : State) (len after : Nat) : Nat := ceilDiv (max after (asnNow s + 1)) (max 1 len) * max 1 len

def sfLen (s : State) (sfh : Nat) : Nat := ((sfActive s sfh).map (fun u => u.rec_.length)).getD 1

def doTimeStep (r : CmdRef) (step sfh : Nat) (s : State) : State :=
  let b := stepBoundary s (sfLen s sfh) r.asn
  checked r
    [(s.time.st == .acquire, stUnlocked, 5, 0),
     (decide (step < 1) || decide (2 ^ 62 < step) || decide (63 < sfh), stBad, 5, 0x000B),
     ((sfActive s sfh).isNone || decide (2 ^ 40 ≤ (b * s.time.l + step) / max 1 s.time.l), stBad, 5, 0),
     (s.time.step.isSome, stBusy, 5, 0)]
    (fun s => withTime (fun x => { x with step := some ⟨r, step, sfh, b⟩ }) s) s

/-- `TIME_STEP` (R80): it completes after the step. -/
def execTimeStep (r : CmdRef) (step sfh : Nat) (s : State) : Res := .next (runCmd r 0x0111 1 0 (.timeStep step sfh) s (doTimeStep r step sfh))

/-- A source that has given a reference has one in progress, which a step spans (R81). -/
def SrcSt.span (x : SrcSt) : SrcSt := { x with skip := x.skip || x.okRun + x.badRun != 0 }

/-- Take the step: cells of the ASNs passed over are not executed, their frames wait (R80). The work of the boundary of the ASN
landed on is still done, so that the next slot's cells are prepared (log entry 92). -/
def takeStep (q : StepReq) (s : State) : State :=
  let before := asnNow s
  let u := shiftTimes q.step s
  let after := asnNow u
  let gone := u.tx.txs.filter (fun t => t.phase != .onAir && t.phase != .ackWait && decide (t.asn < after))
  let v := { u with
    time := { u.time with
      step := none
      stepSum := u.time.stepSum + q.step
      lastAsn := some (max (u.time.lastAsn.getD 0) (after - 1))
      srcs := u.time.srcs.map SrcSt.span
      peers := u.time.peers.map SrcSt.span }
    tx := { u.tx with
      txs := u.tx.txs.filter (fun t => !gone.contains t)
      charges := u.tx.charges.filter (fun c => !gone.any (fun t => t.id == c.id)) } }
  let w := (gone.filterMap Tx.frame).foldl (fun x f => lastTry f stNoNode x) v
  done q.ref (event 0x0409 [q.step, before, after] (sweepTombs w))

/-- `TIME_STEP_EXECUTE` (R80, R81): at its boundary, whatever the state has become. -/
def execTimeStepExecute (s : State) : Res :=
  .next (coreOnly s (match s.time.step with
    | some q => if s.time.running && decide (q.after ≤ asnNow s) then takeStep q s else s
    | none => s))

def doTimeForce (r : CmdRef) (s : State) : State :=
  checked r [(!(s.time.st == .acquire && s.time.epochSet && s.time.loaded), stBadState, 5, 0)]
    (fun s =>
      let t := withTime (fun x => { x with
        forced := true
        e0 := x.recon.getD (holdLimNs s + 1000)
        accAt := x.tb
        noSlew := false }) s
      done r (setTimeState .drifted (if t.jrn.isOpen then t else openJournal 2 t))) s

/-- `TIME_FORCE` (R79). -/
def execTimeForce (r : CmdRef) (s : State) : Res := .next (runCmd r 0x0112 1 0 .timeForce s (doTimeForce r))

/-! ## Journaled outcomes and samples -/

/-- `TIME_SOURCE_OUTCOME` (R57 to R60, R75): an outcome as journaled; the followed peer's for AIR. -/
def execTimeSourceOutcome (code outcome : Nat) (offset mpd : Int) (s : State) : Res :=
  .next (coreOnly s (if !s.up then s
    else sourceOutcome code ((followed s).getD 0) outcome offset (journal (.tsrc code outcome 0 offset mpd) s)))

/-- Three population standard deviations, rounded up, at least 1 ppb (R73). -/
def freqUncOf (l : List (Nat × Rat)) : Nat := max 1 (ceilSqrt (9 * varRat (l.map Prod.snd)))

/-- `SERVO_SECOND_SAMPLE` (R73): one sample of f a second while a QUALIFIED source is selected. -/
def execServoSecondSample (s : State) : Res :=
  .next (coreOnly s (if !(s.up && s.time.src != 0 && srcQual s s.time.src) then s
    else
      let t := match s.time.samples.head? with
        | some p => reach (p.1 + 1_000_000_000) s
        | none => s
      withTime (fun x =>
        let l := (x.tb, x.f) :: x.samples.filter (fun p => decide (x.tb < p.1 + 64_000_000_000))
        { x with
          samples := l
          sampled := x.sampled + 1
          freqUnc := if x.sampled + 1 < 16 then 50_000 else freqUncOf l }) t))

/-- `TIME_SLCKUNC` of sixteen ratios (R83): 0.01 ppm, rounded up, with the margin. -/
def slckUncOf (s : State) (l : List Nat) : Nat :=
  if l.length < 16 then 0xFFFF
  else
    let q := l.map (fun (n : Nat) => (n : Rat))
    min 0xFFFE (ceilSqrt (9 * varRat q * 10 ^ 16 / (meanRat q * meanRat q)) + s.regN 0x3007C)

/-- `SLCK_RATIO_MEASURE` (R83): once a second in RUN while LOCKED or HOLDOVER; `ratio` in ns, Q32. -/
def execSlckRatioMeasure (ratio : Nat) (s : State) : Res :=
  .next (coreOnly s (if !(s.pwr.st == .run && !s.err.devFatal && (s.time.st == .locked || s.time.st == .holdover)) then s
    else
      let l := (ratio :: s.time.ratios).take 16
      journal (.cal 7 0 true 0 0 ratio (slckUncOf s l))
        (withTime (fun x => { x with ratio := ratio, ratios := l, slckUnc := slckUncOf s l }) (rebaseSlck s.time.tb s))))

/-! ## 1PPS (R61 to R64) -/

def ppsEn (s : State) : Bool := s.up && s.regB 0x30020 0
def todEn (s : State) : Bool := s.regB 0x30020 2
/-- The whole TAI second nearest to a timebase value. -/
def nearSec (t : Nat) : Nat := (t + 500_000_000) / 1_000_000_000
def withPps (g : PpsSt → PpsSt) (s : State) : State := withTime (fun x => { x with pps := g x.pps }) s

/-! ### The TOD message of a pulse (R66, R67) -/

def todByte (m : List Octet) (i : Nat) : Nat := (m.getD i 0).toNat

/-- The checks of R66 on the message itself. -/
def todGood (m : List Octet) : Bool :=
  todByte m 0 == 0xA5 && todByte m 1 == 1 && leOf (slice m 12 2) == 0 && todByte m 10 / 16 == 0 &&
    leOf (slice m 14 2) == crc16 (m.take 14) && bitOf (todByte m 10) 0 && !bitOf (todByte m 10) 3

/-- A message of sixteen bytes whose last arrives at `at_`. -/
def todMessage (m : List Octet) (at_ : Nat) (s : State) : State :=
  match s.time.pps.todFor with
  | some (edge, owed) =>
    if !(todGood m && decide (edge + 100_000_000 ≤ at_) && decide (at_ ≤ edge + 900_000_000)) then s
    else
      let secs := leOf (slice m 2 6)
      let t := withTime (fun x => { x with
        utcOff := if x.src = 1 ∨ x.src = 2 then x.utcOff else signedOf 16 (leOf (slice m 8 2))
        leap := if bitOf (todByte m 10) 1 then 1 else if bitOf (todByte m 10) 2 then -1 else x.leap
        pps := { x.pps with
          todFor := some (edge, false) } }) s
      if !owed then t
      else if s.time.st ≠ .acquire ∧ secs ≠ nearSec edge then
        reference 3 0 2 0 0 0 (event 0x0406 [secs, nearSec edge] t)
      else reference 3 0 0 ((secs : Int) * 1_000_000_000 - edge) 0 0 t
  | none => s

/-- The timing check of R63. -/
def ppsOnTime (s : State) (p : Pulse) : Bool :=
  if s.time.st = .locked then decide (((p.edge : Int) - p.sec * 1_000_000_000).natAbs ≤ 1000)
  else match s.time.pps.prevGood with
    | none => true
    | some (e, sl) =>
      decide (ratAbs ((((p.edge : Int) - e - 1_000_000_000 : Int) : Rat) - (p.slew - sl)) ≤
        (if s.time.st = .acquire then 200_000 else 2_000))

/-- Outcome code of a pulse of width `w` ns; more than 500 ms stands for no trailing edge (Table 02-2). -/
def ppsCode (s : State) (p : Pulse) (w : Nat) : Nat :=
  if w < 1000 then 2 else if 500_000_000 < w then 3 else if ppsOnTime s p then 0 else 1

/-- How a pulse outcome counts when its reference is decided with it: offered, missed or rejected. -/
def ppsKind (code : Nat) : Nat := if code = 0 then 0 else if code = 2 ∨ code = 3 then 2 else 1

/-- A good width makes the pulse the one a message may name. The reference a pulse before it still owes can get no message of
its own any more and is rejected (log entry 11). -/
def nameable (p : Pulse) (owed : Bool) (s : State) : State :=
  let t := match s.time.pps.todFor with
    | some (_, true) => reference 3 0 2 0 0 0 s
    | _ => s
  withPps (fun y => { y with
    prevGood := some (p.edge, p.slew)
    todFor := some (p.edge, owed) }) t

/-- Decide the outcome of a pulse (R62, R63), and act on a message that came before it. -/
def decidePulse (p : Pulse) (w : Nat) (s : State) : State :=
  let code := ppsCode s p w
  let good := code == 0 || code == 1
  let owed := todEn s && code == 0
  let c := bump (0x30028 + 4 * code) (withPps (fun y => { y with pulse := none }) s)
  let t := if good then nameable p owed c else c
  let u := if owed then t
    else reference 3 0 (ppsKind code) ((nearSec p.edge : Int) * 1_000_000_000 - p.edge) code 0 t
  match p.msg with
  | some (at_, m) => if good then todMessage m at_ u else u
  | none => u

/-- A pulse whose trailing edge has come is decided, in LOCKED not before S + 1 µs. -/
def settle (force : Bool) (s : State) : State :=
  match s.time.pps.pulse with
  | some p =>
    match p.width with
    | some w =>
      if force || s.time.st != .locked || decide (p.sec * 1_000_000_000 + 1000 ≤ s.time.tb) then decidePulse p w s else s
    | none => if force then decidePulse p 500_000_001 s else s
  | none => s

/-- Enter NOISY (R64). -/
def goNoisy (edge : Nat) (s : State) : State :=
  event 0x0407 [] (withPps (fun y => { y with
    noisy := true
    noisyAt := edge
    enabledAt := s.time.tb
    pulse := none
    prevGood := none
    todFor := none
    missing := 0
    lastActive := some edge
    lastEdge := some edge }) s)

/-- An accepted active edge. In LOCKED a further edge of a second is its pulse only when it falls in the window and the
pulse held does not (R63). -/
def activeEdge (edge : Nat) (s : State) : State :=
  let y := s.time.pps
  let sec := nearSec edge
  let near := fun (e : Nat) => decide (((e : Int) - (sec : Int) * 1_000_000_000).natAbs ≤ 1000)
  let again := s.time.st == .locked && y.lastActive.any (fun e => nearSec e == sec)
  let better := again && near edge && y.pulse.any (fun p => !near p.edge)
  let mark := withPps (fun y => { y with
    lastActive := some edge
    lastEdge := some edge
    missing := 0 })
  if y.lastActive.any (fun e => decide (edge < e + 10_000_000)) then goNoisy edge s
  else if again && !better then bump 0x3002C (mark s)
  else
    let t := if again then bump 0x3002C s else settle true s
    withPps (fun y => { y with pulse := some ⟨edge, none, sec, slewTo s.time edge, none⟩ }) (mark t)

/-- `PPS_EDGE` (R61): `at_` is the timebase at the first of the three samples; `TIME_PPSCTL.EDGE` selects the active edge. -/
def execPpsEdge (rising : Bool) (at_ : Nat) (s : State) : Res :=
  let active := rising != s.regB 0x30020 1
  let edge := mv (-16 - signedOf 32 (s.regN 0x30024)) at_
  .next (coreOnly s (if !ppsEn s then s
    else
      let t := reach (at_ + 16) s
      if t.time.pps.noisy then
        withPps (fun y => { y with
          noisyAt := edge
          lastEdge := some edge
          lastActive := if active then some edge else y.lastActive }) t
      else if active then activeEdge edge t
      else
        let u := withPps (fun y => { y with
          lastEdge := some edge
          pulse := y.pulse.map (fun p => if p.width.isNone then { p with width := some (edge - p.edge) } else p) }) t
        settle false u))

/-- `PPS_WIDTH_TIMEOUT` (R62): 500 ms after the active edge without a trailing edge. -/
def execPpsWidthTimeout (s : State) : Res :=
  .next (coreOnly s (match s.time.pps.pulse with
    | some p => if ppsEn s && p.width.isNone then settle true (reach (p.edge + 500_000_000) s) else settle false s
    | none => s))

/-- `PPS_MISSING_SECOND` (R62): the outcome of one second without an active edge; while NOISY it is no outcome, but the
second counts as missed (R64). -/
def execPpsMissingSecond (s : State) : Res :=
  let y := s.time.pps
  let t0 := y.lastActive.getD y.enabledAt
  .next (coreOnly s (if !ppsEn s then s
    else if y.noisy then
      reference 3 0 1 0 0 0 (withPps (fun z => { z with missing := z.missing + 1 })
        (reach (y.enabledAt + (y.missing + 1) * 1_000_000_000) s))
    else
      let at_ := t0 + 1_500_000_000 + y.missing * 1_000_000_000
      let t := settle true (reach at_ s)
      let code := if y.lastEdge.any (fun e => decide (at_ < e + 1_500_000_000)) then 4 else 5
      reference 3 0 1 0 code 0 (bump (0x30028 + 4 * code) (withPps (fun z => { z with missing := z.missing + 1 }) t))))

/-- `PPS_QUIET` (R64): 3 s without an accepted edge end NOISY. -/
def execPpsQuiet (s : State) : Res :=
  .next (coreOnly s (if !(ppsEn s && s.time.pps.noisy) then s
    else
      let t := reach (s.time.pps.noisyAt + 3_000_000_000) s
      let t0 := t.time.pps.lastActive.getD t.time.pps.enabledAt
      event 0x0408 [] (withPps (fun y => { y with
        noisy := false
        prevGood := none
        missing := if t0 + 1_500_000_000 ≤ t.time.tb then (t.time.tb - t0 - 1_500_000_000) / 1_000_000_000 + 1 else 0 }) t)))

/-! ## TOD_RX (R65 to R67) -/

/-- A complete message: for the pulse whose outcome is still open it waits, from 100 ms after its edge (R66). -/
def todArrive (m : List Octet) (at_ : Nat) (s : State) : State :=
  match s.time.pps.pulse with
  | some p =>
    if p.edge + 100_000_000 ≤ at_ then
      withPps (fun y => { y with pulse := some { p with msg := if todGood m then some (at_, m) else p.msg } }) s
    else todMessage m at_ s
  | none => todMessage m at_ s

/-- `TOD_MESSAGE_RX` (R65, R66): bytes up to the last one received at `at_`. -/
def execTodMessageRx (octets : List Octet) (at_ : Nat) (s : State) : Res :=
  .next (coreOnly s (if !ppsEn s then s
    else
      let t := settle false (reach at_ s)
      let b := t.time.pps.tod ++ octets
      let u := withPps (fun y => { y with
        tod := if 16 ≤ b.length then b.drop 16 else b
        todAt := at_ }) t
      if 16 ≤ b.length then todArrive (b.take 16) at_ u else u))

/-- `TOD_WAIT_TIMEOUT` (R62): 900 ms after a GOOD pulse without a valid message. -/
def execTodWaitTimeout (s : State) : Res :=
  .next (coreOnly s (match s.time.pps.todFor with
    | some (edge, true) =>
      if ppsEn s then
        reference 3 0 2 0 0 0 (withPps (fun y => { y with todFor := some (edge, false) }) (reach (edge + 900_000_000) s))
      else s
    | _ => s))

/-- `TOD_BYTE_GAP` (R65): bytes followed by more than 1 ms of silence are discarded. -/
def execTodByteGap (_octets : List Octet) (s : State) : Res :=
  .next (coreOnly s (if ppsEn s then withPps (fun y => { y with tod := [] }) s else s))

/-! ## PTP (R68, R69, R439 to R443) -/

def ethBase (p : Nat) : Nat := 0xF0000 + 0x10000 * p
/-- `TIME_PTPCFG.EN` of a port of a device that serves. -/
def ptpOn (s : State) (p : Nat) : Bool := s.up && decide (p < 2) && s.regB (0x30090 + 4 * p) 31
/-- And the port is up, so that messages pass. -/
def ptpEn (s : State) (p : Nat) : Bool := ptpOn s p && (s.eth.getD p EthPort.reset).up
def ptpAt (s : State) (p : Nat) : PtpSt := s.time.ptp.getD p PtpSt.reset
def withPtp (p : Nat) (g : PtpSt → PtpSt) (s : State) : State := withTime (fun x => { x with ptp := modAt p g x.ptp }) s
def rxOfs (s : State) (p : Nat) : Int := signedOf 16 (s.regF (ethBase p + 0x2C) 31 16)
def txOfs (s : State) (p : Nat) : Int := signedOf 16 (s.regF (ethBase p + 0x2C) 15 0)

/-- 2^k seconds in ns. -/
def interval (k : Int) : Nat := if 0 ≤ k then 1_000_000_000 * 2 ^ k.toNat else 1_000_000_000 / 2 ^ (-k).toNat

/-! ### Messages (IEEE 1588; log entry 85) -/

def ptpType (m : List Octet) : Nat := (m.getD 0 0).toNat % 16
def ptpDomain (m : List Octet) : Nat := (m.getD 4 0).toNat
def ptpTwoStep (m : List Octet) : Bool := (m.getD 6 0).getLsbD 1
/-- correctionField, in units of 2^-16 ns. -/
def ptpCorr (m : List Octet) : Int := signedOf 64 (beOf (slice m 8 8))
/-- The clockIdentity of sourcePortIdentity. -/
def ptpClock (m : List Octet) : Nat := beOf (slice m 20 8)
def ptpSeq (m : List Octet) : Nat := beOf (slice m 30 2)
def ptpLog (m : List Octet) : Int := signedOf 8 (m.getD 33 0).toNat
/-- The Timestamp behind the header, in units of 2^-16 ns. -/
def ptpStamp (m : List Octet) : Int := 65536 * ((beOf (slice m 34 6) * 1_000_000_000 + beOf (slice m 40 4) : Nat) : Int)
/-- requestingPortIdentity of a Delay_Resp: clockIdentity and portNumber. -/
def ptpAsker (m : List Octet) : Nat × Nat := (beOf (slice m 44 8), beOf (slice m 52 2))
/-- currentUtcOffset of an Announce. -/
def ptpUtc (m : List Octet) : Int := signedOf 16 (beOf (slice m 44 2))

/-- The device's EUI-64, which is its clockIdentity (R439). -/
def ownEui (s : State) : Nat := s.regN 0x80804 * 2 ^ 32 + s.regN 0x80800
def ptpMaster (s : State) (p : Nat) : Nat := s.regN (0x300A4 + 8 * p) * 2 ^ 32 + s.regN (0x300A0 + 8 * p)

/-- Beagle's filter: the message is of the type `ty` that its row names, from the listed master and domain, and has `len` octets
at least; any other is discarded and counted (R68, R441). -/
def ptpFrom (p ty len : Nat) (m : List Octet) (f : State → State) (s : State) : State :=
  if !ptpEn s p then s
  else if ptpType m = ty ∧ len ≤ m.length ∧ ptpClock m = ptpMaster s p ∧ ptpDomain m = s.regF (0x30090 + 4 * p) 7 0 then f s
  else bump (ethBase p + 0x68) s

/-- A complete Sync gives a reference once a path delay is known (R68, R69). -/
def syncDone (p : Nat) (t1 t2 : Int) (s : State) : State :=
  let y := ptpAt s p
  let t := withPtp p (fun z => { z with
    wait := none
    sync := some (t1, t2)
    lastSync := s.time.tb }) s
  match y.mpd with
  | some d =>
    let old := decide (y.mpdAt + 16 * interval y.syncLog < s.time.tb)
    reference (p + 1) 0 (if old then 2 else 0) (roundDiv (d - (t2 - t1)) 65536) 0 (roundDiv d 65536) t
  | none => t

/-- `PTP_SYNC_RX` (R443). -/
def execPtpSyncRx (port : Nat) (x : PtpIn) (s : State) : Res :=
  let msg := x.msg
  .next (coreOnly s (ptpFrom port 0 44 msg (fun s =>
    let t2 := 65536 * (x.stamp - rxOfs s port) - ptpCorr msg
    let t := withPtp port (fun z => { z with syncLog := ptpLog msg }) s
    if ptpTwoStep msg then withPtp port (fun z => { z with wait := some (ptpSeq msg, t2, (s.time.tb : Int)) }) t
    else syncDone port (ptpStamp msg) t2 t) s))

/-- `PTP_FOLLOW_UP_RX` (R443): with the Sync's sequenceId, within one sync interval. -/
def execPtpFollowUpRx (port : Nat) (x : PtpIn) (s : State) : Res :=
  let msg := x.msg
  .next (coreOnly s (ptpFrom port 8 44 msg (fun s =>
    match (ptpAt s port).wait with
    | some (q, t2, at_) =>
      if q = ptpSeq msg ∧ (s.time.tb : Int) ≤ at_ + interval (ptpAt s port).syncLog then
        syncDone port (ptpStamp msg) (t2 - ptpCorr msg) s
      else s
    | none => s) s))

/-- `PTP_DELAY_RESP_RX` (R443): meanPathDelay of R68. -/
def execPtpDelayRespRx (port : Nat) (x : PtpIn) (s : State) : Res :=
  let msg := x.msg
  .next (coreOnly s (ptpFrom port 9 54 msg (fun s =>
    match (ptpAt s port).delayReq, (ptpAt s port).sync with
    | some (q, t3), some (t1, t2) =>
      if q = ptpSeq msg ∧ ptpAsker msg = (ownEui s, port + 1) then
        withPtp port (fun z => { z with
          delayReq := none
          mpd := some (((t2 - t1) + (ptpStamp msg - ptpCorr msg - t3)) / 2)
          mpdAt := s.time.tb
          delayLog := some (ptpLog msg) }) s
      else s
    | _, _ => s) s))

/-- `PTP_ANNOUNCE_RX` (R69): the UTC offset while the port's PTP is the selected source. -/
def execPtpAnnounceRx (port : Nat) (msg : List Octet) (_stamp : Int) (s : State) : Res :=
  .next (coreOnly s (ptpFrom port 11 64 msg (fun s =>
    withTime (fun x => { x with utcOff := if x.src = port + 1 then ptpUtc msg else x.utcOff }) s) s))

/-- The interval at which Delay_Req is sent: the master's, or once per sync interval until it is known (R443). -/
def delayEvery (z : PtpSt) : Nat := interval (z.delayLog.getD z.syncLog)

/-- `PTP_SYNC_MISS` (R69): no complete Sync within 1.5 sync intervals, the link being up or not. -/
def execPtpSyncMiss (port : Nat) (s : State) : Res :=
  let i := interval (ptpAt s port).syncLog
  .next (coreOnly s (if !ptpOn s port then s
    else
      let t := reach ((ptpAt s port).lastSync + i + i / 2) s
      reference (port + 1) 0 1 0 0 0 (withPtp port (fun z => { z with
        wait := none
        lastSync := z.lastSync + i }) t)))

/-! ## Air follow and UTC -/

/-- `AIR_BEACON_MISS` (R71): no beacon of the followed peer within PERIOD slots after the expected one. -/
def execAirBeaconMiss (s : State) : Res :=
  .next (coreOnly s (match followed s with
    | some p =>
      match s.time.bcnDue.getD p none with
      | some a =>
        if !s.up then s
        else
          let n := a + peerPeriod s p
          let t := reach (s.time.at_ n) s
          reference 4 p 1 0 0 0 (withTime (fun x => { x with bcnDue := setAt x.bcnDue p (some n) }) t)
      | none => s
    | none => s))

/-- `UTC_DAY_END` (R67): an announced leap second takes effect. -/
def execUtcDayEnd (s : State) : Res :=
  .next (coreOnly s (withTime (fun x => { x with utcOff := x.utcOff + x.leap, leap := 0 }) s))

end Sys2Proof.Machine
end

