-- ==== Sys2Proof/Machine/Rx.lean ====
section
/-! DEFINITION. Received frames in the core (R25 to R29, R70, R71, R76, R157, R214 to R216, R220 to R223, R238, R259 to R270):
the checks of Table 09-2, the drift search, acceptance, the Enhanced ACK, and slot receive summaries. -/
namespace Sys2Proof.Machine

def rxDisc (k : Nat) (s : State) : State := bump (0x80840 + 4 * k) s

/-! ## The frame as the MAC engine reads it -/

/-- The MHR of a received PSDU, behind which the FCS is left out. -/
def rxMhr (m : RxMeta) (psdu : List Octet) : Mhr := mhrOf (psdu.take (psdu.length - m.fcs))

def toDevice (s : State) (f : Mhr) : Bool := f.dst == .eui (deviceEui s)
/-- Addressed to another node (R238). -/
def overheardBy (s : State) (f : Mhr) : Bool := match f.dst with | .eui e => e != deviceEui s | .bcast => false

/-- A word with its field [hi:lo] replaced. -/
def putField (w hi lo v : Nat) : Nat := w - bitsOf w hi lo * 2 ^ lo + v % 2 ^ (hi - lo + 1) * 2 ^ lo

/-- The profile of a received frame with the mode that was decoded (Table 05-5): FEC of SUN FSK, MCS of SUN OFDM, SPREAD of
Eland. -/
def rxProf (s : State) (m : RxMeta) : Prof :=
  let q := profAt s.act m.profile
  if q.typ = 0 then { q with param := putField q.param 7 6 m.mode }
  else if q.typ = 1 then { q with param := putField q.param 6 4 m.mode }
  else if q.typ = 3 then { q with param := putField q.param 1 0 m.mode }
  else q

/-- The last bit of a received frame of `len` octets: its PHR and PSDU follow the timestamp point. -/
def rxEndAt (s : State) (m : RxMeta) (len : Nat) : Nat := m.ts + ppduNs (rxProf s m) len 0 - (rxProf s m).tpre

/-! ## Reception ASN and drift search (R214, R221) -/

def rxTpre (s : State) (m : RxMeta) : Nat := (profAt s.act m.profile).tpre

/-- The reception ASN a0; none before the slot clock runs or before E. -/
def rxAsn (s : State) (m : RxMeta) : Option Nat :=
  if s.time.running && decide (s.time.epoch + rxTpre s m ≤ m.ts) then some ((m.ts - rxTpre s m - s.time.epoch) / s.time.l) else none

/-- o(a) in ns. -/
def rxOffset (s : State) (m : RxMeta) (a : Nat) : Int :=
  (m.ts : Int) - ((s.time.at_ a + 1000 * s.regN 0x90008 + rxTpre s m : Nat) : Int)

/-- a0 - 1, a0 + 1, a0 - 2, a0 + 2 and so on, within `SCH_DRIFTSEARCH`. -/
def searchAsns (s : State) (m : RxMeta) (a0 : Nat) : List Nat :=
  let lim := 1000 * s.regN 0x90020
  let n := (lim + (rxOffset s m a0).natAbs) / max 1 s.time.l + 1
  ((List.range n).flatMap (fun d => (if d + 1 ≤ a0 then [a0 - (d + 1)] else []) ++ [a0 + (d + 1)])).filter
    (fun a => decide ((rxOffset s m a).natAbs ≤ lim))

/-! ## Senders -/

/-- The listed air peer with an EUI-64 (R70). -/
def peerOf (s : State) (e : Nat) : Option Nat :=
  (List.range 4).find? (fun i => peerEn s i && s.regN (0x30100 + 16 * i) + 2 ^ 32 * s.regN (0x30104 + 16 * i) == e)

/-- The exchanges that an Enhanced ACK to the device may answer (R216): transmissions that await one, with its sequence number and
in whose window its preamble begins. -/
def ackedTxs (s : State) (m : RxMeta) (f : Mhr) : List Tx :=
  if !toDevice s f then []
  else s.tx.txs.filter (fun t => t.phase == .ackWait && t.seq == f.seq &&
    decide (2 * ((m.ts : Int) - rxTpre s m - (t.sentEnd + 1000 * s.regF 0x9000C 15 0 : Nat)).natAbs ≤ 1000 * s.regN 0x90010))

/-- Channel index of a received frame: the lowest that `SCH_CHAN` maps to the receiving channel slot. -/
def rxIndex (s : State) (m : RxMeta) : Nat :=
  ((List.range 256).find? (fun c => (chanAt s.act c).rxen && (chanAt s.act c).slot == m.chSlot)).getD 0

/-- Who sent a frame: an entry, a listed peer, the addressed nodes of exchanges that it may answer, or an EUI-64 that is not
known. -/
inductive Sender where
  | node (n : Node)
  | peer (i : Nat)
  | acks (l : List (Tx × Node))
  | unknown

def senderOf (s : State) (m : RxMeta) (f : Mhr) : Sender :=
  if f.typ = 2 then .acks ((ackedTxs s m f).filterMap (fun t => (entryAt s t.node).map (fun n => (t, n))))
  else match findEui s f.src with
    | some n => .node n
    | none =>
      match peerOf s f.src with
      | some i => .peer i
      | none => .unknown

/-! ## The checks of Table 09-2 -/

def minRx (s : State) : Nat := max 5 (s.regF 0x8080C 10 8)

/-- The listed peer that a beacon comes from. -/
def beaconPeer (s : State) (f : Mhr) : Option Nat := if f.typ = 0 then peerOf s f.src else none

/-- Checks 0 to 2. -/
def rxForm (s : State) (f : Mhr) : Option Nat :=
  if f.version ≠ 2 ∨ 2 < f.typ then some 0
  else if !f.addrOk then some 1
  else if f.pan != panId s && (beaconPeer s f).isNone then some 2
  else none

/-- An unsecured beacon while `MAC_BCN.SEC` is 0. -/
def openBeacon (s : State) (f : Mhr) : Bool := f.typ == 0 && !f.secured && !bcnSecured s

/-- Checks 3 to 6 of a frame from entry `n` (none for a peer). -/
def rxCounter (s : State) (f : Mhr) (n : Option Node) (a0 : Nat) : Option Nat :=
  if openBeacon s f then none
  else if !f.secured then some 3
  else if f.level < minRx s then some 4
  else match n with
    | none => none
    | some nd =>
      if overheardBy s f || decide (nd.fcl < f.fc) then none
      else if f.fc = nd.fcl ∧ !nd.synth ∧ a0 % 2 ^ 32 = nd.asnl then some 6
      else some 5

/-- The key of Table 09-7 under a vault slot, and whether it is K_bcast: check 2 leaves other PAN IDs to the beacons of listed
peers. Unicast to the device from a peer that is no node has no key (log entry 109). -/
def rxKey (s : State) (k : KeySlot) (f : Mhr) (n : Option Node) : Option (KeyId × Bool) :=
  if toDevice s f then n.map (fun nd => (k.node nd.eui nd.vref, false)) else some (k.bcast f.pan, true)

/-- Check 7: the key that the key index octet names. -/
def rxSlotKey (s : State) (f : Mhr) (n : Option Node) : Option KeyId :=
  if s.offline 9 then none
  else
    f.key.bind fun idx =>
    (resolveKey s idx).bind fun k =>
    (rxKey s k f n).bind fun x => if decide (128 ≤ idx) == x.2 then some x.1 else none

/-- The ASN that the TSCH synchronisation IE of a beacon names, under which its tag is to verify while the device has none of its
own (R71). -/
def claimedAsn (key : List Octet) (sender : Nat) (f : Mhr) : Option Nat :=
  let body := f.rest.take (f.rest.length - micLen f.level)
  let n := if f.ie then hdrIeLen body.length body else 0
  (macBody f.ie (body.take n) (ccmCrypt (roundKeys key) (ccmNonce sender f.fc f.level) (body.drop n))).sync

/-- Check 8: the ASN at which the tag verifies, with the header IEs and what follows them. The drift search serves uplink frames to
the device alone; `first` is the ASN tried first (R268), none where a beacon has to tell it. -/
def rxOpen (s : State) (m : RxMeta) (f : Mhr) (n : Option Node) (key : List Octet) (sender : Nat) (first : Option Nat) (a0 : Nat) :
    Option (Nat × List Octet × List Octet) :=
  let at_ := fun a => (macOpen key sender a f).map (fun r => (a, r))
  match (first.orElse (fun _ => claimedAsn key sender f)).bind at_ with
  | some r => some r
  | none => if n.isSome && f.typ == 1 && !overheardBy s f then (searchAsns s m a0).findSome? at_ else none

/-- What checks 3 to 9 find: the derived key that was used, and the reason that fails or the ASN that verified and the content. -/
structure RxRes where
  key : Option KeyId
  out : Except Nat (Nat × MacBody)

/-- Check 9. -/
def bodyCheck (key : Option KeyId) (v : Nat) (b : MacBody) : RxRes := ⟨key, if b.ieOk then .ok (v, b) else .error 9⟩

def rxCheck (s : State) (m : RxMeta) (f : Mhr) (n : Option Node) (sender : Nat) (first : Option Nat) (a0 : Nat) : RxRes :=
  match rxCounter s f n a0 with
  | some k => ⟨none, .error k⟩
  | none =>
    if openBeacon s f then bodyCheck none (first.getD 0) (macBody f.ie (macPlain f).1 (macPlain f).2)
    else match rxSlotKey s f n with
      | none => ⟨none, .error 7⟩
      | some k =>
        match rxOpen s m f n (keyOct k) sender first a0 with
        | none => ⟨some k, .error 8⟩
        | some (v, h, b) => bodyCheck (some k) v (macBody f.ie h b)

/-! ## Acceptance -/

/-- What an accepted frame or Enhanced ACK changes of its node's entry (R157, R223, R270, R296). -/
def hearNode (s : State) (m : RxMeta) (f : Mhr) (a0 : Nat) (n : Node) : Node :=
  let fo := clampInt (-32767) 32767 (roundDiv (m.cfoHz * 100_000_000) (max 1 (slotCentre s.act m.chSlot).toNat))
  let ro := clampInt (-32767) 32767 m.rateOfs
  { n with
    hit := true
    lost := n.lost && !f.secured
    fcl := if f.secured then f.fc else n.fcl
    asnl := if f.secured then a0 % 2 ^ 32 else n.asnl
    synth := n.synth && !f.secured
    fo := if n.nm = 0 then fo else n.fo + asr (fo - n.fo) 3
    ro := if n.nm = 0 then ro else n.ro + asr (ro - n.ro) 3
    nm := min 2 (n.nm + 1)
    foAt := m.ts }

def heard (m : RxMeta) (f : Mhr) (a0 : Nat) (n : Node) (s : State) : State :=
  eventIf (n.lost && f.secured) 0x0412 [n.idx] (modNode n.idx (hearNode s m f a0) s)

/-! ## The Enhanced ACK (R215, R222) -/

/-- Time of the PHR in ns. -/
def phrNs (q : Prof) : Nat :=
  if q.typ = 0 then octetsNs (2 * (if q.fec = 0 then 1 else 2)) q.fskKbps
  else if q.typ = 1 then (if q.option = 1 then 3 else 6) * 120_000
  else if q.typ = 2 then 32_000
  else 768 * 40_000

/-- Delay of an Enhanced ACK after the last bit, ns. -/
def ackDelay (s : State) (q : Prof) : Nat :=
  1000 * (if q.typ = 3 then max (s.regF 0x9000C 31 16) 5000 else s.regF 0x9000C 31 16)

/-- A slotframe with LONG is in use at ASN `n`. -/
def longAt (s : State) (n : Nat) : Bool :=
  (List.range 64).any (fun k => match sfAt s k n with | some u => u.rec_.long | none => false)

/-- The time correction in µs that moves a node's clock by −o (R222). -/
def corrUs (o : Int) : Int := clampInt (-2047) 2047 (roundDiv (-o) 1000)

/-- An Enhanced ACK before it is sealed: to `eui`, of sequence number `seq`. -/
def ackPlain (s : State) (seq eui : Nat) (o : Int) (pies : List Octet) (sec : SecHdr) : Plain :=
  ⟨mkMhr 2 seq (panId s) false true (.eui eui) none (some sec), timeCorrIe (corrUs o) ++ ht1 pies, pies⟩

/-- What an ACK to an uplink of node `nd` would be, which ends at `end_` and verified at `v`; or the check that it fails, for the
denial counters. -/
def ackTx (s : State) (nd : Node) (m : RxMeta) (f : Mhr) (end_ v : Nat) (o : Int) : Prep :=
  let q := profAt s.act m.profile
  let start := end_ + ackDelay s q
  let n := (start - s.time.epoch) / max 1 s.time.l
  let g := cfgAt s n
  let c := rxIndex s m
  match entryOf g c with
  | none => .fail 14 none
  | some e =>
    let x := txChAt g e
    let bulk := q.typ == 3 && (subBandOf s x.freq).isSome
    let st := steerFor s q x bulk (some nd)
    let sub := subBandOf s st.freq
    let mk := ackPlain s f.seq nd.eui o (vendorIe (steerSub s nd (steerValid s nd) st.steered))
    let psdu := (mk ⟨f.level, 0, 0⟩).psduLen (some f.level) q.fcsLen
    let air := airNs g (s.regN 0x70008) m.profile psdu 0
    let at_ := acctTime s start
    if s.offline 6 || s.offline 9 || keepAt s n || (watchAt s n && !(s.regB 0x10008 4 && x.port == b2n (s.regB 0x10008 1))) ||
        !(txSlot s n).valid || fcHeld s n then .fail 13 none
    else if !profOk g e m.profile then .fail 17 none
    else if decide (Prof.maxPsdu q < psdu) || (!longAt s n && decide (1000 * s.regN 0x90014 < air)) then .fail 18 none
    else if entryBusy s e n start (start + air) (some m.chSlot) then .fail 7 none
    else if dwellDenied s e at_ air bulk then .fail 9 none
    else if dutyDenied s sub at_ air bulk then .fail 10 none
    else if cutOff s n (4 + x.port) 64 (start + air) (some end_) then .fail 11 none
    else
      .stage
        { id := s.tx.next
          kind := .ack
          phase := .staged
          port := 4 + x.port
          entry := e
          chIdx := c
          freq := st.freq
          profile := m.profile
          node := nd.idx
          frame := none
          sfh := 64
          asn := n
          vasn := v
          ext := 0
          t := start
          start := start
          airtime := air
          rate := st.rate
          msKey := if q.msen then msKeyOf g m.profile else none
          psdu := []
          onTick := none
          asked := false
          late := 0
          yield := none
          ackReq := false
          seq := f.seq
          level := max (-160) (x.level - backoffOf s (some nd))
          cls := 0
          lbt := false
          coexFrom := m.ts + phrNs (rxProf s m)
          ann := []
          sync := some (nd.eui, o, v) } sub st mk

/-- Build and stage the ACK, or count that it is not sent; the correction sets RESYNC when it does not reach. -/
def sendAck (nd : Node) (m : RxMeta) (f : Mhr) (end_ v : Nat) (o : Int) (s : State) : State :=
  let t := modNode nd.idx (fun n => { n with resync := n.resync || decide (corrLim < o.natAbs) }) s
  match ackTx t nd m f end_ v o with
  | .stage x sub st mk => stageTx x sub st mk (some f.level) ⟨.ack, some nd, none⟩ t
  | .fail k _ => cellOut 15 (((end_ + ackDelay s (profAt s.act m.profile)) - s.time.epoch) / max 1 s.time.l) 64 nd.idx (countFail k t)

/-! ## Where an accepted frame goes -/

/-- A beacon of a listed peer, of the ASN `b` by its IE, gives a reference of AIR (R71). -/
def airBeacon (p : Nat) (m : RxMeta) (sync : Option Nat) (s : State) : State :=
  match sync with
  | none => s
  | some b =>
    if !s.time.epochSet then s
    else
      let off : Int := ((s.time.at_ b + 1000 * s.regF (0x3010C + 16 * p) 15 0 + s.regN (0x30108 + 16 * p) : Nat) : Int) - m.ts
      let own := if s.time.epoch ≤ m.ts then (m.ts - s.time.epoch) / max 1 s.time.l else 0
      let wrong := s.time.loaded && b != own
      reference 4 p (if wrong then 2 else 0) off 0 0 (withTime (fun x =>
        { x with bcnDue := setAt x.bcnDue p (some (b + s.regF (0x3010C + 16 * p) 30 16)) }) s)

/-- An Enhanced ACK that the exchange `t` awaited (R209, R216, R220), of time correction `corr` in µs. One without it gives no
clock offset, and is no sync (log entry 28). -/
def ackIn (t : Tx) (m : RxMeta) (corr : Option Int) (s : State) : State :=
  let u := cellOut 0 t.asn t.sfh t.node (dropTx t.id s)
  let v := match t.frame with | some i => frameDone i stOk u | none => u
  let own := match t.frame.bind (frameAt s) with
    | some x => x.kind == .sixp t.node true
    | none => false
  let w := { v with herd := { v.herd with
    items := v.herd.items ++ [.attempt t.node t.chIdx true, .ack t.node (4 * m.rssiQ) (4 * m.snrQ)]
    sixp := v.herd.sixp.map (fun x => if own && x.node == t.node && x.ackAt.isNone then { x with ackAt := some s.time.tb } else x) } }
  sweepTombs (annsAcked t.node t.ann (match corr with | some c => syncNode t.node (1000 * c) t.asn w | none => w))

/-- An accepted data frame of node `nd`, to the device or to 0xFFFF. -/
def dataIn (nd : Node) (m : RxMeta) (f : Mhr) (end_ a0 v : Nat) (b : MacBody) (s : State) : State :=
  let t := herdItem (.uplink nd.idx (4 * m.rssiQ) (4 * m.snrQ) (f.fc - nd.fcl)) s
  let u := match b.sixp with
    | some x => if toDevice s f then herdItem (.sixp nd.idx x) t else t
    | none => t
  let w := if toDevice s f && f.ackReq then sendAck nd m f end_ v (rxOffset s m v) u else u
  payloadIn ⟨0, nd.eui, nd.idx, a0, m.ts⟩ (!toDevice s f) b.payload w

/-- A frame of node `nd` that passed every check: overheard, or to the device. `ack` is the exchange it answers. -/
def nodeIn (nd : Node) (ack : Option Tx) (m : RxMeta) (f : Mhr) (end_ a0 v : Nat) (b : MacBody) (s : State) : State :=
  if overheardBy s f then rxDisc 10 (herdItem (.overheard nd.idx (4 * m.rssiQ) (4 * m.snrQ)) s)
  else
    let u := heard m f a0 nd s
    match ack with
    | some x => ackIn x m b.tcorr u
    | none =>
      if f.typ = 1 then dataIn nd m f end_ a0 v b u
      else
        let w := herdItem (.ack nd.idx (4 * m.rssiQ) (4 * m.snrQ)) u
        match peerOf s f.src with
        | some p => airBeacon p m b.sync w
        | none => w

/-- A frame of listed peer `p` that is no node (log entry 109). -/
def peerIn (p : Nat) (m : RxMeta) (f : Mhr) (a0 : Nat) (b : MacBody) (s : State) : State :=
  if overheardBy s f then rxDisc 10 s
  else if f.typ = 0 then airBeacon p m b.sync s
  else payloadIn ⟨0, f.src, noParent, a0, m.ts⟩ (!toDevice s f) b.payload s

/-- What checks 3 to 9 found is counted, and `take` acts on a frame that passed them; the key used is the most recent one. -/
def rxTake (r : RxRes) (take : Nat → MacBody → State → State) (s : State) : State :=
  let t := useKeyOpt r.key s
  match r.out with
  | .error k => rxDisc k t
  | .ok (v, b) => take v b (bumpN (0x80840 + 44) b.unknown t)

/-- An Enhanced ACK is tried under each exchange that it may answer; the first that it passes every check under is the one. One that
passes under none is counted as under the first. -/
def rxAck (l : List (Tx × Node)) (m : RxMeta) (f : Mhr) (end_ a0 : Nat) (s : State) : State :=
  let try_ := fun (x : Tx × Node) => (x, rxCheck s m f (some x.2) x.2.eui (some x.1.vasn) a0)
  let tried := l.map try_
  match (tried.find? (fun x => match x.2.out with | .ok _ => true | .error _ => false)).orElse (fun _ => tried.head?) with
  | some (x, r) => rxTake r (fun v b u => nodeIn x.2 (some x.1) m f end_ a0 v b u) s
  | none => s

/-- A frame after its journal copy (R25, Table 09-2). In ACQUIRE, and where there is no reception ASN, all but the beacons of listed
peers are counted as frames whose tag cannot verify, and discarded (R76, log entry 109). -/
def rxFrame (m : RxMeta) (psdu : List Octet) (s : State) : State :=
  let f := rxMhr m psdu
  let a := rxAsn s m
  let a0 := a.getD 0
  let end_ := rxEndAt s m psdu.length
  let first := if s.time.loaded then a else none
  match rxForm s f with
  | some k => rxDisc k s
  | none =>
    if (s.time.st == .acquire || a.isNone) && (beaconPeer s f).isNone then rxDisc 8 s
    else match senderOf s m f with
      | .peer p => rxTake (rxCheck s m f none f.src first a0) (fun _ b u => peerIn p m f a0 b u) s
      | .node n => rxTake (rxCheck s m f (some n) f.src first a0) (fun v b u => nodeIn n none m f end_ (a.getD v) v b u) s
      | .acks l => rxAck l m f end_ a0 s
      | .unknown => learn f.src a0 m.ts [rxIndex s m, m.chSlot, m.profile, sx m.rssiQ, sx m.snrQ, f.typ, f.level] s

/-- The frame goes no further than the checks that need no key: the MAC engine drops it early (R367). -/
def earlyDrop (s : State) (m : RxMeta) (psdu : List Octet) : Bool :=
  let f := rxMhr m psdu
  (rxForm s f).isSome || (match senderOf s m f with
    | .unknown => true
    | _ => (!f.secured && !openBeacon s f) || (f.secured && decide (f.level < minRx s)))

/-- A received frame that has been journaled passes the stages of Table 01-3. -/
def admitFrame (m : RxMeta) (psdu : List Octet) (s : State) : State := sweepTombs (rxFrame m psdu (fcStallCheck s))

/-- `RX_FRAME_ADMIT` (R25): the oldest frame of a receive handoff FIFO, which channel slot `ch` received, leaves it, is journaled
and processed. -/
def execRxFrameAdmit (fifo ch : Nat) (s : State) : Res :=
  .next (if !s.up || !s.pair.leads then s
    else match s.rx.out.getD fifo [] with
      | [] => s
      | (m, psdu) :: rest =>
        let t := { s with rx := { s.rx with out := setAt s.rx.out fifo rest } }
        if m.chSlot ≠ ch then s
        else if s.offline 6 then { t with rx := sumCount t m.chSlot 6 1 t.rx }
        else admitFrame m psdu (journal (.frame m psdu) (dropFrame (earlyDrop s m psdu) fifo t)))

/-! ## Slot receive summaries (R26, R237, R449, Table 16-3) -/

/-- The enabled channel slots whose window is on pair `p`, ascending. -/
def pairSlots (s : State) (p : Nat) : List Nat :=
  (List.range 144).filter (fun ch => slotEn s.act ch && winPair (slotWin s.act ch) == p)

/-- ns that channel slot `ch` has been DEAF since the last summary. -/
def deafNs (s : State) (x : RxCounts) (ch : Nat) : Nat :=
  let since := (s.rf.deaf.filter (fun d => d.ch == ch)).map DeafRec.since
  sumNat ((x.deaf.filter (fun p => p.1 == ch)).map Prod.snd) +
    (if since.isEmpty then 0 else s.time.tb - since.foldl min s.time.tb)

/-- The entry of channel slot `ch`, with the measured OCC and LEVEL. -/
def sumEntry (s : State) (x : RxCounts) (census : List (Nat × Nat × Int)) (ch : Nat) : RxSumEntry :=
  let c := ((census.find? (fun c => c.1 == ch)).map Prod.snd).getD (0, 0)
  { slot := ch
    elock := ch < 128 && (match demodAt s ch with | some l => (profAt s.act l.profile).typ == 3 | none => false)
    deaf := deafNs s x ch != 0 || slotDeaf s ch
    occ := min 1024 c.1
    level := clampInt (-32768) 32767 c.2
    deafT := min 255 (256 * deafNs s x ch / max 1 s.time.l)
    fcs := ((x.fcs.find? (fun p => p.1 == ch)).map Prod.snd).getD 0 }

/-- The summary of a pair, from what its demodulators counted. -/
def sumOf (s : State) (pair : Nat) (census : List (Nat × Nat × Int)) : RxSum :=
  let x := s.rx.sums.getD pair RxCounts.reset
  ⟨pair, x.counts, x.divs, (pairSlots s pair).map (sumEntry s x census)⟩

/-- The counts of a pair start afresh for the slot after `n`; DEAF slots are DEAF from now on. -/
def sumStart (pair n : Nat) (s : State) : State :=
  { s with
    rx := { s.rx with sums := setAt s.rx.sums pair { RxCounts.reset with lastAsn := some n } }
    rf := { s.rf with deaf := s.rf.deaf.map (fun d =>
      if winPair (slotWin s.act d.ch) = pair then { d with since := s.time.tb } else d) } }

/-- A slot receive summary that has been journaled: its census goes to Herd. -/
def admitSummary (rs : RxSum) (s : State) : State := herdItem (.census (asnNow s - 1) rs.entries) s

/-- `RX_SUMMARY_ADMIT` (R26, R449): the summary of the slot that has ended is journaled, once for each pair with an enabled
window. -/
def execRxSummaryAdmit (x : SumIn) (s : State) : Res :=
  let pair := x.pair
  let n := asnNow s - 1
  .next (if !s.up || !s.pair.leads || !s.time.running || asnNow s == 0 || (s.rx.sums.getD pair RxCounts.reset).lastAsn == some n ||
      !(pair < 2 && (List.range 4).any (fun i => (winAt s.act (4 * pair + i)).en)) then s
    else
      let rs := sumOf s pair x.census
      admitSummary rs (journal (.rxsum rs) (sumStart pair n s)))

end Sys2Proof.Machine
end

