-- ==== Sys2Proof/Machine/Snapshot.lean ====
section
/-! DEFINITION. Snapshots (R412, R470), and the core state that digests rest on (R451, R452). -/
namespace Sys2Proof.Machine

/-! ## The sections -/

/-- Registers whose writes are journaled, the local rings' CTL apart (R461). -/
def inSnapshot (a : Nat) : Bool :=
  (match regRow a with | some r => r.jrn | none => false) && a != cringCtl 15 && a != cplCtl 15

/-- Records produced for ring `d`: those numbered and those that wait. -/
def produced (s : State) (d : Nat) : Nat :=
  ((s.hif.dring.getD d DRing.reset).seq + sumNat ((s.que.egress.getD (dlvQueue d) []).map (fun i =>
    match i.body with | .gap n _ => n | _ => 1))) % 2 ^ 32

/-- The ten sections of a snapshot, in order. -/
def snapParts (s : State) : List CorePart :=
  [.regs (s.regs.filter (fun p => inSnapshot p.1)) s.active,
   .nodes s.tbl.nodes,
   .sched s.sch,
   .pools (s.que.free.take 4) (s.que.used.filter (fun c => !inPool s 4 c)) s.tx.frames s.tx.bulk s.tx.txs s.tx.parts s.tx.next s.tx.air,
   .adapt s.adp,
   .prefixes s.tbl.pfx,
   .procs s.herd s.time s.tbl.agePos s.tbl.ageAsn s.tbl.learned s.tbl.learnAt,
   .sec (s.sec.slots.map (fun k => { k with master := 0 })) s.sec.cur s.sec.sw s.sec.fcNext s.sec.fcPre s.sec.fcRes s.sec.fcAck
     s.sec.fcValid s.sec.fcLow s.sec.lc,
   .airtime s.tx.charges,
   .rings s.jrn.seed s.jrn.drawn s.hif.cring s.hif.cpl ((List.range 10).map (produced s)) s.hif.admitted]

/-! ## Core state (R43, R452) -/

/-- The core's part of a transmission: what the radio side holds of it is left out. -/
def coreTx (t : Tx) : Tx :=
  { t with
    phase := if t.phase = .ramping ∨ t.phase = .held then .staged else t.phase
    onTick := none
    asked := false
    yield := none }

/-- The core's part of the timebase: its instant and the time inputs are each unit's own. -/
def coreTime (t : TimeSt) : TimeSt :=
  { t with
    tb := 0
    sub := 0
    pps := TimeSt.reset.pps
    ptp := TimeSt.reset.ptp }

/-- A pending command, whichever unit's ring it came from. -/
def coreAdm (a : Adm) : Adm :=
  { a with
    ref := { a.ref with ring := a.ref.ring % 16 }
    cpl := none }

/-- The core state of a section: what R452 leaves out of the digests is left out. -/
def corePart (p : CorePart) : CorePart :=
  match p with
  | .pools free used frames bulk txs parts next air => .pools free used frames bulk (txs.map coreTx) parts next air
  | .procs h t pos asn ln at_ => .procs h (coreTime t) pos asn ln at_
  | .rings seed drawn _ _ seqs adm => .rings seed drawn [] [] (seqs.take 8) (adm.map coreAdm)
  | p => p

def coreParts (s : State) : List CorePart := (snapParts s).map corePart

/-- The masters of the vault slots. -/
def slotMasters (s : State) : List Nat := s.sec.slots.map KeySlot.master

/-! ## The digest of a slot (R450, R451) -/

def isSlot (j : JRec) : Bool := match j.body with | .slot .. => true | _ => false

/-- The slot whose records are complete and the digests of its units; none where its SLOT record is not among them. -/
def slotEnded (s : State) : Option (Nat × List Nat) :=
  match s.jrn.slotRecs with
  | j :: _ => if isSlot j then some (j.asn, slotUnits s.sec.romRev s.jrn.coreAt s.jrn.slotRecs (slotMasters s)) else none
  | [] => none

/-- SEAL of the records since the previous SLOT record. -/
def sealNow (s : State) : List Octet := sealOf s.jrn.key (s.jrn.slotRecs.filter (fun j => !isSlot j))

/-- The records of a new slot begin. -/
def slotStart (s : State) : State := { s with jrn := { s.jrn with slotRecs := [], coreAt := coreParts s } }

/-! ## Snapshots as octets (R470) -/

def partSection : CorePart → Nat
  | .regs .. => 1
  | .nodes .. => 2
  | .sched .. => 3
  | .pools .. => 4
  | .adapt .. => 5
  | .prefixes .. => 6
  | .procs .. => 7
  | .sec .. => 8
  | .airtime .. => 9
  | .rings .. => 10

/-- The SNAPDATA bodies of a section: at most 4,056 octets of data in each (R446). -/
def partBodies (p : CorePart) : List JBody :=
  let n := (Config.partOctets p).length
  (List.range (max 1 (ceilDiv n 4056))).map (fun i => .snapData (partSection p) (4056 * i) (min 4056 (n - 4056 * i)) p)

def snapBodies (s : State) : List JBody := (snapParts s).flatMap partBodies

/-- The octets behind a record's header, padding included. -/
def bodyPadded (b : JBody) : List Octet := fitOct (recLen b - 32) (bodyOctets b)

/-- SHA-256 of the SNAPDATA bodies in order, each as it stands behind its header (DEDUCED, log entry 69). -/
def snapSha (l : List JBody) : List Octet := sha256 (l.flatMap bodyPadded)

/-- A snapshot at position `j`: its SNAPHDR and SNAPDATA records. -/
def snapRecs (j : Nat) (s : State) : List JRec :=
  let data := snapBodies s
  let hdr : Nat → JBody := fun n => .snapHdr s.jrn.id j (devIdOf s.sec) s.sec.romRev 0xB0 (b2n (s.sec.patchMask != 0)) n (snapSha data)
  (hdr (recLen (hdr 0) + sumNat (data.map recLen)) :: data).map (mkRec 0 (asnNow s) s.time.ofs false)

def snapOctets (j : Nat) (s : State) : List Octet := (snapRecs j s).flatMap recOctets

end Sys2Proof.Machine
end

