-- ==== Sys2Proof/Machine/SlotEngine.lean ====
section
/-! DEFINITION. The slot boundary (R207, R223, R232, R447, R450, R451, R463, R490, R505) and the supervision of nodes. -/
namespace Sys2Proof.Machine

/-- The boundary that comes next: one per slot, from the first after the clock starts. -/
def nextBoundary (t : TimeSt) : Nat :=
  match t.lastAsn with
  | some a => max (a + 1) t.asn
  | none => if t.ofs = 0 then t.asn else t.asn + 1

/-- Airtime older than every window it could count in; carriers and own transmissions that nothing asks about any more. -/
def prune (s : State) : State :=
  let now := acctTime s s.time.tb
  let span := 2 * max 3_720_000_000_000 (dwellW s * 1_000_000_000)
  { s with
    tx := { s.tx with
      charges := s.tx.charges.filter (fun c => decide (now ≤ c.at_ + span))
      air := s.tx.air.filter (fun a => decide (s.time.tb ≤ a.to_ + 60_000_000_000)) }
    rf := { s.rf with ports := s.rf.ports.map (fun p => { p with
      carriers := p.carriers.filter (fun c => match c.until_ with
        | some u => decide (s.time.tb ≤ u + 100_000_000)
        | none => true) }) } }

/-- Subsystems that were restarted return to service (R490). -/
def restartDone (s : State) : State :=
  let back := s.err.restarting
  let t := { s with err := { s.err with
    offline := s.err.offline.filter (fun u => !back.contains u)
    restarting := []
    restarted := back.map (fun u => (u, s.time.tb)) ++ s.err.restarted.filter (fun x => !back.contains x.1) } }
  let u := back.foldl (fun v k => event 0x0E41 [k, 0] v) t
  if back.any (fun k => k == 1 || k == 2) then returnPorts u else u

/-- In the slot before a return from WATCH every port starts towards its commanded state (R505). -/
def runPorts (n : Nat) (s : State) : State :=
  match s.pwr.commit with
  | some c => if c.target == .run && s.pwr.st == .watch && c.asn == n + 1 then returnPorts s else s
  | none => s

/-- The boundary of ASN `n` is that of the pending swap drill: the first of its slotframe at or after the named ASN. -/
def drillDue (s : State) (n : Nat) : Bool :=
  match s.pair.drill with
  | some (_, k, a) =>
    (s.pair.st == .active || s.pair.exec) && decide (a ≤ n) &&
      (match sfAt s k n with
        | some u => n % u.rec_.length == 0
        | none => false)
  | none => false

/-- What each unit counts at a boundary: slots without heartbeat on one that follows, slots without acknowledgement on an
active unit with a synced standby (R463, R464). -/
def pairCount (s : State) : State :=
  let lead := s.pair.leads
  let miss := !lead && !s.pair.hbSeen
  { s with
    pair := { s.pair with
      hbMiss := if miss then s.pair.hbMiss + 1 else 0
      hbSeen := false
      peerOk := s.pair.peerOk && (lead || decide (s.pair.hbMiss + b2n miss < 3))
      ackMiss := if lead && s.pair.peerOk && !s.pair.ackSeen then s.pair.ackMiss + 1 else 0
      ackSeen := false }
    cnt := cntBump 0x110030 0 32 (b2n (miss && (s.pair.follows || s.pair.st == .joinCopy))) s.cnt }

/-- The SLOT record of a unit that writes its own journal: it seals the records of the slot that ends, whose digest is owed by the
boundary of its ASN and LAG (R450, R451). -/
def slotWrite (s : State) : State :=
  if jrnWrites s then
    let o := s.jrn.owed ++ (match slotEnded s with | some (k, u) => [(k, k + herdLag s, u)] | none => [])
    journal (.slot s.jrn.keyed (sealNow s)) (slotStart { s with jrn := { s.jrn with owed := o } })
  else s

/-- The work of one boundary: the SLOT record first, then Table 02-4, Herd, and the cells of the next slot. With cells executing,
a KEEP that has ended cannot be resumed any more (R516). -/
def boundaryWork (n : Nat) (s : State) : State :=
  let t := timeBoundary (prune (slotWrite s))
  let u := runPorts n (restartDone t)
  let c := if u.time.running then { u with pwr := { u.pwr with bank := none } } else u
  let v := if c.offline 5 then c else herdBoundary n c
  let w := fcStallCheck (if drillDue v (n + 1) || drillDue v n then v else prepSlot (n + 1) v)
  sweepTombs (if w.pair.st = .active then sendPair 9 w.time.tb (sendPair 0 n w) else w)

/-- `SLOT_BOUNDARY` (R207): the next boundary comes. A unit that does not write its own journal works from the records it
receives. -/
def execSlotBoundary (s : State) : Res :=
  let n := nextBoundary s.time
  let t := reach (s.time.at_ n) s
  let u := withTime (fun x => { x with lastAsn := some n }) t
  .next (if !s.up || s.pair.st == .replay || !(s.time.loaded && s.time.epochSet && decide (0 < s.time.slotLen)) then s
    else if s.pair.leads then boundaryWork n (pairCount u) else pairCount u)

/-- A node has been silent for SUPTO (R223). -/
def silent (s : State) (n : Node) : Bool :=
  decide (supto s n.cls * 1_000_000_000 ≤ (asn32 s + 2 ^ 32 - n.asnl) % 2 ^ 32 * s.time.l)

/-- A node becomes LOST: every frame of its list completes `NO_ROUTE` in list order, those in flight too, and what it had measured loads afresh (R157, R220). -/
def loseNode (i : Nat) (n : Node) (s : State) : State :=
  let t := event 0x0411 [i, asnNow s] (modNode i (fun m => { m with lost := true, nm := 0, noSync := true }) s)
  herdItem (.lost i) (framesDone n.dl stNoRoute t)

/-- Nodes that are to become LOST, by ascending index. -/
def overdue (s : State) : List Node := s.tbl.nodes.filter (fun n => !n.tomb && !n.lost && silent s n)

/-- `NODE_SUPERVISION_TIMEOUT` (R223): the node is overdue, and with it, first, the overdue nodes of lower index. -/
def execNodeSupervisionTimeout (node : Nat) (s : State) : Res :=
  .next (if coreRuns s && s.time.running && (overdue s).any (fun n => n.idx == node) then
      ((overdue s).filter (fun n => decide (n.idx ≤ node))).foldl (fun u n => loseNode n.idx n u) s
    else s)

end Sys2Proof.Machine
end

