-- ==== Sys2Proof/Machine/Bank.lean ====
section
/-! DEFINITION. Applying the staged channel-bank, demodulator and schedule configuration (R137 to R140, R144, R206, R413). -/
namespace Sys2Proof.Machine

/-- A staged register (R522). -/
def isStaged (a : Nat) : Bool := match regRow a with | some r => r.staged | none => false

/-- The staging set as it stands. -/
def stagingNow (s : State) : List (Nat × Word) := s.regs.filter (fun p => isStaged p.1)

/-- Reading a snapshot. -/
def snapGet (l : List (Nat × Word)) (x : Nat) : Nat := (cellsGet x (resetAt x) l).toNat

/-- `CHB_APPLYERR` and `CHB_APPLYDET` of a failure (Table 04-4). -/
def applyErrOf (f : ApplyFail) : Nat := f.reason * 2 ^ 24 + f.typ * 2 ^ 16 + f.index
def applyDetOf (f : ApplyFail) : Nat := f.profile * 2 ^ 16 + f.offset

/-- A channel slot that the new configuration removes or changes in centre, width, spacing, bandwidth or pair (R139). -/
def slotChanged (g h : Nat → Nat) (ch : Nat) : Bool :=
  !slotEn h ch || slotCentre g ch != slotCentre h ch || slotSpacing g ch != slotSpacing h ch ||
    (winAt g (slotWin g ch)).width != (winAt h (slotWin h ch)).width || winPair (slotWin g ch) != winPair (slotWin h ch)

/-- The checked snapshot becomes active in one step; the command completes. -/
def activate (a : Apply) (s : State) : State :=
  let t := loseLocks (fun d => slotChanged s.act (snapGet a.snap) d.ch) 5 s
  done a.ref (herdItem (.applied (validSets s)) { t with
    active := a.snap
    bank := { t.bank with apply := none } })

/-- The OBW words of the profiles, computed at an apply (R153, R169): in kHz for an enabled profile, else 0 (log entry 110). -/
def obwWords (g : Nat → Nat) : List (Nat × Word) :=
  (List.range 32).map (fun p => (0x7010C + 16 * p, BitVec.ofNat 32 (if (profAt g p).en then (profAt g p).obw else 0)))

/-- Put register words into a list of them. -/
def putWords (l c : List (Nat × Word)) : List (Nat × Word) := l.foldl (fun d e => cellsPut e.1 e.2 (resetAt e.1) d) c

/-- A snapshot whose checks have passed awaits its ASN, with the OBW of its profiles. -/
def pendApply (r : CmdRef) (n : Nat) (s : State) : State :=
  let w := obwWords (snapGet (stagingNow s))
  let a : Apply := ⟨r, n, putWords w (stagingNow s)⟩
  let t := withdraw n (fun _ => true) { s with
    regs := putWords w s.regs
    bank := ⟨some a, 0, 0⟩ }
  if s.time.loaded then t else activate a t

def doBankApply (r : CmdRef) (s : State) : State :=
  checked r [(needsTime s r.asn, stUnlocked, 4, 0), (s.bank.apply.isSome, stBusy, 4, 0), (tooSoon s r.asn, stBad, 4, 0x000B)]
    (fun s =>
      match checkSnapshot (snapGet (stagingNow s)) with
      | some f => complete r stBad (applyUnit f.typ) (applyErrOf f + applyDetOf f * 2 ^ 32) (0x100 + f.reason)
          { s with bank := { s.bank with applyErr := applyErrOf f, applyDet := applyDetOf f } }
      | none => pendApply r (namedAsn s r.asn) s) s

/-- `RF_BANK_APPLY` (R137, R138). -/
def execRfBankApply (r : CmdRef) (s : State) : Res := .next (runCmd r 0x0203 1 0 .rfBankApply s (doBankApply r))

/-- `BANK_APPLY_ACTIVATE` (R138): at offset 0 of the named ASN. -/
def execBankApplyActivate (s : State) : Res :=
  .next (coreOnly s (match s.bank.apply with
    | some a => if a.asn ≤ nowFor s then activate a s else s
    | none => s))

end Sys2Proof.Machine
end

