-- ==== Sys2Proof/Machine/Eth.lean ====
section
/-! DEFINITION. The Ethernet ports (15_ethernet.md; R361, R372): link state, classification, the admission bucket, sending
and PAUSE. Port 0 is ETH_A and port 1 ETH_B. -/
namespace Sys2Proof.Machine

def ethPort (s : State) (p : Nat) : EthPort := s.eth.getD p EthPort.reset
def modEth (p : Nat) (f : EthPort → EthPort) (s : State) : State := { s with eth := modAt p f s.eth }
/-- `ETH_CNT[k]` of a port. -/
def ethCnt (p k : Nat) : Nat := ethBase p + 0x40 + 4 * k
def ethMode (s : State) (p : Nat) : Nat := s.regF (ethBase p) 25 24

/-! ## Link (R430 to R432) -/

/-- The port is up (R431); in WATCH only with its bit of ETHKEEP set (R504). -/
def ethUp (s : State) (p : Nat) : Bool :=
  let x := ethPort s p
  s.regB (ethBase p) 31 && ethMode s p != 3 && x.lock &&
    (ethMode s p != 2 || !s.regB (ethBase p) 16 || x.anDone) &&
    (s.pwr.st != .watch || s.regB 0x10008 (8 + p)) && !s.offline 12

/-- Cells of an egress queue. -/
def emptyQueue (q : Nat) (s : State) : State :=
  { s with que := releaseIn s ((s.que.egress.getD q []).flatMap EgItem.cells) { s.que with egress := setAt s.que.egress q [] } }

/-- The egress queues of a port that is down are drained, each frame counted (R432). -/
def drainEth (p : Nat) (s : State) : State :=
  let n := (s.que.egress.getD (2 * p) []).length + (s.que.egress.getD (2 * p + 1) []).length
  bumpN (ethCnt p 13) n (emptyQueue (2 * p + 1) (emptyQueue (2 * p) s))

/-- What a port loses as it goes down (R432). -/
def ethDown (p : Nat) (s : State) : State :=
  let t := drainEth p (modEth p (fun x => { x with
    fifo := []
    out := []
    paused := none }) s)
  { t with que := { t.que with
      pauseTx := setAt t.que.pauseTx p []
      pauseAt := setAt t.que.pauseAt p none } }

/-- BURST × 64 octets, in 1/8000 octet (R434). -/
def ethBurst (s : State) (p : Nat) : Nat :=
  let b := s.regF (ethBase p + 0x1C) 15 0
  8000 * 64 * (if b = 0 then 24 else b)

/-- The bucket is full when the port comes up (R434). -/
def ethRise (p : Nat) (s : State) : State :=
  modEth p (fun x => { x with tokens := ethBurst s p, filledAt := s.time.tb }) s

/-- Bring a port's state in line with R431: a change is journaled and raises `ETH_LINK` (R432). -/
def ethEval (p : Nat) (s : State) : State :=
  let up := ethUp s p
  if up = (ethPort s p).up then s
  else
    let t := journal (.ethin p 2 (b2n up) (ethMode s p) []) (modEth p (fun x => { x with up := up }) (if up then ethRise p s else ethDown p s))
    event 0x0C01 [p, b2n up, ethMode s p] t

/-- `ETH_LINK_CHANGE` (R431, R432): the PCS lock, and where auto-negotiation is done the partner's symmetric PAUSE. -/
def execEthLinkChange (port : Nat) (lock : Bool) (an : Option Bool) (s : State) : Res :=
  .next (if s.up && decide (port < 2) then
      ethEval port (modEth port (fun x => { x with
        lock := lock
        anDone := an.isSome
        lpPause := an.getD false }) s)
    else s)

/-! ## Frames (R433, R440) -/

/-- DA of a frame. -/
def ethDa (f : List Octet) : Nat := beOf (f.take 6)
/-- A frame with an 802.1Q tag, and the VID of the tag. -/
def ethTagged (f : List Octet) : Bool := beOf (slice f 12 2) == 0x8100
def ethVid (f : List Octet) : Nat := beOf (slice f 14 2) % 4096
def ethType (f : List Octet) : Nat := beOf (slice f (if ethTagged f then 16 else 12) 2)
/-- The octets behind the EtherType, padding included, without the FCS. -/
def ethBody (f : List Octet) : List Octet := (f.drop (if ethTagged f then 18 else 14)).take (f.length - (if ethTagged f then 22 else 18))

/-- A UDP datagram to port 319 or 320 (R440). -/
def ptpUdp (u : List Octet) : Bool := beOf (slice u 2 2) == 319 || beOf (slice u 2 2) == 320

/-- The transport of R440 whose PTP message the frame carries. -/
def ptpTransport (f : List Octet) : Option Nat :=
  let b := ethBody f
  if ethType f = 0x88F7 then some 0
  else if ethType f = 0x86DD ∧ (ipUpper b).1 = 17 ∧ ptpUdp (ipUpper b).2 then some 1
  else if ethType f = 0x0800 ∧ (b.getD 9 0).toNat = 17 ∧ beOf (slice b 6 2) % 8192 = 0 ∧ ptpUdp (b.drop (4 * ((b.getD 0 0).toNat % 16))) then
    some 2
  else none

/-- The transport a port runs; 3 acts as 0. -/
def ptpChosen (s : State) (p : Nat) : Nat := s.regF (ethBase p + 0x28) 1 0 % 3

/-! ## Receiving (R433, R438, R441) -/

/-- Length of a pause of `n` quanta in ns (R372). -/
def quantaNs (s : State) (p n : Nat) : Nat :=
  n * (match ethMode s p with
    | 0 => 512
    | 1 => 2048
    | _ => 5120) / 10

/-- An IPv6 destination whose packets go to MGMT: multicast or in fe80::/10. -/
def mgmtDst (a : Nat) : Bool := isMulticast a || a / 2 ^ 118 == 0x3FA

/-- The payload length of an IPv6 packet matches its frame: it fills the frame, or a frame of 64 octets is padded (DEDUCED, log
entry 111). -/
def ipFits (f : List Octet) : Bool :=
  let n := 40 + ipPayLen (ethBody f)
  n == (ethBody f).length || (f.length == 64 && decide (n ≤ (ethBody f).length))

/-- Row 2, with what stands below the table of IPv6 frames. -/
def ethBadLen (s : State) (p : Nat) (f : List Octet) : Bool :=
  decide (f.length < 64) || decide (min 1522 (max 64 (s.regF (ethBase p + 0x24) 10 0)) < f.length) ||
    (ethType f == 0x86DD && (!ipFits f || decide (1500 < 40 + ipPayLen (ethBody f))))

def ethMac (s : State) (p : Nat) : Nat := s.regN (ethBase p + 8) + 2 ^ 32 * s.regF (ethBase p + 12) 15 0

/-- Row 3; the PTP address of UDP over IPv4 is that of 224.0.1.129 (log entry 85). -/
def ethDaOk (s : State) (p : Nat) (f : List Octet) : Bool :=
  [ethMac s p, 0xFFFF_FFFF_FFFF, 0x0180_C200_0001, 0x011B_1900_0000, 0x0180_C200_000E, 0x0100_5E00_0181].contains (ethDa f) ||
    ethDa f / 2 ^ 32 == 0x3333

/-- Row 4. -/
def ethBadVlan (s : State) (p : Nat) (f : List Octet) : Bool :=
  let v := ethBase p + 0x18
  ethTagged f && ethVid f != 0 && (!s.regB v 31 || ethVid f != s.regF v 11 0)

/-- A received PAUSE (R438). -/
def ethPause (p n : Nat) (s : State) : State :=
  if s.regB (ethBase p) 8 then
    modEth p (fun x => { x with paused := if n = 0 then none else some (s.time.tb + quantaNs s p n) }) s
  else s

/-- A PTP message takes its token, or is excess: 128 in a second, bursts of 16 (R441). -/
def ethPtp (p : Nat) (s : State) : State :=
  let x := ethPort s p
  let tok := min 16_000_000_000 (x.ptpTok + 128 * (s.time.tb - x.ptpAt))
  let ok := decide (1_000_000_000 ≤ tok)
  bump (ethCnt p (if ok then 9 else 10)) (modEth p (fun x => { x with
    ptpTok := if ok then tok - 1_000_000_000 else tok
    ptpAt := s.time.tb }) s)

/-- Into the ingress FIFO, 16 octets an entry; a frame that finds no room is lost and counted there (R366). -/
def ethStore (p : Nat) (mgmt : Bool) (f : List Octet) (s : State) : State :=
  fifoPut (31 + p) (ceilDiv f.length 16) (modEth p (fun e => { e with fifo := e.fifo ++ [⟨mgmt, f⟩] })) s

/-- A MGMT frame: stored while `on`, otherwise discarded and counted in the counter of its row. -/
def ethMgmt (p : Nat) (on : Bool) (f : List Octet) (s : State) : State := if on then ethStore p true f s else bump (ethCnt p 8) s

/-- Rows 7 to 10 of Table 15-2. -/
def ethData (p : Nat) (f : List Octet) (s : State) : State :=
  let m := ethBase p + 0x20
  if ethType f = 0x86DD then
    (if mgmtDst (ipDst (ethBody f)) then ethMgmt p (s.regB m 31) f s else ethStore p false f s)
  else if ethType f = 0x0800 ∨ ethType f = 0x0806 then ethMgmt p (s.regB m 30) f s
  else bump (ethCnt p 5) s

/-- Rows 5 to 10 of Table 15-2. PTP of a transport that `ETH_PTPCTL` does not select falls through (R440). -/
def ethClass (p : Nat) (f : List Octet) (s : State) : State :=
  if ethType f = 0x8808 then
    (if beOf ((ethBody f).take 2) = 1 then ethPause p (beOf (slice (ethBody f) 2 2)) (bump (ethCnt p 11) s) else bump (ethCnt p 11) s)
  else if ptpTransport f = some (ptpChosen s p) then ethPtp p s
  else ethData p f s

/-- `ETH_FRAME_RX` (R433): the first row of Table 15-2 that applies. -/
def ethRx (p : Nat) (f : List Octet) (s : State) : State :=
  let t := bump (ethCnt p 0) s
  if !fcsGood 4 f then bump (ethCnt p 1) t
  else if ethBadLen s p f then bump (ethCnt p 2) t
  else if !ethDaOk s p f then bump (ethCnt p 3) t
  else if ethBadVlan s p f then bump (ethCnt p 4) t
  else ethClass p f t

/-- `frame` runs from DA to FCS. -/
def execEthFrameRx (port : Nat) (frame : List Octet) (s : State) : Res :=
  .next (if s.up && (ethPort s port).up then ethRx port frame s else s)

/-! ## Admission (R434 to R436) -/

/-- RATE in Mb/s, from 1 to 400. -/
def ethRate (s : State) (p : Nat) : Nat := min 400 (max 1 (s.regF (ethBase p + 0x1C) 24 16))

/-- The bucket now. -/
def ethTokens (s : State) (p : Nat) : Nat :=
  min (ethBurst s p) ((ethPort s p).tokens + ethRate s p * (s.time.tb - (ethPort s p).filledAt))

/-- The IPv6 packet of a DATA frame, its padding cut. -/
def ethPacket (f : List Octet) : List Octet := (ethBody f).take (40 + ipPayLen (ethBody f))

/-- A journaled frame is routed (DATA) or delivered as a MGMT record without its FCS (R436). -/
def ethItem (p : Nat) (mgmt : Bool) (f : List Octet) (s : State) : State :=
  if mgmt then
    let x := f.take (f.length - 4)
    offerRec (s.regF (ethBase p + 0x20) 2 0) ⟨6, 0, p + 1, asnNow s, s.time.tb, x.length, [], x, s.jrn.seq⟩ s
  else route ⟨p + 1, 0, 0, asnNow s, s.time.tb⟩ (ethPacket f) s

/-- An admitted frame is journaled and acted on. -/
def ethTaken (p : Nat) (x : EthIn) (s : State) : State :=
  ethItem p x.mgmt x.frame (bump (ethCnt p (if x.mgmt then 8 else 7)) (journal (.ethin p (b2n x.mgmt) 1 (ethMode s p) x.frame) s))

/-- `ETH_ADMIT` (R435): the head of the ingress FIFO is admitted, dropped at the cap, or waits. -/
def ethAdmit (p : Nat) (x : EthIn) (s : State) : State :=
  let ok := decide (8000 * x.cost ≤ ethTokens s p)
  let t := modEth p (fun e => { e with
    fifo := e.fifo.drop 1
    tokens := ethTokens s p - (if ok then 8000 * x.cost else 0)
    filledAt := s.time.tb }) (dropFrame (!ok) (31 + p) s)
  if ok then ethTaken p x t else bump (ethCnt p 6) t

def execEthAdmit (port : Nat) (s : State) : Res :=
  .next (match (ethPort s port).fifo with
    | x :: _ =>
      if s.up && (ethPort s port).up && s.pair.leads && (decide (8000 * x.cost ≤ ethTokens s port) || !s.regB (ethBase port + 0x1C) 31)
      then ethAdmit port x s else s
    | [] => s)

/-! ## Sending (R361, R372, R437) -/

/-- Move packets from the queue into the egress FIFO while they fit (R361). -/
def fillFrom (p q : Nat) : List EgItem → State → State
  | [], s => s
  | i :: t, s =>
    match i.body with
    | .packet k =>
      if fifoFit s (33 + p) (ceilDiv k.length 16) = 0 then
        fillFrom p q t (modEth p (fun e => { e with out := e.out ++ [k] })
          { s with que := releaseIn s i.cells { s.que with egress := setAt s.que.egress q t } })
      else s
    | _ => s

/-- HIGH before NORMAL. -/
def fillEth (p : Nat) (s : State) : State :=
  let t := fillFrom p (2 * p) (s.que.egress.getD (2 * p) []) s
  if (t.que.egress.getD (2 * p) []).isEmpty then fillFrom p (2 * p + 1) (t.que.egress.getD (2 * p + 1) []) t else t

/-- A frame on the wire: addresses, tag, EtherType and body, padded to 64 octets with its FCS. -/
def ethWire (s : State) (p da : Nat) (tag : Option Nat) (ty : Nat) (b : List Octet) : List Octet :=
  let h := octetsBE 6 da ++ octetsBE 6 (ethMac s p) ++ ((tag.map (fun t => octetsBE 2 0x8100 ++ octetsBE 2 t)).getD []) ++ octetsBE 2 ty ++ b
  withFcs 4 (h ++ zeros (60 - h.length))

/-- The tag of R437: PCP and VID. -/
def ethTag (s : State) (p : Nat) : Option Nat :=
  let v := s.regN (ethBase p + 0x18)
  if bitOf v 31 then some (bitsOf v 15 13 * 8192 + bitsOf v 11 0) else none

/-- The Ethernet frame around a packet (R437). -/
def ethFrameOf (s : State) (p : Nat) (k : List Octet) : List Octet :=
  ethWire s p (if isMulticast (ipDst k) then 0x3333 * 2 ^ 32 + ipDst k % 2 ^ 32
    else s.regN (ethBase p + 0x10) + 2 ^ 32 * s.regF (ethBase p + 0x14) 15 0) (ethTag s p) 0x86DD k

/-- A frame leaves the port. -/
def ethSend (p : Nat) (f : List Octet) (s : State) : State := bump (ethCnt p 12) (modEth p (fun e => { e with sent := some f }) s)

/-- Send the oldest waiting PAUSE frame (R372). -/
def sendPause (p n : Nat) (s : State) : State :=
  let t := ethSend p (ethWire s p 0x0180_C200_0001 none 0x8808 (octetsBE 2 1 ++ octetsBE 2 n)) s
  { t with
    que := { t.que with
      pauseTx := modAt p (List.drop 1) t.que.pauseTx
      pauseAt := setAt t.que.pauseAt p (if n = 0 then none else some t.time.tb) }
    cnt := cntBump 0xD0A88 (16 * p) 16 1 t.cnt }

/-- Send the head of the egress FIFO. -/
def sendEgress (p : Nat) (s : State) : State :=
  match (ethPort s p).out with
  | k :: _ => ethSend p (ethFrameOf s p k) (modEth p (fun e => { e with out := e.out.drop 1 }) s)
  | [] => s

/-- `ETH_FRAME_TX` (R437): a waiting PAUSE frame first, then, unless a received PAUSE holds it, the next packet. A port that is
down drains its queues (R432). -/
def ethTx (p : Nat) (s : State) : State :=
  if !(ethPort s p).up then drainEth p s
  else match s.que.pauseTx.getD p [] with
    | n :: _ => sendPause p n s
    | [] => if (ethPort s p).paused.isSome then fillEth p s else sendEgress p (fillEth p s)

def execEthFrameTx (port : Nat) (s : State) : Res := .next (if s.up && decide (port < 2) then ethTx port s else s)

/-- `ETH_PAUSE_EXPIRE` (R438). -/
def execEthPauseExpire (port : Nat) (s : State) : Res :=
  .next (match (ethPort s port).paused with
    | some t => modEth port (fun e => { e with paused := none }) (reach t s)
    | none => s)

/-- `PAUSE_REPEAT` (R372): floor(QUANTA / 2) quanta after the last PAUSE frame, while ABOVE stays set. -/
def execPauseRepeat (port : Nat) (s : State) : Res :=
  .next (match s.que.pauseAt.getD port none with
    | some t =>
      let q := max 1 (s.regF (0xD0A80 + 4 * port) 15 0)
      if s.que.above.contains (31 + port) && s.regB (0xD0A80 + 4 * port) 31 && (s.que.pauseTx.getD port []).isEmpty then
        let u := reach (t + quantaNs s port (q / 2)) s
        { u with que := { u.que with pauseTx := modAt port (· ++ [q]) u.que.pauseTx, pauseAt := setAt u.que.pauseAt port none } }
      else s
    | none => s)

/-! ## Delay_Req (R439 to R443) -/

/-- A Delay_Req of sequence `q` with the originTimestamp `ts` in ns (IEEE 1588; log entry 85). -/
def delayReqMsg (s : State) (p q ts : Nat) : List Octet :=
  [0x01, 0x12] ++ octetsBE 2 44 ++ octetsBE 1 (s.regF (0x30090 + 4 * p) 7 0) ++ zeros 15 ++ octetsBE 8 (ownEui s) ++ octetsBE 2 (p + 1) ++
    octetsBE 2 q ++ [0x01, 0x7F] ++ octetsBE 6 (ts / 1_000_000_000) ++ octetsBE 4 (ts % 1_000_000_000)

/-- The UDP datagram of an event message, without its checksum. -/
def eventUdp (m : List Octet) : List Octet := octetsBE 2 319 ++ octetsBE 2 319 ++ octetsBE 2 (8 + m.length) ++ zeros 2 ++ m

/-- The link-local address of `ETH_MAC`. -/
def ethLinkLocal (s : State) (p : Nat) : Nat :=
  let m := ethMac s p
  linkLocal + ((m / 2 ^ 24 * 2 ^ 40 + 0xFFFE * 2 ^ 24 + m % 2 ^ 24) ^^^ 2 ^ 57)

/-- An IPv4 packet from 0.0.0.0 to 224.0.1.129 around a UDP datagram whose checksum is to be filled in. -/
def ptpIpv4 (u : List Octet) : List Octet :=
  let ph := zeros 4 ++ [224, 0, 1, 129] ++ [0, 17] ++ octetsBE 2 u.length ++ u
  let c := 0xFFFF - onesSum ph.length ph 0
  let h := fun (x : Nat) => [0x45, 0x00] ++ octetsBE 2 (20 + u.length) ++ zeros 4 ++ [1, 17] ++ octetsBE 2 x ++ zeros 4 ++ [224, 0, 1, 129]
  h (0xFFFF - onesSum 20 (h 0) 0) ++ u.take 6 ++ octetsBE 2 (if c = 0 then 0xFFFF else c) ++ u.drop 8

/-- The frame that carries a PTP event message, by transport (R440). -/
def ptpFrame (s : State) (p : Nat) (m : List Octet) : List Octet :=
  match ptpChosen s p with
  | 0 => ethWire s p (if s.regB (ethBase p + 0x28) 8 then 0x0180_C200_000E else 0x011B_1900_0000) none 0x88F7 m
  | 1 =>
    let src := ethLinkLocal s p
    let dst := 0xFF0E * 2 ^ 112 + 0x181
    ethWire s p 0x3333_0000_0181 none 0x86DD (ipPacket 0 0 17 1 src dst (udpFilled src dst (eventUdp m)))
  | _ => ethWire s p 0x0100_5E00_0181 none 0x0800 (ptpIpv4 (eventUdp m))

/-- A Delay_Req may go: a Sync has come, so that an interval is known, and no received PAUSE holds the port (R438). -/
def mayAskDelay (s : State) (p : Nat) : Bool :=
  ptpEn s p && ((ptpAt s p).sync.isSome || (ptpAt s p).wait.isSome) && (ethPort s p).paused.isNone

/-- `PTP_DELAY_REQ_SEND` (R68, R443): sent when its interval has elapsed; `egress` is the MAC's timestamp in ns, corrected to the
wire (R442), and with ONESTEP it is written into the frame. -/
def execPtpDelayReqSend (port : Nat) (egress : Int) (s : State) : Res :=
  let z := ptpAt s port
  let t3 := egress + txOfs s port
  let ts := if s.regB (ethBase port + 0x28) 4 then t3.toNat else 0
  .next (coreOnly s (if !mayAskDelay s port then s
    else
      let t := match z.reqAt with
        | some a => reach (a + delayEvery z) s
        | none => s
      ethSend port (ptpFrame t port (delayReqMsg t port z.delaySeq ts)) (withPtp port (fun y => { y with
        delayReq := some (y.delaySeq, 65536 * t3)
        delaySeq := (y.delaySeq + 1) % 65536
        reqAt := some t.time.tb }) t)))

end Sys2Proof.Machine
end

