-- ==== Sys2Proof/Machine/Security.lean ====
section
/-! DEFINITION. The security commands (11_security.md, R421 to R425): identity and attestation, key import and
generations, the frame counter's reservations, the life cycle, tamper acknowledgement, fuses, ROM patches and cipher
engine 3. -/
namespace Sys2Proof.Machine

def withSec (f : SecSt → SecSt) (s : State) : State := { s with sec := f s.sec }

/-! ## Life cycle and root (R315 to R321) -/

/-- HALF of `SEC_LCS`: one fuse of the state's pair is not blown (R320). -/
def lcHalf (s : State) : Bool :=
  lcState s != 0 && bitsOf s.sec.lc (2 * lcState s - 1) (2 * lcState s - 2) != 3

/-- The root of a life-cycle state can be loaded: its words are correctable and its value is programmed (Table 11-2, R315,
R316); SCRAP has none. -/
def rootHere (x : SecSt) (st : Nat) : Bool :=
  match rootOfState st with
  | some k => fuseField x (8 * k) (8 * k + 7) 1 == 1 && rootProgrammed k
  | none => false

/-- Blow what a target state's pair still lacks. -/
def blow (lc target : Nat) (second : Bool) : Nat :=
  let lo := 2 * target - 2
  let f := if bitsOf lc lo lo = 0 then lc + 2 ^ lo else lc
  if second && bitsOf f (lo + 1) (lo + 1) == 0 then f + 2 ^ (lo + 1) else f

/-- Vault slots, counter, switch and cached keys are zeroised (R320, R349). -/
def zeroKeys (x : SecSt) : SecSt := { x with
  slots := [KeySlot.reset, KeySlot.reset]
  cur := 0
  sw := none
  swRef := none
  fcNext := 0
  fcPre := 0
  fcRes := 0
  fcAck := 0
  fcValid := false
  fcLow := false
  cache := [] }

/-- The commands Table 11-7 permits in the state, by opcode. -/
def lcPermits (st op : Nat) : Bool :=
  if op = 0x060A then st == 1
  else if op = 0x060B then st == 2
  else if op = 0x0601 ∨ op = 0x0609 ∨ op = 0x0610 then true
  else st != 4

/-- The checks that come before a security command's own: the life-cycle state, then TLOCK (R350). -/
def secGate (s : State) (op : Nat) : List (Bool × Nat × Nat × Nat) :=
  [(!lcPermits (lcState s) op, stBadState, 9, 0), (s.sec.tlock, stTamper, 9, 0)]

/-! ## Identity and attestation (R346, R347, R422) -/

/-- RMANONCE as `SEC_IDENTITY` gives it. -/
def rmaNonceOct (s : State) : List Octet := octetsLE 16 s.sec.rmaNonce

/-- The public keys of AK and IK, zeros while no root is loaded (R347). -/
def identKeys (s : State) : List Octet :=
  if s.sec.rootOk then pubKey (keyAk s.sec) ++ pubKey (keyIk s.sec) else zeros 130

/-- OWNERID and OWNERTAMP as they read (R315). -/
def ownerIdOf (x : SecSt) : Nat := fuseField x 42 42 x.ownerId
def ownerTampOf (x : SecSt) : Nat := fuseField x 43 43 x.ownerTamp

def identityOut (s : State) : List Octet :=
  octetsLE 8 (devIdOf s.sec) ++ octetsLE 1 (lcState s) ++ octetsLE 2 s.sec.romRev ++ [0xB0] ++ zeros 4 ++
    octetsLE 8 (ownerIdOf s.sec) ++ rmaNonceOct s ++ identKeys s ++ zeros 6 ++ octetsBE 64 (fuseField s.sec 26 33 Config.endorse)

/-- `SEC_IDENTITY` (R347, R422). -/
def doSecIdentity (r : CmdRef) (outAddr : Nat) (s : State) : State := done r (writeOut outAddr (identityOut s) s)

def execSecIdentity (r : CmdRef) (outAddr : Nat) (s : State) : Res :=
  .next (runCmd r 0x0601 1 0 (.secIdentity outAddr) s (doSecIdentity r outAddr))

/-- The public key a KIND names: IK, or the key-agreement key of the pairing (R346). -/
def attestKey (kind : Nat) (s : State) : List Octet := pubKey (if kind = 1 then keyIk s.sec else s.pair.agree.getD 0)

/-- The statement of Table 11-9; DEVID is little-endian (R12, R421). -/
def statement (kind challenge : Nat) (s : State) : List Octet :=
  [0x44, 0x58, 0x41, 0x54, 0x01, 0x01, 0x00] ++ octetsLE 1 (lcState s) ++ octetsLE 8 (devIdOf s.sec) ++
    [0x03, 0x02, 0xB0] ++ octetsLE 1 kind ++ sha256 (attestKey kind s) ++ octetsBE 32 challenge ++
    octetsLE 5 (asnNow s) ++ zeros 7

/-- The statement and its deterministic signature r ‖ s under AK (R346). -/
def attestOut (kind challenge : Nat) (s : State) : List Octet :=
  statement kind challenge s ++ ecdsaSign (keyAk s.sec) (sha256 (statement kind challenge s))

def doSecAttest (r : CmdRef) (kind outAddr challenge : Nat) (s : State) : State :=
  checked r (secGate s 0x0602 ++
    [(kind != 1 && kind != 2, stBad, 9, 0x000B),
     (kind == 2 && s.pair.agree.isNone, stBadState, 9, 0),
     (!s.sec.rootOk, stKeyUnavail, 9, 0)])
    (fun s => done r (writeOut outAddr (attestOut kind challenge s) s)) s

def execSecAttest (r : CmdRef) (kind outAddr challenge : Nat) (s : State) : Res :=
  .next (runCmd r 0x0602 1 48 (.secAttest kind outAddr challenge) s (doSecAttest r kind outAddr challenge))

/-! ## Import (R328, R332, R333, R448, R472) -/

inductive Placement where
  | current
  | next
  | retired
  | refused
  deriving DecidableEq, Repr

/-- Table 11-5 for generation `g` and activation ASN `a`; false says that the former CURRENT stays where it is. -/
def placement (s : State) (g a : Nat) : Placement × Bool :=
  let now := asnNow s
  let gc := curGen s
  if !(curSlot s).valid && (a == 0 || a ≤ now) then (.current, false)
  else if (curSlot s).valid && s.sec.sw.isNone && a != 0 && decide (a ≤ now) && g == (gc + 1) % 2 ^ 32 then (.current, true)
  else if (curSlot s).valid && s.sec.sw.isNone && a != 0 && decide (a ≤ now) && (g + 1) % 2 ^ 32 == gc then (.retired, false)
  else if (curSlot s).valid && s.sec.sw.isNone && (a == 0 || decide (now + 2 ≤ a)) && g == (gc + 1) % 2 ^ 32 then
    (.next, false)
  else (.refused, false)

def placeCode : Placement → Nat
  | .refused => 0
  | .current => 1
  | .next => 2
  | .retired => 3

/-- Fill vault slot `i`; the cached keys of the generation that leaves the vault go (R339). -/
def fillVault (i : Nat) (k : KeySlot) (x : SecSt) : SecSt :=
  modSlot i (fun _ => k) (dropGen (x.slots.getD i KeySlot.reset).gen x)

/-- Fill a slot as a placement says (R328, R334, R337): the slot filled and the state after it. -/
def placeAs (w : Placement × Bool) (m g a : Nat) (x : SecSt) : Nat × SecSt :=
  let nx := 1 - x.cur
  let k : KeySlot := ⟨true, false, false, g, a, m⟩
  match w with
  | (.current, false) => (x.cur, { (fcRestart (fillVault x.cur k x)) with fcValid := false })
  | (.current, true) => (nx, { (fcRestart (fillVault nx k (modSlot x.cur (fun o => { o with retired := true }) x))) with cur := nx })
  | (.retired, _) => (nx, fillVault nx { k with retired := true } x)
  | (.next, _) =>
    (nx, { (fillVault nx { k with pending := a != 0 } x) with sw := if a = 0 then x.sw else some a, fcPre := 0 })
  | (.refused, _) => (0, x)

/-- TYPE, STATE, DEVID and GEN of a blob (Table 11-6). -/
def blobTyp (b : List Octet) : Nat := (b.getD 5 0).toNat
def blobState (b : List Octet) : Nat := (b.getD 7 0).toNat
def blobDevid (b : List Octet) : Nat := beOf (slice b 8 8)
def blobGen (b : List Octet) : Nat := beOf (slice b 16 4)
/-- Length, MAGIC, VERSION, TYPE and KIND are right, and EPK is a point on P-256 (R333). -/
def blobForm (b : List Octet) : Bool :=
  b.take 5 == [0x44, 0x58, 0x4B, 0x42, 0x01] && b.getD 6 0 == 0x01 &&
    ((blobTyp b == 1 && b.length == 149 && (pointOf (slice b 24 65)).isSome) || (blobTyp b == 2 && b.length == 84))

/-- The wrapped network master of a blob and whether its tag verifies: under the KEK of the ECDH with IK over octets 0 to 88,
or under DWK over octets 0 to 23 (R333). -/
def unwrap (x : SecSt) (b : List Octet) : List Octet × Bool :=
  if blobTyp b = 1 then
    gcmOpen (keyKek x (ecdh (keyIk x) (pointOf (slice b 24 65))) (slice b 25 32)) (slice b 89 12) (b.take 89) (slice b 101 32)
      (slice b 133 16)
  else gcmOpen (keyDwk x) (slice b 24 12) (b.take 24) (slice b 36 32) (slice b 68 16)
def blobMaster (x : SecSt) (b : List Octet) : Nat := beOf (unwrap x b).1

/-- The checks of R333 in their order, up to the placement. -/
def importChecks (s : State) (b : List Octet) (a outAddr : Nat) : List (Bool × Nat × Nat × Nat) :=
  let replay := s.pair.st == .replay
  [(!blobForm b || (blobTyp b == 2 && outAddr != 0), stBad, 9, 0x000B),
   (blobState b != lcState s || blobDevid b != devIdOf s.sec, stBadState, 9, 0),
   (a != 0 && !s.time.loaded && !replay, stUnlocked, 9, 0),
   (!s.sec.rootOk, stKeyUnavail, 9, 0),
   (!(unwrap s.sec b).2, stAuthFail, 9, 0)]

/-- Octets 0 to 23 of a storage blob (Table 11-6). -/
def storageHead (x : SecSt) (g : Nat) : List Octet :=
  [0x44, 0x58, 0x4B, 0x42, 0x01, 0x02, 0x01] ++ octetsBE 1 (lcIn x) ++ devOct x ++ octetsBE 4 g ++ zeros 4

/-- A storage blob made by the device: sealed under DWK with an IV from the DRBG (R333). -/
def storageBlob (x : SecSt) (g master : Nat) (iv : List Octet) : List Octet :=
  let w := gcmSeal (keyDwk x) iv (storageHead x g) (octetsBE 32 master)
  storageHead x g ++ iv ++ w.1 ++ w.2

/-- The storage blob that a transport blob returns. -/
def blobOut (b : List Octet) (outAddr : Nat) (s : State) : State :=
  if blobTyp b = 1 then
    writeOut outAddr (storageBlob s.sec (blobGen b) (blobMaster s.sec b) (drbg 12 s).1) (drbg 12 s).2
  else s

/-- The KEYRES record of an import (R446, Table 16-2). -/
def keyres (st pl g a : Nat) (s : State) : State := journal (.keyres st pl g a) s

/-- `SEC_KEY_IMPORT` in REPLAY (R472). -/
def importReplay (r : CmdRef) (b : List Octet) (outAddr : Nat) (s : State) : State :=
  let others := s.pair.store.filter (fun e => e.1 != blobGen b)
  if 8 ≤ others.length then refuse r stBadState 9 0 s
  else doneWith r (blobGen b * 256) (blobOut b outAddr { s with pair := { s.pair with
    store := others ++ [(blobGen b, blobMaster s.sec b)] } })

/-- The placement at the end of an import; the standby is passed the master under K_pair (R352). -/
def importPlace (r : CmdRef) (b : List Octet) (a outAddr : Nat) (s : State) : State :=
  let g := blobGen b
  if (placement s g a).1 = .refused then refuse r stBadState 9 0 (keyres stBadState 0 g a s)
  else
    let p := placeAs (placement s g a) (blobMaster s.sec b) g a s.sec
    let u := sendPair 7 g (keyres stOk (placeCode (placement s g a).1) g a { s with sec := p.2 })
    fcStallCheck (doneWith r (p.1 + 128 * b2n (p.1 == p.2.cur) + 256 * g) (blobOut b outAddr u))

/-- Each refused import also leaves a KEYRES record of its status. -/
def importRefused (r : CmdRef) (b : List Octet) (a : Nat) :
    List (Bool × Nat × Nat × Nat) → (State → State) → State → State
  | [], f, s => f s
  | (c, st, u, d) :: t, f, s => if c then refuse r st u d (keyres st 0 (blobGen b) a s) else importRefused r b a t f s

def doSecKeyImport (r : CmdRef) (b : List Octet) (outAddr : Nat) (s : State) : State :=
  importRefused r b r.asn (secGate s 0x0603 ++ importChecks s b r.asn outAddr)
    (fun s => if s.pair.st = .replay then importReplay r b outAddr s else importPlace r b r.asn outAddr s) s

def execSecKeyImport (r : CmdRef) (blob : List Octet) (outAddr : Nat) (s : State) : Res :=
  .next (runCmd r 0x0603 1 (24 + blob.length) (.secKeyImport blob outAddr) s (doSecKeyImport r blob outAddr))

/-! ## Switch and clear (R329 to R331) -/

/-- NEXT holds gc + 1, not RETIRED. -/
def nextReady (s : State) : Bool :=
  (curSlot s).valid && (nextSlot s).valid && !(nextSlot s).retired && (nextSlot s).gen == (curGen s + 1) % 2 ^ 32

def schedSwitch (r : CmdRef) (n : Nat) (s : State) : State :=
  withSec (fun x => { (modSlot (1 - x.cur) (fun k => { k with pending := true, act := n }) x) with
    sw := some n
    swRef := some r
    fcPre := 0 }) s

def doSecKeygenSwitch (r : CmdRef) (s : State) : State :=
  checked r (secGate s 0x0604 ++
    [(!s.time.loaded, stUnlocked, 9, 0),
     (tooSoon s r.asn, stBad, 9, 0x000B),
     (!nextReady s || s.sec.sw.isSome, stBadState, 9, 0)])
    (fun s => schedSwitch r (namedAsn s r.asn) s) s

def execSecKeygenSwitch (r : CmdRef) (s : State) : Res := .next (runCmd r 0x0604 1 0 .secKeygenSwitch s (doSecKeygenSwitch r))

/-- `KEYGEN_SWITCH_TAKE` (R329, R330). -/
def execKeygenSwitchTake (s : State) : Res := .next (coreOnly s (fcStallCheck (switchIfDue (asnNow s) s)))

def doSecKeyClear (r : CmdRef) (s : State) : State :=
  checked r (secGate s 0x0605 ++ [(s.sec.sw.isSome, stBadState, 9, 0)])
    (fun s => done r (withSec (fun x => fillVault (1 - x.cur) KeySlot.reset x) s)) s

def execSecKeyClear (r : CmdRef) (s : State) : Res := .next (runCmd r 0x0605 1 0 .secKeyClear s (doSecKeyClear r))

/-! ## The frame counter (R335, R337) -/

/-- `SEC_FC_ACK`: GEN is CURRENT's and the block is one the device has reserved (DEDUCED, log entry 60). -/
def doSecFcAck (r : CmdRef) (gen block : Nat) (s : State) : State :=
  checked r (secGate s 0x0606 ++
    [(!(curSlot s).valid || gen != curGen s || decide (s.sec.fcRes < block), stBadState, 9, 0)])
    (fun s => done r (fcStallCheck (withSec (fun x => { x with fcAck := max x.fcAck block }) s))) s

def execSecFcAck (r : CmdRef) (gen block : Nat) (s : State) : Res :=
  .next (runCmd r 0x0606 1 0 (.secFcAck gen block) s (doSecFcAck r gen block))

def doSecFcRestore (r : CmdRef) (gen block : Nat) (s : State) : State :=
  checked r (secGate s 0x0607 ++
    [(decide (4095 < block), stBad, 9, 0x000B),
     (!(curSlot s).valid || gen != curGen s || (s.sec.fcValid && decide (block ≤ s.sec.fcNext / 2 ^ 20)),
       stBadState, 9, 0)])
    (fun s => done r (fcStallCheck (fcLowCheck (withSec (fun x => { x with
      fcNext := block * 2 ^ 20
      fcAck := block
      fcRes := block
      fcValid := true }) s)))) s

def execSecFcRestore (r : CmdRef) (gen block : Nat) (s : State) : Res :=
  .next (runCmd r 0x0607 1 0 (.secFcRestore gen block) s (doSecFcRestore r gen block))

/-! ## Life-cycle advance, tamper acknowledgement, fuses, patch -/

/-- The targets of Table 11-2. -/
def mayAdvance (st target : Nat) : Bool :=
  (target == 4 && decide (st < 4)) || (decide (st < 3) && target == st + 1)

/-- R320: keys are zeroised, the pair's fuses blown, the new root loaded. A switch that was pending has lost its slots, so
its command completes `BAD_STATE` (log entry 61). -/
def advance (target : Nat) (second : Bool) (s : State) : State :=
  let t := match s.sec.swRef with
    | some q => refuse q stBadState 9 0 s
    | none => s
  withSec (fun x => { zeroKeys x with
    lc := blow x.lc target second
    rootOk := rootHere x target }) t

/-- An RMA token (R322): 129 octets, Q with the fused hash, and a signature under Q over SHA-256(DEVID ‖ RMANONCE). -/
def tokenOk (s : State) (t : List Octet) : Bool :=
  t.length == 129 && sha256 (t.take 65) == octetsBE 32 (fuseField s.sec 34 37 Config.rmaPkh) &&
    ecdsaVerify (pointOf (t.take 65)) (sha256 (devOct s.sec ++ rmaNonceOct s)) (t.drop 65)

def doSecLcAdvance (r : CmdRef) (target : Nat) (token : List Octet) (secondOk : Bool) (s : State) : State :=
  checked r (secGate s 0x0608 ++
    [(!mayAdvance (lcState s) target, stBad, 9, 0x000B),
     (!allInactive s || !s.sec.vfuseOk, stBadState, 9, 0),
     (target == 3 && !tokenOk s token, stAuthFail, 9, 0)])
    (fun s => done r (fcStallCheck (advance target secondOk s))) s

def execSecLcAdvance (r : CmdRef) (target : Nat) (token : List Octet) (secondOk : Bool) (s : State) : Res :=
  .next (runCmd r 0x0608 1 (if target = 3 then 129 else 0) (.secLcAdvance target token secondOk) s (doSecLcAdvance r target token secondOk))

/-- The tamper sources enabled (R348), in the bit positions of Table 11-14. -/
def tampEnabled (s : State) (i : Nat) : Bool := s.regB 0xC0040 i || bitOf (ownerTampOf s.sec) i

/-- Every enabled source was quiet for the previous second (R350). -/
def tampQuiet (s : State) : Bool :=
  s.sec.alarmAt.all (fun a => !tampEnabled s a.1 || decide (a.2 + 1_000_000_000 ≤ s.time.tb))

/-- The source of bit `b` shows its alarm condition now (R350). -/
def tampNow (s : State) (b : Nat) : Bool := s.sec.alarmAt.any (fun a => a.1 == b && decide (s.time.tb < a.2))

def doSecTamperAck (r : CmdRef) (s : State) : State :=
  if !tampQuiet s then refuse r stBusy 9 0 s
  else done r (withSec (fun x => { x with
    tlock := false
    rootOk := if x.tlock then rootHere x (lcState s) else x.rootOk }) s)

def execSecTamperAck (r : CmdRef) (s : State) : Res := .next (runCmd r 0x0609 1 0 .secTamperAck s (doSecTamperAck r))

/-- The bits of a fuse field that a failed programming leaves blown: any of those asked for (R423). -/
def blownPart (ok : Bool) (v : Nat) (s : State) : Nat := if ok then v else v &&& freshAt s

def doSecFuseWrite (r : CmdRef) (field value : Nat) (readBackOk : Bool) (s : State) : State :=
  checked r (secGate s 0x060A ++
    [(decide (1 < field), stBad, 9, 0x000B),
     ((if field = 0 then s.sec.ownerId else s.sec.ownerTamp) != 0 || !s.sec.vfuseOk, stBadState, 9, 0)])
    (fun s =>
      let t := useFresh 1 (withSec (fun x => { x with
        ownerId := if field = 0 then blownPart readBackOk (value % 2 ^ 64) s else x.ownerId
        ownerTamp := if field = 1 then blownPart readBackOk (value % 2 ^ 16) s else x.ownerTamp }) s)
      if readBackOk then done r t else refuse r stInternal 9 0 t) s

def execSecFuseWrite (r : CmdRef) (field value : Nat) (readBackOk : Bool) (s : State) : Res :=
  .next (runCmd r 0x060A 1 0 (.secFuseWrite field value readBackOk) s (doSecFuseWrite r field value readBackOk))

/-- A ROM patch's MAGIC, base revision and lengths (R351). -/
def patchForm (p : List Octet) : Bool :=
  p.take 4 == [0x44, 0x58, 0x50, 0x54] && leOf (slice p 4 2) == 0x0302 && decide (149 ≤ p.length) &&
    decide (p.length ≤ 65536) && p.length == 148 + leOf (slice p 8 4)
/-- Its key is the fused one and its signature verifies over everything before it. -/
def patchOk (s : State) (p : List Octet) : Bool :=
  sha256 (slice p 16 65) == octetsBE 32 (fuseField s.sec 38 41 Config.patchPkh) &&
    ecdsaVerify (pointOf (slice p 16 65)) (sha256 (p.take (p.length - 64))) (p.drop (p.length - 64))

def doRomPatchLoad (r : CmdRef) (p : List Octet) (s : State) : State :=
  checked r (secGate s 0x060B ++ [(!patchForm p, stBad, 9, 0x000B), (!patchOk s p, stAuthFail, 9, 0)])
    (fun s => done r (withSec (fun x => { x with
      romRev := leOf (slice p 6 2)
      patchMask := (p.getD 12 0).toNat % 16 }) s)) s

def execRomPatchLoad (r : CmdRef) (p : List Octet) (s : State) : Res :=
  .next (runCmd r 0x060B 1 p.length (.romPatchLoad p) s (doRomPatchLoad r p))

/-! ## Cipher engine 3 (R340 to R344, R424, R425) -/

/-- The limits of R342 on AAD and input. -/
def cipherLimits (mode : Nat) : Nat × Nat :=
  match mode with
  | 0 => (2047, 2047)
  | 1 => (65536, 2 ^ 26)
  | _ => (2 ^ 32, 2 ^ 26)

/-- The values of Table 11-8 and the combinations of R342. -/
def cipherForm (a : CipherArgs) : Bool :=
  decide (a.mode < 4) && decide (a.dir < 2) && decide (a.ksrc < 4) && decide (a.gensel < 2) &&
    (if a.ksrc = 0 then a.keyLen == 16 || a.keyLen == 32 else a.keyLen == 0) &&
    (match a.mode with
      | 0 => a.tagLen == 4 || a.tagLen == 8 || a.tagLen == 16
      | 1 => a.tagLen == 16
      | 2 => a.tagLen == 16
      | _ => true) &&
    (match a.ksrc with
      | 0 => true
      | 3 => a.mode == 1 && a.dir == 1
      | _ => a.mode == 0 && a.dir == 1)

/-- The vault slot GENSEL selects; an IMAGE key is always CURRENT's (Table 11-3). -/
def cipherSlot (s : State) (a : CipherArgs) : KeySlot := if a.gensel = 0 ∨ a.ksrc = 3 then curSlot s else nextSlot s

/-- The derived key of a NODE or BCAST operation. -/
def cipherKey (s : State) (a : CipherArgs) : Option KeyId :=
  match a.ksrc, nodeAt s a.karg with
  | 1, some n => some ((cipherSlot s a).node n.eui n.vref)
  | 2, _ => some ((cipherSlot s a).bcast (a.karg % 65536))
  | _, _ => none

/-- A decryption that streams (R344). -/
def cipherStreams (a : CipherArgs) : Bool := a.mode == 1 && a.dir == 1 && decide (4096 < a.inLen)

/-- The octets of the key that a source names, bound at admission (R341, Table 11-3). -/
def cipherKeyOct (s : State) (a : CipherArgs) : List Octet :=
  match a.ksrc, cipherKey s a with
  | 0, _ => a.key
  | 3, _ => keyImg (curSlot s).master (curGen s) (a.karg % 65536)
  | _, some k => keyOct k
  | _, none => []

/-- A HOST key passes to the standby under K_pair; a standby takes the one that came (R425). -/
def hostKey (a : CipherArgs) (s : State) : State :=
  if a.ksrc ≠ 0 then s
  else if s.pair.exec then { s with pair := { s.pair with hostKeys := s.pair.hostKeys.drop 1 } }
  else sendPair 8 0 s

/-- Admit the operation to engine 3; one that finds the request FIFO full waits behind it (R366). -/
def startCipher (r : CmdRef) (a : CipherArgs) (s : State) : State :=
  let t := match cipherKey s a with
    | some k => useKey k s
    | none => s
  let key := if a.ksrc = 0 ∧ s.pair.exec = true then s.pair.hostKeys.headD [] else cipherKeyOct s a
  withSec (fun x => { x with ops := x.ops ++ [⟨r, a, cipherStreams a, key⟩] }) (hostKey a t)

def doSecCipher (r : CmdRef) (a : CipherArgs) (s : State) : State :=
  checked r ([(lcState s == 4 && a.ksrc != 0, stBadState, 9, 0), (s.sec.tlock, stTamper, 9, 0),
     (!cipherForm a, stBad, 9, 0x000B),
     (a.ksrc == 1 && (nodeAt s a.karg).isNone, stNoNode, 9, 0),
     (if a.ksrc = 0 then s.pair.st == .replay || s.pair.rpNext.isSome else !(s.sec.rootOk && (cipherSlot s a).valid), stKeyUnavail, 9, 0),
     (decide ((cipherLimits a.mode).1 < a.aadLen) || decide ((cipherLimits a.mode).2 < a.inLen), stLen, 9, 0)])
    (startCipher r a) s

def execSecCipher (r : CmdRef) (a : CipherArgs) (s : State) : Res :=
  .next (runCmd r 0x0610 (if cipherStreams a then 2 else 1)
    (64 + min a.aadLen (cipherLimits a.mode).1 + min a.inLen (cipherLimits a.mode).2) (.secCipher a) s (doSecCipher r a))

/-- The tag decides the end of the operation: decryption under CCM* or GCM, verification under CMAC. -/
def cipherChecks (a : CipherArgs) : Bool := a.dir == 1 && a.mode != 3

/-- The result of an operation (FIPS 197, SP 800-38): output octets, tag, and whether the tag it was given verifies. -/
def cipherRun (q : CipherOp) : List Octet × List Octet × Bool :=
  let a := q.args
  match a.mode, a.dir with
  | 0, 0 => ((ccmSeal q.key a.nonce a.aad a.input a.tagLen).1, (ccmSeal q.key a.nonce a.aad a.input a.tagLen).2, true)
  | 0, _ => ((ccmOpen q.key a.nonce a.aad a.input a.tag).getD [], [], (ccmOpen q.key a.nonce a.aad a.input a.tag).isSome)
  | 1, 0 => ((gcmSeal q.key a.nonce a.aad a.input).1, (gcmSeal q.key a.nonce a.aad a.input).2, true)
  | 1, _ => ((gcmOpen q.key a.nonce a.aad a.input a.tag).1, [], (gcmOpen q.key a.nonce a.aad a.input a.tag).2)
  | 2, 0 => ([], cmac q.key a.input, true)
  | 2, _ => ([], [], cmac q.key a.input == a.tag)
  | _, _ => (aesCtr q.key a.nonce a.input, [], true)

/-- The tag an encryption or a generation writes. -/
def tagOut (q : CipherOp) (s : State) : State :=
  if q.args.dir = 0 ∧ q.args.mode ≠ 3 then writeAlso q.args.tagAddr (cipherRun q).2.1 s else s

/-- What the operation writes to host memory (R343, R344): the output and the tag, zeros where a failed streaming output is
scrubbed, nothing where a held plaintext fails. -/
def cipherWrites (q : CipherOp) (s : State) : State :=
  let x := cipherRun q
  if s.pair.follows then s
  else if q.args.mode = 2 then tagOut q { s with hif := { s.hif with outBuf := [] } }
  else if x.2.2 then tagOut q (writeOut q.args.outAddr x.1 s)
  else if q.stream then writeOut q.args.outAddr (if s.regB 0xC0058 0 then zeros q.args.inLen else x.1) s
  else s

/-- The end of the operation at the head of engine 3; a write that fails on the bus ends it with INTERNAL_ERROR (R410). -/
def endCipher (q : CipherOp) (s : State) : State :=
  let t := if q.stream then post q.ref stUntrusted 9 0 0 s else s
  let u := if q.args.outOk then cipherWrites q t else t
  let v := withSec (fun x => { x with ops := x.ops.drop 1 }) u
  if !q.args.outOk then refuse q.ref stInternal 11 5 v
  else if (cipherRun q).2.2 then done q.ref v else refuse q.ref stAuthFail 9 0 v

/-- `CIPHER_OPERATION_DONE` (R340, R344): engine 3 completes its oldest `SEC_CIPHER`, which is `r`. The results of engines 0 to 2 return
through the reorder buffer with the frame that needed them, at that frame's own admission or preparation (R36). -/
def execCipherOperationDone (engine : Nat) (r : CmdRef) (s : State) : Res :=
  .next (match s.sec.ops with
    | q :: _ => if engine = 3 ∧ q.ref = r ∧ s.up = true then endCipher q s else s
    | [] => s)

end Sys2Proof.Machine
end

