-- ==== Sys2Proof/Machine/RegWrite.lean ====
section
/-! DEFINITION. Writes of registers over BAR0 (R15 to R17, R525 to R529): the stored bits, the rules that discard a write, and
what a write sets off. -/
namespace Sys2Proof.Machine

/-! ## Discarded writes -/

/-- A template register (Table 07-1). -/
def isTemplate (a : Nat) : Bool := 0x90008 ≤ a && a ≤ 0x90018
/-- A word of `SCH_HGROUP`. -/
def isHgroup (a : Nat) : Bool := 0x92140 ≤ a && a < 0x92180
/-- `SCH_HGROUP` may not change (R249). -/
def groupHeld (s : State) : Bool :=
  hctlMode s != 0 || s.tbl.nodes.any (fun n => decide (17 ≤ n.herd.map) && decide (n.herd.map ≤ 30))

/-- The ring whose registers, CTL apart, hold address `a` (R380). -/
def ringOfReg (a : Nat) : Option RingSel :=
  if 0xE0100 ≤ a ∧ a < 0xE0300 ∧ a % 32 < 16 then some (.cmd ((a - 0xE0100) / 32))
  else if 0xE0400 ≤ a ∧ a < 0xE0600 ∧ a % 32 < 16 then some (.cpl ((a - 0xE0400) / 32))
  else if 0xE0600 ≤ a ∧ a < 0xE0740 ∧ (a % 32 < 16 ∨ a % 32 = 20) then some (.dlv ((a - 0xE0600) / 32))
  else none

def ringHeld (s : State) (a : Nat) : Bool :=
  match ringOfReg a with
  | some r => ringEn s (RingSel.ctl r)
  | none => false

/-- Outside TEST, a write that would clear CLK_EN, TEMP_EN or VOLT_EN is ignored (R354). -/
def tampHeld (s : State) (a : Nat) (v : Word) : Bool :=
  a == 0xC0040 && lcState s != 0 && (s.reg a &&& 0x7000 &&& ~~~v) != 0

/-! ## The stored word -/

/-- What a write of `v` leaves of a word `old` in a register of row `r`: bits set, and bits cleared by writing 1. -/
def written (r : RegRow) (old v : Word) : Word :=
  ((old &&& ~~~(BitVec.ofNat 32 r.mask)) ||| (v &&& BitVec.ofNat 32 r.mask)) &&& ~~~(v &&& BitVec.ofNat 32 r.w1c)

/-! ## What a write sets off -/

/-- A source that `TIME_SRCPRI` no longer names: after its loss of qualification it has no previous reference (R58). -/
def SrcSt.unnamed (y : SrcSt) : SrcSt :=
  { y with qualified := false, okRun := 0, prev := if y.qualified then none else y.prev }

/-- Sources whose code `TIME_SRCPRI` no longer names lose their qualification (DEDUCED, log entry 30). -/
def srcPriHook (s : State) : State :=
  let keep := fun c => (srcPrio s).contains c
  let t := withTime (fun x => { x with
    srcs := (List.range 4).map (fun i =>
      let y := x.srcs.getD i SrcSt.reset
      if keep (i + 1) then y else y.unnamed)
    peers := if keep 4 then x.peers else x.peers.map SrcSt.unnamed }) s
  if t.time.st = .locked then t else reselect t

/-- An input that is enabled has no previous reference to be compared with (R58). -/
def SrcSt.afresh (x : SrcSt) : SrcSt := { x with prev := none }

/-- EN of `TIME_PPSCTL` rises: the port starts afresh (log entry 31). -/
def ppsHook (rise : Bool) (s : State) : State :=
  if rise then withTime (fun x => { x with
    srcs := modAt 2 SrcSt.afresh x.srcs
    pps := { x.pps with
      enabledAt := x.tb
      lastActive := none
      missing := 0
      pulse := none
      todFor := none
      tod := []
      prevGood := none } }) s
  else s

/-- EN of a PTP port or of an air peer rises. -/
def ptpEnHook (i : Nat) (rise : Bool) (s : State) : State :=
  if rise then withTime (fun x => { x with srcs := modAt i SrcSt.afresh x.srcs }) s else s
def peerEnHook (i : Nat) (rise : Bool) (s : State) : State :=
  if rise then withTime (fun x => { x with peers := modAt i SrcSt.afresh x.peers }) s else s

/-- Every write of REQ_POL loads the polarity latch (R514). While EN is 0 both outputs are inactive (R113). -/
def coexHook (v : Word) (s : State) : State :=
  let on := v.getLsbD 0
  let t := withRf (fun r => { r with
    polLatch := v.getLsbD 2
    polSet := true
    coexReq := r.coexReq && on
    coexPri := r.coexPri && on }) s
  { t with tx := { t.tx with txs := t.tx.txs.map (fun x => { x with asked := x.asked && on }) } }

/-- The QFLOW pins follow a new selection or MINHOLD (R371). -/
def qflowHook (s : State) : State :=
  { s with que := { s.que with qflow :=
      [qflowNext s s.que.above 0 (s.que.qflow.getD 0 ⟨false, 0⟩), qflowNext s s.que.above 1 (s.que.qflow.getD 1 ⟨false, 0⟩)] } }

/-- A write to MODE or AN while EN is 1 takes the port down to retrain (R431). -/
def ethHook (p : Nat) (old v : Word) (s : State) : State :=
  let retrain := old.getLsbD 31 && v.getLsbD 31 && ((old ^^^ v) &&& 0x0301_0000) != 0
  ethEval p (if retrain then ethEval p (modEth p (fun x => { x with lock := false, anDone := false }) s) else s)

/-- Unmasking a vector sends its pending message. -/
def msixHook (v : Nat) (s : State) : State :=
  if s.hif.pba.contains v && !s.regB (0xE800C + 16 * v) 0 then
    sendMsi v { s with hif := { s.hif with pba := s.hif.pba.filter (· != v) } }
  else s

def regHook (a : Nat) (old v : Word) (s : State) : State :=
  if a = 0x30004 then srcPriHook s
  else if a = 0x30020 then ppsHook (!old.getLsbD 0 && v.getLsbD 0) s
  else if a = 0x30090 ∨ a = 0x30094 then ptpEnHook ((a - 0x30090) / 4) (!old.getLsbD 31 && v.getLsbD 31) s
  else if 0x3010C ≤ a ∧ a ≤ 0x3013C ∧ a % 16 = 12 then peerEnHook ((a - 0x3010C) / 16) (!old.getLsbD 31 && v.getLsbD 31) s
  else if a = 0x50020 then coexHook v s
  else if a = 0xD0060 ∨ (0xD0068 ≤ a ∧ a ≤ 0xD0074) then qflowHook s
  else if a = 0xF0000 then ethHook 0 old v s
  else if a = 0x100000 then ethHook 1 old v s
  else if 0xE8000 ≤ a ∧ a < 0xE8400 ∧ a % 16 = 12 then msixHook ((a - 0xE8000) / 16) s
  else s

/-- Store a write to a register and let it take effect. -/
def storeReg (r : RegRow) (a : Nat) (v : Word) (s : State) : State :=
  let old := s.reg a
  let w := written r old v
  regHook a old w (s.setReg a w)

/-- A write to a register of row `r`, once it is known to be well formed. -/
def writeRow (r : RegRow) (a : Nat) (v : Word) (s : State) : State :=
  if isTemplate a && !allInactive s then { s with sch := { s.sch with tmplDrop := true } }
  else if isHgroup a && groupHeld s then { s with herd := { s.herd with grpDrop := true } }
  else if ringHeld s a then cfgErr s
  else if tampHeld s a v then s
  else storeReg r a v s

/-- A restart of the offline subsystems named in `v` (R490): Collie's open 6P transactions close as failed, Mastiff's key
cache is zeroised; service resumes at the next boundary. -/
def restartUnits (v : Nat) (s : State) : State :=
  let us := s.err.offline.filter (fun u => bitOf v u && !s.err.restarting.contains u)
  let t := { s with
    err := { s.err with restarting := s.err.restarting ++ us }
    sec := { s.sec with cache := if us.contains 9 then [] else s.sec.cache } }
  if us.contains 5 then closeSixps t else t

/-- `ERR_RESTART_WRITE` (R490). -/
def execErrRestartWrite (value : Word) (s : State) : Res :=
  .next (jwr (fun s => restartUnits value.toNat (journalCfg 0x12000C (value &&& 0x7FFE) s)) s)

end Sys2Proof.Machine
end

