-- ==== Sys2Proof/Machine/Pair.lean ====
section
/-! DEFINITION. Execution of another unit's journal (R457 to R461, R470, R471), which a standby and a unit in REPLAY share; the commands
that it shares with the unit's own. -/
namespace Sys2Proof.Machine

/-- The state a meaning answers; each command of the block answers one. -/
def outOf (s : State) : Res → State
  | .next t => t
  | _ => s

/-! ## Commands that only read, or that belong to the journal ring -/

/-- Where a command stands in the journal: its CMD record's sequence number; free where no journal was written. -/
def cmdSeq (r : CmdRef) (s : State) : Nat := ((admOf s r).bind Adm.jseq).getD (freshAt s)

/-- `CFG_SNAPSHOT_READ` (R412): RESULT is the length needed. -/
def doCfgSnapshotRead (r : CmdRef) (outAddr outLen : Nat) (s : State) : State :=
  let o := snapOctets (cmdSeq r s) s
  if outLen < o.length then complete r stLen 5 o.length 0 (useFresh 1 s)
  else doneWith r o.length (writeOut outAddr o (useFresh 1 s))

/-- `DIAG_NOP` (R428): RESULT is the sequence number of its own admission. -/
def doDiagNop (r : CmdRef) (s : State) : State := doneWith r (cmdSeq r s) (useFresh 1 s)

def doJournalCtl (r : CmdRef) (stream : Bool) (s : State) : State :=
  if stream && !ringEn s (dlvCtl 8) then refuse r stBadState 13 0 s
  else done r { s with jrn := { s.jrn with stream := stream } }

/-- The commands that a unit carries out in the same way whichever unit's journal it executes; the others stand beside their
meanings. -/
def doShared (r : CmdRef) (c : HostCmd) (s : State) : State :=
  match c with
  | .ended st u d => refuse r st u d s
  | .cfgSnapshotRead a n => doCfgSnapshotRead r a n s
  | .timeSetEpoch e l => doTimeSetEpoch r e l s
  | .timeStep step sfh => doTimeStep r step sfh s
  | .timeForce => doTimeForce r s
  | .rfPortSet p t => doRfPortSet r p t s
  | .rfCalibrate p => doRfCalibrate r p s
  | .rfBankApply => doBankApply r s
  | .schedSlotframeSet a => doSlotframeSet r a s
  | .schedCellsWrite k es => doCellsWrite r k es s
  | .herdModeSet m a d l => doHerdModeSet r m a d l s
  | .herdNodeSet a => doHerdNodeSet r a s
  | .herdNodeRead i a => doHerdNodeRead r i a s
  | .nodeInsert a => doNodeInsert r a s
  | .nodeRemove i e => doNodeRemove r i e s
  | .nodeRead b k a => doNodeRead r b k a s
  | .prefixInsert k l v => doPrefixInsert r k l v s
  | .prefixRemove k l => doPrefixRemove r k l s
  | .pktSend p => doPktSend r p s
  | .bcastSend p n f => doBcastSend r p n f s
  | .imgOpen a => doImgOpen r a s
  | .imgLoad k o d => doImgLoad r k o d s
  | .imgSend k b e n => doImgSend r k b e n s
  | .imgClose k => doImgClose r k s
  | .secIdentity a => doSecIdentity r a s
  | .secAttest k a x => doSecAttest r k a x s
  | .secKeyImport b a => doSecKeyImport r b a s
  | .secKeygenSwitch => doSecKeygenSwitch r s
  | .secKeyClear => doSecKeyClear r s
  | .secFcAck g b => doSecFcAck r g b s
  | .secFcRestore g b => doSecFcRestore r g b s
  | .secLcAdvance t k b => doSecLcAdvance r t k b s
  | .secTamperAck => doSecTamperAck r s
  | .secFuseWrite f v b => doSecFuseWrite r f v b s
  | .romPatchLoad p => doRomPatchLoad r p s
  | .secCipher a => doSecCipher r a s
  | .journalCtl b => doJournalCtl r b s
  | .diagNop => doDiagNop r s
  | _ => s

/-! ## Snapshots (R457, R470) -/

/-- Masters of the slots, from those held (R352, R472). -/
def withMaster (l : List (Nat × Nat)) (k : KeySlot) : KeySlot :=
  { k with master := ((l.find? (fun e => e.1 == k.gen)).map Prod.snd).getD k.master }

/-- Keep the entry of ring 15, which is each unit's own (R461). -/
def keep15 {α : Type} (own l : List α) : List α := l.take 15 ++ own.drop 15

/-- A command ring takes its position from the snapshot; the producer index latched here stays (R461). -/
def ringTaken (own x : CRing) : CRing := { x with pi := own.pi, held := [] }

/-- A completion ring number that holds no slot here: a command of the journaling unit's own ring. -/
def noRing : Nat := 99

/-- The reference under which a journaled command is held (R461): a mirrored ring's own, another number for ring 15 of the
other unit and for every ring in a replay, whose completions are written nowhere. -/
def mirrorRef (replay : Bool) (ring dindex : Nat) (tag : Word) (asn : Nat) : CmdRef :=
  ⟨if replay ∨ ring = 15 then ring + 16 else ring, dindex, tag, asn⟩

def mirrorAdm (replay : Bool) (a : Adm) : Adm :=
  let r := mirrorRef replay a.ref.ring a.ref.dindex a.ref.tag a.ref.asn
  { a with ref := r, cpl := if 16 ≤ r.ring then some noRing else a.cpl }

/-- Records produced per ring. -/
def seqIn (i : Nat) (seqs : List Nat) : List DRing → List DRing
  | [] => []
  | x :: t => { x with seq := seqs.getD i x.seq } :: seqIn (i + 1) seqs t

/-- Take one section of a snapshot: the unit's own pins, fuses, engines and EGRESS pool stay. -/
def takePart (replay : Bool) (s : State) (p : CorePart) : State :=
  match p with
  | .regs l act => { s with
      regs := putWords l (s.regs.filter (fun x => !inSnapshot x.1))
      active := putWords act [] }
  | .nodes l => { s with tbl := { s.tbl with nodes := l } }
  | .sched x => { s with sch := x }
  | .pools free used frames bulk txs parts next air => { s with
      que := { s.que with
        free := free ++ s.que.free.drop 4
        used := used ++ s.que.used.filter (inPool s 4) }
      tx := { s.tx with
        frames := frames
        bulk := bulk
        txs := txs
        parts := parts
        next := next
        air := air } }
  | .adapt a => { s with adp := a }
  | .prefixes l => { s with tbl := { s.tbl with pfx := l } }
  | .procs h t pos asn ln at_ => { s with
      herd := h
      time := { t with
        tb := s.time.tb
        sub := s.time.sub
        pps := s.time.pps
        ptp := s.time.ptp }
      tbl := { s.tbl with
        agePos := pos
        ageAsn := asn
        learned := ln
        learnAt := at_ } }
  | .sec slots cur sw next pre res ack ok low _ => { s with sec := { s.sec with
      slots := slots.map (withMaster (if replay then s.pair.store else s.pair.masters))
      cur := cur
      sw := sw
      fcNext := next
      fcPre := pre
      fcRes := res
      fcAck := ack
      fcValid := ok
      fcLow := low } }
  | .airtime l => { s with tx := { s.tx with charges := l } }
  | .rings seed drawn cr cp seqs adm => { s with
      jrn := { s.jrn with
        seed := seed
        drawn := drawn }
      hif := { s.hif with
        cring := if replay then s.hif.cring else keep15 s.hif.cring (List.zipWith ringTaken s.hif.cring cr)
        cpl := if replay then s.hif.cpl else keep15 s.hif.cpl cp
        dring := if replay then s.hif.dring else seqIn 0 seqs s.hif.dring
        admitted := s.hif.admitted ++ adm.map (mirrorAdm replay) } }

/-- Generations a section names that the store does not hold (R472). -/
def partLacks (store : List (Nat × Nat)) (p : CorePart) : Bool :=
  match p with
  | .sec slots .. => slots.any (fun k => k.valid && !store.any (fun e => e.1 == k.gen))
  | _ => false

/-! ## Commands from the journal (R461) -/

/-- The position of a mirrored command ring after the descriptor at `i`. -/
def ringPast (size i : Nat) (x : CRing) : CRing :=
  let ci := (i % 65536 + 1) % size
  { x with
    ci := ci
    phase := if ci = 0 then !x.phase else x.phase
    pass := if ci = 0 then x.pass + 1 else x.pass
    fetched := x.fetched.drop ((ci + size - x.ci % size) % size)
    shadow := ci }

/-- Take the place of a CMD record of sequence number `seq`: consumer index and completion slots of a mirrored ring. -/
def mirrorAdmit (seq : Nat) (r : CmdRef) (op need : Nat) (s : State) : State :=
  if 16 ≤ r.ring then { s with hif := { s.hif with admitted := s.hif.admitted ++ [⟨r, op, some noRing, s.time.tb, some seq⟩] } }
  else
    let c := boundCpl s r.ring
    let f := ringPast (ringSize s (cringCtl r.ring)) r.dindex
    let t := reserve r op need (some seq) { s with hif := { s.hif with cring := modAt r.ring f s.hif.cring } }
    { t with hif := { t.hif with cpl := modAt c (CplRing.prune (ringSize s (cplCtl c))) t.hif.cpl } }

/-- A named ASN, or the present one for 0. -/
def namedNow (s : State) (a : Nat) : Nat := if a = 0 then asnNow s else a

/-- `RF_PORT_SET` on a unit whose ports rest as R458 says: only the commanded state follows, at the command's ASN. -/
def mirrorPortSet (r : CmdRef) (port target : Nat) (s : State) : State :=
  checked r [(portArgsBad port target, stBad, 4, 0x000B), (needsTime s r.asn, stUnlocked, 4, 0)] (fun s =>
    modPort port (fun y => { y with
      pending := y.pending ++ [(r, portTarget target, namedNow s r.asn)] }) s) s

/-- The port commands whose ASN has come. -/
def mirrorPorts (now : Nat) (s : State) : State :=
  [0, 1, 2, 3, 4, 5].foldl (fun u p =>
    ((portOf u p).pending.filter (fun x => decide (x.2.2 ≤ now))).foldl (fun v x =>
      done x.1 (modPort p (fun y => { y with
        pending := y.pending.filter (fun z => z != x)
        cmd := x.2.1 }) v)) u) s

/-- `RF_CALIBRATE` waits for the CAL record of its port; the checks on the ports are the journaling unit's. -/
def mirrorCalibrate (r : CmdRef) (port : Nat) (s : State) : State :=
  checked r [(decide (6 < port), stBad, 4, 0x000B), (needsTime s r.asn, stUnlocked, 4, 0)] (fun s =>
    if port = 6 then withRf (fun x => { x with spllPend := some (r, 0) }) s
    else modPort port (fun y => { y with calPend := some (r, 0) }) s) s

/-- `SWAP_DRILL` as the journaling unit checks it, its standby apart. -/
def mirrorDrill (r : CmdRef) (sfh : Nat) (s : State) : State :=
  checked r [(s.pair.drill.isSome, stPairNot, 13, 0), (decide (63 < sfh) || (sfActive s sfh).isNone, stBad, 13, 0x000B)]
    (fun s => { s with pair := { s.pair with drill := some (r, sfh, r.asn) } }) s

/-- Run a journaled command, already admitted as `r`. The pair's own commands end as they do on a unit that serves; a `PAIR_JOIN` of a
unit that serves alone completes with its join. -/
def runHost (replay : Bool) (r : CmdRef) (c : HostCmd) (s : State) : State :=
  match c with
  | .rfPortSet p t => mirrorPortSet r p t s
  | .rfCalibrate p => mirrorCalibrate r p s
  | .secKeyImport .. => s
  | .secTamperAck => done r s
  | .pwrEnter .. => done r s
  | .pairJoin role => if 1 < role then refuse r stBad 13 0x000B s else if replay then s else refuse r stBadState 13 0 s
  | .pairTakeover => refuse r stPairNot 13 0 s
  | .swapDrill k => mirrorDrill r k s
  | .pairSolo => refuse r stBadState 13 0 s
  | .journalDump => done r s
  | .replayEnter => refuse r stBadState 13 0 s
  | .replayFeed _ => refuse r stPairNot 13 0 s
  | .diagIqSnapshot .. => done r s
  | c => doShared r c s

/-- Completion slots that a journaled command takes (R391). -/
def needOf (c : HostCmd) : Nat :=
  match c with
  | .secCipher a => if cipherStreams a then 2 else 1
  | _ => 1

/-! ## The other records -/

/-- The transmission that a TXOUT record names. -/
def txoutFor (s : State) (port entry asn sfh node : Nat) : Option Tx :=
  s.tx.txs.find? (fun t => t.port == port && t.entry == entry && t.asn == asn && t.sfh == sfh && t.node == node)

/-- A CAL record: an SLCK ratio, or the end of a calibration run (R83, R102). -/
def calRecord (port : Nat) (ok : Bool) (ratio unc : Nat) (s : State) : State :=
  let st := if ok then stOk else stCalFail
  if port = 7 then withTime (fun x => { x with
    ratio := ratio
    ratios := (ratio :: x.ratios).take 16
    slckUnc := unc }) s
  else if port = 6 then
    match s.rf.spllPend with
    | some (r, _) => complete r st 4 port 0 (withRf (fun x => { x with spllPend := none }) s)
    | none => s
  else match (portOf s port).calPend with
    | some (r, _) => complete r st 4 port 0 (modPort port (fun y => { y with calPend := none }) s)
    | none => s

/-- The placement a KEYRES record names. -/
def placementOf (s : State) (pl : Nat) : Placement × Bool :=
  match pl with
  | 1 => (.current, (curSlot s).valid)
  | 2 => (.next, false)
  | 3 => (.retired, false)
  | _ => (.refused, false)

/-- A KEYRES record (R448): the master of its GEN is placed as it states, and the import it follows completes. -/
def keyRecord (masters : List (Nat × Nat)) (st pl gen act : Nat) (s : State) : State :=
  let m := ((masters.find? (fun e => e.1 == gen)).map Prod.snd).getD (freshAt s)
  let p := placeAs (placementOf s pl) m gen act s.sec
  let t := if st = stOk then fcStallCheck (useFresh 1 { s with sec := p.2 }) else s
  match s.hif.admitted.find? (fun a => a.opcode == 0x0603 && a.ref.ring != 15) with
  | some a =>
    complete a.ref st 9 (if st = stOk then p.1 + 128 * b2n (p.1 == p.2.cur) + 256 * gen else 0) (if st = stBad then 0x000B else 0) t
  | none => t

/-- A CFG record (R44, R527). -/
def cfgRecord (a : Nat) (v : Word) (s : State) : State :=
  if a = 0x92000 then setHctl v s
  else if a = 0x12000C then restartUnits v.toNat s
  else match regRow a with
    | some r =>
      if 0xE0110 ≤ a ∧ a < 0xE0310 ∧ a % 32 = 16 then ringCtlWrite (.cmd ((a - 0xE0110) / 32)) v s
      else if 0xE0408 ≤ a ∧ a < 0xE0600 ∧ a % 32 = 8 then ringCtlWrite (.cpl ((a - 0xE0408) / 32)) v s
      else if 0xE0610 ≤ a ∧ a < 0xE0750 ∧ a % 32 = 16 then ringCtlWrite (.dlv ((a - 0xE0610) / 32)) v s
      else writeRow r a v s
    | none => s

/-- Transmissions that end, and ACK windows that close, by the present boundary. -/
def endCarriers (s : State) : State :=
  let t := (s.tx.txs.filter (fun t => t.phase == .onAir && decide (t.endAt ≤ s.time.tb))).foldl
    (fun u t => outOf u (execTxFrameEnd t.id u)) s
  (t.tx.txs.filter (fun x => x.phase == .ackWait && decide (ackClose t x ≤ s.time.tb))).foldl
    (fun u x => outOf u (execAckWindowClose x.id u)) t

/-- What is due at a boundary by its ASN alone, before the boundary's own work. -/
def dueBefore (n : Nat) (s : State) : State :=
  let t := (List.range 64).foldl (fun u k => sfEffect k n u) (endCarriers s)
  let u := outOf t (execTimeStepExecute t)
  let v := mirrorPorts n (outOf u (execCellsWriteEffect u))
  let w := outOf v (execBankApplyActivate v)
  outOf w (execKeygenSwitchTake w)

/-- And after it. -/
def dueAfter (s : State) : State :=
  let t := outOf s (execImgSendLink s)
  let u := outOf t (execReasmExpire t)
  let idx := u.tbl.nodes.map Node.idx
  let v := idx.foldl (fun x i => outOf x (execNodeSupervisionTimeout i (outOf x (execParentExpire i x)))) u
  let w := idx.foldl (fun x i => outOf x (execDropReadmitCheck i x)) v
  let y := (w.herd.sixp.filter (fun q => match q.ackAt with
    | some a => decide (a + 1_000_000_000 * w.regF 0x92018 23 8 ≤ w.time.tb)
    | none => false)).foldl (fun x q => outOf x (execSixpTimeout q.node x)) w
  outOf y (execAgeingVisit y)

/-- Complete a swap drill whose new active unit has served from B + 1 (R468). -/
def drillServed (n : Nat) (s : State) : State :=
  match s.pair.drill, s.pair.drillB with
  | some (r, _, _), some b =>
    if b < n then done r { s with pair := { s.pair with drill := none, drillB := none } } else s
  | _, _ => s

/-- SLOT record `j`: the digest of the slot that ends, what is due, and the work of the boundary (R450, R451, R458). -/
def slotRecord (j : JRec) (keyed : Bool) (s : State) : State :=
  let t := withTime (fun x => { x with lastAsn := some j.asn }) { s with
    pair := { s.pair with own := s.pair.own ++ (slotEnded s).toList }
    jrn := { s.jrn with
      keyed := keyed
      key := if !keyed then [] else if s.jrn.key.isEmpty then sealKey s s.jrn.id else s.jrn.key } }
  let u := slotStart t
  let v := { u with jrn := { u.jrn with slotRecs := [j] } }
  dueAfter (boundaryWork j.asn (dueBefore j.asn (drillServed j.asn v)))

/-- Virtual time: the instant of a record's stamps (R458, R471). -/
def atStamp (j : JRec) (s : State) : State :=
  if s.time.loaded && s.time.epochSet then withTime (fun x => { x with tb := x.at_ j.asn + j.ofs, sub := 0 }) s else s

/-- What record `j` does on a unit that did not write it. A reference by air has acted with the FRAME record before it (log entry
90). -/
def recordBody (replay : Bool) (j : JRec) (s : State) : State :=
  match j.body with
  | .opn jid _ _ _ gen => { s with jrn := { s.jrn with
      id := jid
      keyed := gen.isSome
      key := if gen.isSome then sealKey s jid else []
      slotRecs := []
      isOpen := true
      started := true } }
  | .slot keyed _ => slotRecord j keyed s
  | .digest .. => s
  | .tsrc c o _ off _ => if c = 4 ∧ o ≠ 1 then s else sourceOutcome c ((followed s).getD 0) o off s
  | .txout p o h e a k n =>
    match txoutFor s p e a k n with
    | some t => outcomeIn t o h s
    | none => s
  | .clock _ => s
  | .cal p _ ok _ _ ratio unc => calRecord p ok ratio unc s
  | .seed v => { s with jrn := reseed v s.jrn }
  | .pairpt .. => s
  | .close _ => { s with jrn := { s.jrn with isOpen := false, owed := [] } }
  | .frame m f => admitFrame m f s
  | .rxsum rs => admitSummary rs s
  | .ethin p k up mode f => if k = 2 then event 0x0C01 [p, up, mode] s else ethItem p (k == 1) f s
  | .cmd ring di op tag asn _ c => runHost replay (mirrorRef replay ring di tag asn) c (mirrorAdmit j.seq (mirrorRef replay ring di tag asn) op (needOf c) s)
  | .cmdData .. => s
  | .cfg a v => cfgRecord a v s
  | .keyres st pl g a => keyRecord (if replay then s.pair.store else s.pair.masters) st pl g a s
  | .snapHdr .. => s
  | .snapData .. => s

/-- Execute one journal record of another unit: it joins the records of its slot first. -/
def runRecord (replay : Bool) (j : JRec) (s : State) : State :=
  recordBody replay j (if isSlot j then s else { s with jrn := { s.jrn with slotRecs := s.jrn.slotRecs ++ [j] } })

/-- Execute records as the core work of this unit, on virtual time and as a unit that follows; the unit's own timebase stands
afterwards. -/
def runRecords (l : List JRec) (s : State) : State :=
  let st := if s.pair.st = .takeover then .standbySynced else s.pair.st
  let t := l.foldl (fun u j => runRecord false j (atStamp j u)) (withPair (fun p => { p with exec := true, st := st }) s)
  withTime (fun x => { x with tb := max x.tb s.time.tb, sub := s.time.sub })
    (withPair (fun p => { p with exec := false, st := s.pair.st }) t)

/-- One record in a replay: executed as a unit that follows, with none of its outputs on this unit's rings (R471). -/
def replayRecord (j : JRec) (s : State) : State :=
  let t := runRecord true j (atStamp j (withPair (fun p => { p with exec := true, st := .standbySynced }) s))
  { t with
    pair := { t.pair with
      exec := false
      st := s.pair.st }
    hif := { t.hif with
      cring := s.hif.cring
      cpl := s.hif.cpl
      dring := s.hif.dring } }

end Sys2Proof.Machine
end

