-- ==== Sys2Proof/Machine/Diag.lean ====
section
/-! DEFINITION. The configuration snapshot (R412, R470) and the diagnostic commands (R428, R429). -/
namespace Sys2Proof.Machine

/-- `CFG_SNAPSHOT_READ` (R412). -/
def execCfgSnapshotRead (r : CmdRef) (outAddr outLen : Nat) (s : State) : Res :=
  .next (runCmd r 0x0101 1 0 (.cfgSnapshotRead outAddr outLen) s (doCfgSnapshotRead r outAddr outLen))

/-- `DIAG_NOP` (R428). -/
def execDiagNop (r : CmdRef) (s : State) : Res := .next (runCmd r 0x0901 1 0 .diagNop s (doDiagNop r))

/-! ## `DIAG_IQ_SNAPSHOT` (R428, R429) -/

/-- The selected ports of a window's pair, the first port first. -/
def selPorts (win ports : Nat) : List Nat := [0, 1].filterMap (fun i => if bitOf ports i then some (2 * winPair win + i) else none)

/-- The complex sample rate of a window, S/s (Table 04-1). -/
def winRate (s : State) (win : Nat) : Nat := 6_400_000 * 2 ^ (winAt s.act win).width

/-- Samples that one record of the snapshot ring holds (R429). -/
def iqPerRec (s : State) : Nat := (256 * 2 ^ min 8 (s.regF (dlvCtl 9) 23 20) - 32) / 4

def snapUnready (s : State) (win ports : Nat) : Bool :=
  !(winAt s.act win).en || !(selPorts win ports).any (fun p => (portOf s p).st == .on) || !ringEn s (dlvCtl 9)

def doDiagIqSnapshot (r : CmdRef) (win ports samples ofs : Nat) (s : State) : State :=
  checked r [
    (decide (7 < win) || decide (3 < ports) || decide (samples = 0) || decide (16384 < samples) ||
      decide (s.time.l ≤ ofs), stBad, 4, 0x000B),
    (snapUnready s win ports, stBadState, 4, 0),
    (s.snap.isSome, stBusy, 4, 0),
    (needsTime s r.asn, stUnlocked, 4, 0),
    (r.asn != 0 && decide (s.time.at_ r.asn + ofs < s.time.tb), stBad, 4, 0x000B)] (fun s => { s with
      snapWin := win
      snapPorts := ports
      captured := 0
      snap := some ⟨r, win, ports, samples, if r.asn = 0 then s.time.tb else s.time.at_ r.asn + ofs⟩ }) s

/-- `DIAG_IQ_SNAPSHOT` (R428, R429): it completes at the capture. -/
def execDiagIqSnapshot (r : CmdRef) (win ports samples ofs : Nat) (s : State) : Res :=
  .next (runCmd r 0x0902 1 0 (.diagIqSnapshot win ports samples ofs) s (doDiagIqSnapshot r win ports samples ofs))

/-- The header of an IQ record (Table 14-13): `n` samples of port `p` from index `i` of the capture, the first at `t`. -/
def iqHeader (x : Snap) (p i n t : Nat) (s : State) : List Octet :=
  octetsLE 1 p ++ octetsLE 1 x.win ++ zeros 2 ++ octetsLE 4 i ++ octetsLE 4 n ++ octetsLE 4 (winRate s x.win) ++
    octetsLE 4 (winAt s.act x.win).freq ++ octetsLE 8 t ++ zeros 4

/-- One IQ record (Tables 13-6 and 14-13); the samples, four octets each, are outside determinism, so they are free. -/
def iqRec (x : Snap) (p i n : Nat) (s : State) : HRec :=
  let t := x.at_ + i * 1_000_000_000 / winRate s x.win
  let a := if s.time.running ∧ s.time.epoch ≤ t then (t - s.time.epoch) / s.time.l else 0
  ⟨0x0200, 0, x.win, a, t, 32 + 4 * n, [], iqHeader x p i n t s ++ octetsLE (4 * n) (freshAt s), s.jrn.seq⟩

/-- The records of one port, `left` samples from index `i` on. -/
def iqPort (x : Snap) (p : Nat) : Nat → Nat → Nat → State → State
  | 0, _, _, s => s
  | k + 1, i, left, s =>
    let n := min left (iqPerRec s)
    if n = 0 then s else iqPort x p k (i + n) (left - n) (useFresh 1 (offerRec 9 (iqRec x p i n s) s))

/-- Capture and write the records: the first port's first (R429). -/
def iqRun (x : Snap) (s : State) : State :=
  let t := (selPorts x.win x.ports).foldl (fun u p => iqPort x p (x.samples / iqPerRec u + 1) 0 x.samples u) 
    (reach (x.at_ + ceilDiv (x.samples * 1_000_000_000) (winRate s x.win)) s)
  done x.ref (bump 0x130008 { t with
    snap := none
    captured := x.samples })

/-- `IQ_CAPTURE` (R429): the pending capture takes its samples and writes them. -/
def execIqCapture (s : State) : Res := .next (match s.snap with | some x => if s.up then iqRun x s else s | none => s)

end Sys2Proof.Machine
end

