-- ==== Sys2Proof/Machine/PairCmds.lean ====
section
/-! DEFINITION. The pair state machine (R453 to R472, Table 16-4): joins, heartbeats, takeover, the swap drill, divergence,
capture of the journal and replay. -/
namespace Sys2Proof.Machine

/-! ## Joins (R454 to R457, R467) -/

/-- Complete this unit's `PAIR_JOIN`. -/
def endJoin (st detail : Nat) (s : State) : State :=
  match s.pair.join with
  | some (r, _) => refuse r st 13 detail (withPair (fun p => { p with join := none }) s)
  | none => s

/-- A join that fails (`PAIR_CNT[4]`). -/
def joinFailed (st detail : Nat) (s : State) : State := endJoin st detail (bump 0x110040 s)

/-- The checks of Table 16-5, in order: the DETAIL of the first that fails. -/
def joinCheck (s : State) (i : Ident) : Option Nat :=
  let id := s.regN 0x110008 + 2 ^ 32 * s.regN 0x11000C
  if id != 0 && id != i.devid then some 0x0110
  else if i.rev != s.sec.romRev || i.patch != s.sec.patchMask then some 0x0111
  else if i.state != lcState s || i.tlock || s.sec.tlock then some 0x0112
  else none

/-- K_pair: the ECDH of the unit's own agreement key with the peer's, and the DEVIDs of the active and the standby unit (R454, Table
11-3). -/
def pairKey (s : State) (role : Nat) (i : Ident) : List Octet :=
  let z := ecdh (s.pair.agree.getD 0) (pointOf i.key)
  if role = 0 then keyPair z (devIdOf s.sec) i.devid else keyPair z i.devid (devIdOf s.sec)

/-- Draw the agreement key of a pairing from the TRNG and send IDENT (R454). -/
def sendIdent (role : Nat) (s : State) : State :=
  sendPair 5 role (useFresh 1 (withPair (fun p => { p with
    agree := some (scalarOf (octetsBE 40 (trng 40 0 s)))
    kpair := none
    msgs := 0 }) s))

/-- The vault masters pass to the joiner under K_pair (R457). -/
def sendMasters (s : State) : State := (s.sec.slots.filter KeySlot.valid).foldl (fun u k => sendPair 7 k.gen u) s

/-- A new DRBG seed from the TRNG, journaled (R455). -/
def seedNew (s : State) : State :=
  let v := trng 48 0 s
  journal (.seed v) (useFresh 1 { s with jrn := reseed v s.jrn })

/-- The checks pass on complementary roles: the active unit journals the JOIN point J and a seed, and sends the copy taken at J and
the masters; the joiner discards its core state (Table 16-4, R457). -/
def startJoin (role : Nat) (i : Ident) (s : State) : State :=
  let t := withPair (fun p => { p with
    kpair := some (pairKey s role i)
    joinAt := s.time.tb
    hbMiss := 0 }) s
  if role = 0 then setPair .active 0 (seedNew (sendMasters (sendPair 6 t.jrn.seq (journal (.pairpt 0 0 0 (devIdOf t.sec)) t))))
  else setPair .joinCopy 0 (withPair (fun p => { p with backlog := [], masters := [], hostKeys := [], own := [] }) (clearCore t))

/-- The join goes ahead once both IDENT messages are known. -/
def tryJoin (s : State) : State :=
  match s.pair.join, s.pair.peer with
  | some (_, role), some i =>
    if s.pair.link && i.role == 1 - role && s.pair.kpair.isNone then
      match joinCheck s i with
      | some d => joinFailed stPairNot d s
      | none => startJoin role i s
    else s
  | _, _ => s

/-- `PAIR_JOIN` with a ROLE this unit cannot take (R427). -/
def joinState (s : State) (role : Nat) : Bool :=
  if role = 1 then s.pair.st != .solo || !allInactive s
  else s.pair.st != .solo && (s.pair.st != .active || s.pair.peerOk)

/-- A `PAIR_JOIN` waits for the peer's IDENT, at most 1 s (log entry 41). -/
def doPairJoin (r : CmdRef) (role : Nat) (s : State) : State :=
  checked r [(decide (1 < role), stBad, 13, 0x000B), (joinState s role || s.pair.join.isSome, stBadState, 13, 0),
      (!s.pair.link, stPairNot, 13, 0)]
    (fun s => tryJoin (sendIdent role (withPair (fun p => { p with
      join := some (r, role)
      joinAt := s.time.tb }) s))) s

def execPairJoin (r : CmdRef) (role : Nat) (s : State) : Res := .next (runCmd r 0x0801 1 0 (.pairJoin role) s (doPairJoin r role))

/-- An IDENT that no `PAIR_JOIN` of this unit awaits: an active unit without a standby takes a peer's automatic rejoin, and the
rejoining unit the answer (DEDUCED, log entry 112). -/
def rejoinIdent (i : Ident) (s : State) : State :=
  if s.pair.st = .active ∧ s.pair.peerOk = false ∧ i.role = 1 then
    (if (joinCheck s i).isSome then bump 0x110040 s else startJoin 0 i (sendIdent 0 s))
  else if s.pair.st = .joinCopy ∧ s.pair.kpair = none ∧ i.role = 0 then withPair (fun p => { p with kpair := some (pairKey s 1 i) }) s
  else s

/-- `PAIR_IDENT_RX` (R454). -/
def execPairIdentRx (i : Ident) (s : State) : Res :=
  let t := withPair (fun p => { p with peer := some i }) s
  .next (if !(s.up && s.pair.link) then s else if s.pair.join.isSome then tryJoin t else rejoinIdent i t)

/-- `JOIN_COPY_DONE` (R457): the snapshot taken at JSEQ `jpos`, and the masters, are held. K_jrnl is that of the CURRENT master then
(DEDUCED, log entry 113). -/
def execJoinCopyDone (jid jpos : Nat) (parts : List CorePart) (s : State) : Res :=
  .next (if s.pair.st = .joinCopy ∧ s.pair.wait = false then
      let t := parts.foldl (takePart false) s
      setPair .joinCatchup 0 { t with jrn := { t.jrn with
        id := jid
        seq := max jpos t.jrn.seq
        key := sealKey t jid
        slotRecs := []
        coreAt := []
        isOpen := true
        started := true } }
    else s)

/-- A joiner whose active unit is lost waits, without state, for `PAIR_SOLO` (R467). -/
def activeLost (s : State) : State :=
  joinFailed stPairLost 0 (withPair (fun p => { p with
    wait := true
    backlog := []
    peerOk := false }) (clearCore s))

def joining (s : State) : Bool := (s.pair.st == .joinCopy || s.pair.st == .joinCatchup) && !s.pair.wait

/-- A join that does not complete in time, or whose digests differ: DIVERGED (Table 16-4). -/
def joinBroken (trig : Nat) (mismatch : Bool) (s : State) : State :=
  enterDiverged trig mismatch (joinFailed stPairNot 0x0113 (withPair (fun p => { p with backlog := [] }) (clearCore s)))

/-- `JOIN_TIMEOUT` (R456): 1 s since the JOIN point, or since a `PAIR_JOIN` whose peer never answered. -/
def execJoinTimeout (s : State) : Res :=
  .next (if !s.up then s
    else if joining s then joinBroken 5 false (reach (s.pair.joinAt + 1_000_000_000) s)
    else if s.pair.join.isSome then
      joinFailed stPairNot 0x0113 (withPair (fun p => { p with kpair := none }) (reach (s.pair.joinAt + 1_000_000_000) s))
    else s)

/-- 3,600 s have passed since the last automatic rejoin. -/
def mayRejoin (s : State) : Bool :=
  match s.pair.rejoinAt with
  | some t => decide (t + 3_600_000_000_000 ≤ s.time.tb)
  | none => true

/-- `AUTOREJOIN_TIMER` (R456): 1 s after a digest mismatch the unit starts a join as ROLE 1. -/
def execAutorejoinTimer (s : State) : Res :=
  .next (match s.pair.divergedAt with
    | some t0 =>
      let t := reach (t0 + 1_000_000_000) s
      if s.up && s.pair.st == .diverged && s.regB 0x110004 1 && s.pair.peerOk && s.pair.link && mayRejoin t then
        setPair .joinCopy 5 (sendIdent 1 (withPair (fun p => { p with
          divergedAt := none
          rejoinAt := some t.time.tb
          joinAt := t.time.tb
          hbMiss := 0
          masters := []
          hostKeys := []
          own := []
          backlog := [] }) (clearCore t)))
      else s
    | none => s)

/-! ## The link (R453) -/

/-- The standby is lost: the active unit goes on without output commit (Table 16-4). -/
def standbyLost (s : State) : State :=
  shadowsOut (event 0x0D02 [s.pair.peerAsn] (withPair (fun p => { p with peerOk := false, ackMiss := 0 }) s))

/-- The link goes down: an active unit loses its standby, a joiner its active unit (R464, R467). -/
def linkLost (s : State) : State :=
  let t := event 0x0D06 [0] (bump 0x110048 (withPair (fun p => { p with
    link := false
    peer := none
    tagFails := 0 }) s))
  let u := if t.pair.st = .active ∧ t.pair.peerOk = true then standbyLost t else t
  if joining u then activeLost u else u

/-- `PAIR_LINK_CHANGE` (R453). -/
def execPairLinkChange (up : Bool) (s : State) : Res :=
  .next (if !s.up || s.pair.link == up || (up && s.offline 13) then s
    else if up then event 0x0D06 [1] (withPair (fun p => { p with link := true }) s)
    else linkLost s)

/-- `KEY_TRANSFER_RX` (R352, R425, R453): a network master is kept by its GEN; a HOST key, of `gen` octets, waits for its command.
Sixteen tag failures in a row take the link down. -/
def execKeyTransferRx (host : Bool) (gen master : Nat) (tagOk : Bool) (s : State) : Res :=
  .next (if !(s.up && s.pair.link) then s
    else if tagOk then withPair (fun p => { p with
      tagFails := 0
      hostKeys := if host then p.hostKeys ++ [octetsBE gen master] else p.hostKeys
      masters := if host then p.masters else p.masters.filter (fun e => e.1 != gen) ++ [(gen, master)] }) s
    else
      let t := bump 0x110044 (withPair (fun p => { p with tagFails := p.tagFails + 1 }) s)
      if 16 ≤ t.pair.tagFails then linkLost t else t)

/-! ## The standby's work (R458, R462) -/

/-- `JOURNAL_RECORD_RX` (R458): a record that follows on is staged, queued and acknowledged. -/
def execJournalRecordRx (j : JRec) (s : State) : Res :=
  .next (if !(s.up && s.pair.link && (joining s || s.pair.st == .standbySynced) && recCrcOk j &&
        ((s.pair.backlog.getLast?.map JRec.seq).all (fun q => j.seq == q + 1))) then s
    else
      let t := { s with
        jrn := { (s.jrn.stage j) with seq := j.seq + 1 }
        pair := { s.pair with
          backlog := s.pair.backlog ++ [j]
          peerAsn := j.asn
          lastSlot := match j.body with
            | .slot .. => j.asn
            | _ => s.pair.lastSlot } }
      if t.pair.st = .standbySynced then sendPair 4 j.seq t else t)

/-- The records of the next slot to execute and those after it: up to the next SLOT record, which must have arrived. A unit in
TAKEOVER, or before a drill point, has all that will come. -/
def nextSlotRecs (all_ : Bool) (l : List JRec) : Option (List JRec × List JRec) :=
  match l with
  | [] => none
  | j :: t =>
    let own := t.takeWhile (fun x => !isSlot x)
    let rest := t.dropWhile (fun x => !isSlot x)
    if rest.isEmpty && !all_ then none else some (j :: own, rest)

/-- What a DIGEST record of slot `a` with `units` and D says against this unit's own: the lowest unit that differs, and the own D. -/
def digestDiffers (s : State) (a d : Nat) (units : List Nat) : Option (Nat × Nat) :=
  match s.pair.own.find? (fun e => e.1 == a) with
  | some e => if slotDigest e.2 = d then none else some (unitDiffers e.2 units, slotDigest e.2)
  | none => none

/-- The first DIGEST record among `l` that differs from this unit's own: its slot, the unit, own and peer's D. -/
def differs (s : State) (l : List JRec) : Option (Nat × Nat × Nat × Nat) :=
  l.findSome? (fun j => match j.body with
    | .digest a d u => (digestDiffers s a d u).map (fun x => (a, x.1, x.2, d))
    | _ => none)

/-- Slots whose DIGEST stands among `l` and was compared. -/
def digestsOf (s : State) (l : List JRec) : List Nat :=
  l.filterMap (fun j => match j.body with
    | .digest a _ _ => if s.pair.own.any (fun e => e.1 == a) then some a else none
    | _ => none)

/-- The joiner is synced (Table 16-4): both `PAIR_JOIN` commands complete. -/
def synced (s : State) : State :=
  let t := match s.hif.admitted.find? (fun a => a.opcode == 0x0801 && a.ref.ring != 15) with
    | some a => done a.ref s
    | none => s
  let u := match t.pair.join with
    | some (r, _) => done r (withPair (fun p => { p with join := none }) t)
    | none => t
  sendPair 4 (u.jrn.seq - 1) (setPair .standbySynced 0 (bump 0x11003C (withPair (fun p => { p with peerOk := true }) u)))

/-- After a slot is executed: DIGEST records are compared (R456, R462). -/
def compared (l : List JRec) (s : State) : State :=
  let seen := digestsOf s l
  match differs s l with
  | some (a, unit, own, d) =>
    if s.pair.st = .joinCatchup then joinBroken 4 true s
    else
      let t := event 0x0D03 [a, unit, own, d] (clearCore s)
      enterDiverged 4 true (withPair (fun p => { p with backlog := [] }) t)
  | none =>
    let t := withPair (fun p => { p with own := p.own.filter (fun e => !seen.contains e.1) }) s
    if s.pair.st = .joinCatchup ∧ !seen.isEmpty ∧ (s.pair.backlog.filter isSlot).length ≤ 1 then synced t else t

/-- `STANDBY_EXECUTE_SLOT` (R458, R462): the next slot's records, `count` from number `first` on, are executed. -/
def execStandbyExecuteSlot (first count : Nat) (s : State) : Res :=
  .next (if !(s.up && !s.pair.wait && (s.pair.follows || s.pair.st == .takeover)) then s
    else match nextSlotRecs (s.pair.st == .takeover || s.pair.drillB.isSome) s.pair.backlog with
      | some (l, rest) =>
        if l.head?.map JRec.seq = some first ∧ l.length = count then
          compared l (runRecords l (withPair (fun p => { p with backlog := rest }) s))
        else s
      | none => s)

/-- `TIMING_MARK_RX` (R458): the standby's timebase is slaved to the active unit's. -/
def execTimingMarkRx (tb : Nat) (s : State) : Res :=
  .next (if s.up && s.pair.link && (s.pair.follows || s.pair.st == .joinCopy) then
      withTime (fun x => { x with tb := tb, sub := 0 }) s
    else s)

/-! ## Digest, heartbeat and acknowledgement (R451, R459, R463, R464) -/

/-- The DIGEST record of slot `k` may be written: its deadline has come, and the `IMG_SEND`s of the slot have linked their frames. -/
def digestDue (s : State) (k n : Nat) : Bool := decide (n ≤ asnNow s) && !(s.adp.rq.any (fun q => q.asn == k + rqLag s))

/-- `DIGEST_WRITE` (R451): the first owed record that may be written; later slots do not wait for an earlier one. -/
def execDigestWrite (s : State) : Res :=
  .next (match s.jrn.owed.find? (fun o => digestDue s o.1 o.2.1) with
    | some o =>
      if coreRuns s && jrnWrites s then
        journal (.digest o.1 (slotDigest o.2.2) o.2.2) { s with jrn := { s.jrn with owed := s.jrn.owed.erase o } }
      else s
    | none => s)

/-- `HEARTBEAT_RX` (R463). -/
def execHeartbeatRx (asn : Nat) (s : State) : Res :=
  .next (if s.up && s.pair.link && !s.pair.leads then
      withPair (fun p => { p with
        hbSeen := true
        hbMiss := 0
        peerOk := true
        peerAsn := asn }) s
    else s)

/-- A standby enters TAKEOVER (R464): it takes no further journal records. -/
def enterTakeover (trig : Nat) (s : State) : State := setPair .takeover trig (withPair (fun p => { p with trigger := trig }) s)

/-- `HEARTBEAT_LOSS` (R464): three consecutive slots without heartbeat. -/
def execHeartbeatLoss (s : State) : Res :=
  .next (if !s.up || s.pair.hbMiss < 3 then s
    else if s.pair.st = .standbySynced ∧ s.regB 0x110004 0 = true then enterTakeover 1 s
    else if joining s then activeLost s
    else s)

/-- `PAIR_ACK_RX` (R459): the outputs held back up to that record may be written. The first acknowledgement after a join says
that the standby is synced. -/
def execPairAckRx (seq : Nat) (s : State) : Res :=
  .next (if !(s.up && s.pair.link && s.pair.st == .active) then s
    else
      let t := withPair (fun p => { p with
        acked := max p.acked (seq + 1)
        ackSeen := true
        ackMiss := 0
        peerAsn := asnNow s }) s
      shadowsOut (match t.pair.join with
        | some (r, _) => done r (bump 0x11003C (withPair (fun p => { p with join := none, peerOk := true }) t))
        | none => withPair (fun p => { p with peerOk := true }) t))

/-- `STANDBY_LOST_TIMEOUT` (R464): three slots without an acknowledgement. -/
def execStandbyLostTimeout (s : State) : Res :=
  .next (if s.up && s.pair.st == .active && s.pair.peerOk && decide (3 ≤ s.pair.ackMiss) then standbyLost s else s)

/-! ## Triggers (R464) -/

def triggered (trig : Nat) (s : State) : State :=
  if s.pair.st = .standbySynced then enterTakeover trig s else if joining s then activeLost s else s

/-- `FAIL_MESSAGE_RX` (R464). -/
def execFailMessageRx (s : State) : Res :=
  .next (if s.up && s.pair.link then triggered 3 (withPair (fun p => { p with failMsgs := p.failMsgs + 1 }) s) else s)

/-- An ACTIVE unit stops and enters DIVERGED (Table 16-4). -/
def yieldActive (trig : Nat) (s : State) : State := enterDiverged trig false (withPair (fun p => { p with peerOk := false }) s)

/-- `TAKEOVER_MESSAGE_RX` (R456). -/
def execTakeoverMessageRx (s : State) : Res :=
  .next (if s.up && s.pair.link && s.pair.st == .active then yieldActive 3 s else s)

/-- `PAIR_FAIL_ASSERT` (R456, R463, R464): a standby takes over, an active unit stops. -/
def execPairFailAssert (s : State) : Res :=
  let t := withPair (fun p => { p with failIn := true }) s
  .next (if !s.up then s
    else if s.pair.st = .standbySynced then enterTakeover 2 t
    else if s.pair.st = .active then yieldActive 2 t
    else t)

/-- `PAIR_TAKEOVER` (R464): the trigger is its admission; it completes as the unit becomes ACTIVE. -/
def doPairTakeover (r : CmdRef) (s : State) : State :=
  if s.pair.st != .standbySynced then refuse r stPairNot 13 0 s
  else enterTakeover 0 (withPair (fun p => { p with toRef := some r }) s)

def execPairTakeover (r : CmdRef) (s : State) : Res := .next (runCmd r 0x0802 1 0 .pairTakeover s (doPairTakeover r))

/-! ## Takeover (R465) -/

/-- The mirrored descriptors that wait on one ring: `n` of them, each admitted and completed `ABORT_RESET`. The TAG and opcode of one
whose entry no doorbell has brought stand in host memory: free values here. -/
def abortWaiting (ring : Nat) : Nat → State → State
  | 0, s => s
  | n + 1, s =>
    match s.hif.cring[ring]? with
    | some x =>
      let tag := match x.fetched with
        | d :: _ => dTag d
        | [] => BitVec.ofNat 32 (freshAt s)
      let op := match x.fetched with
        | d :: _ => dOp d
        | [] => Config.freeValue (s.fresh + 1) % 65536
      let r : CmdRef := descRef ring x tag ((x.fetched.head?.map dAsn).getD 0)
      let t := { s with hif := { s.hif with cring := modAt ring (takeDesc (ringSize s (cringCtl ring))) s.hif.cring } }
      abortWaiting ring n (bump 0x11004C (refuse r stAbort 13 0
        (shadowOut ring (admitCmd r op 1 0 (.ended stAbort 13 0) (if x.fetched.isEmpty then useFresh 2 t else t)))))
    | none => s

/-- Step 4 of R465 over rings 0 to 14. -/
def abortRings (s : State) : State :=
  (List.range 15).foldl (fun u k =>
    match u.hif.cring[k]? with
    | some x =>
      if ringEn u (cringCtl k) then
        abortWaiting k ((x.pi + ringSize u (cringCtl k) - x.ci) % ringSize u (cringCtl k)) u
      else u
    | none => u) s

/-- The outgoing frame counter skips `n` values, fewer than a block: the reservation at the midpoint it passes is made (R335, R465). -/
def skipFc (n : Nat) (s : State) : State :=
  let b := s.sec.fcNext / 2 ^ 20
  let mid := decide (s.sec.fcNext % 2 ^ 20 < 2 ^ 19) && decide (2 ^ 19 ≤ s.sec.fcNext % 2 ^ 20 + n) && decide (b < 4095)
  fcStallCheck (fcLowCheck (eventIf mid 0x0901 [curGen s, b + 1] { s with sec := { s.sec with
    fcNext := s.sec.fcNext + n
    fcRes := if mid then b + 1 else s.sec.fcRes } }))

/-- Steps 1 to 3: PAIRPT, the frames of the failed unit's last slots, the frame counter. -/
def takeoverCore (b : Nat) (s : State) : State :=
  let t := journal (.pairpt 1 (s.pair.lastSlot + 1) b (devIdOf s.sec)) s
  let ids := flying t
  let u := framesDone ids stAbort { t with tx := { t.tx with txs := [] } }
  skipFc 65536 u

/-- Slots that the failed unit had written and host software has not returned are written here again. -/
def CplRing.again (size : Nat) (x : CplRing) : CplRing :=
  let y := x.prune size
  { y with
    armed := true
    firstAt := none
    slots := y.slots.map (fun z => match z.st with
      | .valid c => { z with st := .done c }
      | _ => z) }

/-- Steps 5 and 6: completions are due from the latched consumer index on, the device-written rings start anew with their SEQ going
on, the egress queues empty. -/
def takeoverRings (s : State) : State :=
  let q := releaseIn s (s.que.egress.flatMap (fun l => l.flatMap EgItem.cells)) s.que
  { s with
    que := { q with egress := List.replicate 14 [] }
    hif := { s.hif with
      cpl := keep15 s.hif.cpl (s.hif.cpl.mapIdx (fun c x => x.again (ringSize s (cplCtl c))))
      dring := s.hif.dring.map (fun x => { x with
        hostCi := 0
        prod := 0
        out := []
        armed := true
        firstAt := none }) } }

/-- A unit that followed writes the journal from here on: the digests it has computed and not seen are its to write (R451, R465). -/
def toLead (s : State) : State :=
  { s with
    jrn := { s.jrn with
      isOpen := true
      owed := s.pair.own.map (fun e => (e.1, e.1 + herdLag s, e.2)) }
    pair := { s.pair with own := [] } }

/-- What a unit does at the boundary at which it becomes ACTIVE. -/
def becomeActive (trig : Nat) (s : State) : State :=
  returnPorts (setPair .active trig s)

/-- `TAKEOVER_ACTIVATE` (R465): the first boundary at which every record received is executed. -/
def takeoverAt (b : Nat) (s : State) : State :=
  let led := withPair (fun p => { p with st := .active }) (toLead s)
  let t := takeoverRings (abortRings (takeoverCore b led))
  let u := becomeActive s.pair.trigger (withPair (fun p => { p with
    st := .takeover
    peerOk := false
    drill := none
    drillB := none
    toRef := none }) t)
  let v := sendPair 2 b (bump 0x110034 u)
  boundaryWork b (dueBefore b (match s.pair.toRef with
    | some r => done r v
    | none => v))

def execTakeoverActivate (s : State) : Res :=
  let b := nextBoundary s.time
  .next (if !(s.up && s.pair.st == .takeover && s.pair.backlog.isEmpty && s.time.loaded && s.time.epochSet) then s
    else takeoverAt b (withTime (fun x => { x with lastAsn := some b }) (reach (s.time.at_ b) s)))

/-! ## The swap drill (R468) -/

/-- `SWAP_DRILL` (R427). -/
def doSwapDrill (r : CmdRef) (sfh : Nat) (s : State) : State :=
  checked r [(s.pair.st != .active || !s.pair.peerOk || s.pair.drill.isSome, stPairNot, 13, 0),
      (decide (63 < sfh) || (sfActive s sfh).isNone, stBad, 13, 0x000B)]
    (fun s => withPair (fun p => { p with drill := some (r, sfh, r.asn) }) s) s

def execSwapDrill (r : CmdRef) (sfh : Nat) (s : State) : Res := .next (runCmd r 0x0803 1 0 (.swapDrill sfh) s (doSwapDrill r sfh))

/-- `SWAP_DRILL_BOUNDARY` (R468): at boundary B the active unit journals PAIRPT DRILL, sends DRILL and becomes the standby. -/
def execSwapDrillBoundary (s : State) : Res :=
  .next (match s.time.lastAsn with
    | some b =>
      if s.up && s.pair.st == .active && drillDue s b then
        let t := sendPair 3 b (journal (.pairpt 2 b (b + 1) (devIdOf s.sec)) s)
        setPair .standbySynced 6 (withPair (fun p => { p with
          own := t.jrn.owed.map (fun o => (o.1, o.2.2))
          drillB := some b
          backlog := []
          hbMiss := 0
          hbSeen := true }) t)
      else s
    | none => s)

/-- `DRILL_MESSAGE_RX` (R468). -/
def execDrillMessageRx (b : Nat) (s : State) : Res :=
  .next (if s.up && s.pair.link && s.pair.st == .standbySynced then withPair (fun p => { p with drillB := some b }) s else s)

/-- `DRILL_ACTIVATE` (R468): every record up to the drill point executed, the standby serves from boundary B + 1; the drill
command completes here. -/
def execDrillActivate (s : State) : Res :=
  .next (match s.pair.drillB with
    | some b =>
      if s.up && s.pair.st == .standbySynced && s.pair.backlog.isEmpty && decide (s.pair.lastSlot ≤ b) then
        let t := withTime (fun x => { x with lastAsn := some (b + 1) }) (reach (s.time.at_ (b + 1)) s)
        let u := becomeActive 6 (withPair (fun p => { p with
          drill := none
          drillB := none
          peerOk := true
          ackSeen := true }) (toLead t))
        boundaryWork (b + 1) (match s.pair.drill with
          | some (r, _, _) => done r u
          | none => u)
      else s
    | none => s)

/-! ## Return to SOLO (R427, R467) -/

/-- `PAIR_SOLO`: core state cleared, slotframes removed; the unit starts afresh without a loaded timebase (log entry 42). -/
def doPairSolo (r : CmdRef) (s : State) : State :=
  if s.pair.st != .diverged && !s.pair.wait then refuse r stBadState 13 0 s
  else
    let t := clearCore s
    done r (setPair .solo 0 { t with
      time := { TimeSt.reset with tb := t.time.tb, sub := t.time.sub }
      jrn := { t.jrn with isOpen := false, started := false, owed := [], slotRecs := [], coreAt := [] }
      pair := { t.pair with
        wait := false
        join := none
        kpair := none
        agree := none
        peerOk := false
        backlog := []
        own := []
        masters := []
        hostKeys := []
        drill := none
        drillB := none
        divergedAt := none
        store := []
        rpNext := none } })

def execPairSolo (r : CmdRef) (s : State) : Res := .next (runCmd r 0x0804 1 0 .pairSolo s (doPairSolo r))

/-! ## Journal commands (R427, R469) -/

def execJournalCtl (r : CmdRef) (stream : Bool) (s : State) : Res := .next (runCmd r 0x0810 1 0 (.journalCtl stream) s (doJournalCtl r stream))

/-- The held records for the journal ring, oldest first, with a GAP wherever records are missing. -/
def dumpItems (s : State) : Nat → List JRec → List EgItem
  | _, [] => []
  | n, j :: t =>
    (if n < j.seq then [⟨.gap (j.seq - n) (some n), []⟩] else []) ++
      ⟨.record (jRingRec s j), []⟩ :: dumpItems s (j.seq + 1) t

/-- `JOURNAL_DUMP` (R469): staging unfreezes; the command completes after the last record is written. -/
def doJournalDump (r : CmdRef) (s : State) : State :=
  if !ringEn s (dlvCtl 8) || s.jrn.dump.isSome then refuse r stBadState 13 0 s
  else
    let first := (s.jrn.staging.head?.map JRec.seq).getD s.jrn.seq
    let items := dumpItems s (min s.jrn.ringNext first) s.jrn.staging
    dumpDone { s with
      que := { s.que with egress := modAt 12 (· ++ items) s.que.egress }
      jrn := { s.jrn with
        frozen := false
        dump := some r
        ringNext := (s.jrn.staging.getLast?.map (fun j => j.seq + 1)).getD s.jrn.ringNext } }

def execJournalDump (r : CmdRef) (s : State) : Res := .next (runCmd r 0x0811 1 0 .journalDump s (doJournalDump r))

/-! ## Replay (R471, R472) -/

/-- `REPLAY_ENTER` (R427): the timebase stops, the ports stay OFF. -/
def doReplayEnter (r : CmdRef) (s : State) : State :=
  if s.pair.st != .solo || !(s.rf.ports.all (fun p => p.st == .off)) || !allInactive s || s.jrn.started then
    refuse r stBadState 13 0 s
  else done r (setPair .replay 0 (withPair (fun p => { p with store := [], rpNext := none }) s))

def execReplayEnter (r : CmdRef) (s : State) : Res := .next (runCmd r 0x0812 1 0 .replayEnter s (doReplayEnter r))

/-- Stop the replay (R471): the report registers are latched and the unit enters DIVERGED; its key store is zeroised. -/
def replayStop (reason unit : Nat) (j : JRec) (expd got : Nat) (s : State) : State :=
  let t := event 0x0D04 [j.asn, reason, unit, j.seq, expd, got] (withPair (fun p => { p with
    rp := ⟨reason, unit, true, j.asn, j.seq, expd, got⟩
    store := []
    snap := none
    own := []
    rpNext := none }) s)
  enterDiverged 4 false t

/-- All octets of the snapshot have come. -/
def RpSnap.whole (x : RpSnap) : Bool := decide (x.total ≤ x.got)

/-- A section comes whole with the record of its offset 0. -/
def partAt (ofs : Nat) (part : CorePart) : List CorePart := if ofs = 0 then [part] else []

/-- The snapshot after a record: begun by SNAPHDR, continued by SNAPDATA. -/
def snapAfter (s : State) (raw : List Octet) (j : JRec) : Option RpSnap :=
  match j.body with
  | .snapHdr jid jpos _ _ _ _ total sha => some ⟨jid, jpos, total, sha, raw.length, [], []⟩
  | .snapData _ ofs _ part => s.pair.snap.map (fun x => { x with
      got := x.got + raw.length
      bodies := x.bodies ++ raw.drop 32
      parts := x.parts ++ partAt ofs part })
  | _ => none

/-- A record that cannot be taken (R471). -/
def malformed (s : State) (raw : List Octet) (j : JRec) : Bool :=
  !octCrcOk raw || (match j.body with
    | .snapHdr _ _ _ rev step .. => rev != s.sec.romRev || step != 0xB0
    | .snapData .. =>
      (match snapAfter s raw j with
        | some x => x.whole && sha256 x.bodies != x.sha
        | none => true)
    | _ => s.pair.rpNext != some j.seq)

/-- What stops the replay at a journal record, before it is executed: REASON, UNIT, D expected and computed. A slot of which the bench
has only the end has no SEAL and no digest of its own. -/
def replayCheck (s : State) (j : JRec) : Option (Nat × Nat × Nat × Nat) :=
  match j.body with
  | .slot keyed mac => if keyed && (s.jrn.slotRecs.head?.any isSlot) && sealNow s != mac then some (2, 13, 0, 0) else none
  | .digest a d u => (digestDiffers s a d u).map (fun x => (1, x.1, d, x.2))
  | .keyres st _ g _ => if st = stOk ∧ !s.pair.store.any (fun e => e.1 == g) then some (3, 9, 0, 0) else none
  | _ => none

/-- Take a whole snapshot (R470 to R472). K_jrnl is that of the CURRENT master it names (DEDUCED, log entry 113). -/
def replaySnap (x : RpSnap) (j : JRec) (s : State) : State :=
  if x.parts.any (partLacks s.pair.store) then replayStop 3 9 j 0 0 s
  else
    let t := x.parts.foldl (takePart true) s
    withPair (fun p => { p with
      snap := none
      own := []
      rpNext := some (x.jpos + 1) }) { t with jrn := { t.jrn with
        id := x.jid
        key := sealKey t x.jid
        slotRecs := []
        coreAt := [] } }

/-- One record of a buffer. -/
def feedOne (raw : List Octet) (j : JRec) (s : State) : State :=
  match snapAfter s raw j with
  | some x => if x.whole then replaySnap x j s else withPair (fun p => { p with snap := some x, rpNext := none }) s
  | none =>
    let t := withPair (fun p => { p with rpNext := some (j.seq + 1) }) s
    match replayCheck t j with
    | some (reason, unit, e, g) => replayStop reason unit j e g t
    | none => replayRecord j t

/-- Feed the records of a buffer; true says that one was malformed. -/
def feed : List (Option (List Octet × JRec)) → State → Bool × State
  | [], s => (false, s)
  | none :: _, s => (s.pair.st == .replay, s)
  | some (raw, j) :: t, s =>
    if s.pair.st != .replay then (false, s)
    else if malformed s raw j then (true, s)
    else feed t (feedOne raw j s)

/-- `REPLAY_FEED` (R471): it completes when every record of the buffer is consumed. -/
def doReplayFeed (r : CmdRef) (octets : List Octet) (s : State) : State :=
  checked r [(octets.isEmpty || decide (65536 < octets.length), stBad, 13, 0x000B), (s.pair.st != .replay, stPairNot, 13, 0)]
    (fun s =>
      let f := feed (recsIn octets.length octets) s
      if f.1 then refuse r stBad 13 0x0104 f.2 else done r f.2) s

def execReplayFeed (r : CmdRef) (octets : List Octet) (s : State) : Res :=
  .next (runCmd r 0x0813 1 (16 + octets.length) (.replayFeed octets) s (doReplayFeed r octets))

end Sys2Proof.Machine
end

