-- ==== Sys2Proof/Machine/Errors.lean ====
section
/-! DEFINITION. Error sources, the handling of the error FIFO, queue resets, the scrub, processor watchdogs and tamper alarms
(R349, R365, R476, R477, R481 to R493, R508). -/
namespace Sys2Proof.Machine

/-! ## Queue reset (R365) -/

/-- Class and UNIT of an error of FIFO `f` (Table 17-4). -/
def fifoOwner (f : Nat) : Nat × Nat :=
  if f < 16 then (1, 3)
  else if f < 20 then (1, 4)
  else if f = 28 then (0, 9)
  else if f < 31 then (1, 9)
  else if f < 35 then (1, 12)
  else if f < 37 then (1, 11)
  else (1, 13)

/-- SUB of FIFO `f` (Table 17-2): the slot engine, the timebase, the engine, Mastiff, the port; of a receive FIFO the spec
names none, and `free` stands for it. -/
def fifoSub (f free : Nat) : Nat :=
  if f < 16 then free % 152
  else if f < 18 then 1
  else if f < 20 then 0
  else if f < 28 then 4 + (f - 20) / 2
  else if f = 28 then 1
  else if 31 ≤ f ∧ f < 35 then (f - 31) % 2
  else 0

/-- The transmissions of the given ports that the radio side has not started yield `NOT_READY`. -/
def yieldPorts (ports : List Nat) (s : State) : State :=
  { s with tx := { s.tx with txs := s.tx.txs.map (fun t =>
      if ports.contains t.port && t.waits then { t with yield := some (1, 0) } else t) } }

/-- What the frames lost from FIFO `f` mean (Table 12-3): received frames count as FIFO_LOST in the pair of their channel slot, staged
requests yield. After a reset of FIFO 18 the boundary of the current ASN comes again and those before it are not executed: so does the
next SLOT_BOUNDARY go (R487, `nextBoundary`). What a FIFO holds of an engine, the pair link or the rings goes with the handling of the
record (Table 17-4). -/
def fifoLoss (f : Nat) (s : State) : State :=
  if f < 16 then
    { s with rx := { (s.rx.out.getD f []).foldl (fun r x => sumCount s x.1.chSlot 6 1 r) s.rx with out := setAt s.rx.out f [] } }
  else if f < 18 then yieldPorts [f - 12] s
  else if f = 19 then yieldPorts [4, 5] s
  else if f = 31 ∨ f = 32 then modEth (f - 31) (fun x => { x with fifo := [] }) s
  else if f = 33 ∨ f = 34 then modEth (f - 33) (fun x => { x with out := [] }) s
  else s

/-- Reset FIFO `f` and report it under `code` (R365). -/
def queueReset (f code : Nat) (s : State) : State :=
  let n := (fifoFrames s f).length
  raiseErr code (fifoOwner f).1 (fifoOwner f).2 (fifoSub f (freshAt s)) f f n (useFresh 1 (fifoLoss f (bumpN (fcnt f 0) n s)))

/-- `FIFO_QUEUE_RESET` (R365). -/
def execFifoQueueReset (f : Nat) (s : State) : Res :=
  .next (if s.up && decide (f < 39) then queueReset f 0x0301 s else s)

/-! ## Sources (R481) -/

/-- Subsystems with a processor: Collie, Beagle, Pointer, Mastiff. -/
def isProc (u : Nat) : Bool := u == 4 || u == 5 || u == 8 || u == 9

/-- Class, UNIT and SUB of a source other than a FIFO (Tables 17-2 and 17-4). -/
def errClass (e : ErrSrc) : Option (Nat × Nat × Nat) :=
  match e.code with
  | 0x0101 => if 1 ≤ e.unit ∧ e.unit ≤ 14 then some (0, e.unit, e.sub) else none
  | 0x0102 => some (1, 8, min 1 e.sub)
  | 0x0103 => some (1, 10, if e.sub = 65 then 65 else 64)
  | 0x0104 => some (1, 5, 1)
  | 0x0105 => if isProc e.unit then some (2, e.unit, e.sub) else none
  | 0x0106 => some (0, 9, 2)
  | 0x0107 => some (2, 9, 3)
  | 0x0108 => some (1, 13, 2)
  | 0x0109 => some (1, 7, 2)
  | 0x010A => some (1, 10, 66)
  | 0x0110 => some (1, 8, 2)
  | 0x0111 => if isProc e.unit then some (2, e.unit, e.sub) else none
  | 0x0201 => if isProc e.unit then some (0, e.unit, e.sub) else none
  | 0x0202 => if isProc e.unit then some (1, e.unit, e.sub) else none
  | 0x0203 => some (3, 4, 0)
  | 0x0204 => if e.unit = 4 ∨ e.unit = 13 then some (0, e.unit, 1) else none
  | 0x0205 => if e.unit = 4 ∨ e.unit = 13 then some (3, e.unit, 1) else none
  | 0x0401 => some (1, 1, 0)
  | 0x0402 => some (3, 14, e.sub)
  | 0x0403 => some (1, 1, 0)
  | 0x0404 => some (2, 1, 0)
  | 0x0405 => some (3, 14, e.sub)
  | 0x0501 => some (1, 5, 0)
  | 0x0502 => some (1, 7, 1)
  | 0x0601 => some (3, 9, e.sub)
  | 0x0602 => some (2, 9, 9)
  | 0x0701 => some (1, 11, 0)
  | _ => none

/-- `ERROR_DETECT` (R481): a FIFO source resets its queue, any other enters its record. -/
def execErrorDetect (e : ErrSrc) (s : State) : Res :=
  .next (if !s.up then s
    else if e.code = 0x010B ∨ e.code = 0x0301 ∨ e.code = 0x0302 then
      if e.detail < 39 then
        queueReset e.detail e.code (if e.code = 0x0302 then
          s.setReg (0xD0600 + 4 * e.detail) (s.reg (0xD0600 + 4 * e.detail) ||| 1) else s)
      else s
    else match errClass e with
      | some (c, u, b) =>
        raiseErr e.code c u b e.where_ e.detail 0
          { s with sec := { s.sec with trngFail := s.sec.trngFail || e.code == 0x0602 } }
      | none => s)

/-- `RQ_OVERRUN` (R288, code 0x0502): the oldest `IMG_SEND` completes `INTERNAL_ERROR` and links no frame. -/
def execRqOverrun (s : State) : Res :=
  .next (coreOnly s (match s.adp.rq with
    | q :: t => refuse q.ref stInternal 7 0 (raiseErr 0x0502 1 7 1 0 0 q.count { s with adp := { s.adp with rq := t } })
    | [] => s))

/-- Subsystem and SUB of processor `p`: Collie, Beagle, Pointer, Mastiff. -/
def procUnit (p : Nat) : Nat × Nat :=
  match p with
  | 0 => (5, 0)
  | 1 => (4, 2)
  | 2 => (8, 3)
  | _ => (9, 0)

/-- `WATCHDOG_EXPIRE` (R477, code 0x0202). -/
def execWatchdogExpire (proc : Nat) (s : State) : Res :=
  .next (if s.up && decide (proc < 4) then raiseErr 0x0202 1 (procUnit proc).1 (procUnit proc).2 0 0 0 s else s)

/-! ## The scrub (R476) -/

/-- The arrays in the order of Table 01-5, then the prefix banks: 64-bit words, UNIT and SUB (log entry 63). -/
def scrubArrays : List (Nat × Nat × Nat) :=
  [(2_621_440, 8, 0), (1_048_576, 10, 64), (524_288, 5, 1), (524_288, 5, 0), (131_072, 13, 2), (8192, 9, 2), (512, 9, 3),
   (16_384, 3, 0), (8192, 12, 0), (32_768, 10, 0), (512, 8, 1), (32_768, 7, 2), (32_768, 10, 65), (16_384, 10, 66),
   (16_384, 8, 2)]

/-- UNIT and SUB of a word; the four processor memories stand one after the other. -/
def scrubOwner (a w : Nat) : Nat × Nat :=
  if a = 3 then procUnit (w / 131_072) else (scrubArrays.getD a (1, 10, 0)).2

/-- `SCRUB_VISIT` (R476): the next word; one found correctable is written back and recorded. The syndrome is free. -/
def execScrubVisit (corrected : Bool) (s : State) : Res :=
  let a := s.err.scrubArr
  let w := s.err.scrubWord
  let last := decide ((scrubArrays.getD a (1, 10, 0)).1 ≤ w + 1)
  .next (if !s.up || !s.regB 0x120004 1 then s
    else
      let t := { s with err := { s.err with
        scrubArr := if last then (a + 1) % 15 else a
        scrubWord := if last then 0 else w + 1 } }
      if corrected then
        raiseErr 0x0101 0 (scrubOwner a w).1 (scrubOwner a w).2 w (freshAt s % 256) 0 (useFresh 1 t)
      else t)

/-! ## Work lost with a subunit (R488) -/

/-- Commands that a subsystem holds complete `ABORT_RESET`. -/
def abortCmds (u : Nat) (hit : Adm → Bool) (s : State) : Nat × State :=
  let l := s.hif.admitted.filter hit
  (l.length, l.foldl (fun t a => refuse a.ref stAbort u 0 t) s)

/-- Whether an admitted command is one of a list. -/
def admIn (l : List CmdRef) (a : Adm) : Bool := l.any (fun r => r.ring == a.ref.ring && r.dindex == a.ref.dindex)

/-- Operations of engine 3. -/
def loseOps (s : State) : Nat × State :=
  let x := abortCmds 9 (admIn (s.sec.ops.map CipherOp.ref)) s
  (x.1, { x.2 with sec := { x.2.sec with ops := [] } })

/-- `IMG_SEND` commands whose symbols are being generated. -/
def loseRq (s : State) : Nat × State :=
  let x := abortCmds 7 (admIn (s.adp.rq.map RqReq.ref)) s
  (x.1, { x.2 with adp := { x.2.adp with rq := [] } })

def loseCtxs (s : State) : Nat × State :=
  (s.adp.ctxs.length, sweepTombs (s.adp.ctxs.foldl (fun u c => dropCtx c u) s))

/-- A staged transmission that is lost: its frame completes `ABORT_RESET`. -/
def resetTx (t : Tx) (s : State) : State :=
  let u := cellOut (if t.kind = .ack then 15 else 11) t.asn t.sfh t.node (dropCharge t.id (dropTx t.id s))
  match t.frame with
  | some f => frameDone f stAbort u
  | none => u

def loseTxs (hit : Tx → Bool) (s : State) : Nat × State :=
  let l := s.tx.txs.filter hit
  (l.length, l.foldl (fun u t => resetTx t u) s)

def loseEth (p : Nat) (s : State) : Nat × State :=
  ((ethPort s p).fifo.length + (ethPort s p).out.length, modEth p (fun x => { x with fifo := [], out := [] }) s)

def loseLink (s : State) : Nat × State := (0, if s.pair.link then linkLost s else s)

/-- Reset one subunit: what it holds and has not finished is lost; answers how many items. -/
def resetSub (unit sub : Nat) (s : State) : Nat × State :=
  match unit, sub with
  | 4, 1 => loseTxs (fun t => t.phase == .staged && t.yield.isNone) s
  | 7, 1 => loseRq s
  | 9, 7 => loseOps s
  | 12, p => if p < 2 then loseEth p s else (0, s)
  | 13, 0 => loseLink s
  | 3, d => (0, loseLocks (fun x => x.ch == d) 6 s)
  | _, _ => (0, s)

/-! ## The items a record names (Table 17-4) -/

/-- `n` more cells leak; the count holds at 2^32 - 1 (R553). -/
def leaked (n : Nat) (x : ErrSt) : ErrSt := { x with leak := min 0xFFFF_FFFF (x.leak + n) }

/-- Code 0x0102: steps 1, 2 and 4 of R304 as far as the words allow, then the entry is cleared. A broken word 9 leaves the
list unreachable: its frames never complete and their cells leak. -/
def loseEntry (i word : Nat) (s : State) : Nat × State :=
  match entryAt s i with
  | none => (0, s)
  | some n =>
    let ids := n.dl.filter (fun f => !(flying s).contains f)
    let gone := s.tx.frames.filter (fun f => n.dl.contains f.id)
    let t := if word = 9 then { s with
        tx := { s.tx with frames := s.tx.frames.filter (fun f => !n.dl.contains f.id) }
        err := leaked (sumNat (gone.map (fun f => f.cells.length))) s.err }
      else framesDone ids stNoNode s
    let u := freeCtxs i t
    ((if word = 9 then gone.length else ids.length) + (s.adp.ctxs.filter (fun c => c.node == i)).length,
      sweepTombs (withNodes (fun l => l.filter (fun m => m.idx != i)) u))

/-- The cells of a chain up to `w`. -/
def upTo (w : Nat) : List Nat → List Nat
  | [] => []
  | c :: t => if c = w then [c] else c :: upTo w t

/-- Cells of chains that lie behind the broken link word of cell `w` leak: no chain holds them any more. -/
def leakBehind (w : Nat) (s : State) : State :=
  let cut := fun (l : List Nat) => if l.contains w then upTo w l else l
  let lost := fun (l : List Nat) => l.length - (cut l).length
  let n := sumNat (s.tx.frames.map (fun f => lost f.cells)) + sumNat (s.que.egress.map (fun q => sumNat (q.map (fun i => lost i.cells)))) +
    sumNat (s.adp.ctxs.map (fun c => sumNat (c.frags.map (fun f => lost f.2.2)))) +
    sumNat (s.adp.img.map (fun x => match x with | some y => lost y.cells | none => 0))
  { s with
    tx := { s.tx with frames := s.tx.frames.map (fun f => { f with cells := cut f.cells }) }
    que := { s.que with egress := s.que.egress.map (fun q => q.map (fun i => { i with cells := cut i.cells })) }
    adp := { s.adp with
      ctxs := s.adp.ctxs.map (fun c => { c with frags := c.frags.map (fun f => (f.1, f.2.1, cut f.2.2)) })
      img := s.adp.img.map (fun x => x.map (fun y => { y with cells := cut y.cells })) }
    err := leaked n s.err }

/-- Replace the items of an egress queue that hold cell `w`: a record by a GAP, a packet by nothing. -/
def dropItems (w q : Nat) : List EgItem → List EgItem
  | [] => []
  | i :: t => if i.cells.contains w then (if 4 ≤ q then ⟨.gap 1 none, []⟩ :: dropItems w q t else dropItems w q t)
    else i :: dropItems w q t

/-- The item holding cell `w` in an egress queue is lost. -/
def loseQueued (w : Nat) (s : State) : Nat × State :=
  let hit := s.que.egress.flatMap (fun l => l.filter (fun i => i.cells.contains w))
  let q := releaseIn s (hit.flatMap EgItem.cells) s.que
  (hit.length, { s with que := { q with
    egress := (List.range 14).map (fun k => dropItems w k (s.que.egress.getD k [])) } })

/-- An image session that holds cell `w` is closed, with the commands that still need it. -/
def loseSession (w : Nat) (s : State) : Nat × State :=
  match (List.range 2).find? (fun k => ((sessAt s k).map (fun x => x.cells.contains w)).getD false) with
  | none => (0, s)
  | some k =>
    let x := abortCmds 10 (admIn ((s.adp.rq.filter (fun q => q.session == k)).map RqReq.ref)) s
    let cs := ((sessAt s k).map ImgSess.cells).getD []
    (x.1 + 1, { x.2 with
      que := releaseIn x.2 cs x.2.que
      adp := { x.2.adp with
        img := setAt x.2.adp.img k none
        rq := x.2.adp.rq.filter (fun q => q.session != k) } })

/-- Code 0x0103: the item that holds the cell is lost; behind a broken link word (SUB 65) cells leak. -/
def loseCell (w : Nat) (link : Bool) (s : State) : Nat × State :=
  let t := if link then leakBehind w s else s
  let fs := (t.tx.frames.filter (fun f => f.cells.contains w)).map Frame.id
  let u := framesDone fs stAbort t
  let cs := u.adp.ctxs.filter (fun c => (ctxCells c).contains w)
  let v := cs.foldl (fun x c => dropCtx c x) u
  let a := loseQueued w v
  let b := loseSession w a.2
  (fs.length + cs.length + a.1 + b.1, sweepTombs b.2)

/-- Code 0x0104: a cell word counts as invalid with CELLREF unchanged; a slotframe record (numbered behind the cell words, log
entry 64) goes at the next boundary, with `ABORT_RESET` for what it had staged. -/
def loseSched (w : Nat) (s : State) : Nat × State :=
  if w < 1_048_576 then (0, { s with sch := { s.sch with store := cellsPut w 0 0 s.sch.store } })
  else
    let k := w - 1_048_576
    let n := asnNow s + 1
    let t := { s with sch := { s.sch with sf := modAt k (fun l => l.map (fun u =>
      if u.rem.isNone then { u with rem := some (max n u.act) } else u)) s.sch.sf } }
    loseTxs (fun x => x.sfh == k && x.kind != .ack && withdrawn t n x) t

/-- Code 0x0108: the record that covers the word of the staging array, counted from the oldest record held. -/
def loseStaged : Nat → List JRec → List JRec
  | _, [] => []
  | w, r :: t => if 8 * w < r.len then t else r :: loseStaged (w - r.len / 8) t

/-- Code 0x010A: the packets of the queue are dropped; a GAP stands for records. -/
def loseQueue (q : Nat) (s : State) : Nat × State :=
  ((s.que.egress.getD q []).length, if q < 4 then emptyQueue q s else if q < 14 then gapAll q s else s)

/-- What the action of Table 17-4 does to the item a record names, and how many items that loses. -/
def damage (r : ErrRec) (s : State) : Nat × State :=
  match r.code with
  | 0x0102 => loseEntry r.where_ r.detail s
  | 0x0103 => loseCell r.where_ (r.sub == 65) s
  | 0x0104 => loseSched r.where_ s
  | 0x0107 => (0, { s with sec := zeroKeys s.sec })
  | 0x0108 => (0, { s with jrn := { s.jrn with staging := loseStaged r.where_ s.jrn.staging } })
  | 0x0109 => match s.adp.ctxs[r.where_]? with
    | some c => (1, sweepTombs (dropCtx c s))
    | none => (0, s)
  | 0x010A => loseQueue r.where_ s
  | 0x0110 => (0, { s with tbl := { s.tbl with
      pfxBad := match s.tbl.pfx[r.where_]? with
        | some p => (p.key, p.len) :: s.tbl.pfxBad
        | none => s.tbl.pfxBad } })
  | 0x0701 => (0, if s.hif.speed = 0 then s else linkDown s)
  | _ => (0, s)

/-- The action for a FIFO beyond its reset (Table 17-4): the engine's operations, which the reset of its request FIFO has counted; the
pair link. The reads and writes of FIFOs 35 and 36 are issued again and lose nothing (R401): a write of this model is issued and
confirmed within the row that makes it, so none stands to be counted in `HIF_REISSUE`. -/
def fifoAction (f : Nat) (s : State) : Nat × State :=
  if f = 26 then (0, (loseOps s).2)
  else if f = 27 then loseOps s
  else if f = 37 ∨ f = 38 then loseLink s
  else (0, s)

def isFifoCode (c : Nat) : Bool := c == 0x010B || c == 0x0301 || c == 0x0302
/-- Sources that are CORRECTED by themselves: raised to CONTAINED, they reset their subunit (R484). -/
def isCorrected (r : ErrRec) : Bool :=
  r.code == 0x0101 || r.code == 0x0106 || r.code == 0x0201 || r.code == 0x0204 || (isFifoCode r.code && r.detail == 28)

/-- The recovery of a CONTAINED error (R488). -/
def contain (r : ErrRec) (s : State) : Nat × State :=
  if isCorrected r then resetSub r.unit r.sub s
  else if isFifoCode r.code then fifoAction r.detail s
  else damage r s

/-! ## UNIT_FATAL (R489) -/

/-- Definitions of slotframes after their commands are lost: none that has not begun, no removal that has not come. -/
def sfLost (l : List SfUse) : List SfUse :=
  (l.filter (fun u => u.begun || u.actRef.isNone)).map (fun u => if u.remRef.isSome then { u with rem := none, remRef := none } else u)

/-- Moves and calibration runs of the RF ports end with their commands; carriers stop. -/
def loseRuns (s : State) : Nat × State :=
  let hit := fun (a : Adm) => (s.rf.spllRun.any (fun x => admIn [x.1] a)) || s.rf.ports.any (fun p =>
    admIn (p.waiting.map Prod.fst) a || p.calRun.any (fun x => admIn x.1.toList a))
  let x := abortCmds 1 hit (stopCarriers s)
  (x.1, { x.2 with rf := { x.2.rf with
    spllRun := none
    ports := x.2.rf.ports.map (fun p => { p with waiting := [], calRun := none }) } })

/-- What goes with the work of a whole subsystem, besides its commands. -/
def loseUnit (u : Nat) (s : State) : Nat × State :=
  match u with
  | 1 => loseRuns s
  | 2 => (0, stopCarriers s)
  | 3 => (0, loseLocks (fun _ => true) 6 s)
  | 5 => (s.herd.decs.length + (s.sch.writes.filter (fun q => q.ref.isNone)).length, { s with
      sch := { s.sch with
        sf := s.sch.sf.map sfLost
        writes := [] }
      pwr := { s.pwr with preparing := false, commit := none, later := [] }
      time := { s.time with step := none }
      herd := { s.herd with items := [], decs := [] } })
  | 7 =>
    let x := loseRq s
    let y := loseCtxs x.2
    (x.1 + y.1, y.2)
  | 9 =>
    let x := loseOps s
    (x.1, { x.2 with sec := { x.2.sec with swRef := none } })
  | 11 => (0, if s.hif.speed = 0 then s else linkDown s)
  | 13 => loseLink s
  | _ => (0, s)

/-- Ports of a subsystem that has gone offline: RF ports are held OFF, Ethernet ports are down (Table 17-5). -/
def unitPorts (u : Nat) (s : State) : State :=
  if u = 1 ∨ u = 2 then { s with rf := { s.rf with ports := s.rf.ports.map (fun p => { p with
    st := .off
    trans := none
    femRow := 0 }) } }
  else if u = 12 then ethEval 1 (ethEval 0 s)
  else s

/-- Take a subsystem offline (R489); a unit that executes another's journal stops at once (R493). -/
def unitFatal (r : ErrRec) (s : State) : Nat × State :=
  let d := damage r s
  let a := loseUnit r.unit d.2
  let b := abortCmds r.unit (fun x => ownerOf x.opcode == r.unit) a.2
  let t := unitPorts r.unit { b.2 with err := { b.2.err with offline := b.2.err.offline ++ [r.unit] } }
  let v := freezeFor 2 (sendMsi (s.regF 0xE0004 21 16) t)
  (d.1 + a.1 + b.1, if v.pair.follows then event 0x0D03 [asnNow v, r.unit, 0, 0] (enterDiverged 4 false v) else v)

/-! ## The power handshake (R507, R508) -/

/-- A refusal of the power handshake: latched, `PWR_ENTER` completes `BAD_STATE`, `PWR_REFUSED` is raised, admission
resumes. -/
def pwrRefuse (r : CmdRef) (unit detail : Nat) (s : State) : State :=
  let t := refuse r stBadState unit detail { s with pwr := { s.pwr with
    preparing := false
    commit := none
    refuse := (unit, detail) } }
  event 0x0E02 [unit, detail] t

/-- An error between the handshake and the commit withdraws the READY of the subsystem it names (R508). -/
def pwrWithdraw (unit : Nat) (s : State) : State :=
  match s.pwr.commit with
  | some c => if s.pwr.preparing then pwrRefuse c.ref unit 0x0116 s else s
  | none => s

/-! ## Handling (R483) -/

/-- A restarted subsystem that fails within 1 s (R490). -/
def restartFailed (s : State) (r : ErrRec) : Bool :=
  s.err.restarted.any (fun x => x.1 == r.unit && decide (r.time < x.2 + 1_000_000_000))

/-- The stop of R491, with the power change that was pending. -/
def fatalStop (r : ErrRec) (s : State) : State :=
  let t := eventIf (restartFailed s r) 0x0E41 [r.unit, 1] { s with err := { s.err with
    fifo := s.err.fifo.drop 1
    busy := false } }
  let u := deviceFatal { r with cls := 3 } (damage r t).2
  { u with pwr := { u.pwr with preparing := false, commit := none, later := [] } }

/-- The record at the head is under recovery; it gives the number of items lost. -/
def underRecovery (n : Nat) (s : State) : State :=
  { s with err := { s.err with
      busy := true
      fifo := modAt 0 (fun r => { r with lost := min 65535 (r.lost + n) }) s.err.fifo } }

/-- `ERROR_RECORD_HANDLE` (R483, R488 to R491). -/
def execErrorRecordHandle (s : State) : Res :=
  .next (match s.err.fifo with
    | r :: _ =>
      if !s.up || s.err.busy then s
      else if handledAs s r = 3 then fatalStop r s
      else
        let t := pwrWithdraw r.unit s
        let x := if r.cls = 2 then unitFatal r t else contain r t
        underRecovery x.1 x.2
    | [] => s)

/-- `ERROR_RECOVERY_DONE` (R483, R486): the record is offered to the event ring and its entry freed; with no record left, the
subunits that await a reset take it. -/
def execErrorRecoveryDone (s : State) : Res :=
  .next (match s.err.fifo with
    | r :: l =>
      if !s.up || !s.err.busy then s
      else
        let t := postErr r { s with err := { s.err with fifo := l, busy := false } }
        if l.isEmpty then
          t.err.pendRst.foldl (fun u p => (resetSub p.1 p.2 u).2) { t with err := { t.err with pendRst := [] } }
        else t
    | [] => s)

/-! ## Tamper alarms (R349) -/

/-- A wake source is accepted in KEEP (R515, R516): MAIN_EN, and HOST_WAKE_N where it is selected. The first one counts. -/
def startWake (cause : Nat) (s : State) : State :=
  if s.pwr.waking.isSome then s
  else { s with pwr := { s.pwr with
    waking := some cause
    cause := cause
    mainEn := true
    hostWake := s.regB 0x10024 4 } }

/-- Vault, key cache and key unit are zeroised, with the replay key store; the alarm is counted and logged (R349). -/
def tamperKeys (bit : Nat) (s : State) : State :=
  bump 0xC0048 { s with
    sec := { zeroKeys s.sec with
      tlock := true
      rootOk := false
      tampLog := ((bit, slckNow s) :: s.sec.tampLog).take 8 }
    pair := { s.pair with store := [], masters := [], hostKeys := [], agree := none, kpair := none } }

/-- The operations of engine 3 end: a streaming decryption has posted its interim completion and is scrubbed, any other
completes `TAMPER_LOCKED` (Table 11-11). -/
def tamperOp (s : State) (q : CipherOp) : State :=
  if q.stream then
    let t := post q.ref stUntrusted 9 0 0 s
    refuse q.ref stAuthFail 9 0 (if s.regB 0xC0058 0 then writeOut q.args.outAddr (zeros q.args.inLen) t else t)
  else refuse q.ref stTamper 9 0 s

/-- The response in RUN or WATCH. -/
def tamperRun (bit : Nat) (s : State) : State :=
  let t := s.sec.ops.foldl tamperOp s
  let u := match s.sec.swRef with
    | some r => refuse r stTamper 9 0 t
    | none => t
  let v := event 0x0904 [bit] (tamperKeys bit { u with sec := { u.sec with ops := [] } })
  raiseErr 0x0601 3 9 0 bit 0 0 v

/-- The filter of a source (Table 11-10) shows its alarm condition. The core and FCK checks run in RUN and WATCH only (R348); the
check for SLCK edges is armed by 1,024 of them since the power-on reset (R545). -/
def tampShows (s : State) (x : TampSrc) : Bool :=
  let on := s.pwr.st == .run || s.pwr.st == .watch
  match x with
  | .pin i high => decide (i < 2) && high != s.regB 0xC0040 (4 + i)
  | .mesh n => decide (2 ≤ n)
  | .vddAon mv => decide (mv < 1600) || decide (2050 < mv)
  | .vddCore mv => on && (decide (mv < 650) || decide (900 < mv))
  | .temp q => decide (q < -220) || decide (520 < q)
  | .fck kHz => on && (decide (kHz < 40_000) || decide (60_000 < kHz))
  | .slck => decide (1024 ≤ slckNow s)

/-- The bit of a source in Table 11-14. -/
def tampBit (x : TampSrc) : Nat :=
  match x with
  | .pin i _ => i
  | .mesh _ => 8
  | .vddAon _ => 12
  | .vddCore _ => 12
  | .temp _ => 13
  | .fck _ => 14
  | .slck => 14

/-- The source of bit `bit` shows its alarm condition for `hold` ns. -/
def tampStands (bit hold : Nat) (s : State) : State :=
  { s with sec := { s.sec with alarmAt := (bit, s.time.tb + hold) :: s.sec.alarmAt.filter (fun x => x.1 != bit) } }

/-- The response of the phase in which an alarm falls (Table 11-11). In OFF there is none: one that still stands is met at boot. -/
def tampRespond (bit : Nat) (s : State) : State :=
  match s.pwr.st with
  | .off => s
  | .keep => startWake 3 (tamperKeys bit s)
  | _ => if 6 ≤ s.pwr.phase then tamperRun bit s else tamperKeys bit s

/-- `TAMPER_ALARM` (R348, R349, R545): a filter shows a source's alarm condition. A DEVICE_FATAL stop does not hold
the response back (R491). -/
def execTamperAlarm (x : TampIn) (s : State) : Res :=
  let bit := tampBit x.source
  let t := tampStands bit x.hold s
  .next (if !tampShows s x.source then s else if tampEnabled s bit then tampRespond bit t else t)

end Sys2Proof.Machine
end

