-- ==== Sys2Proof/Machine/Power.lean ====
section
/-! DEFINITION. Power states: the handshake of `PWR_ENTER`, its commit, resets, cold boot, KEEP and its wake (R84, R85,
R223, R497 to R519, R523, R524, R531). -/
namespace Sys2Proof.Machine

def withPwr (f : PwrSt → PwrSt) (s : State) : State := { s with pwr := f s.pwr }

/-- Codes of Table 18-2's states, in its order (log entry 65). -/
def powerCode : PowerState → Nat
  | .run => 0
  | .watch => 1
  | .keep => 2
  | .off => 3

/-- Raise `PWR_STATE` (R519). -/
def pwrEvent (old new : PowerState) (cause : Nat) (s : State) : State :=
  event 0x0E01 [powerCode old, powerCode new, cause] s

/-! ## `PWR_ENTER` (R426, R505 to R507) -/

def pwrTarget (t : Nat) : PowerState := if t = 0 then .run else if t = 1 then .watch else .keep

/-- Channel slots that `PWR_WATCHSEL` selects. -/
def watchSel (s : State) : List Nat := (List.range 128).filter (fun ch => s.regB (0x10010 + 4 * (ch / 32)) (ch % 32))

/-- R506, target WATCH. -/
def watchSelBad (s : State) : Bool :=
  (watchSel s).isEmpty || decide (16 < (watchSel s).length) ||
    (watchSel s).any (fun ch => winPair (slotWin s.act ch) != b2n (s.regB 0x10008 0))

/-- Schedule banks that the active slotframe regions overlap (R510). -/
def usedBanks (s : State) : List Nat :=
  (List.range 4).filter (fun b => (List.range 64).any (fun k => match sfActive s k with
    | some u => decide (u.rec_.base < 262_144 * (b + 1)) && decide (262_144 * b < u.rec_.base + u.rec_.words)
    | none => false))

/-- R506, target KEEP: `PWR_RETAIN` has neither form of R510. -/
def retainBad (s : State) : Bool :=
  let nodes := s.regF 0x10004 19 0
  let sch := s.regF 0x10004 23 20
  !((nodes == 0xFFFFF && (usedBanks s).all (fun b => bitOf sch b)) || (nodes == 0 && sch == 0))

/-- Table 18-4: the first subsystem that refuses, in ascending order, with its DETAIL. -/
def pwrRefusal (s : State) (r : CmdRef) (t : PowerState) : Option (Nat × Nat) :=
  ([(s.time.step.isSome, 4, 0x0110),
    (t == .keep && s.adp.img.any Option.isSome, 7, 0x0111),
    (s.hif.admitted.any (fun a => !(a.ref.ring == r.ring && a.ref.dindex == r.dindex) &&
      a.opcode != 0x0501 && a.opcode != 0x0502), 11, 0x0113),
    (s.pair.st != .solo, 13, 0x0114),
    (t == .keep && s.jrn.frozen, 13, 0x0115)].find? (fun x => x.1)).map (fun x => (x.2.1, x.2.2))

/-- Resources that a change to `t` at ASN `n` removes: transmissions on them are withdrawn (R554). -/
def pwrWithdrawTx (t : PowerState) (n : Nat) (s : State) : State :=
  if t = .watch then withdraw n (fun x => x.port != 4 + b2n (s.regB 0x10008 1) && x.kind != .ack) s
  else withdraw n (fun x => x.kind != .ack) s

/-! ## The commit (R504, R505, R511, R513) -/

/-- WATCH: the channel slots that are not selected go idle, which is no loss; ports and Ethernet follow. -/
def enterWatch (s : State) : State :=
  let t := withPwr (fun p => { p with st := .watch, preparing := false, commit := none }) s
  let u := { t with rx := { t.rx with locks := t.rx.locks.filter (fun d => (watchSel s).contains d.ch) } }
  ethEval 1 (ethEval 0 (returnPorts u))

/-- RUN: ports and Ethernet follow. -/
def enterRun (s : State) : State :=
  ethEval 1 (ethEval 0 (returnPorts (withPwr (fun p => { p with st := .run, commit := none }) s)))

/-- Frames on downlink lists by ascending node index, then the BULK queue; contexts; packets for Ethernet (Table 18-7). -/
def keepDrop (s : State) : State :=
  let ids := s.tbl.nodes.flatMap Node.dl ++ s.tx.bulk
  let t := framesDone ids stAbort { s with tx := { s.tx with txs := [] } }
  let u := t.adp.ctxs.foldl (fun v c => dropCtx c v) t
  [0, 1, 2, 3].foldl (fun v q => bumpN (0xD00C0 + 4 * q) (v.que.egress.getD q []).length (emptyQueue q v)) u

/-- Write every completion that is made on every enabled ring. -/
def flushCpl (s : State) : State :=
  if !s.dma then s
  else { s with hif := { s.hif with
    cpl := (List.range 16).map (fun c =>
      let x := s.hif.cpl.getD c CplRing.reset
      if ringEn s (cplCtl c) then { x with slots := x.slots.map (fun y => match y.st with
        | .done v => { y with st := .valid v }
        | _ => y) }
      else x) } }

/-- Write the records queued for ring `d` while it has room. -/
def flushRing (d : Nat) : Nat → State → State
  | 0, s => s
  | n + 1, s =>
    match s.hif.dring[d]? with
    | some x =>
      if s.dma && ringEn s (dlvCtl d) && x.out.length + 1 < ringSize s (dlvCtl d) then
        flushRing d n (deliverHead d x (s.que.egress.getD (dlvQueue d) []) s)
      else s
    | none => s

/-- Records still unwritten are dropped and counted in LOST. -/
def flushAll (s : State) : State :=
  (List.range 10).foldl (fun u d => dropWaiting d (flushRing d (u.que.egress.getD (dlvQueue d) []).length u)) s

/-- The timebase at the next SLCK edge. -/
def nextEdge (s : State) : Nat := s.pwr.slckTb + ceilDiv ((slckNow s + 1 - s.pwr.slck) * s.time.ratio) (2 ^ 32)

/-- The KEEP commit (Table 18-7). Its parts take no time in the model but for the wait for the SLCK edge at which T0 and C0 are
recorded (R84, log entry 66). -/
def enterKeep (c : PwrCommit) (s : State) : State :=
  let t := closeJournal 0 (keepDrop (pwrEvent s.pwr.st .keep 0 s))
  let v := flushCpl (done c.ref (flushAll t))
  let c0 := slckNow v + 1
  let u := reach (nextEdge v) v
  { u with
    time := { u.time with
      keepT0 := u.time.tb
      keepSub := u.time.sub
      keepC0 := c0 }
    rf := { u.rf with
      ports := u.rf.ports.map (fun p => { p with st := .off, trans := none, carriers := [], femRow := 0, linger := none, femUntil := none })
      coexReq := false
      coexPri := false }
    rx := { u.rx with locks := [] }
    pair := { u.pair with activeOut := false }
    pwr := { u.pwr with
      st := .keep
      slck := c0
      slckTb := u.time.tb
      bank := none
      preparing := false
      commit := none
      later := []
      wakeAfter := c.wakeAfter
      waking := none
      kept := u.regF 0x10004 19 0 != 0
      mainEn := false
      hostWake := false } }

/-- The change takes effect; a further command to RUN that has come due completes as well. -/
def pwrCommit (c : PwrCommit) (s : State) : State :=
  match c.target with
  | .keep => enterKeep c s
  | .watch => done c.ref (pwrEvent s.pwr.st .watch 0 (enterWatch s))
  | _ => done c.ref (pwrEvent s.pwr.st .run 0 (enterRun s))

/-- `PWR_COMMIT` (R505, R513): at offset 0 of the commit ASN. -/
def execPwrCommit (s : State) : Res :=
  .next (if !s.up then s
    else match s.pwr.commit with
      | some c => if c.asn ≤ nowFor s then pwrCommit c s else s
      | none =>
        (s.pwr.later.filter (fun c => decide (c.asn ≤ nowFor s))).foldl (fun t c => done c.ref t)
          (withPwr (fun p => { p with later := p.later.filter (fun c => !decide (c.asn ≤ nowFor s)) }) s))

/-- The change is accepted: at once when the timebase is not loaded, else at its ASN. -/
def pwrAccept (r : CmdRef) (t : PowerState) (wakeAfter : Nat) (s : State) : State :=
  let n := namedAsn s r.asn
  let c : PwrCommit := ⟨r, t, n, wakeAfter⟩
  if !s.time.loaded then pwrCommit c s
  else if t = .run ∧ s.pwr.commit.isSome then withPwr (fun p => { p with later := p.later ++ [c] }) s
  else if t = .run then withPwr (fun p => { p with commit := some c }) s
  else withPwr (fun p => { p with commit := some c, preparing := true }) (pwrWithdrawTx t n s)

def doPwrEnter (r : CmdRef) (target wakeAfter : Nat) (s : State) : State :=
  let t := pwrTarget target
  checked r [(decide (2 < target), stBad, 5, 0x000B),
    (t == s.pwr.st || (wakeAfter != 0 && t != .keep), stBad, 5, 0),
    (needsTime s r.asn, stUnlocked, 5, 0),
    (tooSoon s r.asn, stBad, 5, 0x000B),
    (t == .watch && watchSelBad s, stBad, 5, 0x0101),
    (t == .keep && retainBad s, stBad, 5, 0x0102)]
    (fun s => match (if t = .run then none else pwrRefusal s r t) with
      | some (u, d) => pwrRefuse r u d s
      | none => pwrAccept r t wakeAfter s) s

/-- `PWR_ENTER` (R426): the handshake within the admission. -/
def execPwrEnter (r : CmdRef) (target wakeAfter : Nat) (s : State) : Res :=
  .next (runCmd r 0x0701 1 0 (.pwrEnter target wakeAfter) s (doPwrEnter r target wakeAfter))

/-! ## Resets (R499, R523) -/

/-- Registers of the always-on domain. -/
def alwaysOn (a : Nat) : Bool := a == 0x10020 || a == 0x10024 || a == 0xC0040

/-- The alarm conditions that stand, on a timebase that restarts at 0. -/
def alarmsLeft (s : State) : List (Nat × Nat) := s.sec.alarmAt.map (fun a => (a.1, a.2 - s.time.tb))

/-- What a main reset leaves of the security state: fuses, vault, TLOCK, tamper log (R499, R327, R350). -/
def secMain (s : State) : SecSt := { SecSt.reset with
  lc := s.sec.lc
  ownerId := s.sec.ownerId
  ownerTamp := s.sec.ownerTamp
  otpBad := s.sec.otpBad
  fuseErr := s.sec.fuseErr
  tlock := s.sec.tlock
  vfuseOk := s.sec.vfuseOk
  slots := s.sec.slots
  cur := s.sec.cur
  sw := s.sec.sw
  fcNext := s.sec.fcNext
  fcPre := s.sec.fcPre
  fcRes := s.sec.fcRes
  fcAck := s.sec.fcAck
  fcValid := s.sec.fcValid
  fcLow := s.sec.fcLow
  tampLog := s.sec.tampLog
  alarmAt := alarmsLeft s }

/-- A main reset with cause `cause`, waiting for the boot. The records of the model itself stay. -/
def mainReset (cause : Nat) (s : State) : State := { State.reset with
  pending := s.pending
  rdata := s.rdata
  fresh := s.fresh
  regs := s.regs.filter (fun p => alwaysOn p.1)
  rf := { RfSt.reset with polLatch := s.rf.polLatch }
  sec := secMain s
  pair := { PairSt.reset with failIn := s.pair.failIn }
  err := { ErrSt.reset with fatal := s.err.fatal }
  pwr := { s.pwr with
    st := .run
    preparing := false
    commit := none
    later := []
    cause := cause
    slck := slckNow s
    slckTb := 0
    bank := none
    refuse := (0, 0)
    phase := 0
    warm := false
    bistFail := false
    waking := none
    kept := false
    mainEn := true
    hostWake := false } }

/-- Entry to OFF: a main reset, and the vault is zeroised (R498, R503). -/
def enterOff (cause : Nat) (s : State) : State :=
  let t := mainReset cause s
  { t with
    sec := zeroKeys t.sec
    pwr := { t.pwr with st := .off, pwrOk := false } }

/-- A power-on reset of the always-on domain (R499): fuses and the BOR and TAMP flags survive. -/
def powerOn (cause : Nat) (s : State) : State := { State.reset with
  pending := s.pending
  rdata := s.rdata
  fresh := s.fresh
  regs := s.regs.filter (fun p => p.1 == 0x10020)
  sec := { SecSt.reset with
    lc := s.sec.lc
    ownerId := s.sec.ownerId
    ownerTamp := s.sec.ownerTamp
    otpBad := s.sec.otpBad
    fuseErr := s.sec.fuseErr
    vfuseOk := s.sec.vfuseOk
    alarmAt := alarmsLeft s }
  pair := { PairSt.reset with failIn := s.pair.failIn }
  pwr := { PwrSt.reset with
    cause := cause
    pwrOk := s.pwr.pwrOk
    perst := s.pwr.perst } }

/-- `POWER_ON_RESET` (R497): VDD_AON rises. -/
def execPowerOnReset (s : State) : Res := .next (powerOn 0 s)

/-- `BROWN_OUT` (R501): BOR is set, and TAMP when an enabled VDD_AON alarm stands; the device waits in OFF. -/
def execBrownOut (s : State) : Res :=
  let t := powerOn 4 s
  .next (t.setReg 0x10020 (t.reg 0x10020 ||| (if tampEnabled s 12 && tampNow s 12 then 0x300 else 0x100)))

/-- `PERST_ASSERT` (R499, R51): a main reset outside KEEP; streams end at once, and a CLOSE record would go nowhere. -/
def execPerstAssert (s : State) : Res :=
  .next (match s.pwr.st with
    | .keep => s
    | .off => withPwr (fun p => { p with perst := true }) s
    | _ => withPwr (fun p => { p with perst := true }) (mainReset 6 s))

/-- Return to KEEP when PWR_OK falls during a wake, with the records of R84 unchanged (R516). -/
def backToKeep (s : State) : State := withPwr (fun p => { p with
  pwrOk := false
  waking := none
  mainEn := false
  hostWake := false }) s

/-- Return to KEEP out of a wake whose cells have not executed: the banks are as they were (R516). -/
def returnKeep (b : KeepBank) (s : State) : State :=
  let t := mainReset s.pwr.cause s
  backToKeep { t with
    regs := b.regs
    active := b.active
    time := b.time
    tbl := b.tbl
    sch := b.sch
    tx := { TxSt.reset with charges := b.charges, next := b.nextId }
    herd := b.herd
    jrn := { t.jrn with seed := b.seed, drawn := b.drawn }
    rf := { t.rf with ports := b.cmds.map (fun c => { Port.reset with cmd := c }) }
    sec := { t.sec with alarmAt := t.sec.alarmAt.map (fun a => (a.1, a.2 + b.time.tb)) }
    pwr := { t.pwr with
      st := .keep
      slckTb := b.time.tb
      kept := b.kept } }

/-- `PWR_OK_FALL` (R498, R513, R516). -/
def execPwrOkFall (s : State) : Res :=
  .next (match s.pwr.st with
    | .keep => backToKeep s
    | .off => withPwr (fun p => { p with pwrOk := false }) s
    | _ => match s.pwr.bank with
      | some b => returnKeep b s
      | none => enterOff 5 s)

/-! ## Boot (R517, R97, R98) -/

/-- FUSEERR (R315): a word other than those of the roots and of LC does not read. Words 96 to 127 hold no field. -/
def fuseErrOf (bad : List Nat) : Bool := bad.any (fun w => decide (24 ≤ w) && w != 25 && decide (w < 96))

/-- Enabled sources whose filter shows the alarm condition (R350). -/
def standing (s : State) : List Nat :=
  (s.sec.alarmAt.map Prod.fst).filter (fun b => tampEnabled s b && tampNow s b)

/-- Phase 2: an alarm that stands locks; a half-blown pair is completed while VFUSE is there, and the root is loaded unless TLOCK
stands (R317, R320, R349, R350). Each boot draws its values from the TRNG. -/
def bootKeys (r : State) : State :=
  let s := (standing r).foldl (fun u b => tamperKeys b u) r
  let x := s.sec
  let y := { x with lc := if x.vfuseOk && lcOf x.lc != 0 && !x.otpBad.contains 25 then blow x.lc (lcOf x.lc) true else x.lc }
  { s with
    fresh := s.fresh + 2
    sec := { y with
      rootOk := !y.tlock && rootHere y (lcIn y)
      cacheKey := Config.freeValue s.fresh
      rmaNonce := Config.freeValue (s.fresh + 1) } }

/-- A port whose verification failed is held in OFF (R98). -/
def calPort (ok : Bool) (p : Port) : Port := { p with failed := !ok, st := .off, trans := none, femRow := 0 }

/-- Set the outcome of each port's verification. -/
def calPorts (oks : List Bool) (l : List Port) : List Port :=
  (List.range 6).map (fun i => calPort (oks.getD i true) (l.getD i Port.reset))

/-- The results of the ports' start-up runs: each is reported (R98, R102). -/
def calReports (kind : Nat) (oks : List Bool) (s : State) : State :=
  (List.range 6).foldl (fun u i => calResult i kind (oks.getD i true) u.time.tb u) s

/-- Phases 1 to 6, with the OTP words `bad` uncorrectable (R315). A BIST failure stops the boot in phase 3. -/
def boot (oks : List Bool) (bistOk : Bool) (bad : List Nat) (s : State) : State :=
  let t := bootKeys (withPwr (fun p => { p with
    st := .run
    phase := if bistOk then 6 else 3
    warm := false
    bistFail := !bistOk
    pwrOk := true
    perst := false }) { s with sec := { s.sec with otpBad := bad, fuseErr := fuseErrOf bad } })
  if !bistOk then t
  else calReports 0 oks { t with
    rf := { t.rf with
      refOk := true
      spll := .locked
      ports := calPorts oks t.rf.ports }
    hif := { t.hif with ready := true }
    pair := { t.pair with activeOut := true } }

/-- `COLD_BOOT` (R517): out of OFF, or out of a main reset. -/
def execColdBoot (calOk : List Bool) (x : BistIn) (s : State) : Res :=
  .next (if s.pwr.st = .off ∨ (s.pwr.st = .run ∧ s.pwr.phase = 0) then boot calOk x.ok x.otpBad s else s)

/-! ## The software reset (R531) -/

def resetKey : Word := 0xD0A5_0001

/-- The completions of the commands that had not completed, as they stand in host memory. -/
def finalCpls (s : State) : List Cpl := s.hif.admitted.map (fun a => mkCpl a stAbort 14 0 0 s)

/-- Table 19-7 up to the main reset: with the host interface working, the commands complete `ABORT_RESET`, and a GAP stands for
the records still queued. -/
def softStop (s : State) : State :=
  let t := closeJournal 1 (stopCarriers s)
  if t.offline 11 || t.hif.speed == 0 then { t with hif := { t.hif with final := [], finalRecs := [] } }
  else
    let u := t.hif.admitted.foldl (fun v a => refuse a.ref stAbort 14 0 v) t
    let v := gapRings u
    { v with hif := { v.hif with
      final := finalCpls t
      finalRecs := (List.range 9).flatMap (fun d => ((v.hif.dring.getD d DRing.reset).out).map (fun x => (d, x))) } }

/-- The main reset of R531: staging keeps its records, the PCI Express link and configuration space stay. -/
def softReset (s : State) : State :=
  let t := softStop s
  let u := mainReset 6 t
  { u with
    jrn := { u.jrn with staging := t.jrn.staging }
    hif := { u.hif with
      busMaster := t.hif.busMaster
      d3hot := t.hif.d3hot
      speed := t.hif.speed
      width := t.hif.width
      final := t.hif.final
      finalRecs := t.hif.finalRecs } }

/-- `GLB_RESET_WRITE` (R531): the reset and the boot from phase 1. Whether the calibrations and the BIST of that boot pass is
free (log entry 67). -/
def execGlbResetWrite (value : Word) (s : State) : Res :=
  .next (if bar0 s && value == resetKey then
      let f := freshAt s
      boot ((List.range 6).map (fun i => bitOf f i)) (bitOf f 6) s.sec.otpBad (softReset (useFresh 1 s))
    else s)

/-! ## KEEP and its wake (R84, R85, R515, R516, R524) -/

/-- `WAKE_TIMER` (R515). -/
def execWakeTimer (s : State) : Res :=
  .next (if s.pwr.st == .keep && s.pwr.waking.isNone && s.pwr.wakeAfter != 0 then
      startWake 1 (withPwr (fun p => { p with slck := max p.slck (s.time.keepC0 + s.pwr.wakeAfter * 32_768) }) s)
    else s)

/-- `WAKE_PIN` (R515). -/
def execWakePin (s : State) : Res :=
  .next (if s.pwr.st == .keep && s.regB 0x10024 0 then startWake 2 s else s)

/-- A register that a wake restores: its writes are journaled and it is not of the HIF block; `QUE_POOL` (R524). -/
def retainedReg (a : Nat) : Bool :=
  alwaysOn a || (0xD0010 ≤ a && a < 0xD0038) ||
    (!(0xE0000 ≤ a && a < 0xF0000) && (match regRow a with | some r => r.jrn | none => false))

/-- Elapsed ns, to the nearest, and estimated error of a wake at SLCK count `c1` (R85). -/
def wakeElapsed (x : TimeSt) (c1 : Nat) : Nat := ((c1 - x.keepC0) * x.ratio + 2 ^ 31) / 2 ^ 32
def wakeEst (x : TimeSt) (c1 : Nat) : Rat :=
  ((wakeElapsed x c1 * x.slckUnc : Nat) : Rat) / 100_000_000 + (x.ratio : Rat) / 4_294_967_296

/-- The state chosen by R85. -/
def wakeState (s : State) (est : Rat) : TimeState :=
  if !s.time.loaded || s.time.slckUnc == 0xFFFF || decide (((s.regN 0x30018 * 1000 : Nat) : Rat) < est) then .acquire
  else if est ≤ ((s.regN 0x30010 * 1000 : Nat) : Rat) then .holdover
  else .drifted

/-- The time state at a wake: what the always-on domain and the state bank kept (R84, R511). The loop's last reference stands
(R72), and an entry to HOLDOVER holds the mean adjustment (R74). -/
def wakeTime (x : TimeSt) (c1 : Nat) (est : Rat) (n : TimeState) : TimeSt :=
  let t := x.keepT0 + wakeElapsed x c1
  let m := if n = .holdover ∧ x.st ≠ .holdover ∧ !x.samples.isEmpty then meanRat (x.samples.map Prod.snd) else x.f
  { TimeSt.reset with
    tb := t
    sub := x.keepSub
    loaded := x.loaded
    epochSet := x.epochSet
    epoch := x.epoch
    slotLen := x.slotLen
    st := x.st
    fi := if n = .holdover ∧ x.st ≠ .holdover then m else x.fi
    f := m
    loopAt := x.loopAt
    slewAt := t
    samples := x.samples
    sampled := x.sampled
    freqUnc := x.freqUnc
    e0 := est
    accAt := t
    recon := some est
    stepSum := x.stepSum
    ratio := x.ratio
    ratios := x.ratios
    slckUnc := x.slckUnc
    keepT0 := x.keepT0
    keepSub := x.keepSub
    keepC0 := x.keepC0
    sinceWake := true }

/-- A retained node entry: last heard as many slots later as the device slept (R223); no announcement is pending. -/
def wakeNode (slots : Nat) (n : Node) : Node :=
  { n with
    asnl := (n.asnl + slots) % 2 ^ 32
    synth := true
    dl := []
    herd := { n.herd with pend := 0 } }

/-- Retained schedule words (R509). -/
def keptWords (s : State) : List (Nat × Word) := s.sch.store.filter (fun p => s.regB 0x10004 (20 + p.1 / 262_144))

/-- The banks as they stand in KEEP (R509 to R511). -/
def bankOf (s : State) : KeepBank where
  time := s.time
  tbl := s.tbl
  sch := s.sch
  charges := s.tx.charges
  nextId := s.tx.next
  herd := s.herd
  regs := s.regs
  active := s.active
  seed := s.jrn.seed
  drawn := s.jrn.drawn
  cmds := s.rf.ports.map Port.cmd
  kept := s.pwr.kept

/-- The state bank put back (R511) on the reset device `t`; `s` is the state in KEEP. -/
def restoreBank (c1 : Nat) (n : TimeState) (s t : State) : State :=
  let x := wakeTime s.time c1 (wakeEst s.time c1) n
  let slots := x.asn - (s.time.keepT0 - x.epoch) / max 1 x.l
  { t with
    regs := s.regs.filter (fun p => retainedReg p.1)
    active := s.active
    time := x
    tbl := { TblSt.reset with
      nodes := if s.pwr.kept then s.tbl.nodes.map (wakeNode (if x.running then slots else 0)) else []
      agePos := s.tbl.agePos
      ageAsn := s.tbl.ageAsn
      learned := s.tbl.learned
      learnAt := s.tbl.learnAt
      bank := s.tbl.bank
      pfx := s.tbl.pfx
      pfxBad := s.tbl.pfxBad }
    sch := if s.pwr.kept then { SchSt.reset with sf := s.sch.sf, store := keptWords s, maps := s.sch.maps } else SchSt.reset
    tx := { TxSt.reset with charges := s.tx.charges.filter (fun c => c.kept), next := s.tx.next }
    herd := if s.pwr.kept then { s.herd with items := [], decs := [], anns := [], sixp := [], holdoff := [], busy := [] }
      else HerdSt.reset
    jrn := { t.jrn with seed := s.jrn.seed, drawn := s.jrn.drawn }
    sec := { t.sec with alarmAt := t.sec.alarmAt.map (fun a => (a.1, a.2 + x.tb)) }
    pwr := { t.pwr with bank := some (bankOf s) } }

/-- The free lists of the restored pool layout. -/
def freshPools (s : State) : State := { s with que := { s.que with free := (List.range 5).map (freshFree s) } }

/-- A port enters its commanded state (Table 18-9). -/
def wakePort (s : State) (i : Nat) (ok : Bool) (cmd : PortState) (p : Port) : Port :=
  let st := if !ok || cmd == .off || (4 ≤ i && s.regF (txCtl i) 1 0 == 1) then .off else cmd
  { p with
    failed := !ok
    cmd := cmd
    st := st
    femRow := if 4 ≤ i && st == .idle then 2 else 0 }

/-- The radio side after a wake: a port whose verification fails runs the full start-up calibration, whose outcome is
`again`. -/
def wakeRadio (oks : List Bool) (again : Nat → Bool) (s t : State) : State :=
  { t with rf := { t.rf with
      refOk := true
      spll := .locked
      ports := (List.range 6).map (fun i => wakePort t i (oks.getD i true || again i)
        ((s.rf.ports.getD i Port.reset).cmd) (t.rf.ports.getD i Port.reset)) } }

/-- The results of the full runs (R98, R516). -/
def wakeCals (oks : List Bool) (again : Nat → Bool) (s : State) : State :=
  ((List.range 6).filter (fun i => !oks.getD i true)).foldl (fun u i => calResult i 0 (again i) u.time.tb u) s

/-- The keys and the power record of a wake whose bank stands in `a`. -/
def wakeKeys (c1 : Nat) (a : State) : State :=
  bootKeys { a with
    pair := { a.pair with activeOut := true }
    pwr := { a.pwr with
      phase := 6
      warm := true
      pwrOk := true
      slck := c1
      slckTb := a.time.tb } }

/-- The rest of Table 18-9 once the bank stands in `a`: keys, journal, time state `n`, reports and ports. -/
def wakeServe (cause c1 : Nat) (n : TimeState) (est : Rat) (oks : List Bool) (s a : State) : State :=
  let again := fun i => bitOf (freshAt s) i
  let b := wakeKeys c1 a
  let c := switchIfDue (asnNow b) (if n = .acquire then b else openJournal 1 b)
  let d := event 0x040A [c1, wakeElapsed s.time c1, ratFloor est, timeCode n] c
  let e := pwrEvent .keep .run cause (setTimeState n (closeSixps (freshPools d)))
  let g := wakeCals oks again (wakeRadio oks again s e)
  { g with hif := { g.hif with ready := true } }

/-- The wake of Table 18-9 at SLCK count `c1`, with cause `cause`. -/
def wake (cause c1 : Nat) (oks : List Bool) (s : State) : State :=
  let est := wakeEst s.time c1
  let n := wakeState s est
  wakeServe cause c1 n est oks s (restoreBank c1 n s (mainReset cause (useFresh 1 s)))

/-- `KEEP_WAKE` (R516): `c1` is the SLCK count of its edge, `verifyOk` the outcome of each port's verification. -/
def execKeepWake (c1 : Nat) (verifyOk : List Bool) (s : State) : Res :=
  .next (match s.pwr.st, s.pwr.waking with
    | .keep, some cause => wake cause (max c1 s.pwr.slck) verifyOk s
    | _, _ => s)

end Sys2Proof.Machine
end

