-- ==== Sys2Proof/Machine/HostCmd.lean ====
section
/-! DEFINITION. Admission of a descriptor read from a command ring (R391, R393, R406): the command its octets spell (Tables 14-2 to
14-12), and the command's meaning at its place in the journal. -/
namespace Sys2Proof.Machine

/-- The `n` input octets at address `i` of the descriptor's command. -/
def dataAt (d : RawDesc) (i n : Nat) : List Octet := (d.data.getD i []).take n ++ zeros (n - (d.data.getD i []).length)

/-- The cell of `NODE_INSERT` (Table 14-6). -/
def insertCellOf (a : List Octet) : Option InsertCell :=
  if bitOf (argN a 14 1) 1 then
    some ⟨argN a 16 1, argN a 17 1, argN a 18 2, argN a 20 1, BitVec.ofNat 4 (argN a 21 1)⟩
  else none

/-- The entries of `SCHED_CELLS_WRITE` (Table 14-4). -/
def cellEntriesOf (a : List Octet) : List CellEntry :=
  (List.range (argN a 1 1)).map (fun i =>
    ⟨argN a (4 + 8 * i) 2, argN a (6 + 8 * i) 1, BitVec.ofNat 32 (argN a (8 + 8 * i) 4)⟩)

/-- Octets of a nonce (R343): CCM*, GCM, none for CMAC, CTR. -/
def nonceLen (mode : Nat) : Nat :=
  match mode with
  | 0 => 13
  | 1 => 12
  | 2 => 0
  | _ => 16

/-- The arguments of `SEC_CIPHER` (Table 14-10); its input octets stand at KARG of a HOST key, NONCEADDR, AADADDR, INADDR, and TAGADDR
where a tag is verified. -/
def cipherArgsOf (d : RawDesc) : CipherArgs :=
  let a := dArgs d
  { mode := argN a 0 1
    dir := argN a 1 1
    ksrc := argN a 2 1
    gensel := argN a 3 1
    tagLen := argN a 4 1
    keyLen := argN a 5 1
    karg := argN a 8 8
    outAddr := argN a 48 8
    tagAddr := argN a 56 8
    key := if argN a 2 1 = 0 then dataAt d 0 (argN a 5 1) else []
    nonce := dataAt d 1 (nonceLen (argN a 0 1))
    aad := dataAt d 2 (argN a 32 4)
    input := dataAt d 3 (argN a 36 4)
    tag := if argN a 1 1 = 1 then dataAt d 4 (argN a 4 1) else []
    outOk := d.outOk }

/-- Commands of groups 0x01xx to 0x04xx (Tables 14-2 to 14-6). -/
def lowCmdOf (op : Nat) (a : List Octet) : HostCmd :=
  match op with
  | 0x0101 => .cfgSnapshotRead (argN a 0 8) (argN a 8 4)
  | 0x0110 => .timeSetEpoch (argN a 0 8) (argN a 8 1)
  | 0x0111 => .timeStep (argN a 0 8) (argN a 8 1)
  | 0x0112 => .timeForce
  | 0x0201 => .rfPortSet (argN a 0 1) (argN a 1 1)
  | 0x0202 => .rfCalibrate (argN a 0 1)
  | 0x0203 => .rfBankApply
  | 0x0301 => .schedSlotframeSet ⟨argN a 0 1, bitOf (argN a 1 1) 0, bitOf (argN a 1 1) 1, argN a 2 1, argN a 3 1, argN a 4 2,
      argN a 6 3 % 2 ^ 20⟩
  | 0x0302 => .schedCellsWrite (argN a 0 1) (cellEntriesOf a)
  | 0x0310 => .herdModeSet (argN a 0 1) (argN a 1 1) (argN a 2 1) (argN a 3 1)
  | 0x0311 => .herdNodeSet ⟨argN a 0 3, BitVec.ofNat 4 (argN a 3 1 / 16), BitVec.ofNat 4 (argN a 3 1), BitVec.ofNat 8 (argN a 4 1),
      argN a 5 1, BitVec.ofNat 8 (argN a 6 1), signedOf 8 (argN a 7 1), argN a 8 1⟩
  | 0x0312 => .herdNodeRead (argN a 0 3) (argN a 4 8)
  | 0x0401 => .nodeInsert ⟨argN a 0 8, argN a 8 4, argN a 12 1, argN a 13 1, bitOf (argN a 14 1) 0, insertCellOf a⟩
  | 0x0402 => .nodeRemove (argN a 0 4) (argN a 4 8)
  | 0x0403 => .nodeRead (argN a 8 1 == 1) (argN a 0 8) (argN a 16 8)
  | 0x0410 => .prefixInsert (beOf (slice a 0 16)) (argN a 16 1) (argN a 18 2)
  | _ => .prefixRemove (beOf (slice a 0 16)) (argN a 16 1)

/-- Commands of groups 0x05xx and 0x06xx (Tables 14-7 and 14-8). -/
def midCmdOf (op : Nat) (a : List Octet) (d : RawDesc) : HostCmd :=
  match op with
  | 0x0501 => .pktSend (dataAt d 0 (argN a 8 2))
  | 0x0502 => .bcastSend (dataAt d 0 (argN a 8 2)) (argN a 10 1) (argN a 11 1)
  | 0x0520 => .imgOpen ⟨argN a 0 1, argN a 2 2, argN a 4 4, argN a 8 2, argN a 10 1, argN a 12 2, argN a 14 2, beOf (slice a 16 16),
      argN a 32 8⟩
  | 0x0521 => .imgLoad (argN a 0 1) (argN a 4 4) (dataAt d 0 (argN a 8 4))
  | 0x0522 => .imgSend (argN a 0 1) (argN a 1 1) (argN a 2 3) (argN a 5 1)
  | 0x0523 => .imgClose (argN a 0 1)
  | 0x0601 => .secIdentity (argN a 0 8)
  | 0x0602 => .secAttest (argN a 0 1) (argN a 8 8) (beOf (slice a 16 32))
  | 0x0603 => .secKeyImport (dataAt d 0 (argN a 8 2)) (argN a 16 8)
  | 0x0604 => .secKeygenSwitch
  | 0x0605 => .secKeyClear
  | 0x0606 => .secFcAck (argN a 0 4) (argN a 4 2)
  | 0x0607 => .secFcRestore (argN a 0 4) (argN a 4 2)
  | 0x0608 => .secLcAdvance (argN a 0 1) (if argN a 0 1 = 3 then dataAt d 0 129 else []) d.fuseOk
  | 0x0609 => .secTamperAck
  | 0x060A => .secFuseWrite (argN a 0 1) (argN a 6 8) d.fuseOk
  | 0x060B => .romPatchLoad (dataAt d 0 (argN a 8 4))
  | _ => .secCipher (cipherArgsOf d)

/-- Commands of groups 0x07xx to 0x09xx (R426, Tables 14-11 and 14-12). -/
def highCmdOf (op : Nat) (a : List Octet) (d : RawDesc) : HostCmd :=
  match op with
  | 0x0701 => .pwrEnter (argN a 0 1) (argN a 2 4)
  | 0x0801 => .pairJoin (argN a 0 1)
  | 0x0802 => .pairTakeover
  | 0x0803 => .swapDrill (argN a 0 1)
  | 0x0804 => .pairSolo
  | 0x0810 => .journalCtl (bitOf (argN a 0 1) 0)
  | 0x0811 => .journalDump
  | 0x0812 => .replayEnter
  | 0x0813 => .replayFeed (dataAt d 0 (argN a 8 4))
  | 0x0901 => .diagNop
  | _ => .diagIqSnapshot (argN a 0 1) (argN a 1 1) (argN a 4 4) (argN a 8 4)

/-- The command that a well-formed descriptor spells. -/
def hostCmdOf (d : RawDesc) : HostCmd :=
  if dOp d < 0x0500 then lowCmdOf (dOp d) (dArgs d)
  else if dOp d < 0x0700 then midCmdOf (dOp d) (dArgs d) d
  else highCmdOf (dOp d) (dArgs d) d

/-- Input octets beside an inline descriptor: the argument buffer and what stands at the addresses it names (R391, R446). -/
def inputLen (c : HostCmd) (buf : Nat) : Nat :=
  match c with
  | .pktSend p => buf + p.length
  | .bcastSend p _ _ => buf + p.length
  | .imgLoad _ _ p => buf + p.length
  | .secKeyImport p _ => buf + p.length
  | .secLcAdvance _ p _ => p.length
  | .romPatchLoad p => p.length
  | .secCipher a => buf + min a.aadLen (cipherLimits a.mode).1 + min a.inLen (cipherLimits a.mode).2
  | .replayFeed p => buf + p.length
  | _ => buf

/-- A command of the rings at its place in the journal of the unit that admits it. -/
def doHost (r : CmdRef) (c : HostCmd) (s : State) : State :=
  match c with
  | .pwrEnter t w => doPwrEnter r t w s
  | .pairJoin k => doPairJoin r k s
  | .pairTakeover => doPairTakeover r s
  | .swapDrill k => doSwapDrill r k s
  | .pairSolo => doPairSolo r s
  | .journalDump => doJournalDump r s
  | .replayEnter => doReplayEnter r s
  | .replayFeed o => doReplayFeed r o s
  | .diagIqSnapshot w p n o => doDiagIqSnapshot r w p n o s
  | c => doShared r c s

/-- A descriptor is admitted: its command `c` takes its place, with `n` input octets, and the shadow word follows. -/
def enterDesc (r : Nat) (ref : CmdRef) (d : RawDesc) (n : Nat) (c : HostCmd) (s : State) : State :=
  shadowOut r (admitCmd ref (dOp d) (slotsNeeded d) n c
    { s with hif := { s.hif with cring := modAt r (takeDesc (ringSize s (cringCtl r))) s.hif.cring } })

/-- A descriptor that completes at its admission. -/
def endDesc (r : Nat) (ref : CmdRef) (d : RawDesc) (st un de : Nat) (s : State) : State :=
  refuse ref st un de (enterDesc r ref d 0 (.ended st un de) s)

/-- Commands that write an output buffer as they complete at admission (R410). -/
def writesOutput (op : Nat) : Bool := [0x0101, 0x0312, 0x0403, 0x0520, 0x0601, 0x0602, 0x0603].contains op

/-- A completion OK of a command whose output write failed on the bus (R410). -/
def CplSlot.outFailed (r : CmdRef) (x : CplSlot) : CplSlot :=
  match x.st with
  | .done c =>
    if x.ring = r.ring ∧ x.dindex = r.dindex ∧ c.status = stOk then
      { x with st := .done { c with status := stInternal, unit := 11, result := 0, detail := 5 } }
    else x
  | _ => x

/-- The output write of command `r` fails on the bus: no octets reach host memory and it completes INTERNAL_ERROR (R410). -/
def outputFails (r : CmdRef) (s : State) : State :=
  { s with hif := { s.hif with
      outBuf := []
      cpl := s.hif.cpl.map (fun x => { x with slots := x.slots.map (CplSlot.outFailed r) }) } }

/-- A command at its place, its output written unless the bus fails. -/
def runDesc (ref : CmdRef) (d : RawDesc) (s : State) : State :=
  let t := doHost ref (hostCmdOf d) s
  if writesOutput (dOp d) && !d.outOk then outputFails ref t else t

/-- The admission of the next descriptor of command ring `r` (R391, R393, R406): the checks of Table 13-10, the owner's common
checks, then the command. -/
def admitNext (r : Nat) (d : RawDesc) (x : CRing) (s : State) : State :=
  let ref := descRef r x (dTag d) (dAsn d)
  match gateOf s r (dOp d) (slotsNeeded d) with
  | .wait => s
  | g =>
    match admCheck s d, g, (formOf (dOp d)).bind (ownerCheck d) with
    | some (st, un, de), _, _ => endDesc r ref d st un de (bumpIf (de == 1) 0xE0008 s)
    | none, .stop st un de, _ => endDesc r ref d st un de s
    | none, _, some de => endDesc r ref d stBad (ownerOf (dOp d)) de s
    | none, _, none => runDesc ref d (enterDesc r ref d (inputLen (hostCmdOf d) (if dExt d then dArgLen d else 0)) (hostCmdOf d) s)

/-- `COMMAND_ADMIT` (R391, R393, R406): the oldest descriptor read from the ring is admitted once its completion ring has
room, and its command runs at its place. -/
def execCommandAdmit (ring : Nat) (s : State) : Res :=
  .next (match s.hif.cring[ring]? with
    | some x => match x.fetched with
      | d :: _ => if readsRing s ring then admitNext ring d x s else s
      | [] => s
    | none => s)

end Sys2Proof.Machine
end

