-- ==== Sys2Proof/Machine/Pins.lean ====
section
/-! DEFINITION. What the device drives on its output balls in every power state (R112, R371, R514, R534, Tables 18-8 and 20-1); the
FEM lines stand beside the ports (`femLines`). A level is `true` for high; `none` is a ball that floats or is released. -/
namespace Sys2Proof.Machine

/-- RUN or WATCH, out of a main reset. -/
def awake (s : State) : Bool := (s.pwr.st == .run || s.pwr.st == .watch) && s.pwr.phase != 0
/-- In KEEP and OFF the balls of VDD_IO float. -/
def ioUp (s : State) : Bool := s.pwr.st == .run || s.pwr.st == .watch

/-- QFLOW_A and QFLOW_B: their POL bits of `QUE_QFLOWCFG` set the active level; they float in KEEP and OFF (R371). -/
def qflowLevel (s : State) (p : Nat) : Option Bool :=
  if ioUp s then some (((s.que.qflow.getD p ⟨false, 0⟩).active && awake s) != s.regB 0xD0060 p) else none

/-- Whether the polarity latch, not REQ_POL, gives the inactive level: in main reset, KEEP and OFF, and while EN is 0 and REQ_POL has
not been written since the main reset (R514). -/
def latchRules (s : State) : Bool := !awake s || (!s.regB 0x50020 0 && !s.rf.polSet)

/-- The level of COEX_REQ or COEX_PRI for an output that is `active` (R113, R514): 0 of the polarity means active high. -/
def coexLevel (s : State) (active : Bool) : Bool := if latchRules s then s.rf.polLatch else active != s.regB 0x50020 2
def coexReqLevel (s : State) : Bool := coexLevel s s.rf.coexReq
def coexPriLevel (s : State) : Bool := coexLevel s s.rf.coexPri

/-- PAIR_ACTIVE, clamped inactive in KEEP and OFF (R456). -/
def pairActiveLevel (s : State) : Bool := s.pair.activeOut && awake s

/-- MAIN_EN, active high (R497, R513). -/
def mainEnLevel (s : State) : Bool := s.pwr.mainEn

/-- HOST_WAKE_N: driven low at a wake that asks for it, otherwise released (R516). -/
def hostWakeLevel (s : State) : Option Bool := if s.pwr.hostWake then some false else none

/-- TAMPER_MESH_OUT carries its pattern in every state but OFF, where it is low (Table 18-8). -/
def meshDriven (s : State) : Bool := s.pwr.st != .off

end Sys2Proof.Machine
end

