-- ==== Sys2Proof/Machine/Flags.lean ====
section
/-! DEFINITION. Status registers and status fields: what a read over BAR0 returns where the value is computed from the
state (Tables 02-7, 03-15, 04-4, 07-2, 11-13, 12-5, 13-13, 16-8, 17-8, 18-12, 18-14, 19-4 to 19-9). -/
namespace Sys2Proof.Machine

def wordN (n : Nat) : Word := BitVec.ofNat 32 n
def wordI (i : Int) : Word := BitVec.ofInt 32 i
def loN (n : Nat) : Nat := n % 2 ^ 32
def hiN (n : Nat) : Nat := n / 2 ^ 32

/-! ## Block by block -/

/-- GLB and DBG (Tables 19-4, 19-6, 19-9). The probe is an input of the debug port that no command shows: free. -/
def glbValue (s : State) (a : Nat) : Nat :=
  match a with
  | 0x0 => 0x6480_1FD3
  | 0x4 => 0xB0
  | 0x8 => 0x0302_0000 + s.sec.romRev
  | _ => s.regN 0xC + 256 * b2n s.jrn.isOpen

def portOpen (s : State) : Bool := lcState s == 0 || lcState s == 3 || lcState s == 4

def dbgValue (s : State) (a : Nat) : Nat :=
  if a = 0x130000 then b2n (portOpen s) + 2 * (freshAt s % 2)
  else 2 ^ 31 * b2n s.snap.isSome + 2 ^ 24 * s.snapPorts + 2 ^ 16 * s.snapWin + min s.captured 0x7FFF

/-- Banks that `PWR_RETAIN` retains, the state bank included. -/
def retained (s : State) : Nat := ((List.range 24).filter (fun b => s.regB 0x10004 b)).length + 1

/-- PWR (Tables 18-6, 18-12, 18-14). -/
def pwrValue (s : State) (a : Nat) : Nat :=
  match a with
  | 0x10000 => 256 * b2n s.pwr.preparing + (if s.pwr.st = .watch then 1 else 0)
  | 0x10020 => s.regN 0x10020 + s.pwr.cause
  | 0x10028 => 2 ^ 16 * (40 + 17 * retained s) + 12 + 8 * retained s
  | 0x1002C => 4096 * b2n s.pwr.warm + 256 * b2n s.pwr.bistFail + s.pwr.phase
  | _ => 2 ^ 16 * s.pwr.refuse.1 + s.pwr.refuse.2

def spllCode : SpllState → Nat
  | .off => 0
  | .band => 1
  | .locking => 2
  | .locked => 3
  | .unlocked => 4

def portCode : PortState → Nat
  | .off => 0
  | .cal => 1
  | .idle => 2
  | .on => 3

/-- CLK (Tables 03-14, 19-8): the clocks run; the PLLs are locked while REF_IN is good (log entry 68). -/
def clkValue (s : State) (a : Nat) : Nat :=
  if a = 0x20000 then 4 * b2n (s.pwr.phase != 0) + 3 * b2n s.rf.refOk
  else 256 * b2n s.rf.failed + 16 * b2n s.rf.refOk + spllCode (spllNow s)

/-- `RFRX_STATUS[p]` and `RFTX_STATUS[p]` (Tables 03-13, 03-15): CARRIERS counts the carriers on the air. -/
def portValue (s : State) (p : Nat) : Nat :=
  let x := portOf s p
  2 ^ 8 * x.tempDelta + 16 * b2n x.advised + 8 * b2n x.clipping + 4 * b2n x.failed + portCode x.st +
    (if 4 ≤ p then 2 ^ 16 * (onAir x).length else 0)

/-- TIME (Tables 02-6, 02-7). -/
def timeStatus (s : State) : Nat :=
  let t := s.time
  2 ^ 17 * b2n (s.regB 0x30020 0 && decide ((t.pps.lastEdge.getD t.pps.enabledAt) + 1_500_000_000 < t.tb)) +
    2 ^ 16 * b2n t.pps.noisy +
    2 ^ 12 * (b2n (srcQual s 1) + 2 * b2n (srcQual s 2) + 4 * b2n (srcQual s 3) + 8 * b2n (srcQual s 4)) +
    2 ^ 11 * b2n t.step.isSome + 2 ^ 10 * b2n t.forced + 2 ^ 9 * b2n t.loaded + 2 ^ 8 * b2n t.epochSet + 16 * t.src +
    timeCode t.st

/-- A value of the TIME block, its latched registers aside. -/
def timeValue (s : State) (a : Nat) : Word :=
  match a with
  | 0x30000 => wordN (timeStatus s)
  | 0x30040 => wordN (loN s.time.tb)
  | 0x30058 => wordN (loN s.time.epoch)
  | 0x30060 => wordN s.time.slotLen
  | 0x30064 => wordI (roundRat (s.time.f * 1000))
  | 0x30068 => wordN s.time.freqUnc
  | 0x3006C => wordN (estErrReg s)
  | 0x30070 => wordN (loN s.time.ratio)
  | 0x30078 => wordN s.time.slckUnc
  | _ => wordI s.time.utcOff

/-- MAC (R225, R226): µs of dwell, ms of duty. -/
def macValue (s : State) (a : Nat) : Nat :=
  if a < 0x80400 then dutyUse s ((a - 0x8010C) / 16) (acctTime s s.time.tb) / 1_000_000
  else dwellUse s ((a - 0x80400) / 4) (acctTime s s.time.tb) / 1000

/-- The image of the active record of handle `k` (Table 07-2). -/
def sfImage (s : State) (k : Nat) : Nat × Nat :=
  match sfActive s k with
  | some u => (2 ^ 31 + 2 ^ 30 * b2n u.rec_.long + 2 ^ 24 * u.rec_.band + 2 ^ 16 * u.rec_.depth + u.rec_.length, u.rec_.base)
  | none => (0, 0)

def hoccImage (s : State) (c : Nat) : Nat :=
  match s.herd.occ.find? (fun x => x.1 == c) with
  | some x => 2 ^ 16 * x.2.1 + toUnsigned 10 x.2.2
  | none => 0

/-- Maps 16 to 31 belong to Collie (R206). -/
def collieMap (s : State) (a : Nat) : Nat := (cellsGet ((a - 0x91900) / 4) 0 s.sch.maps).toNat

/-- SCH (Tables 07-2, 07-8, 08-4). -/
def schValue (s : State) (a : Nat) : Nat :=
  if a = 0x90004 then b2n s.sch.tmplDrop
  else if a < 0x90400 then (if a % 8 = 0 then (sfImage s ((a - 0x90100) / 8)).1 else (sfImage s ((a - 0x90100) / 8)).2)
  else if a < 0x91B00 then full
  else if a < 0x92000 then collieMap s a
  else if a = 0x92020 then 2 ^ 16 * b2n s.herd.grpDrop + 2 ^ 12 * b2n (s.time.st != .drifted) + 2 ^ 8 * hctlMode s + s.herd.gd
  else hoccImage s ((a - 0x92200) / 4)

/-- `ADP_FRAGTAG` and `ADP_RQSESS` (Table 09-12). -/
def adpValue (s : State) (a : Nat) : Nat :=
  if a = 0xA0010 then s.adp.fragTag
  else match sessAt s ((a - 0xA0410) / 16) with
    | some x => match (a - 0xA0410) % 16 / 4 with
      | 0 => 2 ^ 31 + 2 ^ 30 * b2n (x.loaded == x.f) + x.z
      | 1 => x.f
      | 2 => x.loaded
      | _ => x.t
    | none => 0

/-- TBL (Table 10-3). -/
def tblValue (s : State) (a : Nat) : Nat :=
  match a with
  | 0xB0000 => 2 ^ 24 * (s.tbl.nodes.filter (fun n => decide (stashBase ≤ n.idx))).length + s.tbl.nodes.length
  | 0xB0008 => s.tbl.agePos
  | _ => 2 ^ 31 * s.tbl.bank + s.tbl.pfx.length

def slotImage (k : KeySlot) (w : Nat) : Nat :=
  match w with
  | 0 => 2 ^ 31 * b2n k.valid + 2 ^ 30 * b2n k.pending + 2 ^ 29 * b2n k.retired
  | 1 => k.gen
  | 2 => loN k.act
  | _ => hiN k.act

/-- SEC (Tables 11-12, 11-13). The sensors of `SEC_SENSE` are not modelled: free. -/
def secValue (s : State) (a : Nat) : Nat :=
  match a with
  | 0xC0000 => 256 * b2n s.sec.fuseErr + 128 * b2n s.sec.sw.isSome + 64 * b2n s.sec.fcStalled + 32 * b2n s.sec.fcValid +
      16 * b2n s.sec.vfuseOk + 8 * b2n s.sec.rootOk + 4 * b2n s.sec.tlock
  | 0xC0004 => 256 * b2n (lcHalf s) + lcState s
  | 0xC0008 => loN (devIdOf s.sec)
  | 0xC0030 => s.sec.fcNext
  | 0xC0034 => 2 ^ 16 * s.sec.fcRes + s.sec.fcAck
  | 0xC0040 => s.regN 0xC0040 ||| ownerTampOf s.sec
  | 0xC0044 => sumNat ([0, 1, 8, 12, 13, 14].map (fun b => 2 ^ b * b2n (tampNow s b)))
  | 0xC005C => 256 * b2n s.sec.trngFail + 8 * b2n (!s.sec.ops.isEmpty)
  | 0xC0060 => freshAt s &&& 0x03FF_0FFF
  | _ => slotImage (if a < 0xC0020 then curSlot s else nextSlot s) (a % 16 / 4)

/-- QUE (Tables 12-4, 12-5). -/
def queValue (s : State) (a : Nat) : Nat :=
  if a = 0xD0000 then 2 * b2n (poolErr s) + b2n s.que.wrDrop
  else if a < 0xD0100 then poolInUse s ((a - 0xD0010) / 8)
  else if a % 16 = 4 then s.regN a + 4 * b2n (s.que.above.contains ((a - 0xD0100) / 16))
  else wmLevel s ((a - 0xD0100) / 16)

/-- HIF (Tables 13-12, 13-13). -/
def hifValue (s : State) (a : Nat) : Nat :=
  if a = 0xE0000 then 2 ^ 16 * s.hif.speed + 2 ^ 12 * s.hif.width + s.regN a + 2 * b2n (s.hif.speed != 0) + b2n s.hif.ready
  else if a < 0xE0400 then
    let x := s.hif.cring.getD ((a - 0xE0100) / 32) CRing.reset
    if a % 32 = 20 then x.ci + 2 ^ 16 * b2n x.phase else x.pi
  else if a < 0xE0600 then
    let x := s.hif.cpl.getD ((a - 0xE0400) / 32) CplRing.reset
    if a % 32 = 16 then x.hostCi else x.nextSlot
  else if a < 0xE8000 then (s.hif.dring.getD ((a - 0xE0600) / 32) DRing.reset).seq
  else sumNat ((List.range 32).map (fun i => 2 ^ i * b2n (s.hif.pba.contains (i + 8 * (a - 0xE9000)))))

/-- `ETH_STATUS` (Table 15-3). -/
def ethValue (s : State) (p : Nat) : Nat :=
  let x := ethPort s p
  256 * b2n x.lpPause + 16 * b2n x.anDone +
    2 * b2n (match x.paused with | some t => decide (s.time.tb < t) | none => false) + b2n x.up

/-- PAIR (Tables 16-7, 16-8), its _HI registers aside. -/
def pairValue (s : State) (a : Nat) : Nat :=
  let p := s.pair
  match a with
  | 0x110000 => 2 ^ 13 * b2n p.failIn + 2 ^ 12 * b2n p.activeOut + 512 * b2n s.jrn.keyed + 256 * b2n s.jrn.frozen +
      64 * b2n p.wait + 32 * b2n p.link + 16 * b2n p.peerOk + pairCode p.st
  | 0x110010 => loN s.jrn.id
  | 0x110018 => loN s.jrn.seq
  | 0x110020 => loN ((s.jrn.staging.head?.map JRec.asn).getD 0)
  | 0x110024 => p.backlog.length
  | 0x110050 => 2 ^ 24 * p.rp.reason + 2 ^ 16 * p.rp.unit + b2n p.rp.stopped
  | 0x110054 => loN p.rp.asn
  | 0x11005C => loN p.rp.seq
  | 0x110064 => loN p.rp.expd
  | _ => loN p.rp.got

/-- ERR (Tables 17-7, 17-8). -/
def errValue (s : State) (a : Nat) : Nat :=
  match a with
  | 0x120000 => 2 ^ 31 * b2n s.err.devFatal + 2 ^ 30 * b2n s.err.busy + 2 ^ 16 * s.err.fifo.length +
      2 ^ 8 * (s.err.fifo.filter ErrRec.rsv).length + (if s.err.busy then ((s.err.fifo.head?.map ErrRec.eseq).getD 0) % 256 else 0)
  | 0x120008 => sumNat (s.err.offline.map (2 ^ ·))
  | 0x120010 => sumNat ((List.range 15).map (fun u => 2 ^ u * b2n (s.err.pendRst.any (fun x => x.1 == u))))
  | 0x12001C => s.err.leak
  | 0x1200A0 => 2 ^ 28 * s.err.scrubArr + s.err.scrubWord
  | _ => leOf (slice ((s.err.fatal.map errOctets).getD []) (a - 0x120080) 4)

/-! ## The registers latched by reads (R53, R528) -/

/-- Reset values of the latched registers: those of their tables. -/
def latchReset (s : State) (a : Nat) : Word :=
  if a = 0x30074 then 0x7735 else if a = 0xC000C then wordN (hiN (devIdOf s.sec)) else 0

/-- Registers whose reads return a latched value. -/
def latched (a : Nat) : Bool :=
  [0x30044, 0x30048, 0x3004C, 0x30050, 0x30054, 0x3005C, 0x30074, 0xC000C, 0x110014, 0x11001C, 0x110058, 0x110060, 0x110068,
    0x110070].contains a

/-- The _LO registers of the RO pairs with a latch of their own (R528). -/
def isPairLo (a : Nat) : Bool :=
  [0x30058, 0x30070, 0xC0008, 0x110010, 0x110018, 0x110054, 0x11005C, 0x110064, 0x11006C].contains a

/-- The 64-bit quantity of an RO pair, by its _LO address. -/
def pairQuantity (s : State) (a : Nat) : Nat :=
  match a with
  | 0x30058 => s.time.epoch
  | 0x30070 => s.time.ratio
  | 0xC0008 => devIdOf s.sec
  | 0x110010 => s.jrn.id
  | 0x110018 => s.jrn.seq
  | 0x110054 => s.pair.rp.asn
  | 0x11005C => s.pair.rp.seq
  | 0x110064 => s.pair.rp.expd
  | _ => s.pair.rp.got

/-! ## A register word -/

/-- The computed value of a mapped register with read-only content. -/
def statusValue (s : State) (a : Nat) : Word :=
  match a / 0x10000 with
  | 0 => wordN (glbValue s a)
  | 1 => wordN (pwrValue s a)
  | 2 => wordN (clkValue s a)
  | 3 => timeValue s a
  | 4 => wordN (portValue s (a % 16 / 4))
  | 5 => wordN (portValue s (4 + (a - 0x50008) / 4))
  | 6 => wordN (if a = 0x60000 then b2n s.bank.apply.isSome else if a = 0x60004 then s.bank.applyErr else s.bank.applyDet)
  | 7 => wordN (if a < 0x78000 then s.regN a else s.act (a - 0x8000))
  | 8 => wordN (macValue s a)
  | 9 => wordN (schValue s a)
  | 10 => wordN (adpValue s a)
  | 11 => wordN (tblValue s a)
  | 12 => wordN (secValue s a)
  | 13 => wordN (queValue s a)
  | 14 => wordN (hifValue s a)
  | 15 => wordN (ethValue s 0)
  | 16 => wordN (ethValue s 1)
  | 17 => wordN (pairValue s a)
  | 18 => wordN (errValue s a)
  | _ => wordN (dbgValue s a)

/-- RW and W1C registers with fields that are read-only: `GLB_STATUS`, `PWR_WAKECAUSE`, `SEC_TAMPCFG`, `QUE_WMSTAT`,
`HIF_STATUS`. -/
def mixed (a : Nat) : Bool :=
  a == 0xC || a == 0x10020 || a == 0xC0040 || a == 0xE0000 || (decide (0xD0104 ≤ a) && decide (a < 0xD0500) && a % 16 == 4)

/-- What a read of the whole register word at `a` returns (R16, R17, R522, R528), its side effects apart. -/
def readWord (s : State) (a : Nat) : Word :=
  if latched a then cellsGet a (latchReset s a) s.latch
  else match regRow a with
    | some r =>
      match r.acc with
      | .ro => statusValue s a
      | .wo => 0
      | .rc => cellsGet a 0 s.cnt
      | .rw => if mixed a then statusValue s a else s.reg a
    | none =>
      match activeOf a with
      | some b => if 0x91B00 ≤ b ∧ b < 0x91D00 then wordN (collieMap s b) else cellsGet b (resetAt b) s.active
      | none => 0

/-- The octets [ofs + width - 1 : ofs] of a word (R15). -/
def readPart (w : Word) (ofs width : Nat) : Word := wordN (w.toNat / 2 ^ (8 * ofs) % 2 ^ (8 * width))

/-- A read of `width` octets at `ofs` lies within one naturally aligned word (R15). -/
def contained (ofs width : Nat) : Bool := decide (0 < width) && decide (ofs + width ≤ 4)

end Sys2Proof.Machine
end

