-- ==== Sys2Proof/Machine/Regs.lean ====
section
/-! DEFINITION. Accesses to BAR0 (R15 to R18, R53, R521 to R529). -/
namespace Sys2Proof.Machine

/-! ## Writes -/

/-- The ring whose CTL register stands at `a`. -/
def ringAtCtl (a : Nat) : Option RingSel :=
  if 0xE0100 ≤ a ∧ a < 0xE0300 ∧ a % 32 = 16 then some (.cmd ((a - 0xE0100) / 32))
  else if 0xE0400 ≤ a ∧ a < 0xE0600 ∧ a % 32 = 8 then some (.cpl ((a - 0xE0400) / 32))
  else if 0xE0600 ≤ a ∧ a < 0xE0740 ∧ a % 32 = 16 then some (.dlv ((a - 0xE0600) / 32))
  else none

/-- A write to a mapped register word without a row of its own in the operation table. -/
def writeMapped (r : RegRow) (a : Nat) (v : Word) (s : State) : State :=
  match r.acc with
  | .rw => if r.jrn then jwr (fun s => writeRow r a v (journalCfg a v s)) s else writeRow r a v s
  | _ => s

/-- A write that reaches a register word: unmapped addresses (R17, R529) and active copies (R522) keep nothing. -/
def writeWord (a : Nat) (v : Word) (s : State) : State :=
  match regRow a with
  | some r => writeMapped r a v s
  | none => if (activeOf a).isSome then s else glbFlag 1 s

/-- `REGISTER_WRITE` (R15, R525 to R529): a write of `width` octets at BAR0 address `addr`. A write to a register with a row
of its own is that row. -/
def execRegisterWrite (addr width : Nat) (value : Word) (s : State) : Res :=
  if !bar0 s then .next s
  else if width ≠ 4 ∨ addr % 4 ≠ 0 then .next (glbFlag 2 s)
  else if addr = 0x10 then execGlbResetWrite value s
  else if addr = 0x12000C then execErrRestartWrite value s
  else if addr = 0x92000 then execSchHctlWrite value s
  else if 0xD0010 ≤ addr ∧ addr < 0xD0038 ∧ addr % 8 = 0 then execQuePoolWrite ((addr - 0xD0010) / 8) value s
  else match ringAtCtl addr with
    | some ring => execRingCtlWrite ring value s
    | none => .next (writeWord addr value s)

/-! ## Reads -/

def putLatch (s : State) (a : Nat) (v : Word) (l : List (Nat × Word)) : List (Nat × Word) := cellsPut a v (latchReset s a) l

/-- What a read of the word at `a` does beside returning it: the latch group of R53, the latch of a pair (R528), the clear of
an RC register (R16). -/
def readEffect (a : Nat) (s : State) : State :=
  { s with
    latch := if a = 0x30040 then
        putLatch s 0x30044 (wordN (hiN s.time.tb)) (putLatch s 0x30048 (wordN (s.time.sub / 2 ^ 16))
          (putLatch s 0x3004C (wordN s.time.ofs) (putLatch s 0x30050 (wordN (loN s.time.asn))
            (putLatch s 0x30054 (wordN (hiN s.time.asn)) s.latch))))
      else if isPairLo a then putLatch s (a + 4) (wordN (hiN (pairQuantity s a))) s.latch
      else s.latch
    cnt := match regRow a with
      | some r => if r.acc = .rc then cellsPut a 0 0 s.cnt else s.cnt
      | none => s.cnt }

/-- A read of `width` octets at octet `ofs` of the register word at `a` (R15): one that is not contained in the word returns
0 and has no side effect; so does every read before phase 4 of the boot ends (R531). -/
def readAt (a ofs width : Nat) (s : State) : State :=
  if bar0 s && contained ofs width then { readEffect a s with rdata := readPart (readWord s a) ofs width }
  else { s with rdata := 0 }

/-- `TIME_NOW_LO_READ` (R53). -/
def execTimeNowLoRead (byteOfs width : Nat) (s : State) : Res := .next (readAt 0x30040 byteOfs width s)

/-- `LO_HI_LATCH_READ` (R528), `addr` being the word's address. A read of another register is that register's read. -/
def execLoHiLatchRead (addr byteOfs width : Nat) (s : State) : Res := .next (readAt addr byteOfs width s)

/-- `RC_COUNTER_READ` (R16). A read of another register is that register's read. -/
def execRcCounterRead (addr byteOfs width : Nat) (s : State) : Res := .next (readAt addr byteOfs width s)

end Sys2Proof.Machine
end

