-- ==== Sys2Proof/Machine/Dispatch.lean ====
section
/-! DEFINITION. One arm for each command of the operation table. -/
namespace Sys2Proof.Machine

def exec (i : Instr) (s : State) : Host.Outcome State Fault Refusal :=
  match i with
  | .cfgSnapshotRead r outAddr outLen => Sys2Proof.Machine.execCfgSnapshotRead r outAddr outLen s
  | .timeSetEpoch r e l => Sys2Proof.Machine.execTimeSetEpoch r e l s
  | .timeStep r step sfh => Sys2Proof.Machine.execTimeStep r step sfh s
  | .timeStepExecute => Sys2Proof.Machine.execTimeStepExecute s
  | .timeForce r => Sys2Proof.Machine.execTimeForce r s
  | .rfPortSet r port target => Sys2Proof.Machine.execRfPortSet r port target s
  | .portSetEffect port => Sys2Proof.Machine.execPortSetEffect port s
  | .portTransitionDone port => Sys2Proof.Machine.execPortTransitionDone port s
  | .rfCalibrate r port => Sys2Proof.Machine.execRfCalibrate r port s
  | .calibrateStart port => Sys2Proof.Machine.execCalibrateStart port s
  | .calRunDone port ok => Sys2Proof.Machine.execCalRunDone port ok s
  | .bgtrimStep port tempDelta => Sys2Proof.Machine.execBgtrimStep port tempDelta s
  | .rfBankApply r => Sys2Proof.Machine.execRfBankApply r s
  | .bankApplyActivate => Sys2Proof.Machine.execBankApplyActivate s
  | .schedSlotframeSet r a => Sys2Proof.Machine.execSchedSlotframeSet r a s
  | .slotframeSetEffect sfh => Sys2Proof.Machine.execSlotframeSetEffect sfh s
  | .schedCellsWrite r sfh entries => Sys2Proof.Machine.execSchedCellsWrite r sfh entries s
  | .cellsWriteEffect => Sys2Proof.Machine.execCellsWriteEffect s
  | .herdModeSet r mode autosf dlsf lag => Sys2Proof.Machine.execHerdModeSet r mode autosf dlsf lag s
  | .herdNodeSet r a => Sys2Proof.Machine.execHerdNodeSet r a s
  | .herdNodeRead r index outAddr => Sys2Proof.Machine.execHerdNodeRead r index outAddr s
  | .nodeInsert r a => Sys2Proof.Machine.execNodeInsert r a s
  | .nodeRemove r index eui => Sys2Proof.Machine.execNodeRemove r index eui s
  | .nodeRead r byEui key outAddr => Sys2Proof.Machine.execNodeRead r byEui key outAddr s
  | .prefixInsert r key len result => Sys2Proof.Machine.execPrefixInsert r key len result s
  | .prefixRemove r key len => Sys2Proof.Machine.execPrefixRemove r key len s
  | .pktSend r p => Sys2Proof.Machine.execPktSend r p s
  | .bcastSend r p copies profile => Sys2Proof.Machine.execBcastSend r p copies profile s
  | .imgOpen r a => Sys2Proof.Machine.execImgOpen r a s
  | .imgLoad r session offset data => Sys2Proof.Machine.execImgLoad r session offset data s
  | .imgSend r session sbn esi count => Sys2Proof.Machine.execImgSend r session sbn esi count s
  | .imgSendLink => Sys2Proof.Machine.execImgSendLink s
  | .rqOverrun => Sys2Proof.Machine.execRqOverrun s
  | .imgClose r session => Sys2Proof.Machine.execImgClose r session s
  | .secIdentity r outAddr => Sys2Proof.Machine.execSecIdentity r outAddr s
  | .secAttest r kind outAddr challenge => Sys2Proof.Machine.execSecAttest r kind outAddr challenge s
  | .secKeyImport r blob outAddr => Sys2Proof.Machine.execSecKeyImport r blob outAddr s
  | .secKeygenSwitch r => Sys2Proof.Machine.execSecKeygenSwitch r s
  | .keygenSwitchTake => Sys2Proof.Machine.execKeygenSwitchTake s
  | .secKeyClear r => Sys2Proof.Machine.execSecKeyClear r s
  | .secFcAck r gen block => Sys2Proof.Machine.execSecFcAck r gen block s
  | .secFcRestore r gen block => Sys2Proof.Machine.execSecFcRestore r gen block s
  | .secLcAdvance r target token secondOk => Sys2Proof.Machine.execSecLcAdvance r target token secondOk s
  | .secTamperAck r => Sys2Proof.Machine.execSecTamperAck r s
  | .secFuseWrite r field value readBackOk => Sys2Proof.Machine.execSecFuseWrite r field value readBackOk s
  | .romPatchLoad r p => Sys2Proof.Machine.execRomPatchLoad r p s
  | .secCipher r a => Sys2Proof.Machine.execSecCipher r a s
  | .pwrEnter r target wakeAfter => Sys2Proof.Machine.execPwrEnter r target wakeAfter s
  | .pwrCommit => Sys2Proof.Machine.execPwrCommit s
  | .pairJoin r role => Sys2Proof.Machine.execPairJoin r role s
  | .pairTakeover r => Sys2Proof.Machine.execPairTakeover r s
  | .swapDrill r sfh => Sys2Proof.Machine.execSwapDrill r sfh s
  | .swapDrillBoundary => Sys2Proof.Machine.execSwapDrillBoundary s
  | .pairSolo r => Sys2Proof.Machine.execPairSolo r s
  | .journalCtl r stream => Sys2Proof.Machine.execJournalCtl r stream s
  | .journalDump r => Sys2Proof.Machine.execJournalDump r s
  | .replayEnter r => Sys2Proof.Machine.execReplayEnter r s
  | .replayFeed r octets => Sys2Proof.Machine.execReplayFeed r octets s
  | .diagNop r => Sys2Proof.Machine.execDiagNop r s
  | .diagIqSnapshot r win ports samples ofs => Sys2Proof.Machine.execDiagIqSnapshot r win ports samples ofs s
  | .iqCapture => Sys2Proof.Machine.execIqCapture s
  | .glbResetWrite value => Sys2Proof.Machine.execGlbResetWrite value s
  | .errRestartWrite value => Sys2Proof.Machine.execErrRestartWrite value s
  | .quePoolWrite k value => Sys2Proof.Machine.execQuePoolWrite k value s
  | .ringCtlWrite ring value => Sys2Proof.Machine.execRingCtlWrite ring value s
  | .schHctlWrite value => Sys2Proof.Machine.execSchHctlWrite value s
  | .registerWrite addr width value => Sys2Proof.Machine.execRegisterWrite addr width value s
  | .timeNowLoRead byteOfs width => Sys2Proof.Machine.execTimeNowLoRead byteOfs width s
  | .loHiLatchRead addr byteOfs width => Sys2Proof.Machine.execLoHiLatchRead addr byteOfs width s
  | .rcCounterRead addr byteOfs width => Sys2Proof.Machine.execRcCounterRead addr byteOfs width s
  | .dbCmdPi page value descs => Sys2Proof.Machine.execDbCmdPi page value descs s
  | .dbCplCi page value => Sys2Proof.Machine.execDbCplCi page value s
  | .dbDlvCi page value => Sys2Proof.Machine.execDbDlvCi page value s
  | .commandAdmit ring => Sys2Proof.Machine.execCommandAdmit ring s
  | .recordDeliver ring => Sys2Proof.Machine.execRecordDeliver ring s
  | .interruptSend ring => Sys2Proof.Machine.execInterruptSend ring s
  | .hifLinkReset => Sys2Proof.Machine.execHifLinkReset s
  | .slotBoundary => Sys2Proof.Machine.execSlotBoundary s
  | .herdOverrun => Sys2Proof.Machine.execHerdOverrun s
  | .sixpTimeout node => Sys2Proof.Machine.execSixpTimeout node s
  | .dropReadmitCheck node => Sys2Proof.Machine.execDropReadmitCheck node s
  | .nodeSupervisionTimeout node => Sys2Proof.Machine.execNodeSupervisionTimeout node s
  | .reasmExpire => Sys2Proof.Machine.execReasmExpire s
  | .parentExpire node => Sys2Proof.Machine.execParentExpire node s
  | .ageingVisit => Sys2Proof.Machine.execAgeingVisit s
  | .txInstant id granted lbtBusy => Sys2Proof.Machine.execTxInstant id granted lbtBusy s
  | .txPortWake port => Sys2Proof.Machine.execTxPortWake port s
  | .coexRequestAssert id => Sys2Proof.Machine.execCoexRequestAssert id s
  | .txOutcome id outcome hold => Sys2Proof.Machine.execTxOutcome id outcome hold s
  | .txFrameEnd id => Sys2Proof.Machine.execTxFrameEnd id s
  | .txLingerExpire port => Sys2Proof.Machine.execTxLingerExpire port s
  | .ackWindowClose id => Sys2Proof.Machine.execAckWindowClose id s
  | .channelDeafStart ch id => Sys2Proof.Machine.execChannelDeafStart ch id s
  | .channelDeafEnd ch id => Sys2Proof.Machine.execChannelDeafEnd ch id s
  | .clipDetect port => Sys2Proof.Machine.execClipDetect port s
  | .clipHangExpire port => Sys2Proof.Machine.execClipHangExpire port s
  | .coexFault => Sys2Proof.Machine.execCoexFault s
  | .coexClear => Sys2Proof.Machine.execCoexClear s
  | .refLost => Sys2Proof.Machine.execRefLost s
  | .refGood => Sys2Proof.Machine.execRefGood s
  | .refRecoveryTimeout => Sys2Proof.Machine.execRefRecoveryTimeout s
  | .spllUnlock => Sys2Proof.Machine.execSpllUnlock s
  | .spllLock => Sys2Proof.Machine.execSpllLock s
  | .spllLockTimeout => Sys2Proof.Machine.execSpllLockTimeout s
  | .preambleDetect ch profile rssiQ => Sys2Proof.Machine.execPreambleDetect ch profile rssiQ s
  | .secondPreambleDetect ch profile lv => Sys2Proof.Machine.execSecondPreambleDetect ch profile lv s
  | .sfdDetect ch snr1 snr2 x => Sys2Proof.Machine.execSfdDetect ch snr1 snr2 x s
  | .falseDetRelease ch => Sys2Proof.Machine.execFalseDetRelease ch s
  | .msPhrRx ch msg check => Sys2Proof.Machine.execMsPhrRx ch msg check s
  | .msTimeout ch => Sys2Proof.Machine.execMsTimeout ch s
  | .rxFrameEnd ch x m fec => Sys2Proof.Machine.execRxFrameEnd ch x m fec s
  | .ldpcCodewordDone arrived ch index => Sys2Proof.Machine.execLdpcCodewordDone arrived ch index s
  | .rxFrameAdmit fifo ch => Sys2Proof.Machine.execRxFrameAdmit fifo ch s
  | .rxSummaryAdmit x => Sys2Proof.Machine.execRxSummaryAdmit x s
  | .timeSourceOutcome code outcome offset mpd => Sys2Proof.Machine.execTimeSourceOutcome code outcome offset mpd s
  | .servoSecondSample => Sys2Proof.Machine.execServoSecondSample s
  | .slckRatioMeasure ratio => Sys2Proof.Machine.execSlckRatioMeasure ratio s
  | .ppsEdge rising at_ => Sys2Proof.Machine.execPpsEdge rising at_ s
  | .ppsWidthTimeout => Sys2Proof.Machine.execPpsWidthTimeout s
  | .ppsMissingSecond => Sys2Proof.Machine.execPpsMissingSecond s
  | .ppsQuiet => Sys2Proof.Machine.execPpsQuiet s
  | .todMessageRx octets at_ => Sys2Proof.Machine.execTodMessageRx octets at_ s
  | .todWaitTimeout => Sys2Proof.Machine.execTodWaitTimeout s
  | .todByteGap octets => Sys2Proof.Machine.execTodByteGap octets s
  | .ptpSyncRx port x => Sys2Proof.Machine.execPtpSyncRx port x s
  | .ptpFollowUpRx port x => Sys2Proof.Machine.execPtpFollowUpRx port x s
  | .ptpDelayRespRx port x => Sys2Proof.Machine.execPtpDelayRespRx port x s
  | .ptpAnnounceRx port msg stamp => Sys2Proof.Machine.execPtpAnnounceRx port msg stamp s
  | .ptpDelayReqSend port egress => Sys2Proof.Machine.execPtpDelayReqSend port egress s
  | .ptpSyncMiss port => Sys2Proof.Machine.execPtpSyncMiss port s
  | .airBeaconMiss => Sys2Proof.Machine.execAirBeaconMiss s
  | .ethFrameRx port frame => Sys2Proof.Machine.execEthFrameRx port frame s
  | .ethAdmit port => Sys2Proof.Machine.execEthAdmit port s
  | .ethLinkChange port lock an => Sys2Proof.Machine.execEthLinkChange port lock an s
  | .ethFrameTx port => Sys2Proof.Machine.execEthFrameTx port s
  | .ethPauseExpire port => Sys2Proof.Machine.execEthPauseExpire port s
  | .pauseRepeat port => Sys2Proof.Machine.execPauseRepeat port s
  | .watermarkCrossing source => Sys2Proof.Machine.execWatermarkCrossing source s
  | .qflowHoldExpire pin => Sys2Proof.Machine.execQflowHoldExpire pin s
  | .fifoQueueReset f => Sys2Proof.Machine.execFifoQueueReset f s
  | .errorDetect e => Sys2Proof.Machine.execErrorDetect e s
  | .errorRecordHandle => Sys2Proof.Machine.execErrorRecordHandle s
  | .scrubVisit corrected => Sys2Proof.Machine.execScrubVisit corrected s
  | .watchdogExpire proc => Sys2Proof.Machine.execWatchdogExpire proc s
  | .tamperAlarm x => Sys2Proof.Machine.execTamperAlarm x s
  | .pairLinkChange up => Sys2Proof.Machine.execPairLinkChange up s
  | .pairIdentRx ident => Sys2Proof.Machine.execPairIdentRx ident s
  | .joinCopyDone jid jpos parts => Sys2Proof.Machine.execJoinCopyDone jid jpos parts s
  | .journalRecordRx j => Sys2Proof.Machine.execJournalRecordRx j s
  | .standbyExecuteSlot first count => Sys2Proof.Machine.execStandbyExecuteSlot first count s
  | .digestWrite => Sys2Proof.Machine.execDigestWrite s
  | .heartbeatRx asn => Sys2Proof.Machine.execHeartbeatRx asn s
  | .heartbeatLoss => Sys2Proof.Machine.execHeartbeatLoss s
  | .pairAckRx seq => Sys2Proof.Machine.execPairAckRx seq s
  | .standbyLostTimeout => Sys2Proof.Machine.execStandbyLostTimeout s
  | .timingMarkRx tb => Sys2Proof.Machine.execTimingMarkRx tb s
  | .keyTransferRx host gen master tagOk => Sys2Proof.Machine.execKeyTransferRx host gen master tagOk s
  | .failMessageRx => Sys2Proof.Machine.execFailMessageRx s
  | .takeoverMessageRx => Sys2Proof.Machine.execTakeoverMessageRx s
  | .drillMessageRx b => Sys2Proof.Machine.execDrillMessageRx b s
  | .pairFailAssert => Sys2Proof.Machine.execPairFailAssert s
  | .takeoverActivate => Sys2Proof.Machine.execTakeoverActivate s
  | .drillActivate => Sys2Proof.Machine.execDrillActivate s
  | .joinTimeout => Sys2Proof.Machine.execJoinTimeout s
  | .autorejoinTimer => Sys2Proof.Machine.execAutorejoinTimer s
  | .powerOnReset => Sys2Proof.Machine.execPowerOnReset s
  | .coldBoot calOk x => Sys2Proof.Machine.execColdBoot calOk x s
  | .perstAssert => Sys2Proof.Machine.execPerstAssert s
  | .pwrOkFall => Sys2Proof.Machine.execPwrOkFall s
  | .brownOut => Sys2Proof.Machine.execBrownOut s
  | .wakeTimer => Sys2Proof.Machine.execWakeTimer s
  | .wakePin => Sys2Proof.Machine.execWakePin s
  | .keepWake c1 verifyOk => Sys2Proof.Machine.execKeepWake c1 verifyOk s
  | .txHoldExpire id => Sys2Proof.Machine.execTxHoldExpire id s
  | .txRampStart id => Sys2Proof.Machine.execTxRampStart id s
  | .femLeadSwitch id => Sys2Proof.Machine.execFemLeadSwitch id s
  | .femHoldExpire port => Sys2Proof.Machine.execFemHoldExpire port s
  | .utcDayEnd => Sys2Proof.Machine.execUtcDayEnd s
  | .pcieConfigWrite busMaster d3hot => Sys2Proof.Machine.execPcieConfigWrite busMaster d3hot s
  | .cipherOperationDone engine r => Sys2Proof.Machine.execCipherOperationDone engine r s
  | .errorRecoveryDone => Sys2Proof.Machine.execErrorRecoveryDone s

end Sys2Proof.Machine
end

