-- ==== Sys2Proof/Machine/Idle.lean ====
section
/-! DEFINITION. What passes while no command waits: one cycle of TBCK (R52). -/
namespace Sys2Proof.Machine

/-- The increment of one TBCK cycle in units of 2^-32 ns: 8 ns × (1 + f / 10^9), rounded to the servo's resolution and
held within 50 ppm (R52, R72). -/
def tbIncrement (f : Rat) : Nat := (roundRat ((8 * 2 ^ 32 : Rat) * (1 + clampRat (-50_000) 50_000 f / 1_000_000_000))).toNat

/-- One TBCK cycle in RUN or WATCH (R502); nothing runs in KEEP and OFF, and a unit in REPLAY has its timebase stopped
(Table 16-4). -/
def idleTick (s : State) : State :=
  let x := s.time.sub + tbIncrement s.time.f
  { s with time :=
      if (s.pwr.st == .run || s.pwr.st == .watch) && s.pair.st != .replay then
        { s.time with tb := (s.time.tb + x / 2 ^ 32) % 2 ^ 64, sub := x % 2 ^ 32 }
      else s.time }

end Sys2Proof.Machine
end

