-- ==== Sys2Proof/Safety.lean ====
section
/-! DEFINITION. What counts as a sound state, in the terms the statements use. -/
namespace Sys2Proof

/-- The sparse register words keep their canonical form: the stored registers, their counters, the active copies, the
snapshot that a pending `RF_BANK_APPLY` holds, and the words in the banks of the last KEEP. -/
def Machine.State.wordsOk (s : Machine.State) : Bool :=
  Machine.cellsWf Machine.resetAt s.regs && Machine.cellsWf (fun _ => 0) s.cnt && Machine.cellsWf Machine.resetAt s.active &&
    (match s.bank.apply with | some a => Machine.cellsWf Machine.resetAt a.snap | none => true) &&
    (match s.pwr.bank with
      | some b => Machine.cellsWf Machine.resetAt b.regs && Machine.cellsWf Machine.resetAt b.active
      | none => true)

/-- The fuses an OTP programming sets: LC, OWNERID and OWNERTAMP (Table 11-1). -/
def Machine.SecSt.fuses (x : Machine.SecSt) : Nat × Nat × Nat := (x.lc, x.ownerId, x.ownerTamp)

/-- What a boot does to the fuses: nothing, but that it completes the half-blown pair of the life-cycle state (R317, R320). -/
def Machine.bootFuses (s t : Machine.State) : Prop :=
  t.sec.ownerId = s.sec.ownerId ∧ t.sec.ownerTamp = s.sec.ownerTamp ∧
    (t.sec.lc = s.sec.lc ∨ (Machine.lcOf s.sec.lc ≠ 0 ∧ t.sec.lc = Machine.blow s.sec.lc (Machine.lcOf s.sec.lc) true))

/-- The command `r` has been admitted and has not completed. -/
def Machine.booked (s : Machine.State) (r : CmdRef) : Bool := (Machine.admOf s r).isSome

/-- The command `r` of opcode `op`, needing `need` completion slots, has not been admitted and may be: its ring and the device can
admit it, and no owner or pair state turns it away (R391, R409, R489). -/
def Machine.goes (s : Machine.State) (r : CmdRef) (op need : Nat) : Bool :=
  (Machine.admOf s r).isNone && Machine.gateOf s r.ring op need == .go

/-- Core work runs: the unit is up and leads (R456, R458). -/
def Machine.working (s : Machine.State) : Bool := s.up && s.pair.leads

end Sys2Proof
end

