-- ==== Sys2Proof/WellFormed.lean ====
section
/-! DEFINITION. When a command is well formed: every operand fits the field of the descriptor, register or record that
brings it in (Tables 05-5, 11-10, 13-3, 13-10, 14-2 to 14-12, 16-1). The meanings answer every command; these checks say
which ones the device's interfaces can carry. -/
namespace Sys2Proof

/-- A value fits `w` bits. -/
def fits (w n : Nat) : Bool := decide (n < 2 ^ w)
/-- A signed value fits `w` bits. -/
def fitsInt (w : Nat) (i : Int) : Bool := decide (-(2 ^ (w - 1) : Int) ≤ i) && decide (i < (2 ^ (w - 1) : Int))

/-- Descriptor: ring 0 to 15, a 40-bit ASN (Table 13-3). -/
def CmdRef.wf (r : CmdRef) : Bool := fits 4 r.ring && fits 40 r.asn

def SfArgs.wf (a : SfArgs) : Bool :=
  fits 8 a.sfh && fits 8 a.band && fits 8 a.depth && fits 16 a.length && fits 20 a.base
def CellEntry.wf (e : CellEntry) : Bool := fits 16 e.slot && fits 8 e.pos
def HerdSetArgs.wf (a : HerdSetArgs) : Bool :=
  fits 24 a.index && fits 8 a.rung && fitsInt 8 a.power && fits 8 a.hint
def InsertCell.wf (c : InsertCell) : Bool := fits 8 c.sfh && fits 8 c.pos && fits 16 c.slot && fits 8 c.chofs
def InsertArgs.wf (a : InsertArgs) : Bool :=
  fits 64 a.eui && fits 32 a.fcl && fits 3 a.cls && fits 8 a.vref && (match a.cell with | some c => c.wf | none => true)
def ImgOpenArgs.wf (a : ImgOpenArgs) : Bool :=
  fits 8 a.session && fits 16 a.objid && fits 32 a.size && fits 16 a.sym && fits 8 a.profile && fits 16 a.sport &&
    fits 16 a.dport && fits 128 a.dst && fits 64 a.outAddr
def CipherArgs.wf (a : CipherArgs) : Bool :=
  fits 8 a.mode && fits 8 a.dir && fits 8 a.ksrc && fits 8 a.gensel && fits 8 a.tagLen && fits 8 a.keyLen && fits 64 a.karg &&
    fits 32 a.aadLen && fits 32 a.inLen && fits 64 a.outAddr && fits 64 a.tagAddr

/-- A descriptor of 32 octets with an argument buffer of at most 4,096 (Tables 13-3 and 13-10). -/
def RawDesc.wf (d : RawDesc) : Bool := d.octets.length == 32 && decide (d.buf.length ≤ 4096)

/-- A demodulator's measurements fit the fields of Table 05-5; a PSDU has at most 2,047 octets. -/
def RxMeas.wf (m : RxMeas) : Bool := fitsInt 16 m.ballQ && fitsInt 32 m.cfoHz && fitsInt 32 m.rateOfs
def RxSig.wf : RxSig → Bool
  | .fsk _ p => decide (p.length ≤ 2047)
  | .oqpsk _ p => decide (p.length ≤ 127)
  | .ofdm _ => true
  | .eland _ => true
/-- A codeword of a narrowband channel slot. -/
def SoftCw.wf (c : SoftCw) : Bool := decide (c.ch < 128)
/-- A census entry: its channel slot, occupancy and level. -/
def censusWf (e : Nat × Nat × Int) : Bool := decide (e.1 < 144) && fits 16 e.2.1 && fitsInt 16 e.2.2
/-- A frame of at most 16,384 octets from DA to FCS. -/
def frameWf (f : List Octet) : Bool := decide (f.length ≤ 16_384)
def ErrSrc.wf (e : ErrSrc) : Bool :=
  fits 16 e.code && decide (1 ≤ e.unit) && decide (e.unit ≤ 14) && fits 8 e.sub && fits 32 e.where_ && fits 16 e.detail
def JRec.wf (j : JRec) : Bool :=
  fits 40 j.asn && fits 32 j.ofs && decide (32 ≤ j.len) && decide (j.len ≤ 4096) && j.len % 8 == 0
/-- A level of 0.25 dB steps. -/
def levelWf (q : Int) : Bool := fitsInt 16 q
/-- What a tamper filter reports (Table 11-10). -/
def TampSrc.wf : TampSrc → Bool
  | .pin i _ => decide (i < 2)
  | _ => true
/-- Command rings 0 to 15, completion rings 0 to 15, device-written rings 0 to 9 (Table 13-2). -/
def RingSel.wf : RingSel → Bool
  | .cmd r => fits 4 r
  | .cpl c => fits 4 c
  | .dlv d => decide (d < 10)

/-- An access of `width` octets at octet `ofs` of a word. -/
def accessOk (ofs width : Nat) : Bool := decide (ofs < 4) && decide (1 ≤ width) && decide (width ≤ 8)

/-- Channel slots 0 to 143; ports 0 to 5; diversity and Ethernet ports. -/
def chOk (ch : Nat) : Bool := decide (ch < 144)
def portOk (p : Nat) : Bool := decide (p < 6)

/-- Node indices of the buckets and the stash (R292). -/
def nodeOk (n : Nat) : Bool := decide (n < 327744)

def Instr.wf : Instr → Bool
  | .cfgSnapshotRead r a n => r.wf && fits 64 a && fits 32 n
  | .timeSetEpoch r e l => r.wf && fits 64 e && fits 8 l
  | .timeStep r k f => r.wf && fits 64 k && fits 8 f
  | .timeStepExecute => true
  | .timeForce r => r.wf
  | .rfPortSet r p t => r.wf && fits 8 p && fits 8 t
  | .portSetEffect p => portOk p
  | .portTransitionDone p => portOk p
  | .rfCalibrate r p => r.wf && fits 8 p
  | .calibrateStart p => decide (p < 7)
  | .calRunDone p _ => decide (p < 7)
  | .bgtrimStep p _ => portOk p
  | .rfBankApply r => r.wf
  | .bankApplyActivate => true
  | .schedSlotframeSet r a => r.wf && a.wf
  | .slotframeSetEffect k => fits 6 k
  | .schedCellsWrite r k es => r.wf && fits 8 k && es.all CellEntry.wf
  | .cellsWriteEffect => true
  | .herdModeSet r m a d l => r.wf && fits 8 m && fits 8 a && fits 8 d && fits 8 l
  | .herdNodeSet r a => r.wf && a.wf
  | .herdNodeRead r i o => r.wf && fits 24 i && fits 64 o
  | .nodeInsert r a => r.wf && a.wf
  | .nodeRemove r i e => r.wf && fits 32 i && fits 64 e
  | .nodeRead r _ k o => r.wf && fits 64 k && fits 64 o
  | .prefixInsert r k n v => r.wf && fits 128 k && fits 8 n && fits 16 v
  | .prefixRemove r k n => r.wf && fits 128 k && fits 8 n
  | .pktSend r p => r.wf && fits 16 p.length
  | .bcastSend r p c f => r.wf && fits 16 p.length && fits 8 c && fits 8 f
  | .imgOpen r a => r.wf && a.wf
  | .imgLoad r k o d => r.wf && fits 8 k && fits 32 o && decide (d.length ≤ 65_536)
  | .imgSend r k b e c => r.wf && fits 8 k && fits 8 b && fits 24 e && fits 8 c
  | .imgSendLink => true
  | .rqOverrun => true
  | .imgClose r k => r.wf && fits 8 k
  | .secIdentity r o => r.wf && fits 64 o
  | .secAttest r k o c => r.wf && fits 8 k && fits 64 o && fits 256 c
  | .secKeyImport r b o => r.wf && fits 16 b.length && fits 64 o
  | .secKeygenSwitch r => r.wf
  | .keygenSwitchTake => true
  | .secKeyClear r => r.wf
  | .secFcAck r g b => r.wf && fits 32 g && fits 16 b
  | .secFcRestore r g b => r.wf && fits 32 g && fits 16 b
  | .secLcAdvance r t k _ => r.wf && fits 8 t && (t != 3 || k.length == 129)
  | .secTamperAck r => r.wf
  | .secFuseWrite r f v _ => r.wf && fits 8 f && fits 64 v
  | .romPatchLoad r p => r.wf && fits 32 p.length
  | .secCipher r a => r.wf && a.wf
  | .pwrEnter r t w => r.wf && fits 8 t && fits 32 w
  | .pwrCommit => true
  | .pairJoin r o => r.wf && fits 8 o
  | .pairTakeover r => r.wf
  | .swapDrill r k => r.wf && fits 8 k
  | .swapDrillBoundary => true
  | .pairSolo r => r.wf
  | .journalCtl r _ => r.wf
  | .journalDump r => r.wf
  | .replayEnter r => r.wf
  | .replayFeed r l => r.wf && fits 32 l.length
  | .diagNop r => r.wf
  | .diagIqSnapshot r w p n o => r.wf && fits 8 w && fits 8 p && fits 32 n && fits 32 o
  | .iqCapture => true
  | .glbResetWrite _ => true
  | .errRestartWrite _ => true
  | .quePoolWrite k _ => decide (k < 5)
  | .ringCtlWrite g _ => g.wf
  | .schHctlWrite _ => true
  | .registerWrite a w _ => fits 21 a && decide (1 ≤ w) && decide (w ≤ 8)
  | .timeNowLoRead b w => accessOk b w
  | .loHiLatchRead a b w => fits 21 a && a % 4 == 0 && accessOk b w
  | .rcCounterRead a b w => fits 21 a && a % 4 == 0 && accessOk b w
  | .dbCmdPi p _ l => fits 4 p && l.all RawDesc.wf
  | .dbCplCi p _ => fits 4 p
  | .dbDlvCi p _ => decide (p < 10)
  | .commandAdmit g => fits 4 g
  | .recordDeliver g => g.wf
  | .interruptSend g => g.wf
  | .hifLinkReset => true
  | .slotBoundary => true
  | .herdOverrun => true
  | .sixpTimeout n => nodeOk n
  | .dropReadmitCheck n => nodeOk n
  | .nodeSupervisionTimeout n => nodeOk n
  | .reasmExpire => true
  | .parentExpire n => nodeOk n
  | .ageingVisit => true
  | .txInstant _ _ _ => true
  | .txPortWake p => portOk p
  | .coexRequestAssert _ => true
  | .txOutcome _ o h => decide (o < 5) && fits 16 h
  | .txFrameEnd _ => true
  | .txLingerExpire p => portOk p
  | .ackWindowClose _ => true
  | .channelDeafStart c _ => chOk c
  | .channelDeafEnd c _ => chOk c
  | .clipDetect p => fits 2 p
  | .clipHangExpire p => fits 2 p
  | .coexFault => true
  | .coexClear => true
  | .refLost => true
  | .refGood => true
  | .refRecoveryTimeout => true
  | .spllUnlock => true
  | .spllLock => true
  | .spllLockTimeout => true
  | .preambleDetect c p q => chOk c && fits 5 p && levelWf q
  | .secondPreambleDetect c p x => chOk c && fits 5 p && levelWf x.rssiQ && levelWf x.meanQ
  | .sfdDetect c a b x => chOk c && levelWf a && levelWf b && fits 64 x.tick && fits 16 x.fec
  | .falseDetRelease c => chOk c
  | .msPhrRx c _ _ => chOk c
  | .msTimeout c => chOk c
  | .rxFrameEnd c x m f => chOk c && x.wf && m.wf && fits 16 f
  | .ldpcCodewordDone l c i => l.all SoftCw.wf && fits 7 c && fits 8 i
  | .rxFrameAdmit f c => fits 4 f && chOk c
  | .rxSummaryAdmit x => fits 1 x.pair && x.census.all censusWf
  | .timeSourceOutcome c o _ _ => decide (1 ≤ c) && decide (c ≤ 4) && decide (o < 3)
  | .servoSecondSample => true
  | .slckRatioMeasure q => fits 64 q
  | .ppsEdge _ t => fits 64 t
  | .ppsWidthTimeout => true
  | .ppsMissingSecond => true
  | .ppsQuiet => true
  | .todMessageRx _ t => fits 64 t
  | .todWaitTimeout => true
  | .todByteGap _ => true
  | .ptpSyncRx p x => fits 1 p && frameWf x.msg
  | .ptpFollowUpRx p x => fits 1 p && frameWf x.msg
  | .ptpDelayRespRx p x => fits 1 p && frameWf x.msg
  | .ptpAnnounceRx p m _ => fits 1 p && frameWf m
  | .ptpDelayReqSend p _ => fits 1 p
  | .ptpSyncMiss p => fits 1 p
  | .airBeaconMiss => true
  | .ethFrameRx p f => fits 1 p && frameWf f
  | .ethAdmit p => fits 1 p
  | .ethLinkChange p _ _ => fits 1 p
  | .ethFrameTx p => fits 1 p
  | .ethPauseExpire p => fits 1 p
  | .pauseRepeat p => fits 1 p
  | .watermarkCrossing w => decide (w < 60)
  | .qflowHoldExpire p => fits 1 p
  | .fifoQueueReset f => decide (f < 39)
  | .errorDetect e => e.wf
  | .errorRecordHandle => true
  | .scrubVisit _ => true
  | .watchdogExpire p => decide (p < 4)
  | .tamperAlarm x => x.source.wf && fits 64 x.hold
  | .pairLinkChange _ => true
  | .pairIdentRx d => fits 64 d.devid && fits 16 d.rev && d.key.length == 65
  | .joinCopyDone _ _ _ => true
  | .journalRecordRx j => j.wf
  | .standbyExecuteSlot j _ => fits 64 j
  | .digestWrite => true
  | .heartbeatRx a => fits 40 a
  | .heartbeatLoss => true
  | .pairAckRx _ => true
  | .standbyLostTimeout => true
  | .timingMarkRx t => fits 64 t
  | .keyTransferRx h g m _ => if h then decide (g ≤ 32) && fits (8 * g) m else fits 32 g && fits 256 m
  | .failMessageRx => true
  | .takeoverMessageRx => true
  | .drillMessageRx b => fits 40 b
  | .pairFailAssert => true
  | .takeoverActivate => true
  | .drillActivate => true
  | .joinTimeout => true
  | .autorejoinTimer => true
  | .powerOnReset => true
  | .coldBoot l x => l.length == 6 && x.otpBad.all (fun w => decide (w < 128))
  | .perstAssert => true
  | .pwrOkFall => true
  | .brownOut => true
  | .wakeTimer => true
  | .wakePin => true
  | .keepWake _ l => l.length == 6
  | .txHoldExpire _ => true
  | .txRampStart _ => true
  | .femLeadSwitch _ => true
  | .femHoldExpire p => portOk p
  | .utcDayEnd => true
  | .pcieConfigWrite _ _ => true
  | .cipherOperationDone e r => decide (e < 4) && r.wf
  | .errorRecoveryDone => true

end Sys2Proof
end

