-- ==== Sys2Proof/Certificates/Slice0/Obligations.lean ====
section
/-! DEFINITION. The statements for the provers (OBLIGATIONS.json). -/
open Sys2Proof Sys2Proof.Machine

/-- With command c at the front of the queue, step is exec of c on the state with the queue's rest; on an empty queue one timebase cycle passes. (The queue is the model's own, log entry 3.) -/
def Obligations.StepRunsTheFrontCommand : Prop :=
  (∀ (c : Instr) (rest : List Instr) (s : State), s.pending = c :: rest →
    step s = exec c { s with pending := rest }) ∧
  (∀ s : State, s.pending = [] → step s = .next (idleTick s))

/-- After a power-on reset every register word reads its table's reset value, every active copy the reset value of its staging register, every RC counter 0; no epoch is set, the timebase counts from 0 unloaded and the ASN is 0; every port is OFF and the SPLL is OFF; every slotframe handle is INACTIVE; the vault is empty; no command waits. (That the machine then stands in OFF, before the boot, is the model's choice, log entry 1.) The sparse register words of the reset state are in their canonical form (the representation is the model's own, log entry 4). -/
def Obligations.ResetState : Prop :=
  ((∀ a : Nat, State.reset.reg a = resetAt a) ∧
  (∀ a : Nat, State.reset.act a = (resetAt a).toNat) ∧
  (∀ a : Nat, cellsGet a 0 State.reset.cnt = 0) ∧
  State.reset.time.tb = 0 ∧ State.reset.time.loaded = false ∧ State.reset.time.epochSet = false ∧
  State.reset.time.asn = 0 ∧
  (∀ p, p < 6 → (portOf State.reset p).st = .off) ∧ State.reset.rf.spll = .off ∧
  (∀ k, sfState State.reset k = 0) ∧
  (∀ k ∈ State.reset.sec.slots, k.valid = false) ∧
  State.reset.pending = [] ∧ State.reset.hif.admitted = []) ∧
  (State.reset.wordsOk = true)

/-- In every state whose register words, counters, active copies, pending configuration snapshot and KEEP banks are in canonical form (addresses strictly rising, no word equal to what an unlisted address reads as), whatever command runs and whatever next state the step answers, they are in canonical form again: no register, counter or active copy is ever held twice, and equal register files are equal data. Every command of the operation table is covered, resets, restores from a snapshot and journaled writes included. -/
def Obligations.WordsOkKept : Prop :=
  ∀ s s' : State, s.wordsOk = true → step s = .next s' → s'.wordsOk = true

/-- A fuse of LC, OWNERID or OWNERTAMP that is blown stays blown in every next state, whatever command the step runs: programming sets bits to 1, and nothing else changes the fuses, no reset, replay or snapshot among them. Every command other than SEC_LC_ADVANCE, SEC_FUSE_WRITE, the three rows that run commands of descriptors or journal records (COMMAND_ADMIT, STANDBY_EXECUTE_SLOT, REPLAY_FEED) and the rows that boot (COLD_BOOT, KEEP_WAKE, GLB_RESET_WRITE, and REGISTER_WRITE of that register) leaves LC, OWNERID and OWNERTAMP as they are; the boots leave OWNERID and OWNERTAMP, and LC too except that they complete the half-blown pair of its state, which stays the state. -/
def Obligations.FusesNeverClear : Prop :=
  (∀ (s s' : State) (m : Nat), step s = .next s' →
    (s.sec.lc &&& m = m → s'.sec.lc &&& m = m) ∧
    (s.sec.ownerId &&& m = m → s'.sec.ownerId &&& m = m) ∧
    (s.sec.ownerTamp &&& m = m → s'.sec.ownerTamp &&& m = m)) ∧
  (∀ (c : Instr) (s t : State), exec c s = .next t →
    match c with
    | .secLcAdvance .. => True
    | .secFuseWrite .. => True
    | .commandAdmit .. => True
    | .standbyExecuteSlot .. => True
    | .replayFeed .. => True
    | .coldBoot .. => bootFuses s t
    | .keepWake .. => bootFuses s t
    | .glbResetWrite .. => bootFuses s t
    | .registerWrite .. => bootFuses s t
    | _ => t.sec.fuses = s.sec.fuses) ∧
  (∀ lc : Nat, lcOf lc ≠ 0 → lcOf (blow lc (lcOf lc) true) = lcOf lc)

/-- Whatever command runs, in whatever state, the queue of waiting commands is what it was (exec acts on everything but the queue; the queue is the model's own, log entry 3), and the command answers a next state. -/
def Obligations.CommandsLeaveTheQueue : Prop :=
  ∀ (c : Instr) (s : State), ∃ t, exec c s = .next t ∧ t.pending = s.pending

/-- In a state whose register words are canonical, after a store of v at BAR0 word a the word at a is v, every other register word is what it was, and every counter, active copy and latched word is untouched. -/
def Obligations.RegisterReadsBack : Prop :=
  ∀ (s : State) (a b : Nat) (v : Word), s.wordsOk = true →
    (s.setReg a v).reg a = v ∧ (b ≠ a → (s.setReg a v).reg b = s.reg b) ∧
    (s.setReg a v).cnt = s.cnt ∧ (s.setReg a v).active = s.active ∧ (s.setReg a v).latch = s.latch

/-- Counting n events in the field of w bits at bit lo of the RC word a sets that field to the smaller of the old count plus n and the largest value the field holds, keeps the word's other bits, and leaves every other counter as it was. -/
def Obligations.CountersSaturate : Prop :=
  ∀ (c : List (Nat × Word)) (a b lo w n : Nat), cellsWf (fun _ => 0) c = true → 0 < w → lo + w ≤ 32 →
    let x := (cellsGet a 0 c).toNat
    let y := (cellsGet a 0 (cntBump a lo w n c)).toNat
    y / 2 ^ lo % 2 ^ w = min (x / 2 ^ lo % 2 ^ w + n) (2 ^ w - 1) ∧ y % 2 ^ lo = x % 2 ^ lo ∧
      y / 2 ^ (lo + w) = x / 2 ^ (lo + w) ∧
      (b ≠ a → cellsGet b 0 (cntBump a lo w n c) = cellsGet b 0 c)

/-- When a command whose completion ring holds its slots completes, every slot of its descriptor that was reserved now holds the completion with that STATUS, UNIT, RESULT and DETAIL and the descriptor's TAG; slots of other descriptors and slots already filled keep what they held; its admission entry is gone and every other admission entry stays; registers, tables, schedule, keys, queues and the timebase are unchanged. (That every slot reserved for a command carries its final completion is the model's choice, log entry 62.) -/
def Obligations.CompletionFillsItsSlots : Prop :=
  ∀ (s : State) (r : CmdRef) (a : Adm) (c : Nat) (x : CplRing) (st unit result detail : Nat),
    admOf s r = some a → a.cpl = some c → s.hif.cpl[c]? = some x →
    let t := complete r st unit result detail s
    t.hif.cpl[c]? = some { x with slots := x.slots.map (fun k =>
      if k.ring = r.ring ∧ k.dindex = r.dindex ∧ k.st = .reserved then
        { k with st := .done ⟨a.opcode, st, unit, a.ref.tag, asnNow s, result, detail, s.jrn.seq⟩ } else k) } ∧
    (∀ d, d ≠ c → t.hif.cpl[d]? = s.hif.cpl[d]?) ∧
    t.hif.admitted = s.hif.admitted.filter (fun b => !(b.ref.ring == r.ring && b.ref.dindex == r.dindex)) ∧
    t.regs = s.regs ∧ t.active = s.active ∧ t.time = s.time ∧ t.rf = s.rf ∧ t.tbl = s.tbl ∧ t.sch = s.sch ∧ t.tx = s.tx ∧
    t.sec = s.sec ∧ t.que = s.que ∧ t.jrn = s.jrn ∧ t.pair = s.pair ∧ t.pwr = s.pwr ∧ t.err = s.err

/-- A command of a ring that has not been admitted waits, changing nothing, while its ring or the device cannot admit it; it completes at its admission with the STATUS that the pair state or an offline owner gives; otherwise it is admitted (its slots reserved on its bound completion ring, its CMD record journaled with the command, the key of a HOST cipher left out) and its effect runs. One that is admitted already is not admitted again: it changes nothing. Admission itself touches only the journal, its queue, the counters and the rings. (What the effects are is stated row by row.) -/
def Obligations.AdmissionGate : Prop :=
  (∀ (r : CmdRef) (op need n : Nat) (c : HostCmd) (s : State) (body : State → State),
    ((admOf s r).isSome = true → runCmd r op need n c s body = s) ∧
    ((admOf s r).isSome = false → gateOf s r.ring op need = .wait → runCmd r op need n c s body = s) ∧
    (∀ st u d, (admOf s r).isSome = false → gateOf s r.ring op need = .stop st u d →
      runCmd r op need n c s body = refuse r st u d (admitCmd r op need n (.ended st u d) s)) ∧
    ((admOf s r).isSome = false → gateOf s r.ring op need = .go → runCmd r op need n c s body = body (admitCmd r op need n c s))) ∧
  (∀ (r : CmdRef) (op need n : Nat) (c : HostCmd) (s : State), ∃ t, t = admitCmd r op need n c s ∧
    t.hif.admitted = s.hif.admitted ++ [⟨r, op, some (boundCpl s r.ring), s.time.tb, if jrnWrites s then some s.jrn.seq else none⟩] ∧
    t.hif.cpl = modAt (boundCpl s r.ring) (fun x => { x with
      slots := x.slots ++ List.replicate need ⟨r.ring, r.dindex, r.tag, op, .reserved⟩
      nextSlot := (x.nextSlot + need) % ringSize s (cplCtl (boundCpl s r.ring)) }) s.hif.cpl ∧
    t.regs = s.regs ∧ t.active = s.active ∧ t.time = s.time ∧ t.rf = s.rf ∧ t.tbl = s.tbl ∧ t.sch = s.sch ∧ t.tx = s.tx ∧
    t.sec = s.sec ∧ t.pair = s.pair ∧ t.pwr = s.pwr ∧ t.err = s.err ∧ (jrnWrites s = false → t.jrn = s.jrn)) ∧
  (∀ (a : CipherArgs), (a.ksrc = 0 → unkeyed (.secCipher a) = .secCipher { a with karg := 0, key := [] }) ∧
    (a.ksrc ≠ 0 → unkeyed (.secCipher a) = .secCipher a))

/-- While staging is not frozen, putting a record of at most 1 MiB into it keeps a suffix of what it held with the new record last, and leaves at most 1,048,576 octets in it; a frozen staging is unchanged. -/
def Obligations.StagingHoldsOneMebibyte : Prop :=
  ∀ (j : JrnSt) (r : JRec), r.len ≤ 1_048_576 →
    (j.frozen = true → j.stage r = j) ∧
    (j.frozen = false → (∃ k, (j.stage r).staging = j.staging.drop k ++ [r]) ∧
      sumNat ((j.stage r).staging.map JRec.len) ≤ 1_048_576)

/-- While a journal is open and the unit writes it, an item adds one record with the journal's next sequence number, the ASN and offset of now, its body, a length that is a multiple of 8 and the CRC-32C over its octets, and the number rises by one; while no journal is open, or the unit follows another, no record is written. Raising an event while its ring is enabled and the unit leads offers one EVENT record, with the event's code, its fields and the stamps of now, to the ring's egress queue; while the ring is disabled it only counts in the ring's LOST counter. Nothing else of the machine changes but the counters and the queues. -/
def Obligations.JournalAndEventRecords : Prop :=
  (∀ (b : JBody) (s : State),
    (jrnWrites s = true → ∃ r, (journal b s).jrn.seq = s.jrn.seq + 1 ∧ (journal b s).jrn.staging = (s.jrn.stage r).staging ∧
      r.seq = s.jrn.seq ∧ r.asn = asnNow s ∧ r.ofs = s.time.ofs ∧ r.body = b ∧ r.more = false ∧ r.len % 8 = 0 ∧ recCrcOk r = true) ∧
    (jrnWrites s = false → (journal b s).jrn = s.jrn ∧ (journal b s).que = s.que) ∧
    (journal b s).time = s.time ∧ (journal b s).regs = s.regs ∧ (journal b s).tbl = s.tbl ∧
    (journal b s).sec = s.sec ∧ (journal b s).hif = s.hif) ∧
  (∀ (code : Nat) (fields : List Nat) (s : State),
    (ringEn s (dlvCtl (evtRing s)) = true → s.pair.follows = false →
      (event code fields s).que = (enqueue s (dlvQueue (evtRing s)) (8 * fields.length) (.record
        ⟨4, 0, code, asnNow s, s.time.tb, 8 * fields.length, fields, [], s.jrn.seq⟩) s.que).1) ∧
    (ringEn s (dlvCtl (evtRing s)) = false → (event code fields s).que = s.que ∧
      (event code fields s).cnt = cntBump (0xE061C + 32 * evtRing s) 0 32 1 s.cnt) ∧
    (event code fields s).regs = s.regs ∧ (event code fields s).time = s.time ∧ (event code fields s).tbl = s.tbl ∧
    (event code fields s).sch = s.sch ∧ (event code fields s).sec = s.sec ∧ (event code fields s).hif.cpl = s.hif.cpl ∧
    (event code fields s).jrn = s.jrn)

/-- Taking n cells from a free list of non-empty intervals answers n cells, which with the remaining list are the cells the list held, in the same order; it answers none exactly when the list holds fewer than n. -/
def Obligations.CellsAreConserved : Prop :=
  ∀ (n : Nat) (f : List (Nat × Nat)), (∀ p ∈ f, p.1 < p.2) →
    (∀ cs g, takeCells n f = some (cs, g) →
      cs.length = n ∧ cs ++ g.flatMap (fun p => (List.range (p.2 - p.1)).map (p.1 + ·)) =
        f.flatMap (fun p => (List.range (p.2 - p.1)).map (p.1 + ·)) ∧ (∀ p ∈ g, p.1 < p.2)) ∧
    (takeCells n f = none ↔ freeCount f < n)

/-- Once the epoch is set and the timebase is loaded and not before it, the ASN is the number of whole slots since the epoch modulo 2^40 and the offset is what is left, below the slot length, so that epoch, slots and offset add up to the timebase; otherwise both read 0. -/
def Obligations.SlotClock : Prop :=
  ∀ t : TimeSt,
    (t.running = true → t.asn = (t.tb - t.epoch) / (t.slotLen * 250_000) % 2 ^ 40 ∧ t.ofs < t.slotLen * 250_000 ∧
      t.epoch + (t.tb - t.epoch) / (t.slotLen * 250_000) * (t.slotLen * 250_000) + t.ofs = t.tb) ∧
    (t.running = false → t.asn = 0 ∧ t.ofs = 0)

/-- TIME_SET_EPOCH, once its admission is done, with every slotframe handle INACTIVE, L from 8 to 160 and, once the timebase is loaded, E not later than the timebase, sets the epoch and the slot length at once and completes OK, changing nothing else but the count of boundaries passed; it completes BAD_STATE when a handle is not INACTIVE, and otherwise BAD_COMMAND when L is out of range or a loaded timebase is before E. The settings change in those cases in nothing. -/
def Obligations.TimeSetEpoch : Prop :=
  ∀ (r : CmdRef) (e l : Nat) (s : State), goes s r 0x0110 1 = true →
    let u := admitCmd r 0x0110 1 0 (.timeSetEpoch e l) s
    (allInactive s = true → 8 ≤ l → l ≤ 160 → (s.time.loaded = true → e ≤ s.time.tb) →
      exec (.timeSetEpoch r e l) s =
        .next (done r { u with time := { s.time with epoch := e, slotLen := l, epochSet := true, lastAsn := none } })) ∧
    (allInactive s = false → exec (.timeSetEpoch r e l) s = .next (refuse r stBadState 5 0 u)) ∧
    (allInactive s = true → (l < 8 ∨ 160 < l) → exec (.timeSetEpoch r e l) s = .next (refuse r stBad 5 0x000B u)) ∧
    (allInactive s = true → 8 ≤ l → l ≤ 160 → s.time.loaded = true → s.time.tb < e →
      exec (.timeSetEpoch r e l) s = .next (refuse r stBad 5 0x000B u))

/-- TIME_FORCE in ACQUIRE with the epoch set and a loaded or reconstructed timebase, once admitted, sets FORCED, enters DRIFTED, starts the journal when none is open (on a unit that leads) and sets the estimated error to the reconstructed estimate, or to TIME_HOLDLIM + 1 µs when there is none; tables, schedule and registers stay. In every other state it completes BAD_STATE with no effect beyond its admission. -/
def Obligations.TimeForceServes : Prop :=
  ∀ (r : CmdRef) (s : State), goes s r 0x0112 1 = true →
    (s.time.st = .acquire → s.time.epochSet = true → s.time.loaded = true →
      ∃ t, exec (.timeForce r) s = .next t ∧ t.time.st = .drifted ∧ t.time.forced = true ∧
        t.time.e0 = s.time.recon.getD (((s.reg 0x30010).toNat * 1000 : Nat) + 1000) ∧ t.time.accAt = s.time.tb ∧
        t.time.tb = s.time.tb ∧ (s.pair.leads = true → t.jrn.isOpen = true) ∧ t.tbl = s.tbl ∧ t.sch = s.sch ∧ t.regs = s.regs) ∧
    ((s.time.st ≠ .acquire ∨ s.time.epochSet = false ∨ s.time.loaded = false) →
      exec (.timeForce r) s = .next (refuse r stBadState 5 0 (admitCmd r 0x0112 1 0 .timeForce s)))

/-- TIME_STEP outside ACQUIRE with STEP from 1 ns to 2^62 ns, an active slotframe SFH and no step pending, that keeps the ASN below 2^40, becomes, once admitted, the pending step for the first boundary of the slotframe at or after AFTER that is still to come, and changes nothing else. At its boundary, whatever the state has become, the step adds STEP to the timebase, is pending no more, adds to the steps that airtime windows leave out, marks the references in progress of every source, and leaves registers, the channel bank, the schedule and the vault slots as they are. A step given while one is pending completes BUSY_RETRY. -/
def Obligations.TimeStep : Prop :=
  (∀ (r : CmdRef) (step sfh : Nat) (s : State), goes s r 0x0111 1 = true → s.time.st ≠ .acquire → 1 ≤ step → step ≤ 2 ^ 62 →
    sfh ≤ 63 → (sfActive s sfh).isSome = true → s.time.step = none →
    (stepBoundary s (sfLen s sfh) r.asn * s.time.l + step) / max 1 s.time.l < 2 ^ 40 →
    exec (.timeStep r step sfh) s =
      .next { admitCmd r 0x0111 1 0 (.timeStep step sfh) s with
        time := { s.time with step := some ⟨r, step, sfh, stepBoundary s (sfLen s sfh) r.asn⟩ } }) ∧
  (∀ (r : CmdRef) (step sfh : Nat) (q : StepReq) (s : State), goes s r 0x0111 1 = true → s.time.st ≠ .acquire → 1 ≤ step → step ≤ 2 ^ 62 →
    sfh ≤ 63 → (sfActive s sfh).isSome = true → s.time.step = some q →
    (stepBoundary s (sfLen s sfh) r.asn * s.time.l + step) / max 1 s.time.l < 2 ^ 40 →
    exec (.timeStep r step sfh) s = .next (refuse r stBusy 5 0 (admitCmd r 0x0111 1 0 (.timeStep step sfh) s))) ∧
  (∀ (q : StepReq) (s : State), coreRuns s = true → s.time.step = some q → s.time.running = true → q.after ≤ asnNow s →
    ∃ t, exec .timeStepExecute s = .next t ∧ t.time.tb = s.time.tb + q.step ∧ t.time.step = none ∧
      t.time.stepSum = s.time.stepSum + q.step ∧ t.time.srcs = (s.time.srcs.map (SrcSt.shift q.step)).map SrcSt.span ∧
      t.regs = s.regs ∧ t.bank = s.bank ∧ t.sch = s.sch ∧ t.sec.slots = s.sec.slots)

/-- A reference whose interval spans a step is discarded: it only ends the discarding. Any other is journaled with its outcome, an offered offset that is an outlier or would load a value before the epoch counting as rejected, and then acted on as that outcome. TIME_SOURCE_OUTCOME journals its outcome and acts on it in the same way while the unit executes core work. When no beacon of the followed peer has come within its PERIOD of the slot where it was expected, the next one is expected PERIOD slots later, and the reference of AIR counts as missed. -/
def Obligations.ReferenceOutcomes : Prop :=
  (∀ (c p kind : Nat) (off : Int) (pps : Nat) (mpd : Int) (s : State), (srcIn s c p).skip = true →
    reference c p kind off pps mpd s = modSrc c p (fun z => { z with skip := false }) s) ∧
  (∀ (c p : Nat) (off : Int) (pps : Nat) (mpd : Int) (s : State), (srcIn s c p).skip = false →
    outlier s c (srcIn s c p) off = true → beforeEpoch s c p off = false →
    reference c p 0 off pps mpd s = sourceOutcome c p 2 off (journal (.tsrc c 2 pps off mpd) s)) ∧
  (∀ (c p : Nat) (off : Int) (pps : Nat) (mpd : Int) (s : State), (srcIn s c p).skip = false → beforeEpoch s c p off = true →
    reference c p 0 off pps mpd s = sourceOutcome c p 2 off (journal (.tsrc c 2 pps off mpd)
      { s with time := { s.time with epochRej := s.time.epochRej + 1 } })) ∧
  (∀ (c p : Nat) (off : Int) (pps : Nat) (mpd : Int) (s : State), (srcIn s c p).skip = false →
    outlier s c (srcIn s c p) off = false → beforeEpoch s c p off = false →
    reference c p 0 off pps mpd s = sourceOutcome c p 0 off (journal (.tsrc c 0 pps off mpd) s)) ∧
  (∀ (code outcome : Nat) (off mpd : Int) (s : State), coreRuns s = true →
    exec (.timeSourceOutcome code outcome off mpd) s =
      .next (sourceOutcome code ((followed s).getD 0) outcome off (journal (.tsrc code outcome 0 off mpd) s))) ∧
  (∀ (p a : Nat) (s : State), coreRuns s = true → followed s = some p → s.time.bcnDue.getD p none = some a →
    exec .airBeaconMiss s = .next (reference 4 p 1 0 0 0
      { reach (s.time.at_ (a + peerPeriod s p)) s with
        time := { (reach (s.time.at_ (a + peerPeriod s p)) s).time with
          bcnDue := setAt s.time.bcnDue p (some (a + peerPeriod s p)) } }))

/-- Once a second, while a QUALIFIED source is selected, the servo's adjustment is sampled; until 16 samples have been taken since the load the frequency uncertainty reads 50,000 ppb, from then on it is at least 1 ppb. In RUN while LOCKED or HOLDOVER a measured SLCK ratio is kept, journaled, and becomes the ratio in force; the sixteen last ones set its uncertainty, which reads 0xFFFF before. At the end of the UTC day an announced leap second changes the UTC offset by it and is over. Nothing else of the core state changes. -/
def Obligations.ServoSamplesAndRatios : Prop :=
  (∀ s : State, coreRuns s = true → s.time.src ≠ 0 → srcQual s s.time.src = true →
    ∃ t, exec .servoSecondSample s = .next t ∧ t.time.sampled = s.time.sampled + 1 ∧
      (s.time.sampled + 1 < 16 → t.time.freqUnc = 50_000) ∧ (16 ≤ s.time.sampled + 1 → 1 ≤ t.time.freqUnc) ∧
      t.time.samples.head? = some (t.time.tb, s.time.f) ∧ t.regs = s.regs ∧ t.tbl = s.tbl ∧ t.sch = s.sch ∧ t.cnt = s.cnt) ∧
  (∀ (q : Nat) (s : State), coreRuns s = true → s.pwr.st = .run → (s.time.st = .locked ∨ s.time.st = .holdover) →
    ∃ t, exec (.slckRatioMeasure q) s = .next t ∧ t.time.ratio = q ∧ t.time.ratios = (q :: s.time.ratios).take 16 ∧
      (((q :: s.time.ratios).take 16).length < 16 → t.time.slckUnc = 0xFFFF) ∧
      t.time.tb = s.time.tb ∧ slckNow t = slckNow s ∧ t.regs = s.regs ∧ t.tbl = s.tbl) ∧
  (∀ s : State, coreRuns s = true →
    exec .utcDayEnd s = .next { s with time := { s.time with utcOff := s.time.utcOff + s.time.leap, leap := 0 } })

/-- While PPS is enabled and not NOISY, an edge of the kind that TIME_PPSCTL.EDGE selects is an accepted active edge at its instant less the filter latency of 16 ns and the cable delay, an edge of the other kind ends the width of the pulse held; in NOISY an edge only prolongs it. Outside LOCKED an active edge with no active edge and no pulse before it starts a pulse and decides nothing yet. 500 ms without a trailing edge decide the pulse as too long; a second without an active edge counts in TIME_PPSCNT[4], or in [5] when no edge of either kind came for 1.5 s, and is a missed reference of PPS, also in NOISY, where it is no outcome. In NOISY, silence of 3 s ends it, and the next pulse has no previous one. -/
def Obligations.PulsePerSecond : Prop :=
  (∀ (up : Bool) (at_ : Nat) (s : State), coreRuns s = true → ppsEn s = true → s.time.pps.noisy = false → (up != s.regB 0x30020 1) = true →
    exec (.ppsEdge up at_) s = .next (activeEdge (mv (-16 - signedOf 32 (s.regN 0x30024)) at_) (reach (at_ + 16) s))) ∧
  (∀ (up : Bool) (at_ : Nat) (p : Pulse) (s : State), coreRuns s = true → ppsEn s = true → s.time.pps.noisy = false →
    (up != s.regB 0x30020 1) = false → s.time.pps.pulse = some p → p.width = none →
    let edge := mv (-16 - signedOf 32 (s.regN 0x30024)) at_
    exec (.ppsEdge up at_) s = .next (settle false (withPps (fun y => { y with
      lastEdge := some edge, pulse := some { p with width := some (edge - p.edge) } }) (reach (at_ + 16) s)))) ∧
  (∀ (up : Bool) (at_ : Nat) (s : State), coreRuns s = true → ppsEn s = true → s.time.pps.noisy = true →
    let edge := mv (-16 - signedOf 32 (s.regN 0x30024)) at_
    exec (.ppsEdge up at_) s = .next (withPps (fun y => { y with
      noisyAt := edge, lastEdge := some edge, lastActive := if up != s.regB 0x30020 1 then some edge else y.lastActive }) (reach (at_ + 16) s))) ∧
  (∀ (up : Bool) (at_ : Nat) (s : State), coreRuns s = true → ppsEn s = true → s.time.pps.noisy = false → (up != s.regB 0x30020 1) = true →
    s.time.st ≠ .locked → s.time.pps.lastActive = none → s.time.pps.pulse = none →
    let edge := mv (-16 - signedOf 32 (s.regN 0x30024)) at_
    ∃ t, exec (.ppsEdge up at_) s = .next t ∧ t.time.pps.pulse = some ⟨edge, none, nearSec edge, slewTo s.time edge, none⟩ ∧
      t.time.pps.lastActive = some edge ∧ t.time.pps.lastEdge = some edge ∧ t.time.pps.missing = 0 ∧
      t.time.tb = max s.time.tb (at_ + 16) ∧ t.regs = s.regs ∧ t.cnt = s.cnt) ∧
  (∀ (p : Pulse) (s : State), coreRuns s = true → ppsEn s = true → s.time.pps.pulse = some p → p.width = none →
    exec .ppsWidthTimeout s = .next (decidePulse p 500_000_001 (reach (p.edge + 500_000_000) s))) ∧
  (∀ s : State, coreRuns s = true → ppsEn s = true → s.time.pps.noisy = false →
    let at_ := s.time.pps.lastActive.getD s.time.pps.enabledAt + 1_500_000_000 + s.time.pps.missing * 1_000_000_000
    let code := if s.time.pps.lastEdge.any (fun e => decide (at_ < e + 1_500_000_000)) then 4 else 5
    exec .ppsMissingSecond s = .next (reference 3 0 1 0 code 0 (bump (0x30028 + 4 * code)
      (withPps (fun y => { y with missing := y.missing + 1 }) (settle true (reach at_ s)))))) ∧
  (∀ s : State, coreRuns s = true → ppsEn s = true → s.time.pps.noisy = true →
    exec .ppsMissingSecond s = .next (reference 3 0 1 0 0 0 (withPps (fun y => { y with missing := y.missing + 1 })
      (reach (s.time.pps.enabledAt + (s.time.pps.missing + 1) * 1_000_000_000) s)))) ∧
  (∀ s : State, coreRuns s = true → ppsEn s = true → s.time.pps.noisy = true →
    ∃ t, exec .ppsQuiet s = .next t ∧ t.time.pps.noisy = false ∧ t.time.pps.prevGood = none ∧
      t.time.tb = max s.time.tb (s.time.pps.noisyAt + 3_000_000_000) ∧ t.regs = s.regs)

/-- While PPS is enabled, bytes received collect until sixteen are there; sixteen form a message, which is checked against the last pulse, or waits for the pulse whose outcome is open. More than 1 ms of silence discards a partial message. A GOOD pulse whose message has not come 900 ms after its edge is a rejected reference of PPS. -/
def Obligations.TimeOfDay : Prop :=
  (∀ (os : List Octet) (at_ : Nat) (s : State), coreRuns s = true → ppsEn s = true →
    let t := settle false (reach at_ s)
    let b := t.time.pps.tod ++ os
    exec (.todMessageRx os at_) s = .next (if 16 ≤ b.length
      then todArrive (b.take 16) at_ (withPps (fun y => { y with tod := b.drop 16, todAt := at_ }) t)
      else withPps (fun y => { y with tod := b, todAt := at_ }) t)) ∧
  (∀ (os : List Octet) (at_ : Nat) (s : State), coreRuns s = true → ppsEn s = true →
    s.time.pps.pulse = none → s.time.pps.tod.length + os.length < 16 →
    ∃ t, exec (.todMessageRx os at_) s = .next t ∧ t.time.pps.tod = s.time.pps.tod ++ os ∧ t.time.pps.todAt = at_ ∧
      t.time.tb = max s.time.tb at_ ∧ t.regs = s.regs ∧ t.time.utcOff = s.time.utcOff) ∧
  (∀ (os : List Octet) (at_ : Nat) (s : State), coreRuns s = true → ppsEn s = true →
    s.time.pps.pulse = none → s.time.pps.tod = [] → os.length = 16 →
    exec (.todMessageRx os at_) s = .next (todMessage os at_
      { reach at_ s with time := { (reach at_ s).time with pps := { s.time.pps with tod := [], todAt := at_ } } })) ∧
  (∀ (os : List Octet) (s : State), coreRuns s = true → ppsEn s = true →
    exec (.todByteGap os) s = .next { s with time := { s.time with pps := { s.time.pps with tod := [] } } }) ∧
  (∀ (e : Nat) (s : State), coreRuns s = true → ppsEn s = true → s.time.pps.todFor = some (e, true) →
    exec .todWaitTimeout s = .next (reference 3 0 2 0 0 0
      { reach (e + 900_000_000) s with
        time := { (reach (e + 900_000_000) s).time with pps := { s.time.pps with todFor := some (e, false) } } }))

/-- On an enabled port that is up, a two-step Sync of the port's master and domain waits for its Follow_Up, a one-step Sync and a matching Follow_Up within the sync interval complete a Sync with its times corrected; a matching Delay_Resp to the device's own port sets the mean path delay to half the sum of both directions; an Announce sets the UTC offset while the port is the selected source; a Delay_Req goes out on the port, is counted sent, and is remembered with its corrected egress time; 1.5 sync intervals without a complete Sync are a missed reference of the port, the link being up or not. A message of another type, master or domain, or a short one, is only counted. (The places of the fields in a PTP message are the model's, log entry 85.) -/
def Obligations.PtpMessages : Prop :=
  (∀ (p : Nat) (m : List Octet) (st : Int) (s : State), coreRuns s = true → ptpEn s p = true → ptpType m = 0 → 44 ≤ m.length →
    ptpClock m = ptpMaster s p → ptpDomain m = s.regF (0x30090 + 4 * p) 7 0 → ptpTwoStep m = true →
    exec (.ptpSyncRx p ⟨m, st⟩) s = .next (withPtp p (fun z => { z with
        wait := some (ptpSeq m, 65536 * (st - rxOfs s p) - ptpCorr m, (s.time.tb : Int)) })
      (withPtp p (fun z => { z with syncLog := ptpLog m }) s))) ∧
  (∀ (p : Nat) (m : List Octet) (st : Int) (s : State), coreRuns s = true → ptpEn s p = true → ptpType m = 0 → 44 ≤ m.length →
    ptpClock m = ptpMaster s p → ptpDomain m = s.regF (0x30090 + 4 * p) 7 0 → ptpTwoStep m = false →
    exec (.ptpSyncRx p ⟨m, st⟩) s = .next (syncDone p (ptpStamp m) (65536 * (st - rxOfs s p) - ptpCorr m)
      (withPtp p (fun z => { z with syncLog := ptpLog m }) s))) ∧
  (∀ (p : Nat) (m : List Octet) (st : Int) (q : Nat) (t2 w : Int) (s : State), coreRuns s = true → ptpEn s p = true →
    ptpType m = 8 → 44 ≤ m.length → ptpClock m = ptpMaster s p → ptpDomain m = s.regF (0x30090 + 4 * p) 7 0 →
    (ptpAt s p).wait = some (q, t2, w) → q = ptpSeq m → (s.time.tb : Int) ≤ w + interval (ptpAt s p).syncLog →
    exec (.ptpFollowUpRx p ⟨m, st⟩) s = .next (syncDone p (ptpStamp m) (t2 - ptpCorr m) s)) ∧
  (∀ (p : Nat) (m : List Octet) (st : Int) (q : Nat) (t1 t2 t3 : Int) (s : State), coreRuns s = true → ptpEn s p = true →
    ptpType m = 9 → 54 ≤ m.length → ptpClock m = ptpMaster s p → ptpDomain m = s.regF (0x30090 + 4 * p) 7 0 →
    (ptpAt s p).delayReq = some (q, t3) → (ptpAt s p).sync = some (t1, t2) → q = ptpSeq m → ptpAsker m = (ownEui s, p + 1) →
    exec (.ptpDelayRespRx p ⟨m, st⟩) s = .next (withPtp p (fun z => { z with
      delayReq := none, mpd := some (((t2 - t1) + (ptpStamp m - ptpCorr m - t3)) / 2), mpdAt := s.time.tb,
      delayLog := some (ptpLog m) }) s)) ∧
  (∀ (p : Nat) (m : List Octet) (st : Int) (s : State), coreRuns s = true → ptpEn s p = true →
    ptpType m = 11 → 64 ≤ m.length → ptpClock m = ptpMaster s p → ptpDomain m = s.regF (0x30090 + 4 * p) 7 0 →
    exec (.ptpAnnounceRx p m st) s = .next { s with time := { s.time with
      utcOff := if s.time.src = p + 1 then ptpUtc m else s.time.utcOff } }) ∧
  (∀ (p : Nat) (e : Int) (s : State), coreRuns s = true → mayAskDelay s p = true → p < s.time.ptp.length → p < s.eth.length →
    ∃ t, exec (.ptpDelayReqSend p e) s = .next t ∧ (ptpAt t p).delayReq = some ((ptpAt s p).delaySeq, 65536 * (e + txOfs s p)) ∧
      (ptpAt t p).delaySeq = ((ptpAt s p).delaySeq + 1) % 65536 ∧ (ptpAt t p).reqAt = some t.time.tb ∧
      (ethPort t p).sent.isSome = true ∧ t.cnt = cntBump (ethCnt p 12) 0 32 1 s.cnt ∧ t.regs = s.regs ∧ t.time.src = s.time.src) ∧
  (∀ (p : Nat) (s : State), coreRuns s = true → ptpOn s p = true →
    let i := interval (ptpAt s p).syncLog
    exec (.ptpSyncMiss p) s = .next (reference (p + 1) 0 1 0 0 0 (withPtp p (fun z => { z with
      wait := none, lastSync := z.lastSync + i }) (reach ((ptpAt s p).lastSync + i + i / 2) s)))) ∧
  (∀ (p : Nat) (m : List Octet) (st : Int) (s : State), coreRuns s = true → ptpEn s p = true →
    (ptpType m ≠ 0 ∨ m.length < 44 ∨ ptpClock m ≠ ptpMaster s p ∨ ptpDomain m ≠ s.regF (0x30090 + 4 * p) 7 0) →
    exec (.ptpSyncRx p ⟨m, st⟩) s = .next (bump (0xF0068 + 0x10000 * p) s))

/-- RF_PORT_SET, once admitted, for a port and a target that the port has, with the SPLL locked or target OFF, the port not failed and the timebase loaded where it names an ASN, becomes pending for its ASN, an RFOUT port's staged transmissions on it are withdrawn, and one that names no ASN takes effect at once; a receive port's command that names an ASN changes nothing else. A port or target that does not exist completes BAD_COMMAND. At its ASN the pending commands of the port take effect in order, each becoming the commanded state. A transition that is done leaves the port in the state it was moving to. -/
def Obligations.PortCommands : Prop :=
  (∀ (r : CmdRef) (port target : Nat) (s : State), goes s r 0x0201 1 = true → portArgsBad port target = false →
    (s.rf.spll = .locked ∨ target = 0) → (portOf s port).failed = false → needsTime s r.asn = false →
    let n := if r.asn = 0 then asnNow s else r.asn
    let t := modPort port (fun y => { y with pending := y.pending ++ [(r, portTarget target, n)] })
      (admitCmd r 0x0201 1 0 (.rfPortSet port target) s)
    let v := if isOut port then withdraw n (fun x => x.port == port) t else t
    exec (.rfPortSet r port target) s = .next (if r.asn = 0 then portEffect port (asnNow s) v else v)) ∧
  (∀ (r : CmdRef) (port target : Nat) (s : State), goes s r 0x0201 1 = true → port < 4 → target ≤ 2 → s.rf.spll = .locked →
    (portOf s port).failed = false → r.asn ≠ 0 → s.time.loaded = true →
    exec (.rfPortSet r port target) s =
      .next (modPort port (fun y => { y with pending := y.pending ++ [(r, portTarget target, r.asn)] })
        (admitCmd r 0x0201 1 0 (.rfPortSet port target) s))) ∧
  (∀ (r : CmdRef) (port target : Nat) (s : State), goes s r 0x0201 1 = true → (5 < port ∨ 2 < target ∨ (4 ≤ port ∧ 1 < target)) →
    exec (.rfPortSet r port target) s = .next (refuse r stBad 4 0x000B (admitCmd r 0x0201 1 0 (.rfPortSet port target) s))) ∧
  (∀ (p : Nat) (s : State), coreRuns s = true →
    exec (.portSetEffect p) s = .next (((portOf s p).pending.filter (fun x => decide (x.2.2 ≤ nowFor s))).foldl (fun u x =>
      portGo p (modPort p (fun y => { y with
        pending := y.pending.filter (fun z => z != x), cmd := x.2.1, told := true, waiting := y.waiting ++ [(x.1, x.2.1)] }) u)) s)) ∧
  (∀ (p at_ : Nat) (n : PortState) (s : State), (portOf s p).trans = some (n, at_) →
    exec (.portTransitionDone p) s = .next (transDone p n at_ s)) ∧
  (∀ (at_ : Nat) (s : State), (portOf s 0).trans = some (.idle, at_) → (portOf s 0).cmd = .idle → (portOf s 0).waiting = [] →
    (portOf s 0).failed = false → portsHeld s = false → s.pair.follows = false → s.pwr.st = .run →
    ∃ t, exec (.portTransitionDone 0) s = .next t ∧ (portOf t 0).st = .idle ∧ (portOf t 0).trans = none ∧
      t.time.tb = max s.time.tb at_ ∧ t.regs = s.regs ∧ t.tbl = s.tbl)

/-- RF_CALIBRATE, once admitted, of a port or of the SPLL (port 6) that can be calibrated becomes pending for its ASN, and one that names no ASN starts at once where it can; a port number above 6 completes BAD_COMMAND. A due run puts a receive port into CAL from now; a due run of an SPLL that is not locked puts it into BAND for 4.8 ms and every port's samples stop. A run of the SPLL that ends well locks it, one that fails lets it start locking afresh and completes CAL_FAIL; a run of a port leaves it in IDLE on its way to its commanded state and completes OK, or CAL_FAIL with the port; in every case the run is over 25 ms (6 ms for the SPLL) after its start. A step of background trim counts one step where the trim is enabled and keeps the temperature delta, and raises CAL_ADVISED once above 25 °C. -/
def Obligations.PortCalibration : Prop :=
  (∀ (r : CmdRef) (port : Nat) (s : State), goes s r 0x0202 1 = true → port ≤ 6 →
    calBusy s port (if r.asn = 0 then s.time.tb else s.time.at_ r.asn) = false → (port = 6 ∨ s.rf.spll = .locked) →
    needsTime s r.asn = false →
    let n := if r.asn = 0 then asnNow s else r.asn
    let u := admitCmd r 0x0202 1 0 (.rfCalibrate port) s
    let t := if port = 6 then withRf (fun x => { x with spllPend := some (r, n) }) u
      else modPort port (fun y => { y with calPend := some (r, n) }) u
    exec (.rfCalibrate r port) s = .next (if r.asn = 0 then calStart port n t else t)) ∧
  (∀ (r : CmdRef) (port : Nat) (s : State), goes s r 0x0202 1 = true → 6 < port →
    exec (.rfCalibrate r port) s = .next (refuse r stBad 4 0x000B (admitCmd r 0x0202 1 0 (.rfCalibrate port) s))) ∧
  (∀ (p : Nat) (r : CmdRef) (n : Nat) (s : State), coreRuns s = true → p < 4 → (portOf s p).calPend = some (r, n) → n ≤ nowFor s →
    s.rf.spll = .locked → (portOf s (partner p)).calRun = none → onAir (portOf s p) = [] →
    ∃ t, exec (.calibrateStart p) s = .next t ∧ t.rf.ports = modAt p (fun y => { y with
        calPend := none, st := .cal, trans := none, linger := none, femUntil := none, calRun := some (some r, s.time.tb) }) s.rf.ports ∧
      t.regs = s.regs ∧ t.time = s.time ∧ t.tbl = s.tbl) ∧
  (∀ (r : CmdRef) (n : Nat) (s : State), coreRuns s = true → s.rf.spllPend = some (r, n) → n ≤ nowFor s → s.rf.spll ≠ .locked →
    exec (.calibrateStart 6) s = .next { s with rf := { s.rf with
      spll := .band, spllPend := none, spllRun := some (r, s.time.tb), spllAt := s.time.tb + 4_800_000, spllFrom := s.time.tb,
      ports := s.rf.ports.map haltIn } }) ∧
  (∀ (r : CmdRef) (t0 : Nat) (s : State), s.rf.spllRun = some (r, t0) →
    exec (.calRunDone 6 true) s = .next (done r (calResult 6 2 true t0 (spllLocked
      (withRf (fun x => { x with spllRun := none }) (reach (t0 + 6_000_000) s)))))) ∧
  (∀ (r : CmdRef) (t0 : Nat) (s : State), s.rf.spllRun = some (r, t0) →
    let t := reach (t0 + 6_000_000) s
    exec (.calRunDone 6 false) s = .next (complete r stCalFail 4 6 0 (calResult 6 2 false t0 (withRf (fun x => { x with
      spllRun := none, spll := if x.refOk then .locking else .unlocked, attempts := 0, spllAt := t.time.tb + 2_000_000,
      spllFrom := t.time.tb }) t)))) ∧
  (∀ (p : Nat) (ok : Bool) (ref : Option CmdRef) (t0 : Nat) (s : State), p < 6 → (portOf s p).calRun = some (ref, t0) →
    let t := modPort p (fun y => { y with
      calRun := none, st := .idle, femRow := if isOut p then 2 else y.femRow, failed := y.failed && !ok,
      tempDelta := if ok then 0 else y.tempDelta, advised := y.advised && !ok }) (reach (t0 + 25_000_000) s)
    let u := portGo p (calResult p 1 ok t0 t)
    exec (.calRunDone p ok) s = .next (match ref, ok with
      | some r, true => done r u
      | some r, false => complete r stCalFail 4 p 0 u
      | none, _ => u)) ∧
  (∀ (p d : Nat) (s : State), s.up = true → p < 6 → d ≤ 25 →
    exec (.bgtrimStep p d) s = .next (modPort p (fun y => { y with trims := y.trims + b2n (trimOn s p), tempDelta := d }) s)) ∧
  (∀ (p d : Nat) (s : State), s.up = true → p < 6 → 25 < d → d ≤ 255 → (portOf s p).advised = false →
    exec (.bgtrimStep p d) s = .next (event 0x0105 [p, d] (modPort p (fun y => { y with
      trims := y.trims + b2n (trimOn s p), tempDelta := d, advised := true }) s)))

/-- The loss of REF_IN is counted, journaled, raises REF_LOST and enters error 0x0401; an SPLL that is locked then leaves LOCKED for UNLOCKED, one that is not locked, not OFF and not in a calibration run is put into UNLOCKED. Its return, while the SPLL is UNLOCKED, is journaled and starts LOCKING again; 1 s without it is the DEVICE_FATAL error 0x0402. A locked SPLL that unlocks with REF_IN good leaves LOCKED for LOCKING with error 0x0403, with REF_IN lost for UNLOCKED; a lock is journaled, raises SPLL_LOCK and lets the ports return; an attempt that times out goes back to BAND for another, and the third gives up. -/
def Obligations.SampleClock : Prop :=
  (∀ s : State, s.up = true → s.rf.refOk = true →
    let u := raiseErr 0x0401 1 1 0 0 0 0 (event 0x0101 [] (journal (.clock 2) { s with
      rf := { s.rf with refOk := false, refLostAt := some s.time.tb }, cnt := cntBump 0x20104 16 16 1 s.cnt }))
    (u.rf.spll = .locked → exec .refLost s = .next (spllLeave .unlocked u)) ∧
    (u.rf.spll ≠ .locked → exec .refLost s = .next { u with rf := { u.rf with
      spll := if u.rf.spll = .off ∨ u.rf.spllRun.isSome then u.rf.spll else .unlocked } })) ∧
  (∀ s : State, s.up = true → s.rf.refOk = true → s.rf.spll = .locking → s.rf.spllRun = none → s.offline 1 = false →
    s.err.busy = false → s.err.fifo.length < 60 →
    ∃ t, exec .refLost s = .next t ∧ t.rf.spll = .unlocked ∧ t.rf.refOk = false ∧ t.rf.refLostAt = some s.time.tb ∧
      (∃ e, t.err.fifo = s.err.fifo ++ [e] ∧ e.code = 0x0401 ∧ e.cls = 1) ∧ t.regs = s.regs ∧ t.tbl = s.tbl ∧ t.sch = s.sch) ∧
  (∀ s : State, s.up = true → s.rf.refOk = false → s.rf.spll = .unlocked →
    exec .refGood s = .next (journal (.clock 3) { s with rf := { s.rf with
      refOk := true, refLostAt := none, spll := .locking, attempts := 0, spllAt := s.time.tb + 2_000_000, spllFrom := s.time.tb } })) ∧
  (∀ s : State, s.up = true → s.rf.refOk = false → s.rf.spll ≠ .unlocked →
    exec .refGood s = .next (journal (.clock 3) { s with rf := { s.rf with refOk := true, refLostAt := none } })) ∧
  (∀ (t0 : Nat) (s : State), s.up = true → s.rf.refLostAt = some t0 →
    exec .refRecoveryTimeout s = .next (raiseErr 0x0402 3 14 0 0 0 0
      (withRf (fun r => { r with refLostAt := none }) (reach (t0 + 1_000_000_000) s)))) ∧
  (∀ s : State, s.up = true → s.rf.spll = .locked → s.rf.refOk = true →
    exec .spllUnlock s = .next (raiseErr 0x0403 1 1 0 0 0 0 (spllLeave .locking s))) ∧
  (∀ s : State, s.up = true → s.rf.spll = .locked → s.rf.refOk = false →
    exec .spllUnlock s = .next (spllLeave .unlocked s)) ∧
  (∀ s : State, s.up = true → (s.rf.spll = .locking ∨ s.rf.spll = .band) → s.rf.spllRun = none → s.rf.refOk = true →
    exec .spllLock s = .next (returnPorts (event 0x0103 [] (journal (.clock 0) { s with rf := { s.rf with
      spll := .locked, attempts := 0, failed := false } })))) ∧
  (∀ s : State, s.up = true → s.rf.spll = .locking → s.rf.spllRun = none → s.rf.attempts < 2 →
    ∃ t, exec .spllLockTimeout s = .next t ∧ t.rf.spll = .band ∧ t.rf.attempts = s.rf.attempts + 1 ∧
      t.rf.spllAt = max s.time.tb s.rf.spllAt + 4_800_000 ∧ t.regs = s.regs ∧ t.cnt = s.cnt) ∧
  (∀ s : State, s.up = true → s.rf.spll = .band → s.rf.spllRun = none → s.rf.attempts < 2 →
    ∃ t, exec .spllLockTimeout s = .next t ∧ t.rf.spll = .band ∧ t.rf.attempts = s.rf.attempts + 1 ∧
      t.rf.spllAt = max s.time.tb (s.rf.spllAt + 2_000_000) + 4_800_000 ∧ t.regs = s.regs ∧ t.cnt = s.cnt) ∧
  (∀ s : State, s.up = true → (s.rf.spll = .locking ∨ s.rf.spll = .band) → s.rf.spllRun = none → 2 ≤ s.rf.attempts →
    exec .spllLockTimeout s = .next (spllGiveUp (reach (lockEnd s) s)))

/-- A channel slot near a carrier that is about to start becomes DEAF, PRE before the carrier, and a frame in progress on it is lost as DEAF_LOST; it is DEAF no more POST after the carrier has ended, or at once when the carrier never started. A receive port that clips is paused until HANG has passed, counting one clip event, and frames chosen on it are lost as CLIP_LOST, each counted; then the pause is over. (That a clip of a paused port is no further event, and that only a frame whose SFD has come is a frame in progress, are the model's, log entries 104 and 99.) While the coexistence wires are enabled, a grant that has been denied for 5 s sets FAULT in RFTX_COEXCFG, keeps that register's other bits, and raises COEX_FAULT; once the grant is given again after that, COEX_CLEAR is raised and the denial is over, while FAULT stays until it is written. -/
def Obligations.DeafClippingAndCoexistence : Prop :=
  ((∀ (ch id : Nat) (t : Tx) (s : State), txAt s id = some t → t.phase ≠ .ackWait → deafens s t.port t.freq ch = true →
    s.rf.deaf.any (fun d => d.ch == ch && d.id == id) = false →
    exec (.channelDeafStart ch id) s = .next (loseLocks (fun d => d.ch == ch) 1
      { reach (t.start - deafPre s) s with
        rf := { s.rf with deaf := s.rf.deaf ++ [⟨ch, id, max s.time.tb (t.start - deafPre s), none⟩] } })) ∧
  (∀ (ch id u : Nat) (d : DeafRec) (s : State), s.rf.deaf.find? (fun d => d.ch == ch && d.id == id) = some d → d.until_ = some u →
    exec (.channelDeafEnd ch id) s = .next (deafClose (fun d => d.ch == ch && d.id == id) (reach u s))) ∧
  (∀ (ch id : Nat) (d : DeafRec) (s : State), s.rf.deaf = [d] → d.ch = ch → d.id = id → d.until_ = none → txAt s id = none →
    ∃ t, exec (.channelDeafEnd ch id) s = .next t ∧ t.rf = { s.rf with deaf := [] } ∧ t.time = s.time ∧ t.regs = s.regs ∧ t.cnt = s.cnt) ∧
  (∀ (p : Nat) (s : State), p < 4 → (portOf s p).st = .on →
    let hit := fun (d : Demod) => d.lock.sfd.any (fun x => x.port == p)
    exec (.clipDetect p) s = .next (bumpN (0x40040 + 4 * p) (s.rx.locks.filter hit).length
      (bumpIf (!(portOf s p).clipping) (0x40030 + 4 * p) (loseLocks hit 2 (modPort p (fun y => { y with
        clipping := true, clipUntil := s.time.tb + 1000 * s.regF 0x4001C 31 24 }) s))))) ∧
  (∀ (p : Nat) (s : State), (portOf s p).clipping = true →
    exec (.clipHangExpire p) s =
      .next (modPort p (fun y => { y with clipping := false }) (reach (portOf s p).clipUntil s)))) ∧
  ((∀ s : State, s.up = true → coexEn s = true → (s.rf.grant = true ∨ s.regB 0x50020 16 = false) →
    let t0 := s.rf.denied.getD s.time.tb
    exec .coexFault s = .next (event 0x0106 []
      (({ reach (t0 + 5_000_000_000) s with rf := { s.rf with grant := false, denied := some t0 } }).setReg
        0x50020 (s.reg 0x50020 ||| 0x10000)))) ∧
  (∀ (t0 : Nat) (s : State), s.up = true → s.rf.denied = some t0 → t0 + 5_000_000_000 ≤ s.time.tb →
    exec .coexClear s = .next (event 0x0107 [] { s with rf := { s.rf with grant := true, denied := none } })))

/-- RF_BANK_APPLY, once admitted with no other apply pending and its ASN (0: the current ASN and 2) far enough ahead, whose staged configuration passes its checks, computes the profiles' OBW words, keeps a snapshot of the staging set with them for its ASN and withdraws the staged transmissions of R554; the active configuration stays as it is until then, but becomes active at once while the timebase is not loaded. A configuration that fails a check completes BAD_COMMAND with CHB_APPLYERR and CHB_APPLYDET naming it, and nothing of it becomes active; one that comes while another is pending completes BUSY. At its ASN the whole snapshot becomes the active configuration, and no register, table or cell changes. (That the OBW words are computed at the command is the model's reading, log entry 110.) -/
def Obligations.BankApply : Prop :=
  (∀ (r : CmdRef) (s : State), goes s r 0x0203 1 = true → needsTime s r.asn = false → s.bank.apply = none → tooSoon s r.asn = false →
    checkSnapshot (snapGet (stagingNow s)) = none →
    let w := obwWords (snapGet (stagingNow s))
    let a : Apply := ⟨r, namedAsn s r.asn, putWords w (stagingNow s)⟩
    let t := withdraw (namedAsn s r.asn) (fun _ => true) { admitCmd r 0x0203 1 0 .rfBankApply s with
      regs := putWords w s.regs, bank := ⟨some a, 0, 0⟩ }
    exec (.rfBankApply r) s = .next (if s.time.loaded then t else activate a t)) ∧
  (∀ (r : CmdRef) (f : ApplyFail) (s : State), goes s r 0x0203 1 = true → needsTime s r.asn = false → s.bank.apply = none →
    tooSoon s r.asn = false → checkSnapshot (snapGet (stagingNow s)) = some f →
    exec (.rfBankApply r) s = .next (complete r stBad (applyUnit f.typ) (applyErrOf f + applyDetOf f * 2 ^ 32) (0x100 + f.reason)
      { admitCmd r 0x0203 1 0 .rfBankApply s with bank := { s.bank with applyErr := applyErrOf f, applyDet := applyDetOf f } })) ∧
  (∀ (r : CmdRef) (a : Apply) (s : State), goes s r 0x0203 1 = true → needsTime s r.asn = false → s.bank.apply = some a →
    exec (.rfBankApply r) s = .next (refuse r stBusy 4 0 (admitCmd r 0x0203 1 0 .rfBankApply s))) ∧
  (∀ (a : Apply) (s : State), coreRuns s = true → s.bank.apply = some a → a.asn ≤ nowFor s →
    ∃ t, exec .bankApplyActivate s = .next t ∧ t.active = a.snap ∧ t.bank = { s.bank with apply := none } ∧
      t.regs = s.regs ∧ t.tbl = s.tbl ∧ t.sch = s.sch ∧ t.sec = s.sec ∧ t.time = s.time ∧ t.rf = s.rf ∧
      t.rx.locks = s.rx.locks.filter (fun d => !slotChanged s.act (snapGet a.snap) d.ch))

/-- SCHED_SLOTFRAME_SET, once admitted and none of the conditions of R202 turning it away, adds the record to the handle to begin at its ASN (0: the current ASN and 2), or ends the record that is ACTIVE at it and withdraws the handle's staged transmissions, and changes nothing else; that covers an INACTIVE handle with a record in range and an ACTIVE one that is removed. A handle above 63 completes BAD_COMMAND, one already ACTIVE BAD_STATE. When the ASN has come the region's words are cleared, the handle stays and the command completes; when a removal's ASN has come the handle's record is gone, every word of its region reads 0 and every other word is as it was. -/
def Obligations.Slotframes : Prop :=
  (∀ (r : CmdRef) (a : SfArgs) (s : State), goes s r 0x0301 1 = true → (∀ x ∈ sfCheck s r a, x.1 = false) →
    let u := admitCmd r 0x0301 1 0 (.schedSlotframeSet a) s
    let t := { u with sch := { s.sch with sf := modAt a.sfh (sfAdmit s r a) s.sch.sf } }
    exec (.schedSlotframeSet r a) s = .next (if a.en then t else withdraw (namedAsn s r.asn) (fun x => x.sfh == a.sfh) t)) ∧
  (∀ (r : CmdRef) (a : SfArgs) (s : State), goes s r 0x0301 1 = true → a.en = true → a.sfh < 64 → sfUses s a.sfh = [] →
    s.time.loaded = true → asnNow s + 2 ≤ r.asn → herdForbids s a.sfh true = false → ctxZero s = true → poolErr s = false →
    sfFieldsBad s a r.asn = false →
    exec (.schedSlotframeSet r a) s = .next { admitCmd r 0x0301 1 0 (.schedSlotframeSet a) s with
      sch := { s.sch with sf := modAt a.sfh (fun l =>
        l ++ [⟨⟨a.long, a.band, a.depth, a.length, a.base⟩, r.asn, some r, false, none, none⟩]) s.sch.sf } }) ∧
  (∀ (r : CmdRef) (a : SfArgs) (u : SfUse) (s : State), goes s r 0x0301 1 = true → a.en = false → a.sfh < 64 → sfUses s a.sfh = [u] →
    u.begun = true → u.rem = none → s.time.loaded = true → asnNow s + 2 ≤ r.asn → herdForbids s a.sfh false = false →
    exec (.schedSlotframeSet r a) s = .next (withdraw r.asn (fun x => x.sfh == a.sfh)
      { admitCmd r 0x0301 1 0 (.schedSlotframeSet a) s with
        sch := { s.sch with sf := modAt a.sfh (fun _ => [{ u with rem := some r.asn, remRef := some r }]) s.sch.sf } })) ∧
  (∀ (r : CmdRef) (a : SfArgs) (s : State), goes s r 0x0301 1 = true → 63 < a.sfh →
    exec (.schedSlotframeSet r a) s = .next (refuse r stBad 5 0x000B (admitCmd r 0x0301 1 0 (.schedSlotframeSet a) s))) ∧
  (∀ (r : CmdRef) (a : SfArgs) (s : State), goes s r 0x0301 1 = true → a.en = true → a.sfh < 64 → s.time.loaded = true →
    r.asn = 0 → sfState s a.sfh = 1 →
    exec (.schedSlotframeSet r a) s = .next (refuse r stBadState 5 0 (admitCmd r 0x0301 1 0 (.schedSlotframeSet a) s))) ∧
  (∀ (k : Nat) (r : CmdRef) (u : SfUse) (s : State), coreRuns s = true → sfUses s k = [u] → u.begun = false →
    u.act ≤ nowFor s → u.rem = none → u.actRef = some r →
    exec (.slotframeSetEffect k) s = .next (done r { s with sch := { s.sch with
      sf := modAt k (fun l => l.map (fun v => if v = u then { v with begun := true, actRef := none } else v)) s.sch.sf
      store := s.sch.store.filter (fun p => !u.rec_.has p.1) } })) ∧
  (∀ (k n : Nat) (u : SfUse) (s : State), coreRuns s = true → sfUses s k = [u] → u.begun = true → u.actRef = none →
    u.act ≤ nowFor s → u.rem = some n → n ≤ nowFor s →
    ∃ t, exec (.slotframeSetEffect k) s = .next t ∧ sfUses t k = [] ∧ (∀ j, j ≠ k → sfUses t j = sfUses s j) ∧
      (∀ w, u.rec_.has w = true → storeGet t.sch.store w = 0) ∧
      (∀ w, u.rec_.has w = false → storeGet t.sch.store w = storeGet s.sch.store w) ∧
      t.regs = s.regs ∧ t.active = s.active ∧ t.time = s.time ∧ t.rf = s.rf ∧ t.sec = s.sec)

/-- SCHED_CELLS_WRITE of 1 to 64 entries, once admitted and meeting the conditions of R203, is held for its ASN (0: the current ASN and 2) with the definition of its handle in use at it, and changes nothing else; no entries at all, more than 64, or a handle above 63, complete BAD_COMMAND. When its ASN has come, the word of an entry's slot and position in the handle's region holds the entry's word, every other word of the store is as it was, and the write is no longer held; where the handle is no longer in use, or was removed and defined afresh, the command completes BAD_STATE and no word changes. -/
def Obligations.ScheduleCells : Prop :=
  (∀ (r : CmdRef) (k : Nat) (es : List CellEntry) (s : State), goes s r 0x0302 1 = true → k < 64 → es ≠ [] → es.length ≤ 64 →
    needsTime s r.asn = false → tooSoon s r.asn = false → (∀ x ∈ cellsCheck s k (namedAsn s r.asn) es false, x.1 = false) →
    exec (.schedCellsWrite r k es) s = .next { admitCmd r 0x0302 1 (4 + 8 * es.length) (.schedCellsWrite k es) s with
      sch := { s.sch with writes := s.sch.writes ++
        [⟨some r, namedAsn s r.asn, k, ((sfAt s k (namedAsn s r.asn)).map SfUse.act).getD 0, es⟩] } }) ∧
  (∀ (r : CmdRef) (k : Nat) (es : List CellEntry) (s : State), goes s r 0x0302 1 = true → (63 < k ∨ es = [] ∨ 64 < es.length) →
    exec (.schedCellsWrite r k es) s =
      .next (refuse r stBad 5 0x000B (admitCmd r 0x0302 1 (4 + 8 * es.length) (.schedCellsWrite k es) s))) ∧
  (∀ (r : CmdRef) (k n : Nat) (e : CellEntry) (u : SfUse) (s : State), coreRuns s = true →
    s.sch.writes = [⟨some r, n, k, u.act, [e]⟩] → n ≤ nowFor s → sfAt s k n = some u → cellsWf (fun _ => 0) s.sch.store = true →
    ∃ t, exec .cellsWriteEffect s = .next t ∧ t.sch.writes = [] ∧ t.sch.sf = s.sch.sf ∧
      storeGet t.sch.store (u.rec_.wordOf e.slot e.pos) = e.word ∧
      (∀ w, w ≠ u.rec_.wordOf e.slot e.pos → storeGet t.sch.store w = storeGet s.sch.store w) ∧
      t.regs = s.regs ∧ t.active = s.active ∧ t.time = s.time ∧ t.rf = s.rf ∧ t.sec = s.sec ∧ t.que = s.que) ∧
  (∀ (r : CmdRef) (k n a : Nat) (es : List CellEntry) (s : State), coreRuns s = true →
    s.sch.writes = [⟨some r, n, k, a, es⟩] → n ≤ nowFor s → (∀ u, sfAt s k n = some u → u.act ≠ a) →
    exec .cellsWriteEffect s = .next (refuse r stBadState 5 0 { s with sch := { s.sch with writes := [] } }))

/-- HERD_MODE_SET, once admitted with fields in range and the two slotframes active where MODE is 1 or 2, writes MODE, AUTOSF, DLSF and LAG of SCH_HCTL, keeps its bits 31 and 30 and every other register, and completes; equal slotframe handles complete BAD_COMMAND, and MODE 1 or 2 while one of the two slotframes is not active BAD_STATE, neither writing anything. A direct write of SCH_HCTL that keeps the rules of R255 writes its fields; one that breaks them writes MODE as OFF and the other fields as given. HERD_NODE_SET for no node completes NO_NODE; one whose forced values are all valid replaces the pins that PINWE selects, and no other pin, sets what it forces, announces it and completes. HERD_NODE_READ writes the node's 32 octets into its output buffer (on a unit that executes its own records) and completes; for no node it completes NO_NODE. A 6P transaction whose request was acknowledged and not answered within TIMEOUT fails with code 255: nothing more is accepted for it and its failure is a decision of the next boundary. An overrun is the error 0x0501 with the number of decisions dropped; the decisions that had come from that boundary are gone and the measurements stand. At the boundary at which its turn comes, the readmission check of a node with drops set long enough ago clears them and restores PSRG of the dropped groups to 717; one before its time announces the map it has. -/
def Obligations.HerdCommandsAndEvents : Prop :=
  ((∀ (r : CmdRef) (m a d lag : Nat) (s : State), goes s r 0x0310 1 = true → m < 4 → a < 64 → d < 64 → a ≠ d → 2 ≤ lag → lag < 16 →
    (m = 1 ∨ m = 2 → (sfActive s a).isSome = true ∧ (sfActive s d).isSome = true) →
    ∃ t, exec (.herdModeSet r m a d lag) s = .next t ∧
      (s.wordsOk = true → (t.reg 0x92000).toNat =
        bitsOf (s.reg 0x92000).toNat 31 30 * 2 ^ 30 + d * 2 ^ 24 + a * 2 ^ 16 + lag * 2 ^ 8 + m) ∧
      (∀ x, x ≠ 0x92000 → t.reg x = s.reg x) ∧ t.tbl = s.tbl ∧ t.time = s.time ∧
      t.sch.store = s.sch.store ∧ t.sch.sf = s.sch.sf ∧ (s.wordsOk = true → m = 0 → t.herd.grpDrop = false)) ∧
  (∀ (r : CmdRef) (m a lag : Nat) (s : State), goes s r 0x0310 1 = true → m < 4 → a < 64 →
    exec (.herdModeSet r m a a lag) s = .next (refuse r stBad 5 0x000B (admitCmd r 0x0310 1 0 (.herdModeSet m a a lag) s))) ∧
  (∀ (r : CmdRef) (a d lag : Nat) (s : State), goes s r 0x0310 1 = true → a < 64 → d < 64 → a ≠ d → 2 ≤ lag → lag < 16 →
    sfActive s a = none →
    exec (.herdModeSet r 2 a d lag) s = .next (refuse r stBadState 5 0 (admitCmd r 0x0310 1 0 (.herdModeSet 2 a d lag) s))) ∧
  (∀ (r : CmdRef) (g : HerdSetArgs) (s : State), goes s r 0x0311 1 = true → nodeAt s g.index = none →
    exec (.herdNodeSet r g) s = .next (refuse r stNoNode 5 0 (admitCmd r 0x0311 1 0 (.herdNodeSet g) s))) ∧
  (∀ (r : CmdRef) (g : HerdSetArgs) (n : Node) (s : State), goes s r 0x0311 1 = true → nodeAt s g.index = some n → g.force = 0 →
    exec (.herdNodeSet r g) s = .next (done r (modNode g.index (fun m => { m with herd := { m.herd with
      pin := ((BitVec.ofNat 4 m.herd.pin &&& ~~~g.pinwe) ||| (g.pin &&& g.pinwe)).toNat } })
        (admitCmd r 0x0311 1 0 (.herdNodeSet g) s)))) ∧
  (∀ (r : CmdRef) (g : HerdSetArgs) (n : Node) (s : State), goes s r 0x0311 1 = true → nodeAt s g.index = some n →
    (forced g 0 = true → g.rung ≤ 7 ∧ usable s n (nodeChans s n) g.rung = true) →
    (forced g 1 = true → setValid s (g.drop.toNat % 16) = true) →
    (forced g 2 = true → ∀ old, old = (if s.herd.anns.any (fun x => x.node == g.index && x.kind == .power) then
        (pendingOf s g.index .power).getD 0 else 0) →
      -8 ≤ signedOf 4 n.herd.pwr - old + g.power ∧ signedOf 4 n.herd.pwr - old + g.power ≤ 7) →
    (forced g 3 = true → g.hint = 1 ∨ g.hint = 2) →
    let t := modRec g.index (fun h => { h with
      pin := ((BitVec.ofNat 4 h.pin &&& ~~~g.pinwe) ||| (g.pin &&& g.pinwe)).toNat
      holdcnt := if forced g 0 then 0 else h.holdcnt
      drop := if forced g 1 then g.drop.toNat % 16 else h.drop
      dropasn := if forced g 1 then asnNow s / 256 % 2 ^ 24 else h.dropasn }) (admitCmd r 0x0311 1 0 (.herdNodeSet g) s)
    let u := if forced g 0 then announceForced g.index .profile (g.rung : Nat) t else t
    let v := if forced g 1 then announceForced g.index .map ((mapOf (effDrop u u.herd.gd (g.drop.toNat % 16)) : Nat) : Int) u else u
    let w := if forced g 2 then announceForced g.index .power g.power v else v
    exec (.herdNodeSet r g) s = .next (done r (if forced g 3 then announceForced g.index .hint (g.hint : Nat) w else w))) ∧
  (∀ (r : CmdRef) (i addr : Nat) (n : Node) (s : State), goes s r 0x0312 1 = true → nodeAt s i = some n →
    ∃ t, exec (.herdNodeRead r i addr) s = .next t ∧ t.hif.outBuf = (if s.pair.exec then s.hif.outBuf else [(addr, herdOctets n.herd)]) ∧
      t.regs = s.regs ∧ t.tbl = s.tbl ∧ t.herd = s.herd ∧ t.sch = s.sch ∧ t.time = s.time) ∧
  (∀ (r : CmdRef) (i addr : Nat) (s : State), goes s r 0x0312 1 = true → nodeAt s i = none →
    exec (.herdNodeRead r i addr) s = .next (refuse r stNoNode 5 0 (admitCmd r 0x0312 1 0 (.herdNodeRead i addr) s))) ∧
  (∀ (v : Word) (s : State), bar0 s = true → s.pwr.preparing = false → jwrDrops s = false →
    (modeBreach s (bitsOf (v &&& 0xFF3F0F03).toNat 1 0) (bitsOf (v &&& 0xFF3F0F03).toNat 21 16)
      (bitsOf (v &&& 0xFF3F0F03).toNat 29 24) (bitsOf (v &&& 0xFF3F0F03).toNat 11 8)).isSome = true →
    exec (.schHctlWrite v) s = .next (setHctl (v &&& 0xFF3F0F00) (journalCfg 0x92000 (v &&& 0xFF3F0F00) s))) ∧
  (∀ (v : Word) (s : State), bar0 s = true → s.pwr.preparing = false → jwrDrops s = false →
    modeBreach s (bitsOf (v &&& 0xFF3F0F03).toNat 1 0) (bitsOf (v &&& 0xFF3F0F03).toNat 21 16)
      (bitsOf (v &&& 0xFF3F0F03).toNat 29 24) (bitsOf (v &&& 0xFF3F0F03).toNat 11 8) = none →
    exec (.schHctlWrite v) s = .next (setHctl (v &&& 0xFF3F0F03) (journalCfg 0x92000 (v &&& 0xFF3F0F03) s)))) ∧
  ((∀ (i a : Nat) (x : Sixp) (s : State), coreRuns s = true → s.herd.sixp.find? (fun y => y.node == i) = some x → x.ackAt = some a →
    let t := reach (a + 1_000_000_000 * s.regF 0x92018 23 8) s
    exec (.sixpTimeout i) s = .next (failAsk (asnNow t + 1) i 0xFF t)) ∧
  (∀ s : State, coreRuns s = true →
    ∃ t, exec .herdOverrun s = .next (raiseErr 0x0501 1 5 0 0 0
        (s.herd.decs.filter (fun d => d.from_ == asnNow s + 1 - herdLag s)).length t) ∧
      t.herd.decs = s.herd.decs.filter (fun d => d.from_ != asnNow s + 1 - herdLag s) ∧ t.herd.items = s.herd.items ∧
      t.regs = s.regs ∧ t.time = s.time ∧ t.tx = s.tx) ∧
  (∀ (i : Nat) (n : Node) (s : State), coreRuns s = true → deciding s = true → asnNow s % 65536 = i % 65536 → nodeAt s i = some n →
    n.herd.drop ≠ 0 →
    ((s.regF 0x92008 31 16 * 60_000_000_000 : Nat) : Int) ≤
      (((asnNow s / 256 + 2 ^ 24 - n.herd.dropasn) % 2 ^ 24 : Nat) - 1 : Int) * 256 * (s.time.l : Int) →
    exec (.dropReadmitCheck i) s = .next (setDrop (asnNow s) n 0 (modRec i (fun h => { h with
      psrg := (List.range 4).map (fun g => if bitOf n.herd.drop g then 717 else h.psrgAt g) }) s))) ∧
  (∀ (i : Nat) (n : Node) (s : State), coreRuns s = true → deciding s = true → asnNow s % 65536 = i % 65536 → nodeAt s i = some n →
    n.herd.drop = 0 → exec (.dropReadmitCheck i) s = .next (announceMap (asnNow s) n s)))

/-- NODE_INSERT, once admitted, of a class below 8 and an EUI-64 that is not in the table, where R301 finds a place for it and the cell it may name meets the conditions of R203, puts the new entry of R299 at that index with the moves of the path, writes its cell for the current ASN and 2, raises the events of the moves and completes OK with the index and the number of moves; with a free way of its first bucket it moves no entry. One whose EUI-64 is present completes BAD_STATE with its index, one that finds no place TABLE_FULL. NODE_REMOVE of an index that holds another EUI-64, or none, completes NO_NODE and changes no entry; of one that holds the EUI-64 it completes and no live entry is left at that index. NODE_READ, by index or by EUI-64, writes the 64 octets of the entry and completes with its index, or completes NO_NODE, and changes no entry. -/
def Obligations.NodeTable : Prop :=
  (∀ (r : CmdRef) (a : InsertArgs) (p : Place) (s : State), goes s r 0x0401 1 = true → a.cls < 8 → findEui s a.eui = none →
    placeFor s a.eui = some p →
    let u := admitCmd r 0x0401 1 24 (.nodeInsert a) s
    let t := placed u p a
    a.cell.bind (fun c => insertCellBad t c p.idx) = none →
    let v := match a.cell with
      | some c => { t with sch := { t.sch with writes := t.sch.writes ++ [⟨none, asnNow s + 2, c.sfh,
          ((sfAt t c.sfh (asnNow s + 2)).map SfUse.act).getD 0, [⟨c.slot, c.pos, insertWord c p.idx⟩]⟩] } }
      | none => t
    exec (.nodeInsert r a) s = .next (doneWith r (p.idx + p.moves.length * 2 ^ 32) (bumpIf (stashBase ≤ p.idx) 0xB002C
      (bump 0xB0020 (bumpN 0xB0024 p.moves.length
        ((movedEuis s p.moves).foldl (fun w m => movedEvent m.1 m.2 w) v)))))) ∧
  (∀ (r : CmdRef) (a : InsertArgs) (w : Nat) (s : State), goes s r 0x0401 1 = true → a.cls < 8 → a.cell = none → findEui s a.eui = none →
    freeWay s.tbl.nodes (hash0 a.eui) = some w →
    ∃ t, exec (.nodeInsert r a) s = .next t ∧
      t.tbl.nodes = putNodeIn (newNode s (4 * hash0 a.eui + w) a) s.tbl.nodes ∧
      t.regs = s.regs ∧ t.sch = s.sch ∧ t.time = s.time ∧ t.sec = s.sec ∧ t.tx = s.tx ∧ t.tbl.pfx = s.tbl.pfx) ∧
  (∀ (r : CmdRef) (a : InsertArgs) (n : Node) (s : State), goes s r 0x0401 1 = true → a.cls < 8 → findEui s a.eui = some n →
    exec (.nodeInsert r a) s = .next (complete r stBadState 8 n.idx 0 (admitCmd r 0x0401 1 24 (.nodeInsert a) s))) ∧
  (∀ (r : CmdRef) (a : InsertArgs) (s : State), goes s r 0x0401 1 = true → a.cls < 8 → findEui s a.eui = none → placeFor s a.eui = none →
    exec (.nodeInsert r a) s = .next (refuse r stTableFull 8 0 (bump 0xB0028 (admitCmd r 0x0401 1 24 (.nodeInsert a) s)))) ∧
  (∀ (r : CmdRef) (i e : Nat) (s : State), goes s r 0x0402 1 = true → (nodeAt s i).map Node.eui ≠ some e →
    exec (.nodeRemove r i e) s = .next (refuse r stNoNode 8 0 (admitCmd r 0x0402 1 0 (.nodeRemove i e) s))) ∧
  (∀ (r : CmdRef) (i e : Nat) (s : State), goes s r 0x0402 1 = true → (nodeAt s i).map Node.eui = some e →
    ∃ t, exec (.nodeRemove r i e) s = .next t ∧ nodeAt t i = none ∧ t.regs = s.regs ∧ t.active = s.active ∧
      t.sec = s.sec ∧ t.sch = s.sch ∧ t.tbl.pfx = s.tbl.pfx ∧ t.adp.ctxs = s.adp.ctxs.filter (fun c => c.node != i)) ∧
  (∀ (r : CmdRef) (b : Bool) (k addr : Nat) (n : Node) (s : State), goes s r 0x0403 1 = true →
    (if b then findEui s k else entryAt s k) = some n →
    ∃ t, exec (.nodeRead r b k addr) s = .next t ∧
      t.hif.outBuf = (if s.pair.exec then s.hif.outBuf else [(addr, (nodeWords s n).flatMap (octetsLE 4))]) ∧
      t.tbl = s.tbl ∧ t.regs = s.regs ∧ t.herd = s.herd ∧ t.sch = s.sch) ∧
  (∀ (r : CmdRef) (b : Bool) (k addr : Nat) (s : State), goes s r 0x0403 1 = true →
    (if b then findEui s k else entryAt s k) = none →
    exec (.nodeRead r b k addr) s = .next (refuse r stNoNode 8 0 (admitCmd r 0x0403 1 24 (.nodeRead b k addr) s)))

/-- Whatever the table holds, an index that the placement of R301 chooses for an EUI-64 without moving an entry is free, and is a way of one of the EUI-64's two candidate buckets or a stash position; when it moves entries there are at most 128 moves, each moves an entry that is not pinned to a way of the other candidate bucket of that entry, and the new entry goes where the first entry of the path stood. For every EUI-64 the two candidate buckets are different and below 81,920; the bucket that is not one of them is the other. -/
def Obligations.TwoCandidatePlacement : Prop :=
  (∀ (s : State) (e : Nat) (p : Place), placeFor s e = some p →
    (p.moves = [] → holdsIdx s.tbl.nodes p.idx = false ∧
      (p.idx / 4 = hash0 e ∨ p.idx / 4 = hash1 e ∨ (stashBase ≤ p.idx ∧ p.idx < stashBase + 64))) ∧
    p.moves.length ≤ 128 ∧
    (∀ m ∈ p.moves, ∃ n, entryAt s m.1 = some n ∧ pinned s n = false ∧ m.2 / 4 = otherBucket n.eui (m.1 / 4)) ∧
    (p.moves ≠ [] → (p.moves.getLast?.map Prod.fst) = some p.idx)) ∧
  (∀ e : Nat, hash0 e < 81920 ∧ hash1 e < 81920 ∧ hash0 e ≠ hash1 e ∧
    otherBucket e (hash0 e) = hash1 e ∧ otherBucket e (hash1 e) = hash0 e)

/-- The ageing visit of a slot, once for the slot, works through the entries of its share of the table and moves the sweep on; a second one in the same slot changes nothing. A node silent for SUPTO becomes LOST, and with it first the overdue nodes of lower index: each loses its negotiated map and synchronisation, and the frames of its list end NO_ROUTE, those in flight too. A node whose parent's expiry has come has no parent; before that it keeps it. Reassembly contexts 60 s old go with their fragments (a context is known by its node, tag and size), every other one stays. -/
def Obligations.NodeUpkeep : Prop :=
  (∀ s : State, coreRuns s = true → s.time.running = true → s.regB 0xB0004 31 = true → s.tbl.ageAsn ≠ some (asnNow s) →
    let n := sweepSlots s
    let hi := ceilDiv ((asnNow s % n + 1) * 81921) n
    let t := (livePositions s (ceilDiv (asnNow s % n * 81921) n) hi).foldl (fun u p => visit (asnNow s) p u) s
    exec .ageingVisit s = .next { t with tbl := { t.tbl with agePos := hi % 81921, ageAsn := some (asnNow s) } }) ∧
  (∀ s : State, s.tbl.ageAsn = some (asnNow s) → exec .ageingVisit s = .next s) ∧
  (∀ (i : Nat) (s : State), coreRuns s = true → s.time.running = true → (∃ n ∈ overdue s, n.idx = i) →
    exec (.nodeSupervisionTimeout i) s = .next (((overdue s).filter (fun n => decide (n.idx ≤ i))).foldl (fun u n => loseNode n.idx n u) s)) ∧
  (∀ (i : Nat) (n : Node) (s : State),
    loseNode i n s = herdItem (.lost i) (framesDone n.dl stNoRoute (event 0x0411 [i, asnNow s]
      (modNode i (fun m => { m with lost := true, nm := 0, noSync := true }) s)))) ∧
  (∀ (i : Nat) (n : Node) (s : State), coreRuns s = true → s.time.running = true → entryAt s i = some n → n.parent ≠ noParent →
    n.pnoexp = false → (asn32 s + 2 ^ 32 - n.pexp) % 2 ^ 32 < 2 ^ 31 →
    exec (.parentExpire i) s = .next (setParent i noParent s)) ∧
  (∀ (i : Nat) (n : Node) (s : State), coreRuns s = true → entryAt s i = some n → 2 ^ 31 ≤ (asn32 s + 2 ^ 32 - n.pexp) % 2 ^ 32 →
    exec (.parentExpire i) s = .next s) ∧
  (∀ s : State, coreRuns s = true → ∃ t, exec .reasmExpire s = .next t ∧
    t.adp.ctxs = s.adp.ctxs.filter (fun c => !(s.adp.ctxs.filter (fun d =>
      decide (60_000_000_000 ≤ (asnNow s - d.asn) * s.time.l))).any (fun d => sameCtx d.node d.tag d.size c)) ∧
    t.regs = s.regs ∧ t.sch = s.sch ∧ t.time = s.time ∧ t.sec = s.sec)

/-- PREFIX_INSERT, once admitted, of a key with no bit outside its length and a RESULT whose kind is at most 4, while a place is free or the prefix is present, makes a bank that holds the prefix the active one, in one step: the prefix is in it with its result, every other prefix is as before, and a bank in order (longest prefixes first) stays in order; a length above 128 completes BAD_COMMAND. PREFIX_REMOVE of a prefix that is present makes a bank without it the active one and keeps every other; of one that is absent it completes NO_ROUTE. With the bank in order, a route is that of the longest prefix that matches. -/
def Obligations.PrefixMemory : Prop :=
  (∀ (r : CmdRef) (k l x : Nat) (s : State), goes s r 0x0410 1 = true → pfxBadArgs k l = false → bitsOf x 15 12 ≤ 4 →
    (s.tbl.pfx.length < 8192 ∨ ∃ p ∈ s.tbl.pfx, p.key = k ∧ p.len = l) →
    ∃ t, exec (.prefixInsert r k l x) s = .next t ∧ t.tbl.bank = 1 - s.tbl.bank ∧ t.tbl.shadow = s.tbl.pfx ∧
      (⟨k, l, x⟩ : Pfx) ∈ t.tbl.pfx ∧ (∀ p, ¬(p.key = k ∧ p.len = l) → (p ∈ t.tbl.pfx ↔ p ∈ s.tbl.pfx)) ∧
      (s.tbl.pfx.Pairwise (fun a b => b.len < a.len ∨ (b.len = a.len ∧ a.key < b.key)) →
        t.tbl.pfx.Pairwise (fun a b => b.len < a.len ∨ (b.len = a.len ∧ a.key < b.key))) ∧
      t.tbl.nodes = s.tbl.nodes ∧ t.regs = s.regs ∧ t.sch = s.sch) ∧
  (∀ (r : CmdRef) (k l x : Nat) (s : State), goes s r 0x0410 1 = true → 128 < l →
    exec (.prefixInsert r k l x) s = .next (refuse r stBad 8 0x000B (admitCmd r 0x0410 1 20 (.prefixInsert k l x) s))) ∧
  (∀ (r : CmdRef) (k l : Nat) (s : State), goes s r 0x0411 1 = true → pfxBadArgs k l = false →
    (∃ p ∈ s.tbl.pfx, p.key = k ∧ p.len = l) →
    ∃ t, exec (.prefixRemove r k l) s = .next t ∧ t.tbl.bank = 1 - s.tbl.bank ∧ (∀ p ∈ t.tbl.pfx, ¬(p.key = k ∧ p.len = l)) ∧
      (∀ p, ¬(p.key = k ∧ p.len = l) → (p ∈ t.tbl.pfx ↔ p ∈ s.tbl.pfx)) ∧ t.tbl.nodes = s.tbl.nodes ∧ t.regs = s.regs ∧
      t.sch = s.sch) ∧
  (∀ (r : CmdRef) (k l : Nat) (s : State), goes s r 0x0411 1 = true → pfxBadArgs k l = false →
    (∀ p ∈ s.tbl.pfx, ¬(p.key = k ∧ p.len = l)) →
    exec (.prefixRemove r k l) s = .next (refuse r stNoRoute 8 0 (admitCmd r 0x0411 1 20 (.prefixRemove k l) s))) ∧
  (∀ (s : State) (d : Nat) (p : Pfx), s.tbl.pfx.Pairwise (fun a b => b.len ≤ a.len) → p ∈ s.tbl.pfx → p.matches_ d = true →
    (∀ q ∈ s.tbl.pfx, q.matches_ d = true → q ≠ p → q.len < p.len) → s.tbl.pfxBad.contains (p.key, p.len) = false →
    routeOf s d = p.res)

/-- PKT_SEND, once admitted, of 40 to 1,500 octets whose header is in order ends by what the downlink path answers: linked frames wait for their outcomes, with no completion yet; no node for the destination completes NO_NODE, no route NO_ROUTE, no room BUSY_RETRY, an adaptation subsystem out of service INTERNAL_ERROR; more than 1,500 octets complete LEN, fewer than 40 BAD_COMMAND. BCAST_SEND of 1 to 8 copies to a multicast destination whose payload fits its profile puts its copies in the BULK queue and waits for their outcomes, or completes BUSY_RETRY where they find no cells; a unicast destination completes BAD_COMMAND. -/
def Obligations.FramesSent : Prop :=
  (∀ (r : CmdRef) (p : List Octet) (s : State), goes s r 0x0501 1 = true → 40 ≤ p.length → p.length ≤ 1500 → ipVersion p = 6 →
    ipPayLen p = p.length - 40 →
    let u := admitCmd r 0x0501 1 (16 + p.length) (.pktSend p) s
    exec (.pktSend r p) s = .next (match downlink (some r) p u with
      | .linked n k t => { t with tx := { t.tx with parts := t.tx.parts ++ [⟨r, n, k, []⟩] } }
      | .noNode => refuse r stNoNode 10 0 u
      | .noRoute => refuse r stNoRoute 10 0 u
      | .busy full => refuse r stBusy 10 0 (poolDrop full 0 u)
      | .offline => refuse r stInternal 7 0x0201 u)) ∧
  (∀ (r : CmdRef) (p : List Octet) (n k : Nat) (t s : State), goes s r 0x0501 1 = true → 40 ≤ p.length → p.length ≤ 1500 →
    ipVersion p = 6 → ipPayLen p = p.length - 40 →
    downlink (some r) p (admitCmd r 0x0501 1 (16 + p.length) (.pktSend p) s) = .linked n k t →
    exec (.pktSend r p) s = .next { t with tx := { t.tx with parts := t.tx.parts ++ [⟨r, n, k, []⟩] } }) ∧
  (∀ (r : CmdRef) (p : List Octet) (s : State), goes s r 0x0501 1 = true → 40 ≤ p.length → p.length ≤ 1500 → ipVersion p = 6 →
    ipPayLen p = p.length - 40 → s.offline 7 = false → nodeOfAddr s (ipDst p) = none →
    exec (.pktSend r p) s = .next (refuse r stNoNode 10 0 (admitCmd r 0x0501 1 (16 + p.length) (.pktSend p) s))) ∧
  (∀ (r : CmdRef) (p : List Octet) (s : State), goes s r 0x0501 1 = true → 1500 < p.length →
    exec (.pktSend r p) s = .next (refuse r stLen 10 0 (admitCmd r 0x0501 1 (16 + p.length) (.pktSend p) s))) ∧
  (∀ (r : CmdRef) (p : List Octet) (s : State), goes s r 0x0501 1 = true → p.length < 40 →
    exec (.pktSend r p) s = .next (refuse r stBad 10 0x000B (admitCmd r 0x0501 1 (16 + p.length) (.pktSend p) s))) ∧
  (∀ (r : CmdRef) (p : List Octet) (c f : Nat) (s : State), goes s r 0x0502 1 = true → 40 ≤ p.length → p.length ≤ 1500 →
    ipVersion p = 6 → ipPayLen p = p.length - 40 → 0 < c → c ≤ 8 → f ≤ 31 → isMulticast (ipDst p) = true → s.offline 7 = false →
    bcastLen s (profAt s.act f) (bcastPayload s p) ≤ Prof.maxPsdu (profAt s.act f) →
    let u := admitCmd r 0x0502 1 (16 + p.length) (.bcastSend p c f) s
    exec (.bcastSend r p c f) s = .next (match linkBulk (.bcast f) (some r) 0 c (List.replicate c (bcastPayload s p)) u with
      | some t => { t with tx := { t.tx with parts := t.tx.parts ++ [⟨r, 0, c, []⟩] } }
      | none => refuse r stBusy 10 0 (poolDrop true 3 u))) ∧
  (∀ (r : CmdRef) (p : List Octet) (c f : Nat) (s : State), goes s r 0x0502 1 = true → 40 ≤ p.length → p.length ≤ 1500 →
    ipVersion p = 6 → ipPayLen p = p.length - 40 → 0 < c → c ≤ 8 → f ≤ 31 → isMulticast (ipDst p) = false →
    exec (.bcastSend r p c f) s = .next (refuse r stBad 10 0x0103 (admitCmd r 0x0502 1 (16 + p.length) (.bcastSend p c f) s)))

/-- IMG_OPEN, once admitted with fields in range, for a session that is not open and an object whose cells fit, opens the session with the partition of the object, writes its FEC information and completes with it; a symbol size that is not a multiple of 4 completes BAD_COMMAND. IMG_LOAD at the offset reached adds its octets and completes, at another offset it completes BAD_COMMAND and adds nothing. IMG_SEND of a loaded session is held until the admission ASN and LAG; of a session not open it completes BAD_STATE. Its boundary links its frames, and a command that names no due request changes nothing. IMG_CLOSE releases the session's cells and closes it, unless a frame of it has yet to end. RaptorQ's overrun is the error 0x0502 with the number of symbols; the oldest IMG_SEND completes INTERNAL_ERROR and links no frame. -/
def Obligations.ImageSessions : Prop :=
  (∀ (r : CmdRef) (a : ImgOpenArgs) (s : State), goes s r 0x0520 1 = true → a.session ≤ 1 → a.profile ≤ 31 →
    0 < a.size → a.size ≤ 4_194_304 → 64 ≤ a.sym → a.sym ≤ 1024 → a.sym % 4 = 0 →
    imgLen s (profAt s.act a.profile) a ≤ Prof.maxPsdu (profAt s.act a.profile) →
    sessAt s a.session = none → imgCellsUsed s + imgCells a.size ≤ 16384 →
    let u := admitCmd r 0x0520 1 40 (.imgOpen a) s
    exec (.imgOpen r a) s = .next (match allocIn u 2 (imgCells a.size) u.que with
      | some (cs, q) => imgOpened r a cs q u
      | none => refuse r stBusy 10 0 (poolDrop true 2 u))) ∧
  (∀ (r : CmdRef) (a : ImgOpenArgs) (s : State), goes s r 0x0520 1 = true → a.sym % 4 ≠ 0 →
    exec (.imgOpen r a) s = .next (refuse r stBad 10 0x000B (admitCmd r 0x0520 1 40 (.imgOpen a) s))) ∧
  (∀ (r : CmdRef) (k : Nat) (data : List Octet) (x : ImgSess) (s : State), goes s r 0x0521 1 = true → k ≤ 1 → data ≠ [] →
    data.length ≤ 65536 → sessAt s k = some x → x.loaded + data.length ≤ x.f →
    exec (.imgLoad r k x.loaded data) s = .next (done r { admitCmd r 0x0521 1 (24 + data.length) (.imgLoad k x.loaded data) s with
      adp := { s.adp with img := setAt s.adp.img k (some { x with loaded := x.loaded + data.length, data := x.data ++ data }) } })) ∧
  (∀ (r : CmdRef) (k o : Nat) (data : List Octet) (x : ImgSess) (s : State), goes s r 0x0521 1 = true → k ≤ 1 → data ≠ [] →
    data.length ≤ 65536 → sessAt s k = some x → o ≠ x.loaded →
    exec (.imgLoad r k o data) s = .next (refuse r stBad 10 0x000B (admitCmd r 0x0521 1 (24 + data.length) (.imgLoad k o data) s))) ∧
  (∀ (r : CmdRef) (k b e c : Nat) (x : ImgSess) (s : State), goes s r 0x0522 1 = true → k ≤ 1 → 0 < c → c ≤ 64 →
    sessAt s k = some x → x.loaded = x.f → b < x.z → e + c - 1 ≤ x.esiMax b → 300_000_000 ≤ rqLag s * s.time.l →
    exec (.imgSend r k b e c) s = .next { admitCmd r 0x0522 1 0 (.imgSend k b e c) s with adp := { s.adp with
      rq := s.adp.rq ++ [⟨r, k, b, e, c, asnNow s + rqLag s⟩] } }) ∧
  (∀ (r : CmdRef) (k b e c : Nat) (s : State), goes s r 0x0522 1 = true → k ≤ 1 → 0 < c → c ≤ 64 → sessAt s k = none →
    exec (.imgSend r k b e c) s = .next (refuse r stBadState 10 0 (admitCmd r 0x0522 1 0 (.imgSend k b e c) s))) ∧
  (∀ s : State, coreRuns s = true → s.time.running = true →
    exec .imgSendLink s = .next ((s.adp.rq.filter (fun q => decide (q.asn ≤ asnNow s))).foldl (fun t q => linkDue q t) s)) ∧
  (∀ (q : RqReq) (x : ImgSess) (s : State), sessAt s q.session = some x →
    linkDue q s = linkSymbols q x 0 q.count { s with
      adp := { s.adp with rq := s.adp.rq.erase q }, tx := { s.tx with parts := s.tx.parts ++ [⟨q.ref, 0, q.count, []⟩] } }) ∧
  (∀ s : State, coreRuns s = true → (∀ q ∈ s.adp.rq, asnNow s < q.asn) → exec .imgSendLink s = .next s) ∧
  (∀ (r : CmdRef) (k : Nat) (x : ImgSess) (s : State), goes s r 0x0523 1 = true → k ≤ 1 → sessAt s k = some x → imgBusy s k = false →
    let u := admitCmd r 0x0523 1 0 (.imgClose k) s
    exec (.imgClose r k) s = .next (done r { u with
      que := releaseIn u x.cells u.que, adp := { s.adp with img := setAt s.adp.img k none } })) ∧
  (∀ (r : CmdRef) (k : Nat) (x : ImgSess) (s : State), goes s r 0x0523 1 = true → k ≤ 1 → sessAt s k = some x → imgBusy s k = true →
    exec (.imgClose r k) s = .next (refuse r stBadState 10 0 (admitCmd r 0x0523 1 0 (.imgClose k) s))) ∧
  (∀ (q : RqReq) (t : List RqReq) (s : State), coreRuns s = true → s.adp.rq = q :: t →
    exec .rqOverrun s = .next (refuse q.ref stInternal 7 0 (raiseErr 0x0502 1 7 1 0 0 q.count { s with adp := { s.adp with rq := t } })))

/-- A security command, once admitted, that Table 11-7 does not permit in the life-cycle state completes BAD_STATE, TLOCK or not; while TLOCK is set, one that is permitted completes TAMPER_LOCKED. Neither changes a key, a fuse, a register or a table. This holds of SEC_ATTEST, SEC_KEY_IMPORT, SEC_KEYGEN_SWITCH, SEC_KEY_CLEAR, SEC_FC_ACK, SEC_FC_RESTORE, SEC_LC_ADVANCE, SEC_FUSE_WRITE and ROM_PATCH_LOAD (an import that is refused also leaves its KEYRES record). -/
def Obligations.SecurityGate : Prop :=
  ∀ (r : CmdRef) (k addr ch g b : Nat) (blob tok p : List Octet) (ok : Bool) (s : State),
    ∀ c ∈ [(0x0602, 48, HostCmd.secAttest k addr ch, Instr.secAttest r k addr ch),
        (0x0603, 24 + blob.length, .secKeyImport blob addr, .secKeyImport r blob addr),
        (0x0604, 0, .secKeygenSwitch, .secKeygenSwitch r), (0x0605, 0, .secKeyClear, .secKeyClear r),
        (0x0606, 0, .secFcAck g b, .secFcAck r g b), (0x0607, 0, .secFcRestore g b, .secFcRestore r g b),
        (0x0608, if k = 3 then 129 else 0, .secLcAdvance k tok ok, .secLcAdvance r k tok ok),
        (0x060A, 0, .secFuseWrite k b ok, .secFuseWrite r k b ok), (0x060B, p.length, .romPatchLoad p, .romPatchLoad r p)],
      goes s r c.1 1 = true →
      let u := admitCmd r c.1 1 c.2.1 c.2.2.1 s
      let t := fun (st : Nat) => if c.1 = 0x0603 then keyres st 0 (blobGen blob) r.asn u else u
      (lcPermits (lcState s) c.1 = false → exec c.2.2.2 s = .next (refuse r stBadState 9 0 (t stBadState))) ∧
      (lcPermits (lcState s) c.1 = true → s.sec.tlock = true → exec c.2.2.2 s = .next (refuse r stTamper 9 0 (t stTamper)))

/-- SEC_KEY_IMPORT, once admitted, of a blob that passes its checks and whose generation Table 11-5 places, fills the slot that the table names with the blob's generation and master, leaves its KEYRES record, passes the master to the standby, answers a transport blob with a storage blob and completes with the slot; into an empty vault with no activation ASN it fills CURRENT and restarts the counter at 0 with FC_VALID 0. In REPLAY the blob joins the replay store. SEC_KEYGEN_SWITCH, with NEXT ready and no switch pending, marks NEXT pending for its ASN; at that ASN the pointers swap: the former CURRENT is RETIRED in NEXT, and the counter restarts; before it the switch stays pending. SEC_KEY_CLEAR empties NEXT and keeps CURRENT; while a switch is pending it completes BAD_STATE. -/
def Obligations.VaultAndSwitch : Prop :=
  (∀ (r : CmdRef) (b : List Octet) (addr : Nat) (s : State), goes s r 0x0603 1 = true → lcPermits (lcState s) 0x0603 = true →
    s.sec.tlock = false → (∀ x ∈ importChecks s b r.asn addr, x.1 = false) → s.pair.st ≠ .replay →
    (placement s (blobGen b) r.asn).1 ≠ .refused →
    let u := admitCmd r 0x0603 1 (24 + b.length) (.secKeyImport b addr) s
    let p := placeAs (placement s (blobGen b) r.asn) (blobMaster s.sec b) (blobGen b) r.asn s.sec
    exec (.secKeyImport r b addr) s = .next (fcStallCheck (doneWith r (p.1 + 128 * b2n (p.1 == p.2.cur) + 256 * blobGen b)
      (blobOut b addr (sendPair 7 (blobGen b)
        (keyres stOk (placeCode (placement s (blobGen b) r.asn).1) (blobGen b) r.asn { u with sec := p.2 })))))) ∧
  (∀ (r : CmdRef) (b : List Octet) (addr : Nat) (s : State), goes s r 0x0603 1 = true → r.asn = 0 → lcPermits (lcState s) 0x0603 = true →
    s.sec.tlock = false → (∀ x ∈ importChecks s b 0 addr, x.1 = false) → s.pair.st ≠ .replay → (curSlot s).valid = false →
    s.sec.cur < s.sec.slots.length →
    ∃ t, exec (.secKeyImport r b addr) s = .next t ∧ curSlot t = ⟨true, false, false, blobGen b, 0, blobMaster s.sec b⟩ ∧
      t.sec.cur = s.sec.cur ∧ t.sec.fcNext = 0 ∧ t.sec.fcValid = false ∧ t.sec.lc = s.sec.lc ∧ t.regs = s.regs ∧ t.tbl = s.tbl ∧
      t.sch = s.sch) ∧
  (∀ (r : CmdRef) (b : List Octet) (addr : Nat) (s : State), goes s r 0x0603 1 = true → lcPermits (lcState s) 0x0603 = true →
    s.sec.tlock = false → (∀ x ∈ importChecks s b r.asn addr, x.1 = false) → s.pair.st = .replay →
    (s.pair.store.filter (fun e => e.1 != blobGen b)).length < 8 →
    exec (.secKeyImport r b addr) s = .next (doneWith r (blobGen b * 256) (blobOut b addr
      { admitCmd r 0x0603 1 (24 + b.length) (.secKeyImport b addr) s with
        pair := { s.pair with store := s.pair.store.filter (fun e => e.1 != blobGen b) ++ [(blobGen b, blobMaster s.sec b)] } }))) ∧
  (∀ (r : CmdRef) (s : State), goes s r 0x0604 1 = true → lcPermits (lcState s) 0x0604 = true → s.sec.tlock = false →
    s.time.loaded = true → tooSoon s r.asn = false → nextReady s = true → s.sec.sw = none →
    exec (.secKeygenSwitch r) s = .next { admitCmd r 0x0604 1 0 .secKeygenSwitch s with sec := { s.sec with
      slots := modAt (1 - s.sec.cur) (fun k => { k with pending := true, act := namedAsn s r.asn }) s.sec.slots
      sw := some (namedAsn s r.asn), swRef := some r, fcPre := 0 } }) ∧
  (∀ (n : Nat) (s : State), coreRuns s = true → s.sec.sw = some n → n ≤ asnNow s → s.sec.cur < 2 → s.sec.slots.length = 2 →
    ∃ t, exec .keygenSwitchTake s = .next t ∧ t.sec.cur = 1 - s.sec.cur ∧ t.sec.sw = none ∧ t.sec.fcNext = s.sec.fcPre ∧
      curSlot t = { nextSlot s with pending := false } ∧ nextSlot t = { curSlot s with retired := true } ∧
      t.sec.fuses = s.sec.fuses ∧ t.regs = s.regs ∧ t.tbl = s.tbl) ∧
  (∀ (n : Nat) (s : State), coreRuns s = true → s.sec.sw = some n → asnNow s < n →
    exec .keygenSwitchTake s = .next (fcStallCheck s)) ∧
  (∀ (r : CmdRef) (s : State), goes s r 0x0605 1 = true → lcPermits (lcState s) 0x0605 = true → s.sec.tlock = false → s.sec.sw = none →
    s.sec.slots.length = 2 → s.sec.cur < 2 →
    ∃ t, exec (.secKeyClear r) s = .next t ∧ nextSlot t = KeySlot.reset ∧ curSlot t = curSlot s ∧ t.sec.fcNext = s.sec.fcNext ∧
      t.sec.fuses = s.sec.fuses ∧ t.regs = s.regs ∧ t.tbl = s.tbl) ∧
  (∀ (r : CmdRef) (n : Nat) (s : State), goes s r 0x0605 1 = true → lcPermits (lcState s) 0x0605 = true → s.sec.tlock = false →
    s.sec.sw = some n → exec (.secKeyClear r) s = .next (refuse r stBadState 9 0 (admitCmd r 0x0605 1 0 .secKeyClear s)))

/-- A value is drawn only while the counter is valid, below 2^32 and in an acknowledged block; drawing it moves the counter one up, changes no key, and names the next block for reservation at a block's midpoint. SEC_FC_ACK of CURRENT's generation and a reserved block raises what is acknowledged, never lowers it, and completes; another generation completes BAD_STATE. SEC_FC_RESTORE of a block above 4,095 completes BAD_COMMAND; one that would not move a valid counter up completes BAD_STATE; otherwise the counter stands at the start of the block, valid, with the block acknowledged. -/
def Obligations.FrameCounter : Prop :=
  (∀ s : State, fcReason s = none ↔ (s.sec.fcValid = true ∧ s.sec.fcNext < 2 ^ 32 ∧ s.sec.fcNext / 2 ^ 20 ≤ s.sec.fcAck)) ∧
  (∀ s : State, (drawFc s).sec.fcNext = s.sec.fcNext + 1 ∧ (drawFc s).sec.slots = s.sec.slots ∧ (drawFc s).sec.fcAck = s.sec.fcAck ∧
    (drawFc s).sec.fcRes = (if (s.sec.fcNext + 1) % 2 ^ 20 = 2 ^ 19 ∧ (s.sec.fcNext + 1) / 2 ^ 20 < 4095 then
      (s.sec.fcNext + 1) / 2 ^ 20 + 1 else s.sec.fcRes) ∧ (drawFc s).regs = s.regs ∧ (drawFc s).tbl = s.tbl) ∧
  (∀ (r : CmdRef) (b : Nat) (s : State), goes s r 0x0606 1 = true → lcPermits (lcState s) 0x0606 = true → s.sec.tlock = false →
    (curSlot s).valid = true → b ≤ s.sec.fcRes →
    ∃ t, exec (.secFcAck r (curGen s) b) s = .next t ∧ t.sec.fcAck = max s.sec.fcAck b ∧ t.sec.fcNext = s.sec.fcNext ∧
      t.sec.slots = s.sec.slots ∧ t.sec.fuses = s.sec.fuses ∧ t.regs = s.regs ∧ t.tbl = s.tbl) ∧
  (∀ (r : CmdRef) (g b : Nat) (s : State), goes s r 0x0606 1 = true → lcPermits (lcState s) 0x0606 = true → s.sec.tlock = false →
    g ≠ curGen s → exec (.secFcAck r g b) s = .next (refuse r stBadState 9 0 (admitCmd r 0x0606 1 0 (.secFcAck g b) s))) ∧
  (∀ (r : CmdRef) (b : Nat) (s : State), goes s r 0x0607 1 = true → lcPermits (lcState s) 0x0607 = true → s.sec.tlock = false →
    (curSlot s).valid = true → b ≤ 4095 → (s.sec.fcValid = true → s.sec.fcNext / 2 ^ 20 < b) →
    ∃ t, exec (.secFcRestore r (curGen s) b) s = .next t ∧ t.sec.fcNext = b * 2 ^ 20 ∧ t.sec.fcAck = b ∧ t.sec.fcRes = b ∧
      t.sec.fcValid = true ∧ t.sec.slots = s.sec.slots ∧ t.sec.fuses = s.sec.fuses ∧ t.regs = s.regs ∧ t.tbl = s.tbl) ∧
  (∀ (r : CmdRef) (b : Nat) (s : State), goes s r 0x0607 1 = true → lcPermits (lcState s) 0x0607 = true → s.sec.tlock = false →
    b ≤ 4095 → s.sec.fcValid = true → b ≤ s.sec.fcNext / 2 ^ 20 →
    exec (.secFcRestore r (curGen s) b) s = .next (refuse r stBadState 9 0 (admitCmd r 0x0607 1 0 (.secFcRestore (curGen s) b) s))) ∧
  (∀ (r : CmdRef) (g b : Nat) (s : State), goes s r 0x0607 1 = true → lcPermits (lcState s) 0x0607 = true → s.sec.tlock = false →
    4095 < b → exec (.secFcRestore r g b) s = .next (refuse r stBad 9 0x000B (admitCmd r 0x0607 1 0 (.secFcRestore g b) s)))

/-- SEC_LC_ADVANCE, once admitted, to a permitted target, with no slotframe in use and VFUSE there, blows the target's fuses, zeroises every key and loads the target's root; to RMA it needs a token that verifies, else it completes AUTH_FAIL and keeps every key; a target that is no step completes BAD_COMMAND. SEC_FUSE_WRITE of an unprogrammed field sets exactly the bits asked for and completes; where the read-back differs it sets some of them and completes INTERNAL_ERROR. A ROM patch of the right form sets the ROM revision and its mask where its signature verifies, and completes AUTH_FAIL otherwise. SEC_IDENTITY and SEC_ATTEST write their output and change no key. SEC_TAMPER_ACK with every enabled source quiet for 1 s clears TLOCK and loads the root; sooner it completes BUSY and changes nothing else. A tamper alarm of an enabled source in RUN or WATCH sets TLOCK, empties both vault slots and the key cache and drops the root, whatever the phase it falls in; one of a source not enabled leaves only the condition that stands, and readings within the source's limits change nothing. -/
def Obligations.LifeCycle : Prop :=
  (∀ (r : CmdRef) (target : Nat) (tok : List Octet) (ok : Bool) (s : State), goes s r 0x0608 1 = true →
    lcPermits (lcState s) 0x0608 = true → s.sec.tlock = false → mayAdvance (lcState s) target = true → allInactive s = true →
    s.sec.vfuseOk = true → target ≠ 3 →
    ∃ t, exec (.secLcAdvance r target tok ok) s = .next t ∧ t.sec.lc = blow s.sec.lc target ok ∧
      t.sec.rootOk = rootHere s.sec target ∧ t.sec.slots = [KeySlot.reset, KeySlot.reset] ∧ t.sec.cache = [] ∧
      t.sec.fcValid = false ∧ t.sec.ownerId = s.sec.ownerId ∧ t.regs = s.regs ∧ t.tbl = s.tbl) ∧
  (∀ (r : CmdRef) (tok : List Octet) (ok : Bool) (s : State), goes s r 0x0608 1 = true → lcPermits (lcState s) 0x0608 = true →
    s.sec.tlock = false → mayAdvance (lcState s) 3 = true → allInactive s = true → s.sec.vfuseOk = true →
    let u := admitCmd r 0x0608 1 129 (.secLcAdvance 3 tok ok) s
    exec (.secLcAdvance r 3 tok ok) s = .next (if tokenOk s tok then done r (fcStallCheck (advance 3 ok u))
      else refuse r stAuthFail 9 0 u)) ∧
  (∀ (r : CmdRef) (target : Nat) (tok : List Octet) (ok : Bool) (s : State), goes s r 0x0608 1 = true →
    lcPermits (lcState s) 0x0608 = true → s.sec.tlock = false → mayAdvance (lcState s) target = false →
    exec (.secLcAdvance r target tok ok) s = .next (refuse r stBad 9 0x000B
      (admitCmd r 0x0608 1 (if target = 3 then 129 else 0) (.secLcAdvance target tok ok) s))) ∧
  (∀ (r : CmdRef) (v : Nat) (ok : Bool) (s : State), goes s r 0x060A 1 = true → lcPermits (lcState s) 0x060A = true → s.sec.tlock = false →
    s.sec.vfuseOk = true →
    (s.sec.ownerId = 0 →
      let t := { admitCmd r 0x060A 1 0 (.secFuseWrite 0 v ok) s with
        fresh := s.fresh + 1, sec := { s.sec with ownerId := blownPart ok (v % 2 ^ 64) s } }
      exec (.secFuseWrite r 0 v ok) s = .next (if ok then done r t else refuse r stInternal 9 0 t)) ∧
    (s.sec.ownerTamp = 0 →
      let t := { admitCmd r 0x060A 1 0 (.secFuseWrite 1 v ok) s with
        fresh := s.fresh + 1, sec := { s.sec with ownerTamp := blownPart ok (v % 2 ^ 16) s } }
      exec (.secFuseWrite r 1 v ok) s = .next (if ok then done r t else refuse r stInternal 9 0 t))) ∧
  (∀ (r : CmdRef) (p : List Octet) (s : State), goes s r 0x060B 1 = true → lcPermits (lcState s) 0x060B = true → s.sec.tlock = false →
    patchForm p = true →
    let u := admitCmd r 0x060B 1 p.length (.romPatchLoad p) s
    exec (.romPatchLoad r p) s = .next (if patchOk s p then done r { u with sec := { s.sec with
      romRev := leOf (slice p 6 2), patchMask := (p.getD 12 0).toNat % 16 } } else refuse r stAuthFail 9 0 u)) ∧
  (∀ (r : CmdRef) (addr : Nat) (s : State), goes s r 0x0601 1 = true →
    ∃ t, exec (.secIdentity r addr) s = .next t ∧
      t.hif.outBuf = (if s.pair.exec then s.hif.outBuf else [(addr, identityOut s)]) ∧ t.sec = s.sec ∧ t.regs = s.regs) ∧
  (∀ (r : CmdRef) (k addr ch : Nat) (s : State), goes s r 0x0602 1 = true → lcPermits (lcState s) 0x0602 = true → s.sec.tlock = false →
    s.sec.rootOk = true → (k = 1 ∨ (k = 2 ∧ s.pair.agree.isSome = true)) →
    ∃ t, exec (.secAttest r k addr ch) s = .next t ∧
      t.hif.outBuf = (if s.pair.exec then s.hif.outBuf else [(addr, attestOut k ch s)]) ∧ t.sec = s.sec ∧ t.regs = s.regs) ∧
  (∀ (r : CmdRef) (s : State), goes s r 0x0609 1 = true → tampQuiet s = true → s.sec.tlock = true →
    exec (.secTamperAck r) s = .next (done r { admitCmd r 0x0609 1 0 .secTamperAck s with
      sec := { s.sec with tlock := false, rootOk := rootHere s.sec (lcState s) } })) ∧
  (∀ (r : CmdRef) (s : State), goes s r 0x0609 1 = true → tampQuiet s = false →
    exec (.secTamperAck r) s = .next (refuse r stBusy 9 0 (admitCmd r 0x0609 1 0 .secTamperAck s))) ∧
  (∀ (x : TampSrc) (hold : Nat) (s : State), tampShows s x = true → tampEnabled s (tampBit x) = true →
    (s.pwr.st = .run ∨ s.pwr.st = .watch) →
    ∃ t, exec (.tamperAlarm ⟨x, hold⟩) s = .next t ∧ t.sec.tlock = true ∧ t.sec.rootOk = false ∧
      t.sec.slots = [KeySlot.reset, KeySlot.reset] ∧ t.sec.cache = [] ∧ t.sec.fcValid = false ∧ t.sec.fuses = s.sec.fuses) ∧
  (∀ (x : TampSrc) (hold : Nat) (s : State), tampShows s x = true → tampEnabled s (tampBit x) = true →
    exec (.tamperAlarm ⟨x, hold⟩) s = .next (tampRespond (tampBit x) (tampStands (tampBit x) hold s))) ∧
  (∀ (x : TampSrc) (hold : Nat) (s : State), tampShows s x = true → tampEnabled s (tampBit x) = false →
    exec (.tamperAlarm ⟨x, hold⟩) s = .next { s with sec := { s.sec with
      alarmAt := (tampBit x, s.time.tb + hold) :: s.sec.alarmAt.filter (fun y => y.1 != tampBit x) } }) ∧
  (∀ (x : TampSrc) (hold : Nat) (s : State), tampShows s x = false → exec (.tamperAlarm ⟨x, hold⟩) s = .next s)

/-- SEC_CIPHER, once admitted, with a form of Table 11-8, a key that is there and lengths within R342, binds its key and joins engine 3's operations; a form outside the table completes BAD_COMMAND, one too long LEN. The engine completes its oldest operation: it writes what the cipher gives, with the tag of a sealing, and completes OK, or AUTH_FAIL where the tag it was given does not verify, or INTERNAL_ERROR where the bus fails its output; an operation that held its plaintext then writes no output. -/
def Obligations.CipherEngine : Prop :=
  (∀ (r : CmdRef) (a : CipherArgs) (s : State), goes s r 0x0610 (if cipherStreams a then 2 else 1) = true → (lcState s = 4 → a.ksrc = 0) →
    s.sec.tlock = false → cipherForm a = true → (a.ksrc = 1 → (nodeAt s a.karg).isSome = true) →
    (a.ksrc = 0 → s.pair.st ≠ .replay ∧ s.pair.rpNext = none) → (a.ksrc ≠ 0 → s.sec.rootOk = true ∧ (cipherSlot s a).valid = true) →
    a.aadLen ≤ (cipherLimits a.mode).1 → a.inLen ≤ (cipherLimits a.mode).2 →
    exec (.secCipher r a) s = .next (startCipher r a (admitCmd r 0x0610 (if cipherStreams a then 2 else 1)
      (64 + min a.aadLen (cipherLimits a.mode).1 + min a.inLen (cipherLimits a.mode).2) (.secCipher a) s))) ∧
  (∀ (r : CmdRef) (a : CipherArgs) (s : State), a.ksrc = 0 → s.pair.exec = false → s.pair.link = false →
    startCipher r a s = { s with sec := { s.sec with ops := s.sec.ops ++ [⟨r, a, cipherStreams a, a.key⟩] } }) ∧
  (∀ (r : CmdRef) (a : CipherArgs) (s : State), goes s r 0x0610 (if cipherStreams a then 2 else 1) = true → a.ksrc = 0 → s.sec.tlock = false →
    cipherForm a = false → exec (.secCipher r a) s = .next (refuse r stBad 9 0x000B (admitCmd r 0x0610 (if cipherStreams a then 2 else 1)
      (64 + min a.aadLen (cipherLimits a.mode).1 + min a.inLen (cipherLimits a.mode).2) (.secCipher a) s))) ∧
  (∀ (r : CmdRef) (a : CipherArgs) (s : State), goes s r 0x0610 (if cipherStreams a then 2 else 1) = true → a.ksrc = 0 → s.sec.tlock = false →
    cipherForm a = true → s.pair.st ≠ .replay → s.pair.rpNext = none → (cipherLimits a.mode).2 < a.inLen →
    exec (.secCipher r a) s = .next (refuse r stLen 9 0 (admitCmd r 0x0610 (if cipherStreams a then 2 else 1)
      (64 + min a.aadLen (cipherLimits a.mode).1 + min a.inLen (cipherLimits a.mode).2) (.secCipher a) s))) ∧
  (∀ (q : CipherOp) (l : List CipherOp) (s : State), s.up = true → s.sec.ops = q :: l →
    let t := cipherWrites q (if q.stream then post q.ref stUntrusted 9 0 0 s else s)
    let u := { t with sec := { t.sec with ops := t.sec.ops.drop 1 } }
    q.args.outOk = true →
    exec (.cipherOperationDone 3 q.ref) s = .next (if (cipherRun q).2.2 then done q.ref u else refuse q.ref stAuthFail 9 0 u)) ∧
  (∀ (q : CipherOp) (l : List CipherOp) (s : State), s.up = true → s.sec.ops = q :: l → q.args.outOk = false →
    let t := if q.stream then post q.ref stUntrusted 9 0 0 s else s
    exec (.cipherOperationDone 3 q.ref) s = .next (refuse q.ref stInternal 11 5 { t with sec := { t.sec with ops := t.sec.ops.drop 1 } })) ∧
  (∀ (q : CipherOp) (s : State), s.pair.follows = false → s.pair.exec = false → q.args.mode = 0 → q.args.dir = 0 →
    (cipherWrites q s).hif.outBuf = [(q.args.outAddr, (ccmSeal q.key q.args.nonce q.args.aad q.args.input q.args.tagLen).1),
      (q.args.tagAddr, (ccmSeal q.key q.args.nonce q.args.aad q.args.input q.args.tagLen).2)]) ∧
  (∀ (q : CipherOp) (s : State), q.stream = false → q.args.mode ≠ 2 → (cipherRun q).2.2 = false → cipherWrites q s = s)

/-- PWR_ENTER, once admitted, to a state the device is not in, with an ASN it may name and the conditions of its target met, and no subsystem refusing: to WATCH or KEEP its change waits for its ASN with admission stopped and the transmissions of its ports withdrawn; to RUN it waits, behind one that is already pending; with the timebase not loaded it takes effect at once. A target above 2 completes BAD_COMMAND with DETAIL 0x000B, the state the device is in BAD_COMMAND; a refusing subsystem makes it complete BAD_STATE with the subsystem and its reason, which PWR_REFUSED also carries, and admission resumes. At its commit the device is in the commanded state and no change is pending; into KEEP, MAIN_EN falls, the journal closes, PAIR_ACTIVE falls, every port is off, no frame, transmission, lock or reassembly is left, and timebase and SLCK count of the edge are recorded; keys, registers and prefixes stay. Before the ASN nothing changes; without a pending change the further commands to RUN that are due complete. -/
def Obligations.PowerChanges : Prop :=
  (∀ (r : CmdRef) (n w : Nat) (s : State), goes s r 0x0701 1 = true → n ≤ 2 → pwrTarget n ≠ s.pwr.st → (w = 0 ∨ n = 2) →
    needsTime s r.asn = false → tooSoon s r.asn = false → (n = 1 → watchSelBad s = false) → (n = 2 → retainBad s = false) →
    (n = 0 ∨ pwrRefusal s r (pwrTarget n) = none) →
    let u := admitCmd r 0x0701 1 0 (.pwrEnter n w) s
    let c : PwrCommit := ⟨r, pwrTarget n, namedAsn s r.asn, w⟩
    exec (.pwrEnter r n w) s = .next (if s.time.loaded = false then pwrCommit c u
      else if n = 0 then { u with pwr := if s.pwr.commit.isSome then { s.pwr with later := s.pwr.later ++ [c] } else { s.pwr with commit := some c } }
      else withPwr (fun p => { p with commit := some c, preparing := true }) (pwrWithdrawTx (pwrTarget n) (namedAsn s r.asn) u))) ∧
  (∀ (r : CmdRef) (n w : Nat) (s : State), goes s r 0x0701 1 = true → 2 < n →
    exec (.pwrEnter r n w) s = .next (refuse r stBad 5 0x000B (admitCmd r 0x0701 1 0 (.pwrEnter n w) s))) ∧
  (∀ (r : CmdRef) (n w : Nat) (s : State), goes s r 0x0701 1 = true → n ≤ 2 → pwrTarget n = s.pwr.st →
    exec (.pwrEnter r n w) s = .next (refuse r stBad 5 0 (admitCmd r 0x0701 1 0 (.pwrEnter n w) s))) ∧
  (∀ (r : CmdRef) (w x d : Nat) (s : State), goes s r 0x0701 1 = true → s.pwr.st ≠ .keep → needsTime s r.asn = false →
    tooSoon s r.asn = false → retainBad s = false → pwrRefusal s r .keep = some (x, d) →
    exec (.pwrEnter r 2 w) s = .next (event 0x0E02 [x, d] (refuse r stBadState x d { admitCmd r 0x0701 1 0 (.pwrEnter 2 w) s with
      pwr := { s.pwr with
        preparing := false
        commit := none
        refuse := (x, d) } }))) ∧
  (∀ (c : PwrCommit) (s : State), s.up = true → s.pwr.commit = some c → c.target = .keep → c.asn ≤ nowFor s →
    ∃ t, exec .pwrCommit s = .next t ∧ t.pwr.st = .keep ∧ t.pwr.commit = none ∧ t.pwr.preparing = false ∧ t.pwr.mainEn = false ∧
      t.pwr.wakeAfter = c.wakeAfter ∧ t.jrn.isOpen = false ∧ t.pair.activeOut = false ∧ t.time.keepT0 = t.time.tb ∧
      t.time.keepSub = t.time.sub ∧ t.time.keepC0 = slckNow s + 1 ∧ t.pwr.slck = slckNow s + 1 ∧ s.time.tb ≤ t.time.tb ∧
      t.rx.locks = [] ∧ t.tx.txs = [] ∧ (∀ p ∈ t.rf.ports, p.st = .off ∧ p.trans = none ∧ p.carriers = []) ∧
      t.tbl.pfx = s.tbl.pfx ∧ t.sec = s.sec ∧ t.regs = s.regs ∧ t.active = s.active ∧ t.sch = s.sch) ∧
  (∀ (c : PwrCommit) (s : State), s.up = true → s.pwr.commit = some c → c.target = .watch → c.asn ≤ nowFor s →
    ∃ t, exec .pwrCommit s = .next t ∧ t.pwr.st = .watch ∧ t.pwr.commit = none ∧ t.pwr.preparing = false ∧
      t.rx.locks = s.rx.locks.filter (fun d => (watchSel s).contains d.ch) ∧ t.sec = s.sec ∧ t.time = s.time ∧ t.tbl = s.tbl ∧ t.regs = s.regs) ∧
  (∀ (c : PwrCommit) (s : State), s.up = true → s.pwr.commit = some c → c.target = .run → c.asn ≤ nowFor s →
    ∃ t, exec .pwrCommit s = .next t ∧ t.pwr.st = .run ∧ t.pwr.commit = none ∧ t.rx = s.rx ∧ t.sec = s.sec ∧ t.time = s.time ∧
      t.tbl = s.tbl ∧ t.regs = s.regs) ∧
  (∀ (c : PwrCommit) (s : State), s.pwr.commit = some c → nowFor s < c.asn → exec .pwrCommit s = .next s) ∧
  (∀ s : State, s.up = true → s.pwr.commit = none → exec .pwrCommit s = .next ((s.pwr.later.filter (fun c => decide (c.asn ≤ nowFor s))).foldl
    (fun t c => done c.ref t) { s with pwr := { s.pwr with later := s.pwr.later.filter (fun c => !decide (c.asn ≤ nowFor s)) } }))

/-- A power-on reset leaves the fuses and the flags of PWR_BOOT (0x10020), empties the vault and every other register, table and slotframe, and the device waits in OFF; a brown-out does the same and sets BOR, and TAMP when an enabled VDD_AON alarm stands. PERST# outside KEEP and OFF is a main reset: the vault, TLOCK and the registers of the always-on domain stay, every other register reads its reset value, schedule and node table are empty, and the device awaits its boot with cause PERST. PWR_OK falling in RUN or WATCH enters OFF with the vault empty; in KEEP the device stays in KEEP; during a wake whose cells have not executed it returns to KEEP with its banks as they were. A cold boot out of OFF, or out of a main reset, with BIST passed ends phase 6 with the SPLL locked and the host interface ready, and loads no root while TLOCK stands; keys stay unless an enabled alarm condition stands, which locks the device. With BIST failed it stops in phase 3; elsewhere it changes nothing. The software reset needs its key: any other value changes nothing; with it the device reboots with the PCI Express link as it was, and with the vault unless an alarm stands. -/
def Obligations.ResetsAndBoot : Prop :=
  (∀ s : State, ∃ t, exec .powerOnReset s = .next t ∧ t.pwr.st = .off ∧ t.pwr.phase = 0 ∧ t.pwr.cause = 0 ∧
    t.sec.fuses = s.sec.fuses ∧ t.sec.slots = [KeySlot.reset, KeySlot.reset] ∧ t.sec.tlock = false ∧ t.tbl = TblSt.reset ∧
    t.sch = SchSt.reset ∧ t.active = [] ∧ t.cnt = [] ∧ t.time = TimeSt.reset ∧ (∀ a, a ≠ 0x10020 → t.reg a = resetAt a) ∧
    t.reg 0x10020 = s.reg 0x10020) ∧
  (∀ s : State, s.wordsOk = true → ∃ t, exec .brownOut s = .next t ∧ t.pwr.st = .off ∧ t.pwr.cause = 4 ∧
    t.sec.fuses = s.sec.fuses ∧ t.sec.slots = [KeySlot.reset, KeySlot.reset] ∧ t.tbl = TblSt.reset ∧ t.sch = SchSt.reset ∧
    t.reg 0x10020 = s.reg 0x10020 ||| (if tampEnabled s 12 && tampNow s 12 then 0x300 else 0x100)) ∧
  (∀ s : State, (s.pwr.st = .run ∨ s.pwr.st = .watch) → ∃ t, exec .perstAssert s = .next t ∧ t.pwr.st = .run ∧ t.pwr.phase = 0 ∧
    t.pwr.cause = 6 ∧ t.pwr.perst = true ∧ t.sec.fuses = s.sec.fuses ∧ t.sec.slots = s.sec.slots ∧ t.sec.tlock = s.sec.tlock ∧
    t.sec.fcNext = s.sec.fcNext ∧ t.tbl = TblSt.reset ∧ t.sch = SchSt.reset ∧ t.active = [] ∧ t.hif = HifSt.reset ∧
    (∀ a, alwaysOn a = false → t.reg a = resetAt a) ∧ (∀ a, alwaysOn a = true → t.reg a = s.reg a)) ∧
  (∀ s : State, s.pwr.st = .keep → exec .perstAssert s = .next s) ∧
  (∀ s : State, s.pwr.st = .off → exec .perstAssert s = .next { s with pwr := { s.pwr with perst := true } }) ∧
  (∀ s : State, (s.pwr.st = .run ∨ s.pwr.st = .watch) → s.pwr.bank = none → ∃ t, exec .pwrOkFall s = .next t ∧ t.pwr.st = .off ∧
    t.pwr.cause = 5 ∧ t.pwr.pwrOk = false ∧ t.sec.slots = [KeySlot.reset, KeySlot.reset] ∧ t.sec.fuses = s.sec.fuses ∧
    t.tbl = TblSt.reset ∧ t.sch = SchSt.reset) ∧
  (∀ (b : KeepBank) (s : State), (s.pwr.st = .run ∨ s.pwr.st = .watch) → s.pwr.bank = some b → ∃ t, exec .pwrOkFall s = .next t ∧
    t.pwr.st = .keep ∧ t.pwr.pwrOk = false ∧ t.pwr.mainEn = false ∧ t.pwr.waking = none ∧ t.time = b.time ∧ t.tbl = b.tbl ∧ t.sch = b.sch ∧
    t.regs = b.regs ∧ t.active = b.active ∧ t.herd = b.herd ∧ t.sec.slots = s.sec.slots) ∧
  (∀ s : State, s.pwr.st = .keep → ∃ t, exec .pwrOkFall s = .next t ∧ t.pwr.st = .keep ∧ t.pwr.waking = none ∧ t.pwr.mainEn = false ∧
    t.sec = s.sec ∧ t.tbl = s.tbl ∧ t.regs = s.regs ∧ t.time = s.time) ∧
  (∀ s : State, s.pwr.st = .off → exec .pwrOkFall s = .next { s with pwr := { s.pwr with pwrOk := false } }) ∧
  (∀ (oks : List Bool) (bad : List Nat) (s : State), (s.pwr.st = .off ∨ (s.pwr.st = .run ∧ s.pwr.phase = 0)) →
    ∃ t, exec (.coldBoot oks ⟨true, bad⟩) s = .next t ∧ t.pwr.st = .run ∧ t.pwr.phase = 6 ∧ t.hif.ready = true ∧ t.rf.spll = .locked ∧
      t.rf.refOk = true ∧ t.pair.activeOut = true ∧ (t.sec.tlock = true → t.sec.rootOk = false) ∧ t.tbl = s.tbl ∧ t.regs = s.regs ∧
      ((∀ a ∈ s.sec.alarmAt, a.2 ≤ s.time.tb) → t.sec.slots = s.sec.slots ∧ t.sec.tlock = s.sec.tlock) ∧
      ((∃ a ∈ s.sec.alarmAt, s.time.tb < a.2 ∧ s.regB 0xC0040 a.1 = true) →
        t.sec.slots = [KeySlot.reset, KeySlot.reset] ∧ t.sec.tlock = true)) ∧
  (∀ (oks : List Bool) (bad : List Nat) (s : State), (s.pwr.st = .off ∨ (s.pwr.st = .run ∧ s.pwr.phase = 0)) →
    ∃ t, exec (.coldBoot oks ⟨false, bad⟩) s = .next t ∧ t.pwr.phase = 3 ∧ t.pwr.bistFail = true ∧ t.hif = s.hif ∧ t.rf = s.rf ∧ t.up = false) ∧
  (∀ (oks : List Bool) (ok : Bool) (bad : List Nat) (s : State), s.pwr.st ≠ .off → (s.pwr.st ≠ .run ∨ s.pwr.phase ≠ 0) →
    exec (.coldBoot oks ⟨ok, bad⟩) s = .next s) ∧
  (∀ (v : Word) (s : State), v ≠ resetKey → exec (.glbResetWrite v) s = .next s) ∧
  (∀ s : State, bar0 s = true → ∃ t, exec (.glbResetWrite resetKey) s = .next t ∧ t.pwr.st = .run ∧ t.pwr.cause = 6 ∧
    (t.pwr.phase = 6 ∨ t.pwr.phase = 3) ∧ t.hif.speed = s.hif.speed ∧ t.hif.width = s.hif.width ∧ t.tbl = TblSt.reset ∧ t.sch = SchSt.reset ∧
    (∀ a, alwaysOn a = false → t.reg a = resetAt a) ∧
    ((∀ a ∈ s.sec.alarmAt, a.2 ≤ s.time.tb) → t.sec.slots = s.sec.slots ∧ t.sec.tlock = s.sec.tlock))

/-- In KEEP with no wake begun, the timer of a WAKEAFTER that is not 0 and an enabled wake pin each begin the wake with their cause and raise MAIN_EN; neither does anything outside KEEP or once a wake has begun. The wake at SLCK count C1 ends in RUN with phase 6 over: the timebase stands where the elapsed SLCK periods put it after its value at the commit, its state is the one of R85, the epoch is kept, prefixes and active configuration are as they were, no frame waits and no transaction is open, and without retained banks the node table and schedule are empty. In KEEP and OFF the FEM and QFLOW balls float, PAIR_ACTIVE is inactive, and COEX_REQ and COEX_PRI stand at the inactive level of the polarity latch. -/
def Obligations.KeepAndWake : Prop :=
  (∀ s : State, s.pwr.st = .keep → s.pwr.waking = none → s.pwr.wakeAfter ≠ 0 →
    exec .wakeTimer s = .next { s with pwr := { s.pwr with
      slck := max s.pwr.slck (s.time.keepC0 + s.pwr.wakeAfter * 32_768)
      waking := some 1, cause := 1, mainEn := true, hostWake := s.regB 0x10024 4 } }) ∧
  (∀ s : State, s.pwr.wakeAfter = 0 → exec .wakeTimer s = .next s) ∧
  (∀ s : State, s.pwr.st = .keep → s.pwr.waking = none → s.regB 0x10024 0 = true →
    exec .wakePin s = .next { s with pwr := { s.pwr with
      waking := some 2, cause := 2, mainEn := true, hostWake := s.regB 0x10024 4 } }) ∧
  (∀ s : State, (s.pwr.st ≠ .keep ∨ s.pwr.waking.isSome = true) → exec .wakePin s = .next s ∧ exec .wakeTimer s = .next s) ∧
  (∀ (c1 cause : Nat) (oks : List Bool) (s : State), s.pwr.st = .keep → s.pwr.waking = some cause →
    ∃ t, exec (.keepWake c1 oks) s = .next t ∧ t.pwr.st = .run ∧ t.pwr.phase = 6 ∧ t.pwr.warm = true ∧ t.pwr.cause = cause ∧
      t.pwr.slck = max c1 s.pwr.slck ∧ t.time.tb = s.time.keepT0 + wakeElapsed s.time (max c1 s.pwr.slck) ∧
      t.time.sub = s.time.keepSub ∧ t.time.st = wakeState s (wakeEst s.time (max c1 s.pwr.slck)) ∧
      t.time.epoch = s.time.epoch ∧ t.time.epochSet = s.time.epochSet ∧ t.time.slotLen = s.time.slotLen ∧
      t.tbl.pfx = s.tbl.pfx ∧ t.active = s.active ∧ t.tx.frames = [] ∧ t.tx.txs = [] ∧ t.herd.sixp = [] ∧ t.rx.locks = [] ∧
      t.hif.ready = true ∧ t.pair.activeOut = true ∧ t.rf.spll = .locked ∧ (s.pwr.kept = false → t.tbl.nodes = [] ∧ t.sch = SchSt.reset)) ∧
  (∀ (c1 : Nat) (oks : List Bool) (s : State), (s.pwr.st ≠ .keep ∨ s.pwr.waking = none) → exec (.keepWake c1 oks) s = .next s) ∧
  (∀ (s : State) (p : Nat), (s.pwr.st = .keep ∨ s.pwr.st = .off) →
    femLines s p = none ∧ qflowLevel s p = none ∧ pairActiveLevel s = false ∧ coexReqLevel s = s.rf.polLatch ∧ coexPriLevel s = s.rf.polLatch)

/-- PAIR_JOIN, once admitted, of a role that the pair state allows, with the link up and none under way, draws an agreement key, sends IDENT and waits for the peer's; with the peer's IDENT held, of the other role and passing every check, K_pair stands, ROLE 0 is ACTIVE with its core state as it was, and ROLE 1 is in JOIN_COPY with its core state cleared; a check that fails completes it PAIR_NOT_AVAILABLE with the check's DETAIL. With the link down it completes PAIR_NOT_AVAILABLE, with a role that the pair state does not allow BAD_STATE. An IDENT is kept while the link is up and takes the join of this unit, or an automatic rejoin, further. A joiner that has its copy is in JOIN_CATCHUP with the copy's sections taken and the copy's journal position; a record that follows on joins its backlog, and a synced standby acknowledges it; one that does not follow is dropped; a slot is executed once the next slot has arrived. A join that has no end 1 s after its point ends in DIVERGED with the core state cleared, a PAIR_JOIN without answer completes PAIR_NOT_AVAILABLE with DETAIL 0x0113. A digest mismatch rejoins by itself 1 s later where AUTOREJOIN is set. A link that goes up or down is raised; going down it ends the standby of an active unit, and a joiner waits without state. Key transfers keep a master by its generation and a HOST key for its command; one whose tag fails is counted; the timing mark sets the standby's timebase. PAIR_SOLO brings a diverged or waiting unit back to SOLO with core state, journal and timebase cleared; in another state it completes BAD_STATE. -/
def Obligations.PairJoining : Prop :=
  (∀ (r : CmdRef) (role : Nat) (s : State), goes s r 0x0801 1 = true → role ≤ 1 → joinState s role = false → s.pair.join = none →
    s.pair.link = true → exec (.pairJoin r role) s = .next (tryJoin (sendIdent role { admitCmd r 0x0801 1 0 (.pairJoin role) s with
      pair := { s.pair with
        join := some (r, role)
        joinAt := s.time.tb } }))) ∧
  (∀ (r : CmdRef) (role : Nat) (s : State), goes s r 0x0801 1 = true → role ≤ 1 → joinState s role = false → s.pair.join = none →
    s.pair.link = true → s.pair.peer = none →
    ∃ t, exec (.pairJoin r role) s = .next t ∧ t.pair.join = some (r, role) ∧ t.pair.joinAt = s.time.tb ∧ t.pair.kpair = none ∧
      t.pair.agree.isSome = true ∧ t.pair.sent = ((5, role) :: s.pair.sent).take 16 ∧ t.pair.st = s.pair.st ∧ t.tbl = s.tbl ∧ t.sch = s.sch ∧
      t.regs = s.regs) ∧
  (∀ (r : CmdRef) (role : Nat) (i : Ident) (s : State), goes s r 0x0801 1 = true → role ≤ 1 → joinState s role = false →
    s.pair.join = none → s.pair.link = true → s.pair.peer = some i → i.role = 1 - role → joinCheck s i = none →
    ∃ t, exec (.pairJoin r role) s = .next t ∧ t.pair.st = (if role = 0 then .active else .joinCopy) ∧ t.pair.kpair.isSome = true ∧
      t.pair.join = some (r, role) ∧ t.pair.joinAt = s.time.tb ∧ t.regs = s.regs ∧ t.sec.slots = s.sec.slots ∧
      t.tbl = (if role = 0 then s.tbl else TblSt.reset) ∧ t.sch = (if role = 0 then s.sch else SchSt.reset)) ∧
  (∀ (r : CmdRef) (role d : Nat) (i : Ident) (s : State), goes s r 0x0801 1 = true → role ≤ 1 → joinState s role = false →
    s.pair.join = none → s.pair.link = true → s.pair.peer = some i → i.role = 1 - role → joinCheck s i = some d →
    exec (.pairJoin r role) s = .next (joinFailed stPairNot d (sendIdent role { admitCmd r 0x0801 1 0 (.pairJoin role) s with
      pair := { s.pair with
        join := some (r, role)
        joinAt := s.time.tb } }))) ∧
  (∀ (r : CmdRef) (role : Nat) (s : State), goes s r 0x0801 1 = true → role ≤ 1 → joinState s role = false → s.pair.join = none →
    s.pair.link = false → exec (.pairJoin r role) s = .next (refuse r stPairNot 13 0 (admitCmd r 0x0801 1 0 (.pairJoin role) s))) ∧
  (∀ (r : CmdRef) (role : Nat) (s : State), goes s r 0x0801 1 = true → role ≤ 1 → joinState s role = true →
    exec (.pairJoin r role) s = .next (refuse r stBadState 13 0 (admitCmd r 0x0801 1 0 (.pairJoin role) s))) ∧
  (∀ (i : Ident) (s : State), s.up = true → s.pair.link = true →
    exec (.pairIdentRx i) s = .next (if s.pair.join.isSome then tryJoin { s with pair := { s.pair with peer := some i } }
      else rejoinIdent i { s with pair := { s.pair with peer := some i } })) ∧
  (∀ (jid jpos : Nat) (parts : List CorePart) (s : State), s.pair.st = .joinCopy → s.pair.wait = false →
    let u := parts.foldl (takePart false) s
    ∃ t, exec (.joinCopyDone jid jpos parts) s = .next t ∧ t.pair.st = .joinCatchup ∧ t.jrn.id = jid ∧ t.jrn.seq = max jpos u.jrn.seq ∧
      t.jrn.isOpen = true ∧ t.tbl = u.tbl ∧ t.sch = u.sch ∧ t.regs = u.regs ∧ t.time = u.time ∧ t.sec = u.sec) ∧
  (∀ (l : List Node) (x : SchSt) (p : List Pfx) (s : State),
    let u := [CorePart.nodes l, .sched x, .prefixes p].foldl (takePart false) s
    u.tbl.nodes = l ∧ u.sch = x ∧ u.tbl.pfx = p ∧ u.jrn.seq = s.jrn.seq ∧ u.regs = s.regs) ∧
  (∀ (j : JRec) (s : State), s.up = true → s.pair.link = true → (joining s = true ∨ s.pair.st = .standbySynced) → recCrcOk j = true →
    (∀ x, s.pair.backlog.getLast? = some x → j.seq = x.seq + 1) →
    ∃ t, exec (.journalRecordRx j) s = .next t ∧ t.pair.backlog = s.pair.backlog ++ [j] ∧ t.jrn.seq = j.seq + 1 ∧
      t.pair.sent = (if s.pair.st = .standbySynced then ((4, j.seq) :: s.pair.sent).take 16 else s.pair.sent) ∧
      t.tbl = s.tbl ∧ t.sch = s.sch ∧ t.regs = s.regs ∧ t.time = s.time) ∧
  (∀ (j x : JRec) (s : State), s.pair.backlog.getLast? = some x → j.seq ≠ x.seq + 1 → exec (.journalRecordRx j) s = .next s) ∧
  (∀ (l rest : List JRec) (s : State), s.up = true → s.pair.wait = false → (s.pair.follows = true ∨ s.pair.st = .takeover) →
    nextSlotRecs (s.pair.st == .takeover || s.pair.drillB.isSome) s.pair.backlog = some (l, rest) →
    (∀ j, l.head? = some j →
      exec (.standbyExecuteSlot j.seq l.length) s = .next (compared l (runRecords l { s with pair := { s.pair with backlog := rest } }))) ∧
    (∀ a b, ¬ (l.head?.map JRec.seq = some a ∧ l.length = b) → exec (.standbyExecuteSlot a b) s = .next s)) ∧
  (∀ (a b : Nat) (s : State), nextSlotRecs (s.pair.st == .takeover || s.pair.drillB.isSome) s.pair.backlog = none →
    exec (.standbyExecuteSlot a b) s = .next s) ∧
  (∀ s : State, s.up = true → joining s = true →
    exec .joinTimeout s = .next (joinBroken 5 false (reach (s.pair.joinAt + 1_000_000_000) s))) ∧
  (∀ (r : CmdRef) (role : Nat) (s : State), s.up = true → joining s = false → s.pair.join = some (r, role) →
    ∃ t, exec .joinTimeout s = .next t ∧ t.pair.join = none ∧ t.pair.kpair = none ∧ t.pair.st = s.pair.st ∧ t.tbl = s.tbl ∧
      t.sch = s.sch ∧ t.regs = s.regs ∧ admOf t r = none) ∧
  (∀ (t0 : Nat) (s : State), s.pair.divergedAt = some t0 → s.up = true → s.pair.st = .diverged → s.regB 0x110004 1 = true →
    s.pair.peerOk = true → s.pair.link = true → s.pair.rejoinAt = none →
    ∃ t, exec .autorejoinTimer s = .next t ∧ t.pair.st = .joinCopy ∧ t.pair.divergedAt = none ∧ t.tbl = TblSt.reset ∧
      t.sch = SchSt.reset ∧ t.pair.rejoinAt = some (max s.time.tb (t0 + 1_000_000_000)) ∧ t.pair.backlog = [] ∧ t.regs = s.regs) ∧
  (∀ s : State, s.up = true → s.pair.link = false → s.offline 13 = false →
    exec (.pairLinkChange true) s = .next (event 0x0D06 [1] { s with pair := { s.pair with link := true } })) ∧
  (∀ s : State, s.up = true → s.pair.link = true →
    ∃ t, exec (.pairLinkChange false) s = .next t ∧ t.pair.link = false ∧ t.regs = s.regs ∧
      (s.pair.st = .active → t.pair.st = .active ∧ t.pair.peerOk = false ∧ t.tbl = s.tbl ∧ t.sch = s.sch) ∧
      (joining s = true → t.pair.wait = true ∧ t.pair.backlog = [] ∧ t.tbl = TblSt.reset ∧ t.sch = SchSt.reset)) ∧
  (∀ (g m : Nat) (s : State), s.up = true → s.pair.link = true →
    exec (.keyTransferRx false g m true) s = .next { s with pair := { s.pair with
      tagFails := 0
      masters := s.pair.masters.filter (fun e => e.1 != g) ++ [(g, m)] } } ∧
    exec (.keyTransferRx true g m true) s = .next { s with pair := { s.pair with
      tagFails := 0
      hostKeys := s.pair.hostKeys ++ [octetsBE g m] } }) ∧
  (∀ (h : Bool) (g m : Nat) (s : State), s.up = true → s.pair.link = true → s.pair.tagFails < 15 →
    exec (.keyTransferRx h g m false) s = .next (bump 0x110044 { s with pair := { s.pair with tagFails := s.pair.tagFails + 1 } })) ∧
  (∀ (tb : Nat) (s : State), s.up = true → s.pair.link = true → (s.pair.follows = true ∨ s.pair.st = .joinCopy) →
    exec (.timingMarkRx tb) s = .next { s with time := { s.time with tb := tb, sub := 0 } }) ∧
  (∀ (r : CmdRef) (s : State), goes s r 0x0804 1 = true → (s.pair.st = .diverged ∨ s.pair.wait = true) →
    ∃ t, exec (.pairSolo r) s = .next t ∧ t.pair.st = .solo ∧ t.pair.wait = false ∧
      t.time = { TimeSt.reset with tb := s.time.tb, sub := s.time.sub } ∧
      t.tbl = TblSt.reset ∧ t.sch = SchSt.reset ∧ t.jrn.isOpen = false ∧ t.regs = s.regs ∧ t.sec.slots = s.sec.slots) ∧
  (∀ (r : CmdRef) (s : State), goes s r 0x0804 1 = true → s.pair.st ≠ .diverged → s.pair.wait = false →
    exec (.pairSolo r) s = .next (refuse r stBadState 13 0 (admitCmd r 0x0804 1 0 .pairSolo s)))

/-- A heartbeat clears the count of missed ones; three missed put a synced standby into TAKEOVER where automatic takeover is on, and a joiner into waiting without state. A FAIL message, PAIR_FAIL and PAIR_TAKEOVER do the same with their triggers; the active unit that PAIR_FAIL or a TAKEOVER message reaches stops and is DIVERGED. An acknowledgement raises what may be written out, and the first after a join completes the PAIR_JOIN; three slots without one let the active unit go on alone. In TAKEOVER, once every record received is executed, the unit serves from the next boundary. SWAP_DRILL of an active unit with a synced standby and an active slotframe waits for its boundary, at which the units change places; without a standby it completes PAIR_NOT_AVAILABLE, without the slotframe BAD_COMMAND with DETAIL 0x000B. -/
def Obligations.PairTakeover : Prop :=
  (∀ (a : Nat) (s : State), s.up = true → s.pair.link = true → s.pair.leads = false →
    exec (.heartbeatRx a) s = .next { s with pair := { s.pair with hbSeen := true, hbMiss := 0, peerOk := true, peerAsn := a } }) ∧
  (∀ s : State, s.up = true → 3 ≤ s.pair.hbMiss → s.pair.st = .standbySynced → s.regB 0x110004 0 = true →
    ∃ t, exec .heartbeatLoss s = .next t ∧ t.pair.st = .takeover ∧ t.pair.trigger = 1 ∧ t.tbl = s.tbl ∧ t.sch = s.sch ∧ t.sec = s.sec ∧
      t.regs = s.regs) ∧
  (∀ s : State, s.up = true → 3 ≤ s.pair.hbMiss → joining s = true →
    ∃ t, exec .heartbeatLoss s = .next t ∧ t.pair.wait = true ∧ t.pair.peerOk = false ∧ t.tbl = TblSt.reset ∧ t.sch = SchSt.reset ∧ t.regs = s.regs) ∧
  (∀ s : State, s.pair.hbMiss < 3 → exec .heartbeatLoss s = .next s) ∧
  (∀ (q : Nat) (s : State), s.up = true → s.pair.link = true → s.pair.st = .active → s.pair.join = none →
    exec (.pairAckRx q) s = .next (shadowsOut { s with pair := { s.pair with
      acked := max s.pair.acked (q + 1)
      ackSeen := true
      ackMiss := 0
      peerAsn := asnNow s
      peerOk := true } })) ∧
  (∀ (q role : Nat) (r : CmdRef) (s : State), s.up = true → s.pair.link = true → s.pair.st = .active → s.pair.join = some (r, role) →
    exec (.pairAckRx q) s = .next (shadowsOut (done r (bump 0x11003C { s with pair := { s.pair with
      acked := max s.pair.acked (q + 1)
      ackSeen := true
      ackMiss := 0
      peerAsn := asnNow s
      peerOk := true
      join := none } })))) ∧
  (∀ s : State, s.up = true → s.pair.st = .active → s.pair.peerOk = true → 3 ≤ s.pair.ackMiss →
    exec .standbyLostTimeout s = .next (shadowsOut (event 0x0D02 [s.pair.peerAsn] { s with pair := { s.pair with
      peerOk := false
      ackMiss := 0 } }))) ∧
  (∀ s : State, (s.pair.st ≠ .active ∨ s.pair.ackMiss < 3) → exec .standbyLostTimeout s = .next s) ∧
  (∀ s : State, s.up = true → s.pair.link = true → s.pair.st = .standbySynced →
    ∃ t, exec .failMessageRx s = .next t ∧ t.pair.st = .takeover ∧ t.pair.trigger = 3 ∧ t.pair.failMsgs = s.pair.failMsgs + 1 ∧
      t.tbl = s.tbl ∧ t.sch = s.sch ∧ t.regs = s.regs) ∧
  (∀ s : State, s.up = true → s.pair.link = true → joining s = true →
    ∃ t, exec .failMessageRx s = .next t ∧ t.pair.wait = true ∧ t.tbl = TblSt.reset ∧ t.sch = SchSt.reset ∧ t.regs = s.regs) ∧
  (∀ s : State, s.up = true → s.pair.link = true → s.pair.st = .active →
    ∃ t, exec .takeoverMessageRx s = .next t ∧ t.pair.st = .diverged ∧ t.pair.activeOut = false ∧ t.pair.peerOk = false ∧
      t.jrn.isOpen = false ∧ t.sec.slots = s.sec.slots ∧ t.regs = s.regs) ∧
  (∀ s : State, s.up = true → s.pair.st = .standbySynced →
    ∃ t, exec .pairFailAssert s = .next t ∧ t.pair.st = .takeover ∧ t.pair.trigger = 2 ∧ t.pair.failIn = true ∧ t.tbl = s.tbl ∧ t.sch = s.sch) ∧
  (∀ s : State, s.up = true → s.pair.st = .active →
    ∃ t, exec .pairFailAssert s = .next t ∧ t.pair.st = .diverged ∧ t.pair.activeOut = false ∧ t.pair.failIn = true ∧ t.jrn.isOpen = false) ∧
  (∀ s : State, s.up = true → s.pair.st ≠ .standbySynced → s.pair.st ≠ .active →
    exec .pairFailAssert s = .next { s with pair := { s.pair with failIn := true } }) ∧
  (∀ (r : CmdRef) (s : State), goes s r 0x0802 1 = true → s.pair.st = .standbySynced →
    ∃ t, exec (.pairTakeover r) s = .next t ∧ t.pair.st = .takeover ∧ t.pair.trigger = 0 ∧ t.pair.toRef = some r ∧
      t.hif.admitted = (admitCmd r 0x0802 1 0 .pairTakeover s).hif.admitted ∧
      t.tbl = s.tbl ∧ t.sch = s.sch ∧ t.regs = s.regs) ∧
  (∀ (r : CmdRef) (s : State), goes s r 0x0802 1 = true → s.pair.st ≠ .standbySynced →
    exec (.pairTakeover r) s = .next (refuse r stPairNot 13 0 (admitCmd r 0x0802 1 0 .pairTakeover s))) ∧
  (∀ s : State, s.up = true → s.pair.st = .takeover → s.pair.backlog = [] → s.time.loaded = true → s.time.epochSet = true →
    exec .takeoverActivate s = .next (takeoverAt (nextBoundary s.time) { reach (s.time.at_ (nextBoundary s.time)) s with
      time := { (reach (s.time.at_ (nextBoundary s.time)) s).time with lastAsn := some (nextBoundary s.time) } })) ∧
  (∀ s : State, s.pair.backlog ≠ [] → exec .takeoverActivate s = .next s) ∧
  (∀ (r : CmdRef) (k : Nat) (s : State), goes s r 0x0803 1 = true → s.pair.st = .active → s.pair.peerOk = true → s.pair.drill = none →
    k < 64 → (sfActive s k).isSome = true →
    exec (.swapDrill r k) s = .next { admitCmd r 0x0803 1 0 (.swapDrill k) s with pair := { s.pair with drill := some (r, k, r.asn) } }) ∧
  (∀ (r : CmdRef) (k : Nat) (s : State), goes s r 0x0803 1 = true → (s.pair.st ≠ .active ∨ s.pair.peerOk = false) →
    exec (.swapDrill r k) s = .next (refuse r stPairNot 13 0 (admitCmd r 0x0803 1 0 (.swapDrill k) s))) ∧
  (∀ (r : CmdRef) (k : Nat) (s : State), goes s r 0x0803 1 = true → s.pair.st = .active → s.pair.peerOk = true → s.pair.drill = none →
    (63 < k ∨ (sfActive s k).isNone = true) →
    exec (.swapDrill r k) s = .next (refuse r stBad 13 0x000B (admitCmd r 0x0803 1 0 (.swapDrill k) s))) ∧
  (∀ (b : Nat) (s : State), s.up = true → s.pair.st = .active → s.time.lastAsn = some b → drillDue s b = true →
    ∃ t, exec .swapDrillBoundary s = .next t ∧ t.pair.st = .standbySynced ∧ t.pair.drillB = some b ∧ t.pair.backlog = [] ∧ t.pair.activeOut = false ∧
      t.tbl = s.tbl ∧ t.sch = s.sch ∧ t.time = s.time ∧ t.regs = s.regs) ∧
  (∀ (b : Nat) (s : State), s.up = true → s.pair.link = true → s.pair.st = .standbySynced →
    exec (.drillMessageRx b) s = .next { s with pair := { s.pair with drillB := some b } }) ∧
  (∀ (b : Nat) (s : State), s.up = true → s.pair.st = .standbySynced → s.pair.drillB = some b → s.pair.backlog = [] → s.pair.lastSlot ≤ b →
    let t := { reach (s.time.at_ (b + 1)) s with time := { (reach (s.time.at_ (b + 1)) s).time with lastAsn := some (b + 1) } }
    let u := becomeActive 6 { toLead t with pair := { (toLead t).pair with
      drill := none
      drillB := none
      peerOk := true
      ackSeen := true } }
    exec .drillActivate s = .next (boundaryWork (b + 1) (match s.pair.drill with
      | some (r, _, _) => done r u
      | none => u)))

/-- JOURNAL_CTL, once admitted, turns streaming on and off; on while the journal ring is disabled it completes BAD_STATE. JOURNAL_DUMP with the journal ring enabled and none under way puts the held records on the ring's queue in order, a GAP wherever records are missing, and unfreezes staging; otherwise it completes BAD_STATE. The first owed digest that may be written is written as a record and owed no more; where none is due, nothing happens. REPLAY_ENTER of a SOLO unit with every port OFF, no slotframe and no journal since reset enters REPLAY. REPLAY_FEED in REPLAY executes the records of its buffer one by one and completes OK; a record that is not the next one, or has no form, completes it BAD_COMMAND with DETAIL 0x0104; in another state it completes PAIR_NOT_AVAILABLE, and an empty buffer BAD_COMMAND with DETAIL 0x000B. -/
def Obligations.JournalAndReplay : Prop :=
  (∀ (r : CmdRef) (b : Bool) (s : State), goes s r 0x0810 1 = true → (b = true → ringEn s (dlvCtl 8) = true) →
    let u := admitCmd r 0x0810 1 0 (.journalCtl b) s
    exec (.journalCtl r b) s = .next (done r { u with jrn := { u.jrn with stream := b } })) ∧
  (∀ (r : CmdRef) (s : State), goes s r 0x0810 1 = true → ringEn s (dlvCtl 8) = false →
    exec (.journalCtl r true) s = .next (refuse r stBadState 13 0 (admitCmd r 0x0810 1 0 (.journalCtl true) s))) ∧
  (∀ (r : CmdRef) (s : State), goes s r 0x0811 1 = true → (ringEn s (dlvCtl 8) = false ∨ s.jrn.dump.isSome = true) →
    exec (.journalDump r) s = .next (refuse r stBadState 13 0 (admitCmd r 0x0811 1 0 .journalDump s))) ∧
  (∀ (r : CmdRef) (s : State), goes s r 0x0811 1 = true → ringEn s (dlvCtl 8) = true → s.jrn.dump = none →
    let u := admitCmd r 0x0811 1 0 .journalDump s
    let items := dumpItems u (min u.jrn.ringNext ((u.jrn.staging.head?.map JRec.seq).getD u.jrn.seq)) u.jrn.staging
    exec (.journalDump r) s = .next (dumpDone { u with
      que := { u.que with egress := modAt 12 (· ++ items) u.que.egress }
      jrn := { u.jrn with
        frozen := false
        dump := some r
        ringNext := (u.jrn.staging.getLast?.map (fun j => j.seq + 1)).getD u.jrn.ringNext } })) ∧
  (∀ (o : Nat × Nat × List Nat) (s : State), coreRuns s = true → jrnWrites s = true →
    s.jrn.owed.find? (fun o => digestDue s o.1 o.2.1) = some o →
    exec .digestWrite s = .next (journal (.digest o.1 (slotDigest o.2.2) o.2.2)
      { s with jrn := { s.jrn with owed := s.jrn.owed.erase o } })) ∧
  (∀ s : State, (∀ o ∈ s.jrn.owed, asnNow s < o.2.1) → exec .digestWrite s = .next s) ∧
  (∀ (r : CmdRef) (s : State), goes s r 0x0812 1 = true → s.pair.st = .solo → (∀ p ∈ s.rf.ports, p.st = .off) → allInactive s = true →
    s.jrn.started = false →
    ∃ t, exec (.replayEnter r) s = .next t ∧ t.pair.st = .replay ∧ t.pair.store = [] ∧ t.pair.activeOut = false ∧ t.tbl = s.tbl ∧
      t.sch = s.sch ∧ t.regs = s.regs ∧ t.sec = s.sec) ∧
  (∀ (r : CmdRef) (s : State), goes s r 0x0812 1 = true → (s.pair.st ≠ .solo ∨ allInactive s = false) →
    exec (.replayEnter r) s = .next (refuse r stBadState 13 0 (admitCmd r 0x0812 1 0 .replayEnter s))) ∧
  (∀ (r : CmdRef) (l : List Octet) (s : State), goes s r 0x0813 1 = true → l ≠ [] → l.length ≤ 65536 → s.pair.st = .replay →
    let f := feed (recsIn l.length l) (admitCmd r 0x0813 1 (16 + l.length) (.replayFeed l) s)
    exec (.replayFeed r l) s = .next (if f.1 then refuse r stBad 13 0x0104 f.2 else done r f.2)) ∧
  (∀ (raw : List Octet) (j : JRec) (l : List (Option (List Octet × JRec))) (s : State), s.pair.st = .replay →
    feed (some (raw, j) :: l) s = (if malformed s raw j then (true, s) else feed l (feedOne raw j s)) ∧
    feed (none :: l) s = (true, s) ∧ feed [] s = (false, s)) ∧
  (∀ (r : CmdRef) (l : List Octet) (s : State), goes s r 0x0813 1 = true → l ≠ [] → l.length ≤ 65536 → s.pair.st ≠ .replay →
    exec (.replayFeed r l) s = .next (refuse r stPairNot 13 0 (admitCmd r 0x0813 1 (16 + l.length) (.replayFeed l) s))) ∧
  (∀ (r : CmdRef) (s : State), goes s r 0x0813 1 = true →
    exec (.replayFeed r []) s = .next (refuse r stBad 13 0x000B (admitCmd r 0x0813 1 16 (.replayFeed []) s)))

/-- A write that is not 4 octets at a multiple of 4 is discarded and sets bit 1 of GLB_STATUS (0xC); one to an unmapped address sets bit 0; before BAR0 is served a write changes nothing. A write to a register with a row of its own is that row. A write of a read-only or read-to-clear register, or of an active copy, changes nothing. A write of a register that no rule of its own holds back stores the bits of its mask, clears the bits of its write-1-to-clear mask where 1 is written, keeps every other bit, and lets the register take effect; where the write is journaled it is journaled first, waits in a handshake, and is discarded with bit 2 of GLB_STATUS by a unit that does not lead. Where the register sets nothing off, every other register word and everything beside the registers is what the journal's record left. A read within one word returns the word's octets and nothing else of the machine changes but the latches and, of an RC register, the counter, which reads 0 next; a read across words returns 0 and changes nothing. Reading TIME_NOW_LO latches the other words of the timebase and the ASN at that instant. -/
def Obligations.RegisterAccess : Prop :=
  (∀ (a w : Nat) (v : Word) (s : State), bar0 s = false → exec (.registerWrite a w v) s = .next s) ∧
  (∀ (a w : Nat) (v : Word) (s : State), bar0 s = true → (w ≠ 4 ∨ a % 4 ≠ 0) →
    exec (.registerWrite a w v) s = .next (s.setReg 0xC (s.reg 0xC ||| 2))) ∧
  (∀ (v : Word) (s : State), bar0 s = true →
    exec (.registerWrite 0x10 4 v) s = exec (.glbResetWrite v) s ∧
    exec (.registerWrite 0x12000C 4 v) s = exec (.errRestartWrite v) s ∧
    exec (.registerWrite 0x92000 4 v) s = exec (.schHctlWrite v) s ∧
    (∀ k, k < 5 → exec (.registerWrite (0xD0010 + 8 * k) 4 v) s = exec (.quePoolWrite k v) s) ∧
    (∀ ring, ringExists ring = true → exec (.registerWrite (RingSel.ctl ring) 4 v) s = exec (.ringCtlWrite ring v) s)) ∧
  (∀ (a : Nat) (v : Word) (s : State), bar0 s = true → a % 4 = 0 → a ≠ 0x10 → a ≠ 0x12000C → a ≠ 0x92000 →
    ¬ (0xD0010 ≤ a ∧ a < 0xD0038 ∧ a % 8 = 0) → ringAtCtl a = none →
    (regRow a = none → activeOf a = none → exec (.registerWrite a 4 v) s = .next (s.setReg 0xC (s.reg 0xC ||| 1))) ∧
    (regRow a = none → (activeOf a).isSome = true → exec (.registerWrite a 4 v) s = .next s) ∧
    (∀ r, regRow a = some r → r.acc ≠ .rw → exec (.registerWrite a 4 v) s = .next s) ∧
    (∀ r, regRow a = some r → r.acc = .rw → r.jrn = true →
      (s.pwr.preparing = true → exec (.registerWrite a 4 v) s = .next s) ∧
      (s.pwr.preparing = false → jwrDrops s = true → exec (.registerWrite a 4 v) s = .next (s.setReg 0xC (s.reg 0xC ||| 4))) ∧
      (s.pwr.preparing = false → jwrDrops s = false → exec (.registerWrite a 4 v) s = .next (writeRow r a v (journalCfg a v s)))) ∧
    (∀ r, regRow a = some r → r.acc = .rw → r.jrn = false → exec (.registerWrite a 4 v) s = .next (writeRow r a v s))) ∧
  (∀ (r : RegRow) (a : Nat) (v : Word) (s : State),
    (isTemplate a && !allInactive s) = false → (isHgroup a && groupHeld s) = false → ringHeld s a = false →
    tampHeld s a v = false → writeRow r a v s = regHook a (s.reg a) (written r (s.reg a) v) (s.setReg a (written r (s.reg a) v))) ∧
  (∀ (r : RegRow) (a : Nat) (v : Word) (s : State), bar0 s = true → a % 4 = 0 → a ≠ 0x10 → a ≠ 0x12000C → a ≠ 0x92000 →
    ¬ (0xD0010 ≤ a ∧ a < 0xD0038 ∧ a % 8 = 0) → ringAtCtl a = none → regRow a = some r → r.acc = .rw →
    s.pwr.preparing = false → jwrDrops s = false → s.wordsOk = true →
    (isTemplate a && !allInactive s) = false → isHgroup a = false → ringOfReg a = none → a ≠ 0xC0040 →
    (∀ old w x, regHook a old w x = x) →
    ∃ t, exec (.registerWrite a 4 v) s = .next t ∧
      t.reg a = (((s.reg a &&& ~~~(BitVec.ofNat 32 r.mask)) ||| (v &&& BitVec.ofNat 32 r.mask)) &&& ~~~(v &&& BitVec.ofNat 32 r.w1c)) ∧
      (∀ b, b ≠ a → t.reg b = s.reg b) ∧ t.time = s.time ∧ t.rf = s.rf ∧ t.tbl = s.tbl ∧ t.sch = s.sch ∧ t.sec = s.sec ∧
      t.active = s.active ∧ t.tx = s.tx ∧ t.herd = s.herd ∧ t.hif = s.hif ∧ t.pwr = s.pwr ∧ t.pair = s.pair) ∧
  (∀ (a o w : Nat) (s : State), bar0 s = true → contained o w = true →
    ∃ t, exec (.loHiLatchRead a o w) s = .next t ∧ exec (.rcCounterRead a o w) s = .next t ∧ t.rdata = readPart (readWord s a) o w ∧
      t.regs = s.regs ∧ t.active = s.active ∧ t.time = s.time ∧ t.rf = s.rf ∧ t.tbl = s.tbl ∧ t.sch = s.sch ∧ t.sec = s.sec ∧
      t.que = s.que ∧ t.hif = s.hif ∧ t.jrn = s.jrn ∧
      (∀ r, regRow a = some r → r.acc = .rc → s.wordsOk = true → cellsGet a 0 t.cnt = 0 ∧
        ∀ b, b ≠ a → cellsGet b 0 t.cnt = cellsGet b 0 s.cnt) ∧
      (∀ r, regRow a = some r → r.acc ≠ .rc → t.cnt = s.cnt)) ∧
  (∀ (a o w : Nat) (s : State), (bar0 s && contained o w) = false →
    exec (.loHiLatchRead a o w) s = .next { s with rdata := 0 } ∧ exec (.rcCounterRead a o w) s = .next { s with rdata := 0 } ∧
    exec (.timeNowLoRead o w) s = .next { s with rdata := 0 }) ∧
  (∀ (o w : Nat) (s : State), bar0 s = true → contained o w = true → cellsWf (latchReset s) s.latch = true →
    ∃ t, exec (.timeNowLoRead o w) s = .next t ∧ t.time = s.time ∧ t.regs = s.regs ∧ t.cnt = s.cnt ∧
      t.rdata = readPart (wordN (loN s.time.tb)) o w ∧ readWord t 0x30044 = wordN (hiN s.time.tb) ∧
      readWord t 0x30048 = wordN (s.time.sub / 2 ^ 16) ∧ readWord t 0x3004C = wordN s.time.ofs ∧
      readWord t 0x30050 = wordN (loN s.time.asn) ∧ readWord t 0x30054 = wordN (hiN s.time.asn)) ∧
  (∀ (a o w : Nat) (s : State), bar0 s = true → contained o w = true → isPairLo a = true → cellsWf (latchReset s) s.latch = true →
    ∃ t, exec (.loHiLatchRead a o w) s = .next t ∧ readWord t (a + 4) = wordN (hiN (pairQuantity s a)))

/-- While BAR0 is served, a write of another width than 4 octets, or at an address that is no multiple of 4, sets bit 1 (WIDTHERR) of GLB_STATUS; a write of 4 octets at an aligned address below 2^21 that no register and no active copy occupies sets bit 0 (UNMAPWR). Every other bit of GLB_STATUS, every other register word and everything else of the machine is what it was. -/
def Obligations.DiscardedWritesSetAFlag : Prop :=
  (∀ (a w : Nat) (v : Word) (s : State), bar0 s = true → s.wordsOk = true → a < 2 ^ 21 → (w ≠ 4 ∨ a % 4 ≠ 0) →
    ∃ t, exec (.registerWrite a w v) s = .next t ∧ t.reg 0xC = s.reg 0xC ||| 2 ∧ (∀ b, b ≠ 0xC → t.reg b = s.reg b) ∧
      { t with regs := s.regs } = s) ∧
  (∀ (a : Nat) (v : Word) (s : State), bar0 s = true → s.wordsOk = true → a < 2 ^ 21 → a % 4 = 0 → regRow a = none →
    activeOf a = none →
    ∃ t, exec (.registerWrite a 4 v) s = .next t ∧ t.reg 0xC = s.reg 0xC ||| 1 ∧ (∀ b, b ≠ 0xC → t.reg b = s.reg b) ∧
      { t with regs := s.regs } = s)

/-- A write of QUE_POOL before the journal has started stores the range and rebuilds every free list, after it the write is dropped and marked; a pool that does not exist changes nothing. A ring that is disabled is enabled by a write with a permitted size (of a command ring, with its completion ring enabled), and starts afresh; where the size or the completion ring is not permitted it is refused with CFGERR and stays disabled; while it is enabled, a write that leaves EN set is refused with CFGERR and changes nothing else; one that clears EN, where R380 lets it, clears EN alone and stops the ring. A write of ERR_RESTART begins the restart of the offline subsystems it names and of no other; Collie's closes its open 6P transactions, Mastiff's zeroises the key cache. -/
def Obligations.RegisterRows : Prop :=
  (∀ (k : Nat) (v : Word) (s : State), bar0 s = true → s.pwr.preparing = false → jwrDrops s = false → k < 5 → s.jrn.started = false →
    ∃ t, exec (.quePoolWrite k v) s = .next t ∧ t.regs = (s.setReg (poolCtl k) (v &&& 0xFFFF7FFF)).regs ∧
      t.que.free = (List.range 5).map (freshFree (s.setReg (poolCtl k) (v &&& 0xFFFF7FFF))) ∧ t.que.used = s.que.used ∧
      t.tbl = s.tbl ∧ t.cnt = s.cnt) ∧
  (∀ (k : Nat) (v : Word) (s : State), bar0 s = true → s.pwr.preparing = false → jwrDrops s = false → k < 5 → s.jrn.started = true →
    exec (.quePoolWrite k v) s = .next { s with que := { s.que with wrDrop := true } }) ∧
  (∀ (k : Nat) (v : Word) (s : State), bar0 s = true → s.pwr.preparing = false → jwrDrops s = false → 5 ≤ k → exec (.quePoolWrite k v) s = .next s) ∧
  (∀ (ring : RingSel) (v : Word) (s : State), bar0 s = true → ringExists ring = true →
    (ctlJournaled ring = true → s.pwr.preparing = false ∧ jwrDrops s = false) →
    (ringEn s (RingSel.ctl ring) = false → bitOf (v &&& BitVec.ofNat 32 (ctlMask ring)).toNat 31 = true →
      (enRefused ring s (v &&& BitVec.ofNat 32 (ctlMask ring)).toNat = true →
        exec (.ringCtlWrite ring v) s = .next (s.setReg 0xE0000 (s.reg 0xE0000 ||| 4))) ∧
      (enRefused ring s (v &&& BitVec.ofNat 32 (ctlMask ring)).toNat = false →
        exec (.ringCtlWrite ring v) s = .next (ringStart ring
          ((if ctlJournaled ring then journalCfg (RingSel.ctl ring) (v &&& BitVec.ofNat 32 (ctlMask ring)) s else s).setReg (RingSel.ctl ring)
            (v &&& BitVec.ofNat 32 (ctlMask ring)))))) ∧
    (ringEn s (RingSel.ctl ring) = true → bitOf (v &&& BitVec.ofNat 32 (ctlMask ring)).toNat 31 = true →
      exec (.ringCtlWrite ring v) s = .next (s.setReg 0xE0000 (s.reg 0xE0000 ||| 4))) ∧
    (ringEn s (RingSel.ctl ring) = true → bitOf (v &&& BitVec.ofNat 32 (ctlMask ring)).toNat 31 = false →
      enRefused ring s (v &&& BitVec.ofNat 32 (ctlMask ring)).toNat = false →
      exec (.ringCtlWrite ring v) s = .next (ringStop ring
        ((if ctlJournaled ring then journalCfg (RingSel.ctl ring) (s.reg (RingSel.ctl ring) &&& 0x7FFFFFFF) s else s).setReg (RingSel.ctl ring)
          (s.reg (RingSel.ctl ring) &&& 0x7FFFFFFF))))) ∧
  (∀ (c n : Nat) (s : State), c < 16 → n < 2 ^ 32 → (enRefused (.cpl c) s n = false ↔
    (bitOf n 31 = true ∧ 6 ≤ bitsOf n 19 16 ∧ bitsOf n 19 16 ≤ 16) ∨
    (bitOf n 31 = false ∧ (∀ r, r < 16 → ringEn s (cringCtl r) = true → boundCpl s r ≠ c) ∧ ∀ a ∈ s.hif.admitted, a.cpl ≠ some c))) ∧
  (∀ (v : Word) (us : List Nat) (s : State), bar0 s = true → s.pwr.preparing = false → jwrDrops s = false →
    us = s.err.offline.filter (fun u => bitOf v.toNat u && !s.err.restarting.contains u) →
    ∃ t, exec (.errRestartWrite v) s = .next t ∧ t.err = { s.err with restarting := s.err.restarting ++ us } ∧
      t.regs = s.regs ∧ t.time = s.time ∧ t.rf = s.rf ∧ t.sch = s.sch ∧
      t.sec = { s.sec with cache := if us.contains 9 then [] else s.sec.cache } ∧
      (us.contains 5 = true → ∀ n ∈ t.tbl.nodes, n.herd.txn = 0) ∧ (us.contains 5 = false → t.tbl = s.tbl ∧ t.herd = s.herd))

/-- A DIAG_NOP that may be admitted completes OK and changes nothing but a free value's count; its RESULT is the journal sequence number of its own record (free where none was written). A DIAG_IQ_SNAPSHOT that may be admitted, of an enabled window with a port that is on, 1 to 16,384 samples and a ring to write to, waits for its instant; an argument outside its range completes BAD_COMMAND, a window that is not ready BAD_STATE, one while another waits BUSY. The capture takes its samples, writes its records and completes its command; registers, tables, schedule and timing beside the clock stay. A CFG_SNAPSHOT_READ that may be admitted answers in its buffer the octets of a snapshot at its own position, or where the buffer has no room completes LEN with the length needed; it changes nothing else. -/
def Obligations.DiagnosticsAndSnapshot : Prop :=
  (∀ (r : CmdRef) (s : State), goes s r 0x0901 1 = true →
    ∃ u, u = admitCmd r 0x0901 1 0 .diagNop s ∧ exec (.diagNop r) s = .next (doneWith r (cmdSeq r u) { u with fresh := u.fresh + 1 })) ∧
  (∀ (r : CmdRef) (w p n o : Nat) (s : State), goes s r 0x0902 1 = true →
    ∃ u, u = admitCmd r 0x0902 1 0 (.diagIqSnapshot w p n o) s ∧
      ((7 < w ∨ 3 < p ∨ n = 0 ∨ 16384 < n ∨ s.time.l ≤ o) → exec (.diagIqSnapshot r w p n o) s = .next (refuse r stBad 4 0x000B u)) ∧
      (w ≤ 7 → p ≤ 3 → 0 < n → n ≤ 16384 → o < s.time.l →
        (snapUnready s w p = true → exec (.diagIqSnapshot r w p n o) s = .next (refuse r stBadState 4 0 u)) ∧
        (snapUnready s w p = false → s.snap.isSome = true → exec (.diagIqSnapshot r w p n o) s = .next (refuse r stBusy 4 0 u)) ∧
        (snapUnready s w p = false → s.snap = none → r.asn = 0 →
          exec (.diagIqSnapshot r w p n o) s = .next { u with
            snapWin := w, snapPorts := p, captured := 0, snap := some ⟨r, w, p, n, s.time.tb⟩ }) ∧
        (snapUnready s w p = false → s.snap = none → r.asn ≠ 0 → needsTime s r.asn = true →
          exec (.diagIqSnapshot r w p n o) s = .next (refuse r stUnlocked 4 0 u)) ∧
        (snapUnready s w p = false → s.snap = none → r.asn ≠ 0 → needsTime s r.asn = false → s.time.tb ≤ s.time.at_ r.asn + o →
          exec (.diagIqSnapshot r w p n o) s = .next { u with
            snapWin := w, snapPorts := p, captured := 0, snap := some ⟨r, w, p, n, s.time.at_ r.asn + o⟩ }))) ∧
  (∀ (x : Snap) (s : State), s.up = true → s.snap = some x →
    ∃ t, exec .iqCapture s = .next t ∧ t.snap = none ∧ t.captured = x.samples ∧ admOf t x.ref = none ∧ t.regs = s.regs ∧
      t.tbl = s.tbl ∧ t.sch = s.sch ∧ t.rf = s.rf ∧
      t.time.tb = max s.time.tb (x.at_ + ceilDiv (x.samples * 1000000000) (winRate s x.win))) ∧
  (∀ (r : CmdRef) (addr n : Nat) (s : State), goes s r 0x0101 1 = true →
    ∃ u o, u = admitCmd r 0x0101 1 0 (.cfgSnapshotRead addr n) s ∧ o = snapOctets (cmdSeq r u) u ∧
      (o.length ≤ n → s.pair.exec = false → ∃ t, exec (.cfgSnapshotRead r addr n) s = .next t ∧ t.hif.outBuf = [(addr, o)] ∧
        admOf t r = none ∧ t.regs = s.regs ∧ t.tbl = s.tbl ∧ t.sch = s.sch ∧ t.sec = s.sec ∧ t.rf = s.rf ∧ t.time = s.time ∧ t.jrn = u.jrn) ∧
      (o.length ≤ n → s.pair.exec = true → ∃ t, exec (.cfgSnapshotRead r addr n) s = .next t ∧ t.hif.outBuf = s.hif.outBuf ∧ admOf t r = none ∧
        t.regs = s.regs ∧ t.tbl = s.tbl ∧ t.sch = s.sch ∧ t.sec = s.sec ∧ t.jrn = u.jrn) ∧
      (n < o.length → exec (.cfgSnapshotRead r addr n) s = .next (complete r stLen 5 o.length 0 { u with fresh := u.fresh + 1 })))

/-- A doorbell of an enabled ring with an index in range moves the ring's index and frees or fetches what it covers; one of a disabled ring, out of range or past what the device wrote only counts in HIF_DBERR. A doorbell that fetches less than its index covers, because an entry has not the PHASE of its pass, counts it. A fetched descriptor that may be admitted takes its place: its consumer index moves past it, its slots are reserved, it is journaled, and it completes at once with the first check that fails, or its command runs, and completes INTERNAL_ERROR where the write of its output fails on the bus; one whose gate says wait stays; a ring with nothing fetched, or that this unit does not read, admits nothing. DMA writes a ring's next completion or record, or a gap that a record follows, with its PHASE and SEQ and takes it off its queue. An armed ring with entries enough, or whose first entry is old enough, sends its vector once and is then not armed; a masked vector is held pending. A configuration write sets Bus Master Enable and the D-state once BAR0 is served; a link reset disables every ring and keeps the core state; with the link down it changes nothing. -/
def Obligations.HostInterface : Prop :=
  (∀ (p : Nat) (v : Word) (d : List RawDesc) (x : CRing) (s : State), s.hif.cring[p]? = some x →
    (ringEn s (cringCtl p) = false ∨ ringSize s (cringCtl p) ≤ v.toNat % 65536) →
    exec (.dbCmdPi p v d) s = .next { s with cnt := cntBump 0xE000C 0 32 1 s.cnt }) ∧
  (∀ (p : Nat) (v : Word) (d got : List RawDesc) (want : Nat) (x : CRing) (s : State), s.hif.cring[p]? = some x →
    ringEn s (cringCtl p) = true → v.toNat % 65536 < ringSize s (cringCtl p) →
    want = (v.toNat % 65536 + ringSize s (cringCtl p) - (x.ci + x.fetched.length) % ringSize s (cringCtl p)) % ringSize s (cringCtl p) →
    got = readable (ringSize s (cringCtl p)) x.phase want (x.ci + x.fetched.length) d →
    ∃ t, exec (.dbCmdPi p v d) s = .next t ∧
      t.hif = { s.hif with cring := modAt p (fun y => { y with pi := v.toNat % 65536, fetched := y.fetched ++ got }) s.hif.cring } ∧
      (readsRing s p = true → got.length < want → t.cnt = cntBump 0xE0010 0 32 1 s.cnt) ∧
      ((readsRing s p && decide (got.length < want)) = false → t.cnt = cntBump 0xE0010 0 32 0 s.cnt) ∧
      t.regs = s.regs ∧ t.tbl = s.tbl ∧ t.que = s.que) ∧
  (∀ (p k : Nat) (v : Word) (x : CplRing) (s : State), s.hif.cpl[p]? = some x → cplMirrored s p = false →
    k = (v.toNat % 65536 + ringSize s (cplCtl p) - x.hostCi) % ringSize s (cplCtl p) →
    ((ringEn s (cplCtl p) = false ∨ ringSize s (cplCtl p) ≤ v.toNat % 65536 ∨ validRun x.slots < k) →
      exec (.dbCplCi p v) s = .next { s with cnt := cntBump 0xE000C 0 32 1 s.cnt }) ∧
    (ringEn s (cplCtl p) = true → v.toNat % 65536 < ringSize s (cplCtl p) → k ≤ validRun x.slots →
      ∃ t, exec (.dbCplCi p v) s = .next t ∧ t.regs = s.regs ∧ t.tbl = s.tbl ∧ t.hif.cring = s.hif.cring ∧ t.hif.cpl = modAt p (fun y =>
        { y with
          hostCi := v.toNat % 65536
          slots := x.slots.drop k
          armed := y.armed || bitOf v.toNat 31
          firstAt := if bitOf v.toNat 31 then firstNow s (validRun (x.slots.drop k)) else y.firstAt }) s.hif.cpl)) ∧
  (∀ (p : Nat) (v : Word) (x : CplRing) (s : State), s.hif.cpl[p]? = some x → cplMirrored s p = true →
    ringEn s (cplCtl p) = true → v.toNat % 65536 < ringSize s (cplCtl p) →
    ∃ t, exec (.dbCplCi p v) s = .next t ∧ t.regs = s.regs ∧ t.hif.cpl[p]?.map CplRing.hostCi = some (v.toNat % 65536) ∧
      (∀ q, q ≠ p → t.hif.cpl[q]? = s.hif.cpl[q]?)) ∧
  (∀ (p k : Nat) (v : Word) (x : DRing) (s : State), s.hif.dring[p]? = some x →
    k = (v.toNat % 65536 + ringSize s (dlvCtl p) - x.hostCi) % ringSize s (dlvCtl p) →
    ((ringEn s (dlvCtl p) = false ∨ ringSize s (dlvCtl p) ≤ v.toNat % 65536 ∨ x.out.length < k) →
      exec (.dbDlvCi p v) s = .next { s with cnt := cntBump 0xE000C 0 32 1 s.cnt }) ∧
    (ringEn s (dlvCtl p) = true → v.toNat % 65536 < ringSize s (dlvCtl p) → k ≤ x.out.length →
      ∃ t, exec (.dbDlvCi p v) s = .next t ∧ t.regs = s.regs ∧ t.tbl = s.tbl ∧ t.hif.cpl = s.hif.cpl ∧ t.hif.dring = modAt p (fun y =>
        { y with
          hostCi := v.toNat % 65536
          out := y.out.drop k
          armed := y.armed || bitOf v.toNat 31
          firstAt := if bitOf v.toNat 31 then firstNow s (y.out.drop k).length else y.firstAt }) s.hif.dring)) ∧
  (∀ (k : Nat) (d : RawDesc) (l : List RawDesc) (x : CRing) (ref : CmdRef) (s : State), s.hif.cring[k]? = some x → x.fetched = d :: l →
    readsRing s k = true → ref = ⟨k, x.ci + 65536 * x.pass, dTag d, dAsn d⟩ →
    (gateOf s k (dOp d) (slotsNeeded d) = .wait → exec (.commandAdmit k) s = .next s) ∧
    (gateOf s k (dOp d) (slotsNeeded d) ≠ .wait →
      (∀ st un de, admCheck s d = some (st, un, de) →
        exec (.commandAdmit k) s = .next (refuse ref st un de (enterDesc k ref d 0 (.ended st un de) (bumpIf (de == 1) 0xE0008 s)))) ∧
      (∀ st un de, admCheck s d = none → gateOf s k (dOp d) (slotsNeeded d) = .stop st un de →
        exec (.commandAdmit k) s = .next (refuse ref st un de (enterDesc k ref d 0 (.ended st un de) s)))) ∧
    (gateOf s k (dOp d) (slotsNeeded d) = .go → admCheck s d = none →
      (∀ de, (formOf (dOp d)).bind (ownerCheck d) = some de →
        exec (.commandAdmit k) s = .next (refuse ref stBad (ownerOf (dOp d)) de (enterDesc k ref d 0 (.ended stBad (ownerOf (dOp d)) de) s))) ∧
      (∀ t, t = doHost ref (hostCmdOf d)
          (enterDesc k ref d (inputLen (hostCmdOf d) (if dExt d then dArgLen d else 0)) (hostCmdOf d) s) →
        (formOf (dOp d)).bind (ownerCheck d) = none →
        exec (.commandAdmit k) s = .next (if writesOutput (dOp d) = true ∧ d.outOk = false then outputFails ref t else t)))) ∧
  (∀ (k n : Nat) (ref : CmdRef) (d : RawDesc) (c : HostCmd) (s : State), ∃ u, enterDesc k ref d n c s = u ∧
    u.hif.admitted = s.hif.admitted ++ [⟨ref, dOp d, some (boundCpl s ref.ring), s.time.tb, if jrnWrites s then some s.jrn.seq else none⟩] ∧
    (∀ x, s.hif.cring[k]? = some x → ∃ y, u.hif.cring[k]? = some y ∧ y.fetched = x.fetched.drop 1 ∧ y.ci = (x.ci + 1) % ringSize s (cringCtl k)) ∧
    u.regs = s.regs ∧ u.tbl = s.tbl ∧ u.sch = s.sch ∧ u.sec = s.sec ∧ u.time = s.time ∧ u.rf = s.rf) ∧
  (∀ (k : Nat) (x : CRing) (s : State), s.hif.cring[k]? = some x → (x.fetched = [] ∨ readsRing s k = false) → exec (.commandAdmit k) s = .next s) ∧
  (∀ (c : Nat) (x : CplRing) (s : State), s.hif.cpl[c]? = some x → (writesHost s || (s.dma && c == 15)) = true → ringEn s (cplCtl c) = true →
    ∃ t, exec (.recordDeliver (.cpl c)) s = .next t ∧
      (∃ y, t.hif.cpl[c]? = some y ∧ y.slots = (writeFirst (cplReady s) x.slots).1 ∧ y.hostCi = x.hostCi ∧ y.armed = x.armed) ∧
      (∀ d, d ≠ c → t.hif.cpl[d]? = s.hif.cpl[d]?) ∧ t.hif.admitted = s.hif.admitted ∧ t.regs = s.regs ∧ t.tbl = s.tbl ∧ t.que = s.que) ∧
  (∀ (d : Nat) (x : DRing) (s : State), s.hif.dring[d]? = some x → writesHost s = true →
    ringEn s (dlvCtl d) = true → x.out.length + 1 < ringSize s (dlvCtl d) →
    (∀ r cs l, s.que.egress.getD (dlvQueue d) [] = ⟨.record r, cs⟩ :: l → released s r.jseq = true →
      ∃ t, exec (.recordDeliver (.dlv d)) s = .next t ∧ (∃ y, t.hif.dring[d]? = some y ∧ y.seq = (seqOf d r x + 1) % 2 ^ 32 ∧
        y.out = x.out ++ [(r, decide (x.prod / ringSize s (dlvCtl d) % 2 = 0), seqOf d r x)] ∧ y.prod = x.prod + 1) ∧
        t.que.egress = setAt s.que.egress (dlvQueue d) l ∧ t.regs = s.regs ∧ t.tbl = s.tbl) ∧
    (∀ n f cs i l, s.que.egress.getD (dlvQueue d) [] = ⟨.gap n f, cs⟩ :: i :: l →
      ∃ t, exec (.recordDeliver (.dlv d)) s = .next t ∧ (∃ y, t.hif.dring[d]? = some y ∧ y.seq = (f.getD x.seq % 2 ^ 32 + n) % 2 ^ 32 ∧
        y.out = x.out ++ [(gapRec s n, decide (x.prod / ringSize s (dlvCtl d) % 2 = 0), f.getD x.seq % 2 ^ 32)] ∧ y.prod = x.prod + 1) ∧
        t.que.egress = setAt s.que.egress (dlvQueue d) (i :: l) ∧ t.regs = s.regs ∧ t.tbl = s.tbl)) ∧
  (∀ (c n : Nat) (x : CplRing) (s : State), s.hif.cpl[c]? = some x → x.armed = true → s.dma = true → ringEn s (cplCtl c) = true →
    signalAt s (0xE040C + 32 * c) (validRun x.slots) x.firstAt = some n →
    ∃ t, exec (.interruptSend (.cpl c)) s = .next t ∧ t.hif.cpl = modAt c (fun y => { y with armed := false, firstAt := none }) s.hif.cpl ∧
      (s.regB (0xE800C + 16 * s.regF (cplCtl c) 13 8) 0 = false → t.hif.msgs = s.regF (cplCtl c) 13 8 :: s.hif.msgs) ∧
      (s.regB (0xE800C + 16 * s.regF (cplCtl c) 13 8) 0 = true → t.hif.msgs = s.hif.msgs ∧ s.regF (cplCtl c) 13 8 ∈ t.hif.pba) ∧
      t.time.tb = max s.time.tb n ∧ t.regs = s.regs ∧ t.tbl = s.tbl) ∧
  (∀ (d n : Nat) (x : DRing) (s : State), s.hif.dring[d]? = some x → x.armed = true → s.dma = true → ringEn s (dlvCtl d) = true →
    signalAt s (0xE0614 + 32 * d) x.out.length x.firstAt = some n →
    ∃ t, exec (.interruptSend (.dlv d)) s = .next t ∧ t.hif.dring = modAt d (fun y => { y with armed := false, firstAt := none }) s.hif.dring ∧
      (s.regB (0xE800C + 16 * s.regF (dlvCtl d) 13 8) 0 = false → t.hif.msgs = s.regF (dlvCtl d) 13 8 :: s.hif.msgs) ∧
      (s.regB (0xE800C + 16 * s.regF (dlvCtl d) 13 8) 0 = true → t.hif.msgs = s.hif.msgs ∧ s.regF (dlvCtl d) 13 8 ∈ t.hif.pba) ∧
      t.time.tb = max s.time.tb n ∧ t.regs = s.regs ∧ t.tbl = s.tbl) ∧
  (∀ (a n : Nat) (f : Nat) (s : State), 0 < n → (max 1 (bitsOf (s.regN a) 31 16) ≤ n → signalAt s a n (some f) = some s.time.tb) ∧
    (n < max 1 (bitsOf (s.regN a) 31 16) → signalAt s a n (some f) = some (f + 1000 * max 1 (bitsOf (s.regN a) 15 0)))) ∧
  (∀ (b d : Bool) (s : State), 4 ≤ s.pwr.phase → s.hif.speed ≠ 0 → s.hif.width ≠ 0 →
    exec (.pcieConfigWrite b d) s = .next { s with hif := { s.hif with busMaster := b, d3hot := d } }) ∧
  (∀ (b d : Bool) (s : State), s.pwr.phase < 4 → exec (.pcieConfigWrite b d) s = .next s) ∧
  (∀ s : State, s.hif.speed = 0 → exec .hifLinkReset s = .next s) ∧
  (∀ s : State, s.hif.speed ≠ 0 → ∃ t, exec .hifLinkReset s = .next t ∧ t.hif.speed = 0 ∧ t.hif.busMaster = false ∧ t.hif.pba = [] ∧
    (∀ a ∈ t.hif.admitted, a.cpl = none) ∧ (∀ x ∈ t.hif.cpl, x.slots = []) ∧ t.tbl = s.tbl ∧ t.sch = s.sch ∧ t.sec = s.sec ∧
    t.active = s.active)

/-- With the timebase loaded and the epoch set, the boundary that comes next is never one that has come, the timebase reaches its instant and never goes back, and a unit that leads counts its pair's slot and does the boundary's work with it recorded as the last; a unit that follows only counts its heartbeat and acknowledgement. In REPLAY, and with no loaded timebase, no boundary comes. A subsystem under restart is back in service after a boundary's restart step. -/
def Obligations.SlotBoundary : Prop :=
  (∀ (n : Nat) (u s : State), s.up = true → s.pair.leads = true → s.time.loaded = true → s.time.epochSet = true → 0 < s.time.slotLen →
    n = nextBoundary s.time → u = { reach (s.time.at_ n) s with time := { (reach (s.time.at_ n) s).time with lastAsn := some n } } →
    exec .slotBoundary s = .next (boundaryWork n (pairCount u)) ∧ u.time.lastAsn = some n ∧ u.time.tb = max s.time.tb (s.time.at_ n)) ∧
  (∀ (n : Nat) (s : State), s.up = true → s.pair.leads = false → s.pair.st ≠ .replay → s.time.loaded = true → s.time.epochSet = true →
    0 < s.time.slotLen → n = nextBoundary s.time →
    ∃ t, exec .slotBoundary s = .next t ∧ t.time.lastAsn = some n ∧
      t.time.tb = max s.time.tb (s.time.at_ n) ∧ t.tbl = s.tbl ∧ t.sch = s.sch ∧ t.tx = s.tx ∧ t.regs = s.regs ∧
      t.pair.st = s.pair.st ∧ t.pair.hbSeen = false ∧ (s.pair.hbSeen = false → t.pair.hbMiss = s.pair.hbMiss + 1) ∧
      (s.pair.hbSeen = true → t.pair.hbMiss = 0)) ∧
  (∀ s : State, (s.up = false ∨ s.pair.st = .replay ∨ s.time.loaded = false) → exec .slotBoundary s = .next s) ∧
  (∀ (t : TimeSt) (a : Nat), t.lastAsn = some a → a < nextBoundary t) ∧
  (∀ s : State, (restartDone s).err.restarting = [] ∧ (∀ u ∈ s.err.restarting, (restartDone s).err.offline.contains u = false) ∧
    (∀ u, s.err.restarting.contains u = false → (restartDone s).err.offline.contains u = s.err.offline.contains u))

/-- A port that rests in OFF is started 80 µs before its next transmit instant. A staged transmission whose port can begin to ramp is ramping from 12 µs before its instant, one whose port is in TX or on its way there is too, and one whose port cannot is held; the FEM lines take their TX row at the lead time; COEX_REQ is asserted in its lead with the class's priority, and the transmission has asked. At the instant, or within 100 µs after it, a port in TX with room and power for it, with no energy where listen-before-talk applies and the grant given or ignored, starts the carrier: its hold in µs and the first sample of 1.25 ns at or after the instant are kept, and the core's instants stay as they were; energy makes the outcome LBT, a missing grant is counted and makes the outcome COEX, a port that cannot carry it holds it, and one that has not started 100 µs later yields HOLD_EXPIRED and is counted. -/
def Obligations.TransmitStart : Prop :=
  (∀ (p a : Nat) (l : List Nat) (s : State), coreRuns s = true → (s.tx.txs.filter (fun t => t.port == p && t.waits)).map Tx.start = a :: l → 4 ≤ p →
    s.rf.spll = .locked → portsHeld s = false → (portOf s p).failed = false → (portOf s p).st = .off → (portOf s p).trans = none →
    (wanted s p ≠ .off ∨ (portOf s p).waiting ≠ []) →
    exec (.txPortWake p) s = .next (modPort p (startHop true (max s.time.tb (l.foldl min a - 80_000)) .idle) (reach (l.foldl min a - 80_000) s))) ∧
  (∀ (id : Nat) (t : Tx) (s : State), coreRuns s = true → txAt s id = some t → coexEn s = true → t.waits = true →
    ∃ u, exec (.coexRequestAssert id) s = .next u ∧ u.rf = { s.rf with coexReq := true, coexPri := s.regB 0x50020 (8 + t.cls) } ∧
      u.time.tb = max s.time.tb (max (t.start - 1000 * min 1000 (s.regN 0x50024)) t.coexFrom) ∧
      u.tx = { s.tx with txs := s.tx.txs.map (fun x => if x.id = id then { x with asked := true } else x) } ∧ u.regs = s.regs ∧ u.tbl = s.tbl) ∧
  (∀ (id : Nat) (t : Tx) (u s : State), coreRuns s = true → txAt s id = some t → t.waits = true → t.phase ≠ .ramping → u = reach (t.start - 12_000) s →
    (canRamp u t.port = true →
      exec (.txRampStart id) s = .next (modPort t.port (startHop true (max u.time.tb (t.start - 12_000)) .on)
        (modTx id (fun x => { x with phase := .ramping }) u))) ∧
    (canRamp u t.port = false → inTx u t.port = true → exec (.txRampStart id) s = .next (modTx id (fun x => { x with phase := .ramping }) u)) ∧
    (canRamp u t.port = false → inTx u t.port = false → exec (.txRampStart id) s = .next (modTx id (fun x => { x with phase := .held }) u))) ∧
  (∀ (id : Nat) (t : Tx) (s : State), coreRuns s = true → txAt s id = some t → t.phase = .ramping → t.yield = none →
    inTx s t.port = true →
    exec (.femLeadSwitch id) s = .next (modPort t.port (fun y => { y with femRow := 3, femUntil := none })
      (reach (t.start - femLeadNs s t.port) s))) ∧
  (∀ (id : Nat) (g b : Bool) (t : Tx) (u s : State), coreRuns s = true → txAt s id = some t → t.waits = true → u = reach t.start s →
    u.time.tb ≤ t.start + 100_000 →
    ((t.phase ≠ .ramping ∨ (portOf u t.port).st ≠ .on ∨ (portOf u t.port).trans ≠ none ∨ powerFits u t.port t.level = false) →
      exec (.txInstant id g b) s = .next (modTx id (fun x => { x with phase := if x.phase = .ramping then .ramping else .held }) u)) ∧
    (t.phase = .ramping → (portOf u t.port).st = .on → (portOf u t.port).trans = none → powerFits u t.port t.level = true →
      (freePos u t.port = none → exec (.txInstant id g b) s = .next u) ∧
      (∀ pos, freePos u t.port = some pos →
        (t.lbt = true → (b = true ∨ ownEnergy u t u.time.tb = true) → exec (.txInstant id g b) s = .next (yieldOut id 4 t u)) ∧
        ((t.lbt = false ∨ (b = false ∧ ownEnergy u t u.time.tb = false)) →
          (coexEn u = true → g = false → u.regB 0x50020 12 = false →
            exec (.txInstant id g b) s = .next (denyRow t.port (yieldOut id 2 t (bump 0x50028 (sampleGrant false u))))) ∧
          (coexEn u = true → g = false → u.regB 0x50020 12 = true →
            exec (.txInstant id g b) s = .next (startCarrier id pos t (bump 0x50028 (sampleGrant false u)))) ∧
          ((coexEn u = false ∨ g = true) → ∃ z, exec (.txInstant id g b) s = .next z ∧ z.time.tb = max s.time.tb t.start ∧
            z.rf.ports = modAt t.port (fun y => { y with
              carriers := y.carriers ++ [⟨pos, id, t.entry, t.freq, t.level, none⟩], linger := none, femUntil := none }) s.rf.ports ∧
            z.tx.txs = s.tx.txs.map (fun x => if x.id = id then { x with
              yield := some (0, (max s.time.tb t.start - t.start) / 1000), onTick := some (tickAt (max s.time.tb t.start)) } else x) ∧
            z.regs = s.regs ∧ z.tbl = s.tbl))))) ∧
  (∀ (id : Nat) (t : Tx) (s : State), coreRuns s = true → txAt s id = some t → t.waits = true →
    exec (.txHoldExpire id) s = .next (bump (0x50030 + 4 * (t.port - 4)) (yieldOut id 1 t (reach (t.start + 100_000) s)))) ∧
  (∀ (id o : Nat) (t : Tx) (s : State), ∃ w, yieldOut id o t s = w ∧
    w.tx.txs.map Tx.yield = s.tx.txs.map (fun x => if x.id = id then some (o, 0) else x.yield) ∧
    w.tx.txs.map Tx.phase = s.tx.txs.map (fun x => if x.id = id then .held else x.phase) ∧ w.tbl = s.tbl ∧ w.sch = s.sch ∧ w.regs = s.regs) ∧
  (∀ (id : Nat) (s : State), txAt s id = none → exec (.txHoldExpire id) s = .next s ∧ exec (.txRampStart id) s = .next s ∧
    exec (.txInstant id true false) s = .next s ∧ exec (.femLeadSwitch id) s = .next s ∧ exec (.coexRequestAssert id) s = .next s)

/-- An outcome is journaled as the radio side yielded it, with its hold, or as it arrives where none was yielded, and acted on: SENT puts the transmission on air with its hold beside its instants and keeps its airtime; INTERRUPTED of one that is no ACK is an attempt without ACK; one that is neither SENT nor INTERRUPTED ends the attempt and releases its airtime. A carrier that ends leaves its position 1 µs later; a unicast that asks for an ACK then awaits it; one that asks for none, a BULK frame and a beacon complete OK; an Enhanced ACK is done. An ACK window that closes counts NO_ACK and the frame is tried again or ends. LINGER and FEM hold that expire return the port and its FEM lines. -/
def Obligations.TransmitEnd : Prop :=
  (∀ (id o h oc ho : Nat) (t : Tx) (s : State), coreRuns s = true → txAt s id = some t → (oc, ho) = t.yield.getD (min o 4, min h 100) →
    exec (.txOutcome id o h) s = .next (outcomeIn t oc ho (journal (.txout t.port oc ho t.entry t.asn t.sfh t.node) s))) ∧
  (∀ (t : Tx) (h : Nat) (s : State), t.phase ≠ .onAir → t.phase ≠ .ackWait → t.sync = none →
    ∃ u, outcomeIn t 0 h s = u ∧ u.tx.txs = s.tx.txs.map (fun x => if x.id = t.id then { x with
        phase := .onAir, yield := none, late := 1000 * h } else x) ∧
      u.tx.charges = s.tx.charges.map (fun c => if c.id = t.id then { c with kept := true } else c) ∧
      u.tx.air = s.tx.air ++ [⟨t.port, t.freq, t.start + 1000 * h, t.start + 1000 * h + t.airtime⟩] ∧
      u.tbl = s.tbl ∧ u.sch = s.sch ∧ u.regs = s.regs ∧ u.cnt = s.cnt) ∧
  (∀ (t : Tx) (h : Nat) (s : State), t.kind ≠ .ack → outcomeIn t 3 h s = noAck true t (keepCharge t.id s)) ∧
  (∀ (t : Tx) (h : Nat) (s : State), t.kind = .ack → outcomeIn t 3 h s = dropTx t.id s) ∧
  (∀ (t : Tx) (h o k : Nat) (s : State), t.phase ≠ .onAir → t.phase ≠ .ackWait → t.frame = none →
    (t.kind ≠ .ack ∧ ((o, k) = (1, 3) ∨ (o, k) = (2, 4) ∨ (o, k) = (4, 5)) ∨ t.kind = .ack ∧ k = 15 ∧ (o = 1 ∨ o = 2 ∨ o = 4)) →
    outcomeIn t o h s = sweepTombs (cellOut k t.asn t.sfh t.node (dropCharge t.id (dropTx t.id s)))) ∧
  (∀ (id : Nat) (t : Tx) (s : State), coreRuns s = true → txAt s id = some t → t.phase = .onAir → t.yield = none →
    ∃ v, v = portIdle t.port (max s.time.tb (t.onAt + t.airtime)) (withRf (fun r => { r with
          deaf := r.deaf.map (fun d => if d.id = id then { d with until_ := some (max s.time.tb (t.onAt + t.airtime) + deafPost s) } else d) })
          (modPort t.port (fun y => { y with
            carriers := y.carriers.map (fun c => if c.id = id then { c with until_ := some (max s.time.tb (t.onAt + t.airtime) + 1000) } else c) })
            (reach (t.onAt + t.airtime) s))) ∧
      v.tx = s.tx ∧ v.time.tb = max s.time.tb (t.onAt + t.airtime) ∧ v.tbl = s.tbl ∧ v.regs = s.regs ∧
      ((t.kind = .unicast ∨ t.kind = .shared) → t.ackReq = true →
        exec (.txFrameEnd id) s = .next (modTx id (fun x => { x with phase := .ackWait }) v)) ∧
      ((t.kind = .unicast ∨ t.kind = .shared) → t.ackReq = false → ∀ f, t.frame = some f →
        exec (.txFrameEnd id) s = .next (sweepTombs (frameDone f stOk (cellOut 19 t.asn t.sfh t.node (dropTx id v))))) ∧
      ((t.kind = .bulk ∨ t.kind = .beacon) → t.frame = none →
        exec (.txFrameEnd id) s = .next (sweepTombs (cellOut 2 t.asn t.sfh t.node (dropTx id v)))) ∧
      ((t.kind = .bulk ∨ t.kind = .beacon) → ∀ f, t.frame = some f →
        exec (.txFrameEnd id) s = .next (sweepTombs (frameDone f stOk (cellOut 2 t.asn t.sfh t.node (dropTx id v))))) ∧
      (t.kind = .ack → exec (.txFrameEnd id) s = .next (dropTx id v))) ∧
  (∀ (id : Nat) (t : Tx) (s : State), coreRuns s = true → txAt s id = some t → t.phase = .ackWait →
    exec (.ackWindowClose id) s = .next (noAck false t (reach (ackClose s t) s))) ∧
  (∀ (i : Bool) (t : Tx) (f : Nat) (s : State), t.frame = some f → ∃ u, noAck i t s = sweepTombs (retryFrame f u) ∧
    u = herdItemIf (unicastTx t && !excused s t i) (.attempt t.node t.chIdx false) (cellOut 1 t.asn t.sfh t.node (dropTx t.id s)) ∧
    u.tx.txs = s.tx.txs.filter (fun x => x.id != t.id) ∧ u.tx.frames = s.tx.frames) ∧
  (∀ (f : Nat) (g : Frame) (s : State), frameAt s f = some g →
    (g.retries < s.regF 0x90000 3 0 → retryFrame f s = lastTry f stNoRoute
      { s with tx := { s.tx with frames := s.tx.frames.map (fun x => if x.id = f then { x with retries := x.retries + 1 } else x) } }) ∧
    (s.regF 0x90000 3 0 ≤ g.retries → retryFrame f s = frameDone f stNoRoute s)) ∧
  (∀ (id : Nat) (t : Tx) (s : State), txAt s id = some t → t.phase ≠ .ackWait → exec (.ackWindowClose id) s = .next s) ∧
  (∀ (p a : Nat) (s : State), (portOf s p).linger = some a → (portOf s p).st = .off →
    exec (.txLingerExpire p) s = .next (modPort p (fun y => { y with linger := none }) s)) ∧
  (∀ (p a : Nat) (s : State), (portOf s p).linger = some a → (portOf s p).st = .on → (portOf s p).trans = none →
    onAir (portOf s p) = [] →
    exec (.txLingerExpire p) s = .next (modPort p (fun y => { startHop true (max s.time.tb a) (leaveTo s p) y with
      linger := none
      femUntil := some (max s.time.tb a + femHoldNs s p) }) (reach a s))) ∧
  (∀ (p a : Nat) (s : State), (portOf s p).femUntil = some a →
    exec (.femHoldExpire p) s = .next (coexSettle (modPort p (fun y => { y with
      femUntil := none
      femRow := femRowOf (match y.trans with | some h => h.1 | none => y.st) }) (reach a s))))

/-- A demodulator holds the lock last given to it and no other demodulator's lock changes with it. A free one that hears a preamble locks on it under the profile of its set that it searches for and that shares the preamble; one that finds none keeps free. Before the SFD a preamble PRE_DB stronger replaces the lock and is counted PRE_SFD_REPLACED; after it one CAPTURE_DB stronger than the frame's mean captures and is counted CAPTURED_LOST, and with CAPTURE_DB 0 none does; a weaker one changes nothing; one whose frame has ended meanwhile is received. At the SFD the timestamp, the FEC, the port and both SNRs are kept with the lock, and the pair's diversity statistics count the choice. A lock with no SFD is released and counted FALSE_DET. A mode-switch PHR with bad parity frees the demodulator and counts PHR_BAD, one whose key maps to no profile or to none that a mode switch names MS_UNSUPPORTED, one to a SUN FSK profile awaits the new-mode preamble for 1 ms and then counts MS_TIMEOUT, one to a SUN OFDM profile locks the wideband demodulator that covers it, where that is free. The codewords that have arrived join the pool in the order in which they are decoded, and where the row names the first of it that one is decoded: counted with its iterations, and as a failure when its syndrome is not zero; its frame ends where it was the last. -/
def Obligations.DemodulatorLocks : Prop :=
  (∀ (ch c : Nat) (l : Lock) (s : State), demodAt (setLock ch l s) ch = some l ∧
    (c ≠ ch → demodAt (setLock ch l s) c = demodAt s c) ∧ demodAt (freeLock ch s) ch = none ∧
    (c ≠ ch → demodAt (freeLock ch s) c = demodAt s c)) ∧
  (∀ (ch p : Nat) (r : Int) (s : State), demRuns s ch = true →
    (demodAt s ch = none →
      (∀ q, finds s ch p = some q → searches s ch q = true ∧ samePreamble (profAt s.act q) (profAt s.act p) = true ∧
        exec (.preambleDetect ch p r) s = .next (setLock ch ⟨q, r, s.time.tb, none, none, false⟩ s)) ∧
      (finds s ch p = none → exec (.preambleDetect ch p r) s = .next s)) ∧
    (∀ l, demodAt s ch = some l → l.msUntil = none → exec (.preambleDetect ch p r) s = .next s) ∧
    (∀ l u, demodAt s ch = some l → l.msUntil = some u →
      (samePreamble (profAt s.act l.profile) (profAt s.act p) = true → s.time.tb ≤ u + detectNs (profAt s.act p) →
        exec (.preambleDetect ch p r) s = .next (setLock ch { l with msUntil := none, at_ := s.time.tb, rssiQ := r } s)) ∧
      ((samePreamble (profAt s.act l.profile) (profAt s.act p) = false ∨ u + detectNs (profAt s.act p) < s.time.tb) →
        exec (.preambleDetect ch p r) s = .next s))) ∧
  (∀ (ch p q : Nat) (r mean : Int) (s : State), demRuns s ch = true → finds s ch p = some q →
    let new : Lock := ⟨q, r, s.time.tb, none, none, false⟩
    let pre : Int := ((4 * s.regF 0x70004 12 8 : Nat) : Int)
    let cap : Int := ((4 * s.regF 0x70004 4 0 : Nat) : Int)
    (demodAt s ch = none → exec (.secondPreambleDetect ch p ⟨r, mean⟩) s = .next (setLock ch new s)) ∧
    (∀ l, demodAt s ch = some l →
      (l.sfd = none → l.rssiQ + pre ≤ r →
        exec (.secondPreambleDetect ch p ⟨r, mean⟩) s = .next (setLock ch new (demDisc 5 (rxCount ch 8 s)))) ∧
      (l.sfd = none → r < l.rssiQ + pre → exec (.secondPreambleDetect ch p ⟨r, mean⟩) s = .next s) ∧
      (l.sfd ≠ none → cap ≠ 0 → mean + cap ≤ r →
        exec (.secondPreambleDetect ch p ⟨r, mean⟩) s = .next (setLock ch new (demDisc 7 (rxCount ch 3 s)))) ∧
      (l.sfd ≠ none → (cap = 0 ∨ r < mean + cap) → exec (.secondPreambleDetect ch p ⟨r, mean⟩) s = .next s))) ∧
  (∀ (ch tick fec : Nat) (r1 r2 : Int) (l : Lock) (s : State), demRuns s ch = true → demodAt s ch = some l → l.sfd = none → l.msUntil = none →
    ∃ t, exec (.sfdDetect ch r1 r2 ⟨tick, fec⟩) s = .next t ∧
      demodAt t ch = some { l with sfd := some ⟨tick, fec, (diversity s ch r1 r2).1, (diversity s ch r1 r2).2, r1, r2⟩ } ∧
      t.time.tb = max s.time.tb (tick * 5 / 4) ∧ t.regs = s.regs ∧ t.cnt = s.cnt ∧ t.tbl = s.tbl ∧ t.tx = s.tx ∧ t.que = s.que ∧
      t.rx.sums = modAt (winPair (slotWin s.act ch)) (fun x => { x with
        divs := divCount ((diversity s ch r1 r2).1 != portA s ch) (diversity s ch r1 r2).2 x.divs }) s.rx.sums) ∧
  (∀ (ch : Nat) (r1 r2 : Int) (s : State),
    (hearing s (portA s ch) = false → diversity s ch r1 r2 = (portA s ch + 1, true)) ∧
    (hearing s (portA s ch) = true → hearing s (portA s ch + 1) = false → diversity s ch r1 r2 = (portA s ch, true)) ∧
    (∀ k, hearing s (portA s ch) = true → hearing s (portA s ch + 1) = true →
      k = s.regF 0x40010 (2 * winPair (slotWin s.act ch) + 1) (2 * winPair (slotWin s.act ch)) →
      (k = 0 → diversity s ch r1 r2 = (if r1 + 1 < r2 then portA s ch + 1 else portA s ch, false)) ∧
      (k = 1 → diversity s ch r1 r2 = (portA s ch, false)) ∧ (k = 2 → diversity s ch r1 r2 = (portA s ch + 1, false)))) ∧
  (∀ (ch : Nat) (l : Lock) (s : State), demodAt s ch = some l → l.sfd = none → l.msUntil = none →
    exec (.falseDetRelease ch) s = .next (freeLock ch (demDisc 6 (rxCount ch 7 (reach (l.at_ + releaseNs s ch l.profile) s))))) ∧
  (∀ (ch : Nat) (msg : BitVec 11) (chk : BitVec 5) (phr : BitVec 16) (l : Lock) (d : Sfd) (s : State), phr = chk ++ msg →
    inFrame s ch = some (l, d) → (profAt s.act l.profile).typ = 0 →
    (msPhrOk phr = false → exec (.msPhrRx ch msg chk) s = .next (demDisc 0 (freeLock ch s))) ∧
    (msPhrOk phr = true → msProfile s.act (msKey phr) = none → exec (.msPhrRx ch msg chk) s = .next (demDisc 3 (freeLock ch s))) ∧
    (∀ p, msPhrOk phr = true → msProfile s.act (msKey phr) = some p →
      ((profAt s.act p).typ = 0 →
        exec (.msPhrRx ch msg chk) s = .next (setLock ch ⟨p, l.rssiQ, s.time.tb, none, some (s.time.tb + 1_000_000), true⟩ s)) ∧
      ((profAt s.act p).typ = 1 → msWide s ch p = none → exec (.msPhrRx ch msg chk) s = .next (demDisc 3 (freeLock ch s))) ∧
      (∀ m, (profAt s.act p).typ = 1 → msWide s ch p = some m →
        (demodAt s (128 + m) = none → exec (.msPhrRx ch msg chk) s = .next
          (setLock (128 + m) ⟨p, l.rssiQ, s.time.tb, none, some (s.time.tb + 1_000_000), true⟩ (freeLock ch s))) ∧
        ((demodAt s (128 + m)).isSome = true → exec (.msPhrRx ch msg chk) s = .next (freeLock ch s))) ∧
      (2 ≤ (profAt s.act p).typ → exec (.msPhrRx ch msg chk) s = .next (demDisc 3 (freeLock ch s))))) ∧
  (∀ (ch u : Nat) (l : Lock) (s : State), demodAt s ch = some l → l.msUntil = some u →
    exec (.msTimeout ch) s = .next (freeLock ch (demDisc 4 (reach u s)))) ∧
  (∀ (x : List SoftCw) (pool : List SoftCw) (cws : List CwDone) (s : State),
    pool = (x.filter (fun c => elLive s c.ch c.frameAt)).foldl (fun l c => insCw c l) s.rx.pool →
    cws = s.rx.cws.filter (fun c => elLive s c.ch c.frameAt) →
    (∀ i j, pool.head?.map (fun c => (c.ch, c.index)) ≠ some (i, j) →
      exec (.ldpcCodewordDone x i j) s = .next { s with rx := { s.rx with pool := pool, cws := cws } }) ∧
    (∀ c rest r t, pool = c :: rest → elLive s c.ch c.frameAt = true → r = decodeWord (elMaxIt s) c.index c.info c.spread c.soft →
      t = bumpN 0x7006C r.iters (bumpIf (!r.good) 0x70068 (bump 0x70064
        { s with rx := { s.rx with pool := rest, cws := cws ++ [⟨c.ch, c.frameAt, c.index, r.bits, r.good, r.fixed⟩] } })) →
      (s.rx.elWait.find? (fun w => w.md.chSlot == c.ch && w.frameAt == c.frameAt) = none → exec (.ldpcCodewordDone x c.ch c.index) s = .next t) ∧
      (∀ w, s.rx.elWait.find? (fun w => w.md.chSlot == c.ch && w.frameAt == c.frameAt) = some w →
        exec (.ldpcCodewordDone x c.ch c.index) s = .next (elandEnd w t))))

/-- At the last bit of a frame a bad PHR, a length out of range or an unsupported header is counted and the frame dropped; one whose FCS fails, or of Eland with a codeword that failed, is counted as an FCS failure; one that verifies enters the handoff FIFO of its channel slot with its metadata, or where that has no room is counted; an Eland frame ends once its last codeword is decoded. The core takes frames only where the unit leads: the oldest frame of a FIFO, which the row names by its channel slot, leaves it, is journaled and is then checked; an offline MAC only counts it. The first check of Table 09-2 that fails counts its reason and nothing else becomes of the frame. In ACQUIRE all but the beacons of listed peers are counted and discarded. A frame of no known sender is reported for learning. A frame of a node whose level suffices, whose counter is new, whose key is in force, whose tag verifies at an ASN and whose IEs are sound is accepted: its node's entry takes the measurement and its payload goes on, or it is overheard; a counter that is not new is refused as a replay, or as a repeat of the last frame. An Enhanced ACK is tried under each exchange that awaits it. A slot receive summary is journaled once for each pair and slot, its counts start afresh, and Herd gets its census. -/
def Obligations.ReceivedFrames : Prop :=
  (∀ (ch fec : Nat) (x : RxSig) (mm : RxMeas) (l : Lock) (d : Sfd) (s : State), inFrame s ch = some (l, d) →
    (∀ phr, arrived (profAt s.act l.profile) l d x = .ms phr → exec (.rxFrameEnd ch x mm fec) s = .next (msPhr ch l phr s)) ∧
    (∀ k, arrived (profAt s.act l.profile) l d x = .bad k → exec (.rxFrameEnd ch x mm fec) s = .next (demDisc k (freeLock ch s))) ∧
    (∀ mode fcs b m, arrived (profAt s.act l.profile) l d x = .psdu mode fcs b → m = metaOf s ch l d mm mode fcs fec →
      (fcsGood fcs b = false → exec (.rxFrameEnd ch x mm fec) s = .next (fcsFail ch (freeLock ch s))) ∧
      (fcsGood fcs b = true → fifoFit s (handoffFifo ch) (handoffEntries b.length) = 0 →
        ∃ t, exec (.rxFrameEnd ch x mm fec) s = .next t ∧ t.rx.out = modAt (handoffFifo ch) (· ++ [(m, b)]) s.rx.out ∧
          t.rx.locks = s.rx.locks.filter (fun e => e.ch != ch) ∧ t.cnt = s.cnt ∧ t.tbl = s.tbl ∧ t.regs = s.regs) ∧
      (fcsGood fcs b = true → fifoFit s (handoffFifo ch) (handoffEntries b.length) ≠ 0 →
        exec (.rxFrameEnd ch x mm fec) s = .next (rxCount ch 6 (fifoPut (handoffFifo ch) (handoffEntries b.length) id (freeLock ch s))))) ∧
    (∀ len spread w, arrived (profAt s.act l.profile) l d x = .eland len spread → w = ⟨metaOf s ch l d mm spread 4 0, l.at_, len⟩ →
      exec (.rxFrameEnd ch x mm fec) s = .next (elandEnd w { freeLock ch s with rx := { (freeLock ch s).rx with elWait := s.rx.elWait ++ [w] } }))) ∧
  (∀ (ch fec : Nat) (x : RxSig) (mm : RxMeas) (s : State), inFrame s ch = none → exec (.rxFrameEnd ch x mm fec) s = .next s) ∧
  (∀ (q : Prof) (l : Lock) (d : Sfd) (phr : BitVec 16) (b : List Octet), q.typ = 0 →
    (phr.getLsbD 0 = true → arrived q l d (.fsk phr b) = .ms phr) ∧
    (phr.getLsbD 0 = false → phrField phr 5 15 < (if phr.getLsbD 3 then 2 else 4) → arrived q l d (.fsk phr b) = .bad 1) ∧
    (phr.getLsbD 0 = false → (if phr.getLsbD 3 then 2 else 4) ≤ phrField phr 5 15 → (phr.getLsbD 1 || phr.getLsbD 2) = true →
      arrived q l d (.fsk phr b) = .bad 2) ∧
    (phr.getLsbD 0 = false → (if phr.getLsbD 3 then 2 else 4) ≤ phrField phr 5 15 → phr.getLsbD 1 = false → phr.getLsbD 2 = false →
      arrived q l d (.fsk phr b) = .psdu (d.fec % 4 + 4 * b2n (phr.getLsbD 4) + 8 * b2n l.ms) (if phr.getLsbD 3 then 2 else 4)
        (if phr.getLsbD 4 then whiten (fitOct (phrField phr 5 15) b) else fitOct (phrField phr 5 15) b))) ∧
  (∀ (q : Prof) (l : Lock) (d : Sfd) (phr : Octet) (b : List Octet), q.typ = 2 →
    (bitsOf phr.toNat 6 0 < 2 → arrived q l d (.oqpsk phr b) = .bad 1) ∧
    (2 ≤ bitsOf phr.toNat 6 0 → bitOf phr.toNat 7 = true → arrived q l d (.oqpsk phr b) = .bad 2) ∧
    (2 ≤ bitsOf phr.toNat 6 0 → bitOf phr.toNat 7 = false → arrived q l d (.oqpsk phr b) = .psdu 0 2 (fitOct (bitsOf phr.toNat 6 0) b))) ∧
  (∀ (q : Prof) (l : Lock) (d : Sfd) (phr : List Int), q.typ = 3 → arrived q l d (.eland phr) =
    match phrRead (phrOctets phr) with
    | .error k => .bad k
    | .ok p => .eland p.1 p.2) ∧
  (∀ (w : ElWait) (s : State),
    ((List.range (elandWords w.len)).all (fun i => ((cwsOf s w.md.chSlot w.frameAt).find? (fun c => c.index == i)).isSome) = false → elandEnd w s = s) ∧
    ((List.range (elandWords w.len)).all (fun i => ((cwsOf s w.md.chSlot w.frameAt).find? (fun c => c.index == i)).isSome) = true →
      (cwsOf s w.md.chSlot w.frameAt).all CwDone.good = false → elandEnd w s = fcsFail w.md.chSlot { s with rx := { s.rx with
        elWait := s.rx.elWait.erase w
        cws := s.rx.cws.filter (fun c => !(c.ch == w.md.chSlot && c.frameAt == w.frameAt)) } })) ∧
  (∀ (i : Nat) (m : RxMeta) (p : List Octet) (rest : List (RxMeta × List Octet)) (u s : State), s.up = true → s.pair.leads = true →
    s.rx.out.getD i [] = (m, p) :: rest → u = { s with rx := { s.rx with out := setAt s.rx.out i rest } } →
    (s.offline 6 = false → exec (.rxFrameAdmit i m.chSlot) s =
      .next (sweepTombs (rxFrame m p (fcStallCheck (journal (.frame m p) (dropFrame (earlyDrop s m p) i u)))))) ∧
    (s.offline 6 = true → exec (.rxFrameAdmit i m.chSlot) s = .next { u with rx := sumCount u m.chSlot 6 1 u.rx })) ∧
  (∀ (i ch : Nat) (s : State), (s.pair.leads = false ∨ ((s.rx.out.getD i []).head?.map (fun x => x.1.chSlot)) ≠ some ch) →
    exec (.rxFrameAdmit i ch) s = .next s) ∧
  (∀ (m : RxMeta) (p : List Octet) (f : Mhr) (s : State), f = rxMhr m p →
    ((f.version ≠ 2 ∨ 2 < f.typ) → rxFrame m p s = rxDisc 0 s) ∧
    (f.version = 2 → f.typ ≤ 2 → f.addrOk = false → rxFrame m p s = rxDisc 1 s) ∧
    (f.version = 2 → f.typ ≤ 2 → f.addrOk = true → f.pan ≠ s.regF 0x80808 15 0 → beaconPeer s f = none → rxFrame m p s = rxDisc 2 s) ∧
    (rxForm s f = none → (s.time.st = .acquire ∨ rxAsn s m = none) → beaconPeer s f = none → rxFrame m p s = rxDisc 8 s)) ∧
  (∀ (m : RxMeta) (p : List Octet) (f : Mhr) (a0 : Nat) (s : State), f = rxMhr m p → rxForm s f = none → s.time.st ≠ .acquire →
    rxAsn s m = some a0 →
    (f.typ ≠ 2 → findEui s f.src = none → peerOf s f.src = none → rxFrame m p s =
      learn f.src a0 m.ts [rxIndex s m, m.chSlot, m.profile, sx m.rssiQ, sx m.snrQ, f.typ, f.level] s) ∧
    (∀ nd, f.typ ≠ 2 → findEui s f.src = some nd → rxFrame m p s =
      rxTake (rxCheck s m f (some nd) f.src (if s.time.loaded then some a0 else none) a0)
        (fun v b u => nodeIn nd none m f (rxEndAt s m p.length) a0 v b u) s) ∧
    (∀ i, f.typ ≠ 2 → findEui s f.src = none → peerOf s f.src = some i → rxFrame m p s =
      rxTake (rxCheck s m f none f.src (if s.time.loaded then some a0 else none) a0) (fun _ b u => peerIn i m f a0 b u) s) ∧
    (∀ t nd, f.typ = 2 → ackedTxs s m f = [t] → entryAt s t.node = some nd → rxFrame m p s =
      rxTake (rxCheck s m f (some nd) nd.eui (some t.vasn) a0) (fun v b u => nodeIn nd (some t) m f (rxEndAt s m p.length) a0 v b u) s)) ∧
  (∀ (m : RxMeta) (f : Mhr) (n : Option Node) (e a0 : Nat) (first : Option Nat) (g : Nat → MacBody → State → State) (s : State),
    (∀ k, rxCounter s f n a0 = some k → rxTake (rxCheck s m f n e first a0) g s = rxDisc k s) ∧
    (rxCounter s f n a0 = none → openBeacon s f = false → rxSlotKey s f n = none → rxTake (rxCheck s m f n e first a0) g s = rxDisc 7 s) ∧
    (∀ k, rxCounter s f n a0 = none → openBeacon s f = false → rxSlotKey s f n = some k → rxTake (rxCheck s m f n e first a0) g s =
      match rxOpen s m f n (keyOct k) e first a0 with
      | none => rxDisc 8 (useKey k s)
      | some x => if (macBody f.ie x.2.1 x.2.2).ieOk then
          g x.1 (macBody f.ie x.2.1 x.2.2) (bumpN (0x80840 + 44) (macBody f.ie x.2.1 x.2.2).unknown (useKey k s))
        else rxDisc 9 (useKey k s))) ∧
  (∀ (f : Mhr) (nd : Node) (a0 : Nat) (s : State), openBeacon s f = false →
    (f.secured = false → rxCounter s f (some nd) a0 = some 3) ∧
    (f.secured = true → f.level < max 5 (s.regF 0x8080C 10 8) → rxCounter s f (some nd) a0 = some 4) ∧
    (f.secured = true → max 5 (s.regF 0x8080C 10 8) ≤ f.level →
      (overheardBy s f = true → rxCounter s f (some nd) a0 = none) ∧ (nd.fcl < f.fc → rxCounter s f (some nd) a0 = none) ∧
      (overheardBy s f = false → f.fc < nd.fcl → rxCounter s f (some nd) a0 = some 5) ∧
      (overheardBy s f = false → f.fc = nd.fcl → nd.synth = false → nd.asnl = a0 % 2 ^ 32 → rxCounter s f (some nd) a0 = some 6) ∧
      (overheardBy s f = false → f.fc = nd.fcl → (nd.synth = true ∨ nd.asnl ≠ a0 % 2 ^ 32) → rxCounter s f (some nd) a0 = some 5))) ∧
  (∀ (nd : Node) (m : RxMeta) (f : Mhr) (e a0 v : Nat) (b : MacBody) (s : State),
    (∀ x, overheardBy s f = true → nodeIn nd x m f e a0 v b s = rxDisc 10 (herdItem (.overheard nd.idx (4 * m.rssiQ) (4 * m.snrQ)) s)) ∧
    (overheardBy s f = false → f.typ = 1 → nodeIn nd none m f e a0 v b s = dataIn nd m f e a0 v b (heard m f a0 nd s)) ∧
    (∀ t, overheardBy s f = false → nodeIn nd (some t) m f e a0 v b s = ackIn t m b.tcorr (heard m f a0 nd s)) ∧
    (f.secured = true → (heard m f a0 nd s).tbl.nodes = s.tbl.nodes.map (fun n => if n.idx = nd.idx then hearNode s m f a0 n else n) ∧
      (hearNode s m f a0 nd).fcl = f.fc ∧ (hearNode s m f a0 nd).asnl = a0 % 2 ^ 32 ∧ (hearNode s m f a0 nd).lost = false)) ∧
  (∀ (pair : Nat) (c : List (Nat × Nat × Int)) (s : State), s.up = true → s.pair.leads = true → s.time.running = true → asnNow s ≠ 0 →
    (s.rx.sums.getD pair RxCounts.reset).lastAsn ≠ some (asnNow s - 1) → pair < 2 →
    (List.range 4).any (fun i => (winAt s.act (4 * pair + i)).en) = true →
    ∃ t, exec (.rxSummaryAdmit ⟨pair, c⟩) s = .next t ∧
      t.rx.sums = setAt s.rx.sums pair { RxCounts.reset with lastAsn := some (asnNow s - 1) } ∧
      t.jrn = (journal (.rxsum (sumOf s pair c)) (sumStart pair (asnNow s - 1) s)).jrn ∧ t.rx.locks = s.rx.locks ∧ t.tbl = s.tbl ∧ t.regs = s.regs ∧
      t.herd.items = s.herd.items ++ [.census (asnNow s - 1) (sumOf s pair c).entries] ∧
      (sumOf s pair c).counts = (s.rx.sums.getD pair RxCounts.reset).counts ∧ (sumOf s pair c).divs = (s.rx.sums.getD pair RxCounts.reset).divs) ∧
  (∀ (pair : Nat) (c : List (Nat × Nat × Int)) (s : State), (s.rx.sums.getD pair RxCounts.reset).lastAsn = some (asnNow s - 1) →
    exec (.rxSummaryAdmit ⟨pair, c⟩) s = .next s)

/-- A change of lock or auto-negotiation that leaves the port up or down as it was changes nothing else; one that changes it is journaled as an ingress item and raises ETH_LINK, with a full bucket when the port comes up and its FIFOs empty when it goes down. A received frame counts as received and in the counter of the first row of Table 15-2 that applies: FCS, length, address, VLAN, PAUSE, PTP of the selected transport with its token, MGMT, other EtherTypes; a DATA frame that passes is stored in the ingress FIFO, which loses it as NOROOM or OVERSIZE where it does not fit. At the head of the FIFO a frame that the bucket holds is admitted: its cost is taken, it is journaled, counted, and routed (DATA, the packet alone) or delivered (MGMT, without its FCS); in DROP mode one that it does not hold is dropped and counted, in HOLD mode it waits. A waiting PAUSE frame is sent first, then the head of the egress FIFO, unless a received pause holds it; a port that is down drains its queues. A frame sent is the packet with the addresses of R437, its EtherType and FCS. A received pause stops for n quanta, is ignored while RXPAUSE is 0, and ends. A PAUSE frame is sent again half its quanta after the last while the ingress FIFO stays above. -/
def Obligations.EthernetPorts : Prop :=
  (∀ (p : Nat) (lock : Bool) (an : Option Bool) (t s : State), s.up = true → p < 2 →
    t = modEth p (fun x => { x with
      lock := lock
      anDone := an.isSome
      lpPause := an.getD false }) s →
    (ethUp t p = (ethPort t p).up → exec (.ethLinkChange p lock an) s = .next t) ∧
    (ethUp t p ≠ (ethPort t p).up → exec (.ethLinkChange p lock an) s = .next
      (event 0x0C01 [p, b2n (ethUp t p), ethMode t p] (journal (.ethin p 2 (b2n (ethUp t p)) (ethMode t p) [])
        (modEth p (fun x => { x with up := ethUp t p }) (if ethUp t p then ethRise p t else ethDown p t)))))) ∧
  (∀ (p : Nat) (s : State), p < s.eth.length → (ethPort (ethDown p s) p).fifo = [] ∧ (ethPort (ethDown p s) p).out = [] ∧
    (ethPort (ethDown p s) p).paused = none ∧ (ethPort (ethRise p s) p).tokens = ethBurst s p) ∧
  (∀ (p : Nat) (f : List Octet) (t s : State), s.up = true → (ethPort s p).up = true → t = bump (ethCnt p 0) s →
    (fcsGood 4 f = false → exec (.ethFrameRx p f) s = .next (bump (ethCnt p 1) t)) ∧
    (fcsGood 4 f = true → (f.length < 64 ∨ min 1522 (max 64 (s.regF (ethBase p + 0x24) 10 0)) < f.length) →
      exec (.ethFrameRx p f) s = .next (bump (ethCnt p 2) t)) ∧
    (fcsGood 4 f = true → ethBadLen s p f = true → exec (.ethFrameRx p f) s = .next (bump (ethCnt p 2) t)) ∧
    (fcsGood 4 f = true → ethBadLen s p f = false → ethDaOk s p f = false → exec (.ethFrameRx p f) s = .next (bump (ethCnt p 3) t)) ∧
    (fcsGood 4 f = true → ethBadLen s p f = false → ethDaOk s p f = true → ethBadVlan s p f = true →
      exec (.ethFrameRx p f) s = .next (bump (ethCnt p 4) t)) ∧
    (fcsGood 4 f = true → ethBadLen s p f = false → ethDaOk s p f = true → ethBadVlan s p f = false →
      (∀ n, ethType f = 0x8808 → beOf ((ethBody f).take 2) = 1 → n = beOf (slice (ethBody f) 2 2) →
        (s.regB (ethBase p) 8 = false → exec (.ethFrameRx p f) s = .next (bump (ethCnt p 11) t)) ∧
        (s.regB (ethBase p) 8 = true → exec (.ethFrameRx p f) s = .next (modEth p (fun x => { x with
          paused := if n = 0 then none else some (s.time.tb + quantaNs s p n) }) (bump (ethCnt p 11) t)))) ∧
      (ethType f = 0x8808 → beOf ((ethBody f).take 2) ≠ 1 → exec (.ethFrameRx p f) s = .next (bump (ethCnt p 11) t)) ∧
      (ethType f ≠ 0x8808 → ptpTransport f = some (ptpChosen s p) → exec (.ethFrameRx p f) s = .next (ethPtp p t)) ∧
      (ethType f ≠ 0x8808 → ptpTransport f ≠ some (ptpChosen s p) →
        (ethType f = 0x86DD → mgmtDst (ipDst (ethBody f)) = false → exec (.ethFrameRx p f) s = .next (ethStore p false f t)) ∧
        (ethType f = 0x86DD → mgmtDst (ipDst (ethBody f)) = true →
          exec (.ethFrameRx p f) s = .next (if s.regB (ethBase p + 0x20) 31 then ethStore p true f t else bump (ethCnt p 8) t)) ∧
        ((ethType f = 0x0800 ∨ ethType f = 0x0806) →
          exec (.ethFrameRx p f) s = .next (if s.regB (ethBase p + 0x20) 30 then ethStore p true f t else bump (ethCnt p 8) t)) ∧
        (ethType f ≠ 0x86DD → ethType f ≠ 0x0800 → ethType f ≠ 0x0806 → exec (.ethFrameRx p f) s = .next (bump (ethCnt p 5) t))))) ∧
  (∀ (p : Nat) (m : Bool) (f : List Octet) (s : State), p < 2 →
    (fifoLevel s (31 + p) + ceilDiv f.length 16 < 2048 →
      ethStore p m f s = modEth p (fun e => { e with fifo := e.fifo ++ [⟨m, f⟩] }) s) ∧
    (2048 ≤ fifoLevel s (31 + p) + ceilDiv f.length 16 → fifoLevel s (31 + p) ≠ 0 → ethStore p m f s = bump (fcnt (31 + p) 2) s)) ∧
  (∀ (p : Nat) (f : List Octet) (s : State), ((s.up = false ∨ (ethPort s p).up = false) → exec (.ethFrameRx p f) s = .next s)) ∧
  (∀ (p : Nat) (x : EthIn) (l : List EthIn) (s : State), s.up = true → (ethPort s p).up = true → s.pair.leads = true →
    (ethPort s p).fifo = x :: l →
    (8000 * x.cost ≤ ethTokens s p → exec (.ethAdmit p) s = .next (ethTaken p x (modEth p (fun e => { e with
      fifo := e.fifo.drop 1
      tokens := ethTokens s p - 8000 * x.cost
      filledAt := s.time.tb }) (dropFrame false (31 + p) s)))) ∧
    (ethTokens s p < 8000 * x.cost → s.regB (ethBase p + 0x1C) 31 = false →
      exec (.ethAdmit p) s = .next (bump (ethCnt p 6) (modEth p (fun e => { e with
        fifo := e.fifo.drop 1
        tokens := ethTokens s p - 0
        filledAt := s.time.tb }) (dropFrame true (31 + p) s)))) ∧
    (ethTokens s p < 8000 * x.cost → s.regB (ethBase p + 0x1C) 31 = true → exec (.ethAdmit p) s = .next s)) ∧
  (∀ (p : Nat) (f : List Octet) (s : State),
    ethTaken p ⟨false, f⟩ s = route ⟨p + 1, 0, 0, asnNow (journal (.ethin p 0 1 (ethMode s p) f) s), s.time.tb⟩ ((ethBody f).take (40 + ipPayLen (ethBody f)))
      (bump (ethCnt p 7) (journal (.ethin p 0 1 (ethMode s p) f) s)) ∧
    (∃ r, ethTaken p ⟨true, f⟩ s = offerRec (s.regF (ethBase p + 0x20) 2 0) r (bump (ethCnt p 8) (journal (.ethin p 1 1 (ethMode s p) f) s)) ∧
      r.tail = f.take (f.length - 4) ∧ r.asn = asnNow s)) ∧
  (∀ (p n : Nat) (l : List Nat) (s : State), s.up = true → p < 2 →
    ((ethPort s p).up = false → exec (.ethFrameTx p) s = .next (drainEth p s)) ∧
    ((ethPort s p).up = true → s.que.pauseTx.getD p [] = n :: l → exec (.ethFrameTx p) s = .next (sendPause p n s)) ∧
    ((ethPort s p).up = true → s.que.pauseTx.getD p [] = [] → (ethPort s p).paused ≠ none →
      exec (.ethFrameTx p) s = .next (fillEth p s)) ∧
    ((ethPort s p).up = true → s.que.pauseTx.getD p [] = [] → (ethPort s p).paused = none →
      exec (.ethFrameTx p) s = .next (sendEgress p (fillEth p s)))) ∧
  (∀ (p : Nat) (k : List Octet) (l : List (List Octet)) (s : State), p < s.eth.length → (ethPort s p).out = k :: l →
    (ethPort (sendEgress p s) p).out = l ∧ (sendEgress p s).cnt = (bump (ethCnt p 12) s).cnt ∧ (sendEgress p s).regs = s.regs ∧
    (ethPort (sendEgress p s) p).sent = some (ethWire s p (if isMulticast (ipDst k) then 0x3333 * 2 ^ 32 + ipDst k % 2 ^ 32
      else s.regN (ethBase p + 0x10) + 2 ^ 32 * s.regF (ethBase p + 0x14) 15 0) (ethTag s p) 0x86DD k)) ∧
  (∀ (p da ty : Nat) (tag : Option Nat) (b : List Octet) (s : State),
    ∃ z, ethWire s p da tag ty b = withFcs 4 (octetsBE 6 da ++ octetsBE 6 (ethMac s p) ++ ((tag.map (fun t => octetsBE 2 0x8100 ++ octetsBE 2 t)).getD []) ++
      octetsBE 2 ty ++ b ++ zeros z)) ∧
  (∀ (p t : Nat) (s : State), (ethPort s p).paused = some t →
    exec (.ethPauseExpire p) s = .next (modEth p (fun e => { e with paused := none }) (reach t s))) ∧
  (∀ (p : Nat) (s : State), (ethPort s p).paused = none → exec (.ethPauseExpire p) s = .next s) ∧
  (∀ (p t q : Nat) (s : State), s.que.pauseAt.getD p none = some t → s.que.above.contains (31 + p) = true →
    s.regB (0xD0A80 + 4 * p) 31 = true → s.que.pauseTx.getD p [] = [] → q = max 1 (s.regF (0xD0A80 + 4 * p) 15 0) →
    ∃ u, exec (.pauseRepeat p) s = .next u ∧ u.que.pauseTx = modAt p (· ++ [q]) s.que.pauseTx ∧
      u.que.pauseAt = setAt s.que.pauseAt p none ∧ u.time.tb = max s.time.tb (t + quantaNs s p (q / 2)) ∧ u.que.free = s.que.free ∧
      u.que.egress = s.que.egress ∧ u.regs = s.regs ∧ u.cnt = s.cnt ∧ u.eth = s.eth)

/-- A source that is not ABOVE rises when its level reaches HIGH: ABOVE and WM_HIGH_SEEN are set, XCNT counts, and QUE_WM is raised when WM_HIGH_SEEN was 0 and EVT is 1. One that is ABOVE falls when its level is at LOW or below: ABOVE is cleared and WM_LOW_SEEN set. Between the two nothing changes. A flow-control pin that no selected source holds goes inactive once MINHOLD has elapsed. A frame that fits a FIFO is written; one that would fill it alone is OVERSIZE; one that meets a writer that never stalls is NOROOM; one that meets a stalling writer waits. A queue reset counts the frames lost, does to their owners what Table 12-3 says, and enters an error record naming the FIFO and the count (the SUB of a receive FIFO is a free value). -/
def Obligations.WatermarksAndQueues : Prop :=
  (∀ (w : Nat) (s : State), wmExists w = true → s.que.above.contains w = false → wmHigh s w ≤ wmLevel s w →
    exec (.watermarkCrossing w) s = .next (wmRise w s)) ∧
  (∀ (w : Nat) (s : State), wmExists w = true → s.que.above.contains w = true → wmLevel s w ≤ wmLow s w →
    exec (.watermarkCrossing w) s = .next (wmFall w s)) ∧
  (∀ (w : Nat) (s : State), (wmExists w = false ∨ (s.que.above.contains w = false ∧ wmLevel s w < wmHigh s w) ∨
    (s.que.above.contains w = true ∧ wmLow s w < wmLevel s w)) → exec (.watermarkCrossing w) s = .next s) ∧
  (∀ (w : Nat) (s : State), s.wordsOk = true → wmExists w = true →
    (wmRise w s).regB (0xD0104 + 16 * w) 0 = true ∧
    cellsGet (0xD010C + 16 * w) 0 (wmRise w s).cnt = cellsGet (0xD010C + 16 * w) 0 (cntBump (0xD010C + 16 * w) 0 16 1 s.cnt) ∧
    ((s.regB (0xD0104 + 16 * w) 0 = true ∨ s.regB (0xD0104 + 16 * w) 8 = false) →
      (wmRise w s).cnt = cntBump (0xD010C + 16 * w) 0 16 1 s.cnt ∧ (wmRise w s).que.above = s.que.above ++ [w] ∧
      (wmRise w s).que.egress = s.que.egress) ∧
    (s.regB (0xD0104 + 16 * w) 0 = false → s.regB (0xD0104 + 16 * w) 8 = true →
      ∃ t, wmRise w s = event 0x0A01 [w, wmLevel s w, (cellsGet (0xD010C + 16 * w) 0 (cntBump (0xD010C + 16 * w) 0 16 1 s.cnt)).toNat] t ∧
        t.que.above = s.que.above ++ [w] ∧ t.que.egress = s.que.egress ∧ t.cnt = cntBump (0xD010C + 16 * w) 0 16 1 s.cnt) ∧
    (wmFall w s).que.above = s.que.above.filter (· != w) ∧ (wmFall w s).regB (0xD0104 + 16 * w) 1 = true ∧ (wmFall w s).cnt = s.cnt) ∧
  (∀ (pin : Nat) (x : QPin) (s : State), s.que.qflow[pin]? = some x → x.active = true → qflowWants s s.que.above pin = false →
    ∃ t, exec (.qflowHoldExpire pin) s = .next t ∧ t.time.tb = max s.time.tb (x.since + 1000 * max 1 (s.regF 0xD0060 15 8)) ∧
      t.que = { s.que with qflow := setAt s.que.qflow pin ⟨false, t.time.tb⟩ } ∧ t.regs = s.regs ∧ t.cnt = s.cnt ∧ t.tbl = s.tbl ∧ t.tx = s.tx) ∧
  (∀ (pin : Nat) (x : QPin) (s : State), s.que.qflow[pin]? = some x → (x.active = false ∨ qflowWants s s.que.above pin = true) →
    exec (.qflowHoldExpire pin) s = .next s) ∧
  (∀ (f n : Nat) (put : State → State) (s : State),
    (fifoLevel s f + n < fifoDepth f → fifoPut f n put s = put s) ∧
    (fifoDepth f ≤ fifoLevel s f + n → fifoLevel s f = 0 → fifoPut f n put s = bump (fcnt f 1) s) ∧
    (fifoDepth f ≤ fifoLevel s f + n → fifoLevel s f ≠ 0 → fifoNeverStalls f = true → fifoPut f n put s = bump (fcnt f 2) s) ∧
    (fifoDepth f ≤ fifoLevel s f + n → fifoLevel s f ≠ 0 → fifoNeverStalls f = false → fifoPut f n put s = s)) ∧
  (∀ (f : Nat) (s : State), s.up = true → f < 39 →
    ∃ t, exec (.fifoQueueReset f) s = .next (raiseErr 0x0301 (fifoOwner f).1 (fifoOwner f).2 (fifoSub f (freshAt s)) f f (fifoFrames s f).length t) ∧
      t = useFresh 1 (fifoLoss f (bumpN (fcnt f 0) (fifoFrames s f).length s)) ∧ t.err = s.err ∧ t.tbl = s.tbl ∧ t.sch = s.sch ∧
      t.regs = s.regs ∧ t.time = s.time ∧
      (f < 16 → t.rx.out = setAt s.rx.out f []) ∧
      (31 ≤ f → f < 33 → t.eth = modAt (f - 31) (fun x => { x with fifo := [] }) s.eth))

/-- An error detected in a subunit of an offline subsystem enters no record (the error FIFO, its sequence number and everything else of the error unit stay), whether the source is one of Table 17-4, a FIFO, a watchdog or the scrub; ERR_OFFLINECNT counts it. -/
def Obligations.OfflineErrorsAreCounted : Prop :=
  (∀ (code cls unit sub w d l : Nat) (s : State), s.offline unit = true →
    raiseErr code cls unit sub w d l s = { s with cnt := cntBump 0x120018 0 32 1 s.cnt }) ∧
  (∀ (e : ErrSrc) (c u b : Nat) (s : State), s.up = true → errClass e = some (c, u, b) → s.offline u = true →
    e.code ≠ 0x010B → e.code ≠ 0x0301 → e.code ≠ 0x0302 → e.code ≠ 0x0602 →
    exec (.errorDetect e) s = .next { s with cnt := cntBump 0x120018 0 32 1 s.cnt }) ∧
  (∀ (e : ErrSrc) (s : State), s.up = true → e.code = 0x0602 → s.offline 9 = true →
    exec (.errorDetect e) s = .next { s with
      cnt := cntBump 0x120018 0 32 1 s.cnt
      sec := { s.sec with trngFail := true } }) ∧
  (∀ (f : Nat) (s : State), s.up = true → f < 39 → s.offline (fifoOwner f).2 = true →
    ∃ t, exec (.fifoQueueReset f) s = .next t ∧ t.err = s.err ∧
      cellsGet 0x120018 0 t.cnt = cellsGet 0x120018 0 (cntBump 0x120018 0 32 1 s.cnt)) ∧
  (∀ (e : ErrSrc) (s : State), s.up = true → (e.code = 0x010B ∨ e.code = 0x0301 ∨ e.code = 0x0302) → e.detail < 39 →
    s.offline (fifoOwner e.detail).2 = true →
    ∃ t, exec (.errorDetect e) s = .next t ∧ t.err = s.err ∧
      cellsGet 0x120018 0 t.cnt = cellsGet 0x120018 0 (cntBump 0x120018 0 32 1 s.cnt)) ∧
  (∀ (p : Nat) (s : State), s.up = true → p < 4 → s.offline (procUnit p).1 = true →
    exec (.watchdogExpire p) s = .next { s with cnt := cntBump 0x120018 0 32 1 s.cnt }) ∧
  (∀ s : State, s.up = true → s.regB 0x120004 1 = true → s.offline (scrubOwner s.err.scrubArr s.err.scrubWord).1 = true →
    ∃ t, exec (.scrubVisit true) s = .next t ∧ t.err.fifo = s.err.fifo ∧ t.err.eseq = s.err.eseq ∧
      t.cnt = cntBump 0x120018 0 32 1 s.cnt)

/-- A source of Table 17-4 enters one record with its class, UNIT and SUB, stamped at detection with the next sequence number, at the end of the error FIFO; while a record of its unit is under recovery it is raised by one class. A CONTAINED record that finds 60 entries is lost and its subunit awaits a reset. A CORRECTED one is only counted, and posted while CEREC is 1. The scrub visits the next word of its arrays in order. The record at the head is handled once, one at a time: a CONTAINED one is under recovery with its loss counted, a UNIT_FATAL one takes its subsystem offline, a DEVICE_FATAL one halts the device, which is then not up. When its recovery is done it is posted and freed. -/
def Obligations.ErrorRecords : Prop :=
  (∀ (code cls unit sub w d l : Nat) (s : State), s.offline unit = false → s.err.busy = false → 1 ≤ cls → s.err.fifo.length < 60 →
    (raiseErr code cls unit sub w d l s).err.fifo =
      s.err.fifo ++ [⟨code, cls, false, false, unit, sub, l, asnNow s, s.time.tb, w, d, s.err.eseq⟩] ∧
    (raiseErr code cls unit sub w d l s).err.eseq = (s.err.eseq + 1) % 65536 ∧
    (raiseErr code cls unit sub w d l s).regs = s.regs ∧ (raiseErr code cls unit sub w d l s).que = s.que ∧
    (raiseErr code cls unit sub w d l s).hif = s.hif ∧ (raiseErr code cls unit sub w d l s).tx = s.tx) ∧
  (∀ (code unit sub w d l : Nat) (r : ErrRec) (rest : List ErrRec) (s : State), s.offline unit = false → s.err.busy = true →
    s.err.fifo = r :: rest → r.unit = unit → s.err.fifo.length < 60 →
    (raiseErr code 1 unit sub w d l s).err.fifo =
      s.err.fifo ++ [⟨code, 2, true, false, unit, sub, l, asnNow s, s.time.tb, w, d, s.err.eseq⟩]) ∧
  (∀ (code unit sub w d l : Nat) (s : State), s.offline unit = false → s.err.busy = false → 60 ≤ s.err.fifo.length →
    (raiseErr code 1 unit sub w d l s).err.fifo = s.err.fifo ∧
    (raiseErr code 1 unit sub w d l s).err.pendRst = s.err.pendRst ++ [(unit, sub)]) ∧
  (∀ (code unit sub w d l : Nat) (s : State), s.offline unit = false → s.err.busy = false →
    (raiseErr code 0 unit sub w d l s).err.fifo = s.err.fifo) ∧
  (∀ (e : ErrSrc) (c u b : Nat) (s : State), s.up = true → errClass e = some (c, u, b) → e.code ≠ 0x010B → e.code ≠ 0x0301 →
    e.code ≠ 0x0302 → e.code ≠ 0x0602 → exec (.errorDetect e) s = .next (raiseErr e.code c u b e.where_ e.detail 0 s)) ∧
  (∀ (e : ErrSrc) (c u b : Nat) (s : State), s.up = true → errClass e = some (c, u, b) → e.code = 0x0602 →
    exec (.errorDetect e) s = .next (raiseErr 0x0602 c u b e.where_ e.detail 0 { s with sec := { s.sec with trngFail := true } })) ∧
  (∀ (e : ErrSrc) (s : State), s.up = true → e.detail < 39 →
    ((e.code = 0x010B ∨ e.code = 0x0301) → exec (.errorDetect e) s = .next (queueReset e.detail e.code s)) ∧
    (e.code = 0x0302 → exec (.errorDetect e) s =
      .next (queueReset e.detail e.code (s.setReg (0xD0600 + 4 * e.detail) (s.reg (0xD0600 + 4 * e.detail) ||| 1))))) ∧
  (∀ (p : Nat) (s : State), s.up = true → p < 4 →
    exec (.watchdogExpire p) s = .next (raiseErr 0x0202 1 (procUnit p).1 (procUnit p).2 0 0 0 s)) ∧
  (∀ (e : ErrSrc) (p : Nat) (c : Bool) (s : State), s.up = false →
    exec (.errorDetect e) s = .next s ∧ exec (.watchdogExpire p) s = .next s ∧ exec (.scrubVisit c) s = .next s) ∧
  (∀ s : State, s.up = true → s.regB 0x120004 1 = true → ∃ t, exec (.scrubVisit true) s =
    .next (raiseErr 0x0101 0 (scrubOwner s.err.scrubArr s.err.scrubWord).1 (scrubOwner s.err.scrubArr s.err.scrubWord).2 s.err.scrubWord (freshAt s % 256) 0 t) ∧
    exec (.scrubVisit false) { s with fresh := t.fresh } = .next t) ∧
  (∀ s : State, s.up = true → s.regB 0x120004 1 = true →
    ∃ t, exec (.scrubVisit false) s = .next t ∧ t.cnt = s.cnt ∧ t.regs = s.regs ∧ t.err.fifo = s.err.fifo ∧
      (s.err.scrubWord + 1 < (scrubArrays.getD s.err.scrubArr (1, 10, 0)).1 →
        t.err.scrubArr = s.err.scrubArr ∧ t.err.scrubWord = s.err.scrubWord + 1) ∧
      ((scrubArrays.getD s.err.scrubArr (1, 10, 0)).1 ≤ s.err.scrubWord + 1 →
        t.err.scrubArr = (s.err.scrubArr + 1) % 15 ∧ t.err.scrubWord = 0)) ∧
  (∀ (r : ErrRec) (rest : List ErrRec) (s : State), s.up = true → s.err.busy = false → s.err.fifo = r :: rest → handledAs s r ≠ 3 →
    (r.cls = 1 → exec .errorRecordHandle s =
      .next (underRecovery (contain r (pwrWithdraw r.unit s)).1 (contain r (pwrWithdraw r.unit s)).2)) ∧
    (r.cls = 2 → exec .errorRecordHandle s =
      .next (underRecovery (unitFatal r (pwrWithdraw r.unit s)).1 (unitFatal r (pwrWithdraw r.unit s)).2))) ∧
  (∀ (n : Nat) (s : State), (underRecovery n s).err.busy = true) ∧
  (∀ (r : ErrRec) (rest : List ErrRec) (s : State), s.up = true → s.err.busy = false → s.err.fifo = r :: rest → handledAs s r = 3 →
    ∃ t, exec .errorRecordHandle s = .next t ∧ t.err.devFatal = true ∧ t.up = false ∧ t.pair.activeOut = false) ∧
  (∀ (r : ErrRec) (s : State), (r.cls = 3 ∨ (r.cls = 2 ∧ r.unit = 4) ∨ (r.cls = 2 ∧ r.unit = 10) ∨ (r.cls = 2 ∧ r.unit = 14) ∨
      (r.cls = 2 ∧ r.unit = 13 ∧ r.sub = 1)) → handledAs s r = 3) ∧
  (∀ (r q : ErrRec) (rest : List ErrRec) (s : State), s.up = true → s.err.busy = true → s.err.fifo = r :: q :: rest →
    ∃ t, exec .errorRecoveryDone s = .next t ∧ t.err.fifo = q :: rest ∧ t.err.busy = false ∧
      t = postErr r { s with err := { s.err with fifo := q :: rest, busy := false } }) ∧
  (∀ (r : ErrRec) (s : State), s.up = true → s.err.busy = true → s.err.fifo = [r] → s.err.pendRst = [] →
    exec .errorRecoveryDone s = .next (postErr r { s with err := { s.err with fifo := [], busy := false, pendRst := [] } })) ∧
  (∀ (r : ErrRec) (a : Nat × Nat) (l : List (Nat × Nat)) (s : State), s.up = true → s.err.busy = true → s.err.fifo = [r] →
    s.err.pendRst = a :: l → ∃ u, u = postErr r { s with err := { s.err with fifo := [], busy := false } } ∧
    exec .errorRecoveryDone s = .next (l.foldl (fun u p => (resetSub p.1 p.2 u).2) (resetSub a.1 a.2
      { u with err := { u.err with pendRst := [] } }).2)) ∧
  (∀ s : State, s.err.fifo = [] → exec .errorRecordHandle s = .next s ∧ exec .errorRecoveryDone s = .next s)
end

