-- ==== Sys2Proof/Laws/Crypto.lean ====
section
/-! SUPPORT. How long what the ciphers answer is: round keys and blocks of 16 octets, and keys as long as they were asked for. -/
namespace Sys2Proof.Machine

@[simp] theorem length_xorOct (a b : List Octet) : (xorOct a b).length = min a.length b.length := by simp [xorOct]
@[simp] theorem length_zeros (n : Nat) : (zeros n).length = n := by simp [zeros]
@[simp] theorem length_octetsLE (n v : Nat) : (octetsLE n v).length = n := by
  induction n generalizing v with
  | zero => rfl
  | succ n ih => simp [octetsLE, ih]
@[simp] theorem length_octetsBE (n v : Nat) : (octetsBE n v).length = n := by simp [octetsBE]
@[simp] theorem length_shiftRows (s : List Octet) : (shiftRows s).length = 16 := by simp [shiftRows]
@[simp] theorem length_mixColumns (s : List Octet) : (mixColumns s).length = 16 := by simp [mixColumns]

/-- Octets read back as the value they were made of, as far as they hold it. -/
theorem leOf_octetsLE (n v : Nat) : leOf (octetsLE n v) = v % 256 ^ n := by
  induction n generalizing v with
  | zero => simp [octetsLE, leOf, Nat.mod_one]
  | succ n ih =>
    simp only [octetsLE, leOf, ih, BitVec.toNat_ofNat]
    show v % 256 + 256 * (v / 256 % 256 ^ n) = v % 256 ^ (n + 1)
    rw [Nat.pow_succ', Nat.mod_mul]

theorem beOf_reverse (l : List Octet) : beOf l.reverse = leOf l := by
  induction l with
  | nil => rfl
  | cons b t ih =>
    simp only [beOf, List.reverse_cons, List.foldl_append, List.foldl_cons, List.foldl_nil, leOf] at ih ⊢
    rw [ih]
    omega

theorem beOf_octetsBE (n v : Nat) : beOf (octetsBE n v) = v % 256 ^ n := by
  rw [octetsBE, beOf_reverse, leOf_octetsLE]

/-- Rounds over round keys of 16 octets answer a block. -/
theorem length_aesRounds (rk : List (List Octet)) (s : List Octet) (hk : ∀ k ∈ rk, k.length = 16) (hs : s.length = 16) :
    (aesRounds rk s).length = 16 := by
  induction rk generalizing s with
  | nil => simpa [aesRounds]
  | cons k t ih =>
    have h := hk k (by simp)
    cases t with
    | nil => simp [aesRounds, h]
    | cons k2 t => exact ih _ (fun x hx => hk x (by simp [hx])) (by simp [h])

theorem length_aesWith (rk : List (List Octet)) (b : List Octet) (hk : ∀ k ∈ rk, k.length = 16) (hb : b.length = 16)
    (h : rk ≠ []) : (aesWith rk b).length = 16 := by
  apply length_aesRounds
  · exact fun k hx => hk k (List.mem_of_mem_drop hx)
  · cases rk with
    | nil => exact absurd rfl h
    | cons k t => simp [hb, hk k (by simp)]

/-- A list whose words are all four octets long. -/
theorem length_nextWord (nk i : Nat) (ws : List (List Octet)) (h : ∀ w ∈ ws, w.length = 4) (hn : 0 < nk) (hl : nk ≤ ws.length) :
    (nextWord nk i ws).length = 4 := by
  have h0 : (ws.headD []).length = 4 := by
    cases ws with
    | nil => simp at hl; omega
    | cons w t => exact h w (by simp)
  have h1 : (ws.getD (nk - 1) []).length = 4 := by
    have : nk - 1 < ws.length := by omega
    simp [this, h _ (List.getElem_mem this)]
  unfold nextWord
  simp only [length_xorOct, h1]
  split
  · simp only [length_xorOct, List.length_map, List.length_append, List.length_drop, List.length_take, h0, List.length_cons,
      List.length_nil]
    decide
  · split <;> simp only [List.length_map, h0, Nat.min_self]

theorem expandAux_words (nk k i : Nat) (ws : List (List Octet)) (h : ∀ w ∈ ws, w.length = 4) (hn : 0 < nk) (hl : nk ≤ ws.length) :
    (∀ w ∈ expandAux nk k i ws, w.length = 4) ∧ (expandAux nk k i ws).length = k + ws.length := by
  induction k generalizing i ws with
  | zero => exact ⟨h, by simp [expandAux]⟩
  | succ k ih =>
    obtain ⟨h1, h2⟩ := ih (i + 1) (nextWord nk i ws :: ws)
      (fun w hw => by
        rcases List.mem_cons.mp hw with rfl | hw
        · exact length_nextWord nk i ws h hn hl
        · exact h w hw)
      (by simp; omega)
    exact ⟨h1, by rw [expandAux, h2]; simp; omega⟩

theorem wordsOf_words (n : Nat) (bs : List Octet) (h : bs.length = 4 * n) :
    (∀ w ∈ wordsOf n bs, w.length = 4) ∧ (wordsOf n bs).length = n := by
  induction n generalizing bs with
  | zero => simp [wordsOf]
  | succ n ih =>
    obtain ⟨h1, h2⟩ := ih (bs.drop 4) (by simp; omega)
    refine ⟨fun w hw => ?_, by simp [wordsOf, h2]⟩
    rcases List.mem_cons.mp hw with rfl | hw
    · simp; omega
    · exact h1 w hw

theorem length_flatten_words (l : List (List Octet)) (h : ∀ w ∈ l, w.length = 4) : l.flatten.length = 4 * l.length := by
  induction l with
  | nil => rfl
  | cons w t ih => simp [h w (by simp), ih (fun x hx => h x (by simp [hx]))]; omega

/-- The round keys of a key of 16 or 32 octets are 16 octets each. -/
theorem roundKeys_words (key : List Octet) (h : key.length = 16 ∨ key.length = 32) :
    (∀ k ∈ roundKeys key, k.length = 16) ∧ roundKeys key ≠ [] := by
  have hk : key.length = 4 * (key.length / 4) := by rcases h with h | h <;> simp [h]
  have hn : 0 < key.length / 4 := by rcases h with h | h <;> simp [h]
  generalize hw : expandAux (key.length / 4) (4 * (key.length / 4 + 7) - key.length / 4) (key.length / 4)
    (wordsOf (key.length / 4) key).reverse = w
  obtain ⟨a1, a2⟩ := wordsOf_words _ key hk
  obtain ⟨b1, b2⟩ := expandAux_words (key.length / 4) (4 * (key.length / 4 + 7) - key.length / 4) (key.length / 4)
    (wordsOf (key.length / 4) key).reverse (by simpa using a1) hn (by simp [a2])
  rw [hw] at b1 b2
  refine ⟨fun k hx => ?_, by simp [roundKeys]⟩
  simp only [roundKeys, hw, List.mem_map, List.mem_range] at hx
  obtain ⟨r, hr, rfl⟩ := hx
  rw [length_flatten_words _ (fun x hx => b1 x (by simpa using List.mem_of_mem_drop (List.mem_of_mem_take hx)))]
  simp [b2, a2]
  omega

theorem length_aes (key b : List Octet) (h : key.length = 16 ∨ key.length = 32) (hb : b.length = 16) :
    (aesWith (roundKeys key) b).length = 16 :=
  length_aesWith _ _ (roundKeys_words key h).1 hb (roundKeys_words key h).2

theorem length_cbcMac (rk : List (List Octet)) (n : Nat) (x bs : List Octet) (hk : ∀ k ∈ rk, k.length = 16) (h : rk ≠ [])
    (hx : x.length = 16) (hb : 16 * n ≤ bs.length) : (cbcMac rk n x bs).length = 16 := by
  induction n generalizing x bs with
  | zero => simpa [cbcMac]
  | succ n ih =>
    refine ih _ _ (length_aesWith _ _ hk ?_ h) (by simp; omega)
    simp [hx]; omega

theorem length_cmac (key msg : List Octet) (h : key.length = 16 ∨ key.length = 32) : (cmac key msg).length = 16 := by
  obtain ⟨h1, h2⟩ := roundKeys_words key h
  have hc : max 1 (ceilDiv msg.length 16) - 1 ≤ msg.length / 16 := by simp only [ceilDiv]; omega
  unfold cmac
  refine length_aesWith _ _ h1 ?_ h2
  have hx := length_cbcMac (roundKeys key) (max 1 (ceilDiv msg.length 16) - 1) (zeros 16) msg h1 h2 (by simp) (by omega)
  have hl : (msg.drop (16 * (max 1 (ceilDiv msg.length 16) - 1))).length ≤ 16 := by simp [ceilDiv]; omega
  simp only [length_xorOct, hx]
  split
  · rename_i h16
    simp [h16, dbl]
  · simp [dbl] at hl ⊢
    omega

/-- A derived key is as long as it was asked for. -/
theorem length_kdf (key label context : List Octet) (lb : Nat) (h : key.length = 16 ∨ key.length = 32) :
    (kdf key label context lb).length = lb / 8 := by
  have hb : ∀ n i fixed, (kdfBlocks key fixed n i).length = 16 * n := by
    intro n
    induction n with
    | zero => intros; rfl
    | succ n ih => intro i fixed; simp [kdfBlocks, ih, length_cmac _ _ h]; omega
  simp [kdf, hb, ceilDiv]
  omega

/-- The authentication tag of GCM is a block. -/
theorem length_gcmTag (key iv a c : List Octet) (h : key.length = 16 ∨ key.length = 32) (hi : iv.length = 12) :
    (gcmTag (roundKeys key) iv a c).length = 16 := by
  have := length_aes key (iv ++ octetsBE 4 1) h (by simp [hi])
  simp [gcmTag, this]

@[simp] theorem length_keyDwk (x : SecSt) : (keyDwk x).length = 32 := by
  rw [keyDwk, length_kdf _ _ _ _ (.inr (by simp [rootOct]))]

end Sys2Proof.Machine
end

