-- ==== Sys2Proof/Laws/Ops.lean ====
section
/-! SUPPORT. What the shared operations of Machine/Ops.lean leave unchanged: one lemma for each operation and field. -/
namespace Sys2Proof.Machine

/-! ### setReg -/
@[simp] theorem setReg_pending (a : Nat) (v : Word) (s : State) : (State.setReg a v s).pending = s.pending := rfl
@[simp] theorem setReg_rdata (a : Nat) (v : Word) (s : State) : (State.setReg a v s).rdata = s.rdata := rfl
@[simp] theorem setReg_fresh (a : Nat) (v : Word) (s : State) : (State.setReg a v s).fresh = s.fresh := rfl
@[simp] theorem setReg_cnt (a : Nat) (v : Word) (s : State) : (State.setReg a v s).cnt = s.cnt := rfl
@[simp] theorem setReg_active (a : Nat) (v : Word) (s : State) : (State.setReg a v s).active = s.active := rfl
@[simp] theorem setReg_latch (a : Nat) (v : Word) (s : State) : (State.setReg a v s).latch = s.latch := rfl
@[simp] theorem setReg_time (a : Nat) (v : Word) (s : State) : (State.setReg a v s).time = s.time := rfl
@[simp] theorem setReg_rf (a : Nat) (v : Word) (s : State) : (State.setReg a v s).rf = s.rf := rfl
@[simp] theorem setReg_rx (a : Nat) (v : Word) (s : State) : (State.setReg a v s).rx = s.rx := rfl
@[simp] theorem setReg_bank (a : Nat) (v : Word) (s : State) : (State.setReg a v s).bank = s.bank := rfl
@[simp] theorem setReg_tbl (a : Nat) (v : Word) (s : State) : (State.setReg a v s).tbl = s.tbl := rfl
@[simp] theorem setReg_sch (a : Nat) (v : Word) (s : State) : (State.setReg a v s).sch = s.sch := rfl
@[simp] theorem setReg_tx (a : Nat) (v : Word) (s : State) : (State.setReg a v s).tx = s.tx := rfl
@[simp] theorem setReg_herd (a : Nat) (v : Word) (s : State) : (State.setReg a v s).herd = s.herd := rfl
@[simp] theorem setReg_adp (a : Nat) (v : Word) (s : State) : (State.setReg a v s).adp = s.adp := rfl
@[simp] theorem setReg_sec (a : Nat) (v : Word) (s : State) : (State.setReg a v s).sec = s.sec := rfl
@[simp] theorem setReg_eth (a : Nat) (v : Word) (s : State) : (State.setReg a v s).eth = s.eth := rfl
@[simp] theorem setReg_snap (a : Nat) (v : Word) (s : State) : (State.setReg a v s).snap = s.snap := rfl
@[simp] theorem setReg_snapWin (a : Nat) (v : Word) (s : State) : (State.setReg a v s).snapWin = s.snapWin := rfl
@[simp] theorem setReg_snapPorts (a : Nat) (v : Word) (s : State) : (State.setReg a v s).snapPorts = s.snapPorts := rfl
@[simp] theorem setReg_captured (a : Nat) (v : Word) (s : State) : (State.setReg a v s).captured = s.captured := rfl
@[simp] theorem setReg_que (a : Nat) (v : Word) (s : State) : (State.setReg a v s).que = s.que := rfl
@[simp] theorem setReg_hif (a : Nat) (v : Word) (s : State) : (State.setReg a v s).hif = s.hif := rfl
@[simp] theorem setReg_jrn (a : Nat) (v : Word) (s : State) : (State.setReg a v s).jrn = s.jrn := rfl
@[simp] theorem setReg_pair (a : Nat) (v : Word) (s : State) : (State.setReg a v s).pair = s.pair := rfl
@[simp] theorem setReg_err (a : Nat) (v : Word) (s : State) : (State.setReg a v s).err = s.err := rfl
@[simp] theorem setReg_pwr (a : Nat) (v : Word) (s : State) : (State.setReg a v s).pwr = s.pwr := rfl

/-! ### bumpN -/
@[simp] theorem bumpN_pending (a n : Nat) (s : State) : (bumpN a n s).pending = s.pending := rfl
@[simp] theorem bumpN_rdata (a n : Nat) (s : State) : (bumpN a n s).rdata = s.rdata := rfl
@[simp] theorem bumpN_fresh (a n : Nat) (s : State) : (bumpN a n s).fresh = s.fresh := rfl
@[simp] theorem bumpN_regs (a n : Nat) (s : State) : (bumpN a n s).regs = s.regs := rfl
@[simp] theorem bumpN_active (a n : Nat) (s : State) : (bumpN a n s).active = s.active := rfl
@[simp] theorem bumpN_latch (a n : Nat) (s : State) : (bumpN a n s).latch = s.latch := rfl
@[simp] theorem bumpN_time (a n : Nat) (s : State) : (bumpN a n s).time = s.time := rfl
@[simp] theorem bumpN_rf (a n : Nat) (s : State) : (bumpN a n s).rf = s.rf := rfl
@[simp] theorem bumpN_rx (a n : Nat) (s : State) : (bumpN a n s).rx = s.rx := rfl
@[simp] theorem bumpN_bank (a n : Nat) (s : State) : (bumpN a n s).bank = s.bank := rfl
@[simp] theorem bumpN_tbl (a n : Nat) (s : State) : (bumpN a n s).tbl = s.tbl := rfl
@[simp] theorem bumpN_sch (a n : Nat) (s : State) : (bumpN a n s).sch = s.sch := rfl
@[simp] theorem bumpN_tx (a n : Nat) (s : State) : (bumpN a n s).tx = s.tx := rfl
@[simp] theorem bumpN_herd (a n : Nat) (s : State) : (bumpN a n s).herd = s.herd := rfl
@[simp] theorem bumpN_adp (a n : Nat) (s : State) : (bumpN a n s).adp = s.adp := rfl
@[simp] theorem bumpN_sec (a n : Nat) (s : State) : (bumpN a n s).sec = s.sec := rfl
@[simp] theorem bumpN_eth (a n : Nat) (s : State) : (bumpN a n s).eth = s.eth := rfl
@[simp] theorem bumpN_snap (a n : Nat) (s : State) : (bumpN a n s).snap = s.snap := rfl
@[simp] theorem bumpN_snapWin (a n : Nat) (s : State) : (bumpN a n s).snapWin = s.snapWin := rfl
@[simp] theorem bumpN_snapPorts (a n : Nat) (s : State) : (bumpN a n s).snapPorts = s.snapPorts := rfl
@[simp] theorem bumpN_captured (a n : Nat) (s : State) : (bumpN a n s).captured = s.captured := rfl
@[simp] theorem bumpN_que (a n : Nat) (s : State) : (bumpN a n s).que = s.que := rfl
@[simp] theorem bumpN_hif (a n : Nat) (s : State) : (bumpN a n s).hif = s.hif := rfl
@[simp] theorem bumpN_jrn (a n : Nat) (s : State) : (bumpN a n s).jrn = s.jrn := rfl
@[simp] theorem bumpN_pair (a n : Nat) (s : State) : (bumpN a n s).pair = s.pair := rfl
@[simp] theorem bumpN_err (a n : Nat) (s : State) : (bumpN a n s).err = s.err := rfl
@[simp] theorem bumpN_pwr (a n : Nat) (s : State) : (bumpN a n s).pwr = s.pwr := rfl

/-! ### bump -/
@[simp] theorem bump_pending (a : Nat) (s : State) : (bump a s).pending = s.pending := rfl
@[simp] theorem bump_rdata (a : Nat) (s : State) : (bump a s).rdata = s.rdata := rfl
@[simp] theorem bump_fresh (a : Nat) (s : State) : (bump a s).fresh = s.fresh := rfl
@[simp] theorem bump_regs (a : Nat) (s : State) : (bump a s).regs = s.regs := rfl
@[simp] theorem bump_active (a : Nat) (s : State) : (bump a s).active = s.active := rfl
@[simp] theorem bump_latch (a : Nat) (s : State) : (bump a s).latch = s.latch := rfl
@[simp] theorem bump_time (a : Nat) (s : State) : (bump a s).time = s.time := rfl
@[simp] theorem bump_rf (a : Nat) (s : State) : (bump a s).rf = s.rf := rfl
@[simp] theorem bump_rx (a : Nat) (s : State) : (bump a s).rx = s.rx := rfl
@[simp] theorem bump_bank (a : Nat) (s : State) : (bump a s).bank = s.bank := rfl
@[simp] theorem bump_tbl (a : Nat) (s : State) : (bump a s).tbl = s.tbl := rfl
@[simp] theorem bump_sch (a : Nat) (s : State) : (bump a s).sch = s.sch := rfl
@[simp] theorem bump_tx (a : Nat) (s : State) : (bump a s).tx = s.tx := rfl
@[simp] theorem bump_herd (a : Nat) (s : State) : (bump a s).herd = s.herd := rfl
@[simp] theorem bump_adp (a : Nat) (s : State) : (bump a s).adp = s.adp := rfl
@[simp] theorem bump_sec (a : Nat) (s : State) : (bump a s).sec = s.sec := rfl
@[simp] theorem bump_eth (a : Nat) (s : State) : (bump a s).eth = s.eth := rfl
@[simp] theorem bump_snap (a : Nat) (s : State) : (bump a s).snap = s.snap := rfl
@[simp] theorem bump_snapWin (a : Nat) (s : State) : (bump a s).snapWin = s.snapWin := rfl
@[simp] theorem bump_snapPorts (a : Nat) (s : State) : (bump a s).snapPorts = s.snapPorts := rfl
@[simp] theorem bump_captured (a : Nat) (s : State) : (bump a s).captured = s.captured := rfl
@[simp] theorem bump_que (a : Nat) (s : State) : (bump a s).que = s.que := rfl
@[simp] theorem bump_hif (a : Nat) (s : State) : (bump a s).hif = s.hif := rfl
@[simp] theorem bump_jrn (a : Nat) (s : State) : (bump a s).jrn = s.jrn := rfl
@[simp] theorem bump_pair (a : Nat) (s : State) : (bump a s).pair = s.pair := rfl
@[simp] theorem bump_err (a : Nat) (s : State) : (bump a s).err = s.err := rfl
@[simp] theorem bump_pwr (a : Nat) (s : State) : (bump a s).pwr = s.pwr := rfl

/-! ### bumpIf -/
@[simp] theorem bumpIf_pending (c : Bool) (a : Nat) (s : State) : (bumpIf c a s).pending = s.pending := rfl
@[simp] theorem bumpIf_rdata (c : Bool) (a : Nat) (s : State) : (bumpIf c a s).rdata = s.rdata := rfl
@[simp] theorem bumpIf_fresh (c : Bool) (a : Nat) (s : State) : (bumpIf c a s).fresh = s.fresh := rfl
@[simp] theorem bumpIf_regs (c : Bool) (a : Nat) (s : State) : (bumpIf c a s).regs = s.regs := rfl
@[simp] theorem bumpIf_active (c : Bool) (a : Nat) (s : State) : (bumpIf c a s).active = s.active := rfl
@[simp] theorem bumpIf_latch (c : Bool) (a : Nat) (s : State) : (bumpIf c a s).latch = s.latch := rfl
@[simp] theorem bumpIf_time (c : Bool) (a : Nat) (s : State) : (bumpIf c a s).time = s.time := rfl
@[simp] theorem bumpIf_rf (c : Bool) (a : Nat) (s : State) : (bumpIf c a s).rf = s.rf := rfl
@[simp] theorem bumpIf_rx (c : Bool) (a : Nat) (s : State) : (bumpIf c a s).rx = s.rx := rfl
@[simp] theorem bumpIf_bank (c : Bool) (a : Nat) (s : State) : (bumpIf c a s).bank = s.bank := rfl
@[simp] theorem bumpIf_tbl (c : Bool) (a : Nat) (s : State) : (bumpIf c a s).tbl = s.tbl := rfl
@[simp] theorem bumpIf_sch (c : Bool) (a : Nat) (s : State) : (bumpIf c a s).sch = s.sch := rfl
@[simp] theorem bumpIf_tx (c : Bool) (a : Nat) (s : State) : (bumpIf c a s).tx = s.tx := rfl
@[simp] theorem bumpIf_herd (c : Bool) (a : Nat) (s : State) : (bumpIf c a s).herd = s.herd := rfl
@[simp] theorem bumpIf_adp (c : Bool) (a : Nat) (s : State) : (bumpIf c a s).adp = s.adp := rfl
@[simp] theorem bumpIf_sec (c : Bool) (a : Nat) (s : State) : (bumpIf c a s).sec = s.sec := rfl
@[simp] theorem bumpIf_eth (c : Bool) (a : Nat) (s : State) : (bumpIf c a s).eth = s.eth := rfl
@[simp] theorem bumpIf_snap (c : Bool) (a : Nat) (s : State) : (bumpIf c a s).snap = s.snap := rfl
@[simp] theorem bumpIf_snapWin (c : Bool) (a : Nat) (s : State) : (bumpIf c a s).snapWin = s.snapWin := rfl
@[simp] theorem bumpIf_snapPorts (c : Bool) (a : Nat) (s : State) : (bumpIf c a s).snapPorts = s.snapPorts := rfl
@[simp] theorem bumpIf_captured (c : Bool) (a : Nat) (s : State) : (bumpIf c a s).captured = s.captured := rfl
@[simp] theorem bumpIf_que (c : Bool) (a : Nat) (s : State) : (bumpIf c a s).que = s.que := rfl
@[simp] theorem bumpIf_hif (c : Bool) (a : Nat) (s : State) : (bumpIf c a s).hif = s.hif := rfl
@[simp] theorem bumpIf_jrn (c : Bool) (a : Nat) (s : State) : (bumpIf c a s).jrn = s.jrn := rfl
@[simp] theorem bumpIf_pair (c : Bool) (a : Nat) (s : State) : (bumpIf c a s).pair = s.pair := rfl
@[simp] theorem bumpIf_err (c : Bool) (a : Nat) (s : State) : (bumpIf c a s).err = s.err := rfl
@[simp] theorem bumpIf_pwr (c : Bool) (a : Nat) (s : State) : (bumpIf c a s).pwr = s.pwr := rfl

/-! ### reach -/
@[simp] theorem reach_pending (n : Nat) (s : State) : (reach n s).pending = s.pending := rfl
@[simp] theorem reach_rdata (n : Nat) (s : State) : (reach n s).rdata = s.rdata := rfl
@[simp] theorem reach_fresh (n : Nat) (s : State) : (reach n s).fresh = s.fresh := rfl
@[simp] theorem reach_regs (n : Nat) (s : State) : (reach n s).regs = s.regs := rfl
@[simp] theorem reach_cnt (n : Nat) (s : State) : (reach n s).cnt = s.cnt := rfl
@[simp] theorem reach_active (n : Nat) (s : State) : (reach n s).active = s.active := rfl
@[simp] theorem reach_latch (n : Nat) (s : State) : (reach n s).latch = s.latch := rfl
@[simp] theorem reach_rf (n : Nat) (s : State) : (reach n s).rf = s.rf := rfl
@[simp] theorem reach_rx (n : Nat) (s : State) : (reach n s).rx = s.rx := rfl
@[simp] theorem reach_bank (n : Nat) (s : State) : (reach n s).bank = s.bank := rfl
@[simp] theorem reach_tbl (n : Nat) (s : State) : (reach n s).tbl = s.tbl := rfl
@[simp] theorem reach_sch (n : Nat) (s : State) : (reach n s).sch = s.sch := rfl
@[simp] theorem reach_tx (n : Nat) (s : State) : (reach n s).tx = s.tx := rfl
@[simp] theorem reach_herd (n : Nat) (s : State) : (reach n s).herd = s.herd := rfl
@[simp] theorem reach_adp (n : Nat) (s : State) : (reach n s).adp = s.adp := rfl
@[simp] theorem reach_sec (n : Nat) (s : State) : (reach n s).sec = s.sec := rfl
@[simp] theorem reach_eth (n : Nat) (s : State) : (reach n s).eth = s.eth := rfl
@[simp] theorem reach_snap (n : Nat) (s : State) : (reach n s).snap = s.snap := rfl
@[simp] theorem reach_snapWin (n : Nat) (s : State) : (reach n s).snapWin = s.snapWin := rfl
@[simp] theorem reach_snapPorts (n : Nat) (s : State) : (reach n s).snapPorts = s.snapPorts := rfl
@[simp] theorem reach_captured (n : Nat) (s : State) : (reach n s).captured = s.captured := rfl
@[simp] theorem reach_que (n : Nat) (s : State) : (reach n s).que = s.que := rfl
@[simp] theorem reach_hif (n : Nat) (s : State) : (reach n s).hif = s.hif := rfl
@[simp] theorem reach_jrn (n : Nat) (s : State) : (reach n s).jrn = s.jrn := rfl
@[simp] theorem reach_pair (n : Nat) (s : State) : (reach n s).pair = s.pair := rfl
@[simp] theorem reach_err (n : Nat) (s : State) : (reach n s).err = s.err := rfl
@[simp] theorem reach_pwr (n : Nat) (s : State) : (reach n s).pwr = s.pwr := rfl

/-! ### glbFlag -/
@[simp] theorem glbFlag_pending (b : Word) (s : State) : (glbFlag b s).pending = s.pending := rfl
@[simp] theorem glbFlag_rdata (b : Word) (s : State) : (glbFlag b s).rdata = s.rdata := rfl
@[simp] theorem glbFlag_fresh (b : Word) (s : State) : (glbFlag b s).fresh = s.fresh := rfl
@[simp] theorem glbFlag_cnt (b : Word) (s : State) : (glbFlag b s).cnt = s.cnt := rfl
@[simp] theorem glbFlag_active (b : Word) (s : State) : (glbFlag b s).active = s.active := rfl
@[simp] theorem glbFlag_latch (b : Word) (s : State) : (glbFlag b s).latch = s.latch := rfl
@[simp] theorem glbFlag_time (b : Word) (s : State) : (glbFlag b s).time = s.time := rfl
@[simp] theorem glbFlag_rf (b : Word) (s : State) : (glbFlag b s).rf = s.rf := rfl
@[simp] theorem glbFlag_rx (b : Word) (s : State) : (glbFlag b s).rx = s.rx := rfl
@[simp] theorem glbFlag_bank (b : Word) (s : State) : (glbFlag b s).bank = s.bank := rfl
@[simp] theorem glbFlag_tbl (b : Word) (s : State) : (glbFlag b s).tbl = s.tbl := rfl
@[simp] theorem glbFlag_sch (b : Word) (s : State) : (glbFlag b s).sch = s.sch := rfl
@[simp] theorem glbFlag_tx (b : Word) (s : State) : (glbFlag b s).tx = s.tx := rfl
@[simp] theorem glbFlag_herd (b : Word) (s : State) : (glbFlag b s).herd = s.herd := rfl
@[simp] theorem glbFlag_adp (b : Word) (s : State) : (glbFlag b s).adp = s.adp := rfl
@[simp] theorem glbFlag_sec (b : Word) (s : State) : (glbFlag b s).sec = s.sec := rfl
@[simp] theorem glbFlag_eth (b : Word) (s : State) : (glbFlag b s).eth = s.eth := rfl
@[simp] theorem glbFlag_snap (b : Word) (s : State) : (glbFlag b s).snap = s.snap := rfl
@[simp] theorem glbFlag_snapWin (b : Word) (s : State) : (glbFlag b s).snapWin = s.snapWin := rfl
@[simp] theorem glbFlag_snapPorts (b : Word) (s : State) : (glbFlag b s).snapPorts = s.snapPorts := rfl
@[simp] theorem glbFlag_captured (b : Word) (s : State) : (glbFlag b s).captured = s.captured := rfl
@[simp] theorem glbFlag_que (b : Word) (s : State) : (glbFlag b s).que = s.que := rfl
@[simp] theorem glbFlag_hif (b : Word) (s : State) : (glbFlag b s).hif = s.hif := rfl
@[simp] theorem glbFlag_jrn (b : Word) (s : State) : (glbFlag b s).jrn = s.jrn := rfl
@[simp] theorem glbFlag_pair (b : Word) (s : State) : (glbFlag b s).pair = s.pair := rfl
@[simp] theorem glbFlag_err (b : Word) (s : State) : (glbFlag b s).err = s.err := rfl
@[simp] theorem glbFlag_pwr (b : Word) (s : State) : (glbFlag b s).pwr = s.pwr := rfl

/-! ### release -/
@[simp] theorem release_pending (cs : List Nat) (s : State) : (release cs s).pending = s.pending := rfl
@[simp] theorem release_rdata (cs : List Nat) (s : State) : (release cs s).rdata = s.rdata := rfl
@[simp] theorem release_fresh (cs : List Nat) (s : State) : (release cs s).fresh = s.fresh := rfl
@[simp] theorem release_regs (cs : List Nat) (s : State) : (release cs s).regs = s.regs := rfl
@[simp] theorem release_cnt (cs : List Nat) (s : State) : (release cs s).cnt = s.cnt := rfl
@[simp] theorem release_active (cs : List Nat) (s : State) : (release cs s).active = s.active := rfl
@[simp] theorem release_latch (cs : List Nat) (s : State) : (release cs s).latch = s.latch := rfl
@[simp] theorem release_time (cs : List Nat) (s : State) : (release cs s).time = s.time := rfl
@[simp] theorem release_rf (cs : List Nat) (s : State) : (release cs s).rf = s.rf := rfl
@[simp] theorem release_rx (cs : List Nat) (s : State) : (release cs s).rx = s.rx := rfl
@[simp] theorem release_bank (cs : List Nat) (s : State) : (release cs s).bank = s.bank := rfl
@[simp] theorem release_tbl (cs : List Nat) (s : State) : (release cs s).tbl = s.tbl := rfl
@[simp] theorem release_sch (cs : List Nat) (s : State) : (release cs s).sch = s.sch := rfl
@[simp] theorem release_tx (cs : List Nat) (s : State) : (release cs s).tx = s.tx := rfl
@[simp] theorem release_herd (cs : List Nat) (s : State) : (release cs s).herd = s.herd := rfl
@[simp] theorem release_adp (cs : List Nat) (s : State) : (release cs s).adp = s.adp := rfl
@[simp] theorem release_sec (cs : List Nat) (s : State) : (release cs s).sec = s.sec := rfl
@[simp] theorem release_eth (cs : List Nat) (s : State) : (release cs s).eth = s.eth := rfl
@[simp] theorem release_snap (cs : List Nat) (s : State) : (release cs s).snap = s.snap := rfl
@[simp] theorem release_snapWin (cs : List Nat) (s : State) : (release cs s).snapWin = s.snapWin := rfl
@[simp] theorem release_snapPorts (cs : List Nat) (s : State) : (release cs s).snapPorts = s.snapPorts := rfl
@[simp] theorem release_captured (cs : List Nat) (s : State) : (release cs s).captured = s.captured := rfl
@[simp] theorem release_hif (cs : List Nat) (s : State) : (release cs s).hif = s.hif := rfl
@[simp] theorem release_jrn (cs : List Nat) (s : State) : (release cs s).jrn = s.jrn := rfl
@[simp] theorem release_pair (cs : List Nat) (s : State) : (release cs s).pair = s.pair := rfl
@[simp] theorem release_err (cs : List Nat) (s : State) : (release cs s).err = s.err := rfl
@[simp] theorem release_pwr (cs : List Nat) (s : State) : (release cs s).pwr = s.pwr := rfl

/-! ### offerRec -/
@[simp] theorem offerRec_pending (d : Nat) (r : HRec) (s : State) : (offerRec d r s).pending = s.pending := rfl
@[simp] theorem offerRec_rdata (d : Nat) (r : HRec) (s : State) : (offerRec d r s).rdata = s.rdata := rfl
@[simp] theorem offerRec_fresh (d : Nat) (r : HRec) (s : State) : (offerRec d r s).fresh = s.fresh := rfl
@[simp] theorem offerRec_regs (d : Nat) (r : HRec) (s : State) : (offerRec d r s).regs = s.regs := rfl
@[simp] theorem offerRec_active (d : Nat) (r : HRec) (s : State) : (offerRec d r s).active = s.active := rfl
@[simp] theorem offerRec_latch (d : Nat) (r : HRec) (s : State) : (offerRec d r s).latch = s.latch := rfl
@[simp] theorem offerRec_time (d : Nat) (r : HRec) (s : State) : (offerRec d r s).time = s.time := rfl
@[simp] theorem offerRec_rf (d : Nat) (r : HRec) (s : State) : (offerRec d r s).rf = s.rf := rfl
@[simp] theorem offerRec_rx (d : Nat) (r : HRec) (s : State) : (offerRec d r s).rx = s.rx := rfl
@[simp] theorem offerRec_bank (d : Nat) (r : HRec) (s : State) : (offerRec d r s).bank = s.bank := rfl
@[simp] theorem offerRec_tbl (d : Nat) (r : HRec) (s : State) : (offerRec d r s).tbl = s.tbl := rfl
@[simp] theorem offerRec_sch (d : Nat) (r : HRec) (s : State) : (offerRec d r s).sch = s.sch := rfl
@[simp] theorem offerRec_tx (d : Nat) (r : HRec) (s : State) : (offerRec d r s).tx = s.tx := rfl
@[simp] theorem offerRec_herd (d : Nat) (r : HRec) (s : State) : (offerRec d r s).herd = s.herd := rfl
@[simp] theorem offerRec_adp (d : Nat) (r : HRec) (s : State) : (offerRec d r s).adp = s.adp := rfl
@[simp] theorem offerRec_sec (d : Nat) (r : HRec) (s : State) : (offerRec d r s).sec = s.sec := rfl
@[simp] theorem offerRec_eth (d : Nat) (r : HRec) (s : State) : (offerRec d r s).eth = s.eth := rfl
@[simp] theorem offerRec_snap (d : Nat) (r : HRec) (s : State) : (offerRec d r s).snap = s.snap := rfl
@[simp] theorem offerRec_snapWin (d : Nat) (r : HRec) (s : State) : (offerRec d r s).snapWin = s.snapWin := rfl
@[simp] theorem offerRec_snapPorts (d : Nat) (r : HRec) (s : State) : (offerRec d r s).snapPorts = s.snapPorts := rfl
@[simp] theorem offerRec_captured (d : Nat) (r : HRec) (s : State) : (offerRec d r s).captured = s.captured := rfl
@[simp] theorem offerRec_jrn (d : Nat) (r : HRec) (s : State) : (offerRec d r s).jrn = s.jrn := rfl
@[simp] theorem offerRec_pair (d : Nat) (r : HRec) (s : State) : (offerRec d r s).pair = s.pair := rfl
@[simp] theorem offerRec_err (d : Nat) (r : HRec) (s : State) : (offerRec d r s).err = s.err := rfl
@[simp] theorem offerRec_pwr (d : Nat) (r : HRec) (s : State) : (offerRec d r s).pwr = s.pwr := rfl

/-! ### event -/
@[simp] theorem event_pending (c : Nat) (l : List Nat) (s : State) : (event c l s).pending = s.pending := rfl
@[simp] theorem event_rdata (c : Nat) (l : List Nat) (s : State) : (event c l s).rdata = s.rdata := rfl
@[simp] theorem event_fresh (c : Nat) (l : List Nat) (s : State) : (event c l s).fresh = s.fresh := rfl
@[simp] theorem event_regs (c : Nat) (l : List Nat) (s : State) : (event c l s).regs = s.regs := rfl
@[simp] theorem event_active (c : Nat) (l : List Nat) (s : State) : (event c l s).active = s.active := rfl
@[simp] theorem event_latch (c : Nat) (l : List Nat) (s : State) : (event c l s).latch = s.latch := rfl
@[simp] theorem event_time (c : Nat) (l : List Nat) (s : State) : (event c l s).time = s.time := rfl
@[simp] theorem event_rf (c : Nat) (l : List Nat) (s : State) : (event c l s).rf = s.rf := rfl
@[simp] theorem event_rx (c : Nat) (l : List Nat) (s : State) : (event c l s).rx = s.rx := rfl
@[simp] theorem event_bank (c : Nat) (l : List Nat) (s : State) : (event c l s).bank = s.bank := rfl
@[simp] theorem event_tbl (c : Nat) (l : List Nat) (s : State) : (event c l s).tbl = s.tbl := rfl
@[simp] theorem event_sch (c : Nat) (l : List Nat) (s : State) : (event c l s).sch = s.sch := rfl
@[simp] theorem event_tx (c : Nat) (l : List Nat) (s : State) : (event c l s).tx = s.tx := rfl
@[simp] theorem event_herd (c : Nat) (l : List Nat) (s : State) : (event c l s).herd = s.herd := rfl
@[simp] theorem event_adp (c : Nat) (l : List Nat) (s : State) : (event c l s).adp = s.adp := rfl
@[simp] theorem event_sec (c : Nat) (l : List Nat) (s : State) : (event c l s).sec = s.sec := rfl
@[simp] theorem event_eth (c : Nat) (l : List Nat) (s : State) : (event c l s).eth = s.eth := rfl
@[simp] theorem event_snap (c : Nat) (l : List Nat) (s : State) : (event c l s).snap = s.snap := rfl
@[simp] theorem event_snapWin (c : Nat) (l : List Nat) (s : State) : (event c l s).snapWin = s.snapWin := rfl
@[simp] theorem event_snapPorts (c : Nat) (l : List Nat) (s : State) : (event c l s).snapPorts = s.snapPorts := rfl
@[simp] theorem event_captured (c : Nat) (l : List Nat) (s : State) : (event c l s).captured = s.captured := rfl
@[simp] theorem event_jrn (c : Nat) (l : List Nat) (s : State) : (event c l s).jrn = s.jrn := rfl
@[simp] theorem event_pair (c : Nat) (l : List Nat) (s : State) : (event c l s).pair = s.pair := rfl
@[simp] theorem event_err (c : Nat) (l : List Nat) (s : State) : (event c l s).err = s.err := rfl
@[simp] theorem event_pwr (c : Nat) (l : List Nat) (s : State) : (event c l s).pwr = s.pwr := rfl

/-! ### eventIf -/
@[simp] theorem eventIf_pending (b : Bool) (c : Nat) (l : List Nat) (s : State) : (eventIf b c l s).pending = s.pending := by cases b <;> rfl
@[simp] theorem eventIf_rdata (b : Bool) (c : Nat) (l : List Nat) (s : State) : (eventIf b c l s).rdata = s.rdata := by cases b <;> rfl
@[simp] theorem eventIf_fresh (b : Bool) (c : Nat) (l : List Nat) (s : State) : (eventIf b c l s).fresh = s.fresh := by cases b <;> rfl
@[simp] theorem eventIf_regs (b : Bool) (c : Nat) (l : List Nat) (s : State) : (eventIf b c l s).regs = s.regs := by cases b <;> rfl
@[simp] theorem eventIf_active (b : Bool) (c : Nat) (l : List Nat) (s : State) : (eventIf b c l s).active = s.active := by cases b <;> rfl
@[simp] theorem eventIf_latch (b : Bool) (c : Nat) (l : List Nat) (s : State) : (eventIf b c l s).latch = s.latch := by cases b <;> rfl
@[simp] theorem eventIf_time (b : Bool) (c : Nat) (l : List Nat) (s : State) : (eventIf b c l s).time = s.time := by cases b <;> rfl
@[simp] theorem eventIf_rf (b : Bool) (c : Nat) (l : List Nat) (s : State) : (eventIf b c l s).rf = s.rf := by cases b <;> rfl
@[simp] theorem eventIf_rx (b : Bool) (c : Nat) (l : List Nat) (s : State) : (eventIf b c l s).rx = s.rx := by cases b <;> rfl
@[simp] theorem eventIf_bank (b : Bool) (c : Nat) (l : List Nat) (s : State) : (eventIf b c l s).bank = s.bank := by cases b <;> rfl
@[simp] theorem eventIf_tbl (b : Bool) (c : Nat) (l : List Nat) (s : State) : (eventIf b c l s).tbl = s.tbl := by cases b <;> rfl
@[simp] theorem eventIf_sch (b : Bool) (c : Nat) (l : List Nat) (s : State) : (eventIf b c l s).sch = s.sch := by cases b <;> rfl
@[simp] theorem eventIf_tx (b : Bool) (c : Nat) (l : List Nat) (s : State) : (eventIf b c l s).tx = s.tx := by cases b <;> rfl
@[simp] theorem eventIf_herd (b : Bool) (c : Nat) (l : List Nat) (s : State) : (eventIf b c l s).herd = s.herd := by cases b <;> rfl
@[simp] theorem eventIf_adp (b : Bool) (c : Nat) (l : List Nat) (s : State) : (eventIf b c l s).adp = s.adp := by cases b <;> rfl
@[simp] theorem eventIf_sec (b : Bool) (c : Nat) (l : List Nat) (s : State) : (eventIf b c l s).sec = s.sec := by cases b <;> rfl
@[simp] theorem eventIf_eth (b : Bool) (c : Nat) (l : List Nat) (s : State) : (eventIf b c l s).eth = s.eth := by cases b <;> rfl
@[simp] theorem eventIf_snap (b : Bool) (c : Nat) (l : List Nat) (s : State) : (eventIf b c l s).snap = s.snap := by cases b <;> rfl
@[simp] theorem eventIf_snapWin (b : Bool) (c : Nat) (l : List Nat) (s : State) : (eventIf b c l s).snapWin = s.snapWin := by cases b <;> rfl
@[simp] theorem eventIf_snapPorts (b : Bool) (c : Nat) (l : List Nat) (s : State) : (eventIf b c l s).snapPorts = s.snapPorts := by cases b <;> rfl
@[simp] theorem eventIf_captured (b : Bool) (c : Nat) (l : List Nat) (s : State) : (eventIf b c l s).captured = s.captured := by cases b <;> rfl
@[simp] theorem eventIf_jrn (b : Bool) (c : Nat) (l : List Nat) (s : State) : (eventIf b c l s).jrn = s.jrn := by cases b <;> rfl
@[simp] theorem eventIf_pair (b : Bool) (c : Nat) (l : List Nat) (s : State) : (eventIf b c l s).pair = s.pair := by cases b <;> rfl
@[simp] theorem eventIf_err (b : Bool) (c : Nat) (l : List Nat) (s : State) : (eventIf b c l s).err = s.err := by cases b <;> rfl
@[simp] theorem eventIf_pwr (b : Bool) (c : Nat) (l : List Nat) (s : State) : (eventIf b c l s).pwr = s.pwr := by cases b <;> rfl

/-! ### journalMore -/
@[simp] theorem journalMore_pending (m : Bool) (b : JBody) (s : State) : (journalMore m b s).pending = s.pending := rfl
@[simp] theorem journalMore_rdata (m : Bool) (b : JBody) (s : State) : (journalMore m b s).rdata = s.rdata := rfl
@[simp] theorem journalMore_fresh (m : Bool) (b : JBody) (s : State) : (journalMore m b s).fresh = s.fresh := rfl
@[simp] theorem journalMore_regs (m : Bool) (b : JBody) (s : State) : (journalMore m b s).regs = s.regs := rfl
@[simp] theorem journalMore_active (m : Bool) (b : JBody) (s : State) : (journalMore m b s).active = s.active := rfl
@[simp] theorem journalMore_latch (m : Bool) (b : JBody) (s : State) : (journalMore m b s).latch = s.latch := rfl
@[simp] theorem journalMore_time (m : Bool) (b : JBody) (s : State) : (journalMore m b s).time = s.time := rfl
@[simp] theorem journalMore_rf (m : Bool) (b : JBody) (s : State) : (journalMore m b s).rf = s.rf := rfl
@[simp] theorem journalMore_rx (m : Bool) (b : JBody) (s : State) : (journalMore m b s).rx = s.rx := rfl
@[simp] theorem journalMore_bank (m : Bool) (b : JBody) (s : State) : (journalMore m b s).bank = s.bank := rfl
@[simp] theorem journalMore_tbl (m : Bool) (b : JBody) (s : State) : (journalMore m b s).tbl = s.tbl := rfl
@[simp] theorem journalMore_sch (m : Bool) (b : JBody) (s : State) : (journalMore m b s).sch = s.sch := rfl
@[simp] theorem journalMore_tx (m : Bool) (b : JBody) (s : State) : (journalMore m b s).tx = s.tx := rfl
@[simp] theorem journalMore_herd (m : Bool) (b : JBody) (s : State) : (journalMore m b s).herd = s.herd := rfl
@[simp] theorem journalMore_adp (m : Bool) (b : JBody) (s : State) : (journalMore m b s).adp = s.adp := rfl
@[simp] theorem journalMore_sec (m : Bool) (b : JBody) (s : State) : (journalMore m b s).sec = s.sec := rfl
@[simp] theorem journalMore_eth (m : Bool) (b : JBody) (s : State) : (journalMore m b s).eth = s.eth := rfl
@[simp] theorem journalMore_snap (m : Bool) (b : JBody) (s : State) : (journalMore m b s).snap = s.snap := rfl
@[simp] theorem journalMore_snapWin (m : Bool) (b : JBody) (s : State) : (journalMore m b s).snapWin = s.snapWin := rfl
@[simp] theorem journalMore_snapPorts (m : Bool) (b : JBody) (s : State) : (journalMore m b s).snapPorts = s.snapPorts := rfl
@[simp] theorem journalMore_captured (m : Bool) (b : JBody) (s : State) : (journalMore m b s).captured = s.captured := rfl
@[simp] theorem journalMore_hif (m : Bool) (b : JBody) (s : State) : (journalMore m b s).hif = s.hif := rfl
@[simp] theorem journalMore_pair (m : Bool) (b : JBody) (s : State) : (journalMore m b s).pair = s.pair := rfl
@[simp] theorem journalMore_err (m : Bool) (b : JBody) (s : State) : (journalMore m b s).err = s.err := rfl
@[simp] theorem journalMore_pwr (m : Bool) (b : JBody) (s : State) : (journalMore m b s).pwr = s.pwr := rfl

/-! ### journal -/
@[simp] theorem journal_pending (b : JBody) (s : State) : (journal b s).pending = s.pending := rfl
@[simp] theorem journal_rdata (b : JBody) (s : State) : (journal b s).rdata = s.rdata := rfl
@[simp] theorem journal_fresh (b : JBody) (s : State) : (journal b s).fresh = s.fresh := rfl
@[simp] theorem journal_regs (b : JBody) (s : State) : (journal b s).regs = s.regs := rfl
@[simp] theorem journal_active (b : JBody) (s : State) : (journal b s).active = s.active := rfl
@[simp] theorem journal_latch (b : JBody) (s : State) : (journal b s).latch = s.latch := rfl
@[simp] theorem journal_time (b : JBody) (s : State) : (journal b s).time = s.time := rfl
@[simp] theorem journal_rf (b : JBody) (s : State) : (journal b s).rf = s.rf := rfl
@[simp] theorem journal_rx (b : JBody) (s : State) : (journal b s).rx = s.rx := rfl
@[simp] theorem journal_bank (b : JBody) (s : State) : (journal b s).bank = s.bank := rfl
@[simp] theorem journal_tbl (b : JBody) (s : State) : (journal b s).tbl = s.tbl := rfl
@[simp] theorem journal_sch (b : JBody) (s : State) : (journal b s).sch = s.sch := rfl
@[simp] theorem journal_tx (b : JBody) (s : State) : (journal b s).tx = s.tx := rfl
@[simp] theorem journal_herd (b : JBody) (s : State) : (journal b s).herd = s.herd := rfl
@[simp] theorem journal_adp (b : JBody) (s : State) : (journal b s).adp = s.adp := rfl
@[simp] theorem journal_sec (b : JBody) (s : State) : (journal b s).sec = s.sec := rfl
@[simp] theorem journal_eth (b : JBody) (s : State) : (journal b s).eth = s.eth := rfl
@[simp] theorem journal_snap (b : JBody) (s : State) : (journal b s).snap = s.snap := rfl
@[simp] theorem journal_snapWin (b : JBody) (s : State) : (journal b s).snapWin = s.snapWin := rfl
@[simp] theorem journal_snapPorts (b : JBody) (s : State) : (journal b s).snapPorts = s.snapPorts := rfl
@[simp] theorem journal_captured (b : JBody) (s : State) : (journal b s).captured = s.captured := rfl
@[simp] theorem journal_hif (b : JBody) (s : State) : (journal b s).hif = s.hif := rfl
@[simp] theorem journal_pair (b : JBody) (s : State) : (journal b s).pair = s.pair := rfl
@[simp] theorem journal_err (b : JBody) (s : State) : (journal b s).err = s.err := rfl
@[simp] theorem journal_pwr (b : JBody) (s : State) : (journal b s).pwr = s.pwr := rfl

/-! ### journalData -/
@[simp] theorem journalData_pending (c : HostCmd) (k a n : Nat) (s : State) : (journalData c k a n s).pending = s.pending := by
  induction k generalizing a n s with
  | zero => rfl
  | succ k ih => unfold journalData; split
                 · rfl
                 · rw [ih]; rfl
@[simp] theorem journalData_rdata (c : HostCmd) (k a n : Nat) (s : State) : (journalData c k a n s).rdata = s.rdata := by
  induction k generalizing a n s with
  | zero => rfl
  | succ k ih => unfold journalData; split
                 · rfl
                 · rw [ih]; rfl
@[simp] theorem journalData_fresh (c : HostCmd) (k a n : Nat) (s : State) : (journalData c k a n s).fresh = s.fresh := by
  induction k generalizing a n s with
  | zero => rfl
  | succ k ih => unfold journalData; split
                 · rfl
                 · rw [ih]; rfl
@[simp] theorem journalData_regs (c : HostCmd) (k a n : Nat) (s : State) : (journalData c k a n s).regs = s.regs := by
  induction k generalizing a n s with
  | zero => rfl
  | succ k ih => unfold journalData; split
                 · rfl
                 · rw [ih]; rfl
@[simp] theorem journalData_active (c : HostCmd) (k a n : Nat) (s : State) : (journalData c k a n s).active = s.active := by
  induction k generalizing a n s with
  | zero => rfl
  | succ k ih => unfold journalData; split
                 · rfl
                 · rw [ih]; rfl
@[simp] theorem journalData_latch (c : HostCmd) (k a n : Nat) (s : State) : (journalData c k a n s).latch = s.latch := by
  induction k generalizing a n s with
  | zero => rfl
  | succ k ih => unfold journalData; split
                 · rfl
                 · rw [ih]; rfl
@[simp] theorem journalData_time (c : HostCmd) (k a n : Nat) (s : State) : (journalData c k a n s).time = s.time := by
  induction k generalizing a n s with
  | zero => rfl
  | succ k ih => unfold journalData; split
                 · rfl
                 · rw [ih]; rfl
@[simp] theorem journalData_rf (c : HostCmd) (k a n : Nat) (s : State) : (journalData c k a n s).rf = s.rf := by
  induction k generalizing a n s with
  | zero => rfl
  | succ k ih => unfold journalData; split
                 · rfl
                 · rw [ih]; rfl
@[simp] theorem journalData_rx (c : HostCmd) (k a n : Nat) (s : State) : (journalData c k a n s).rx = s.rx := by
  induction k generalizing a n s with
  | zero => rfl
  | succ k ih => unfold journalData; split
                 · rfl
                 · rw [ih]; rfl
@[simp] theorem journalData_bank (c : HostCmd) (k a n : Nat) (s : State) : (journalData c k a n s).bank = s.bank := by
  induction k generalizing a n s with
  | zero => rfl
  | succ k ih => unfold journalData; split
                 · rfl
                 · rw [ih]; rfl
@[simp] theorem journalData_tbl (c : HostCmd) (k a n : Nat) (s : State) : (journalData c k a n s).tbl = s.tbl := by
  induction k generalizing a n s with
  | zero => rfl
  | succ k ih => unfold journalData; split
                 · rfl
                 · rw [ih]; rfl
@[simp] theorem journalData_sch (c : HostCmd) (k a n : Nat) (s : State) : (journalData c k a n s).sch = s.sch := by
  induction k generalizing a n s with
  | zero => rfl
  | succ k ih => unfold journalData; split
                 · rfl
                 · rw [ih]; rfl
@[simp] theorem journalData_tx (c : HostCmd) (k a n : Nat) (s : State) : (journalData c k a n s).tx = s.tx := by
  induction k generalizing a n s with
  | zero => rfl
  | succ k ih => unfold journalData; split
                 · rfl
                 · rw [ih]; rfl
@[simp] theorem journalData_herd (c : HostCmd) (k a n : Nat) (s : State) : (journalData c k a n s).herd = s.herd := by
  induction k generalizing a n s with
  | zero => rfl
  | succ k ih => unfold journalData; split
                 · rfl
                 · rw [ih]; rfl
@[simp] theorem journalData_adp (c : HostCmd) (k a n : Nat) (s : State) : (journalData c k a n s).adp = s.adp := by
  induction k generalizing a n s with
  | zero => rfl
  | succ k ih => unfold journalData; split
                 · rfl
                 · rw [ih]; rfl
@[simp] theorem journalData_sec (c : HostCmd) (k a n : Nat) (s : State) : (journalData c k a n s).sec = s.sec := by
  induction k generalizing a n s with
  | zero => rfl
  | succ k ih => unfold journalData; split
                 · rfl
                 · rw [ih]; rfl
@[simp] theorem journalData_eth (c : HostCmd) (k a n : Nat) (s : State) : (journalData c k a n s).eth = s.eth := by
  induction k generalizing a n s with
  | zero => rfl
  | succ k ih => unfold journalData; split
                 · rfl
                 · rw [ih]; rfl
@[simp] theorem journalData_snap (c : HostCmd) (k a n : Nat) (s : State) : (journalData c k a n s).snap = s.snap := by
  induction k generalizing a n s with
  | zero => rfl
  | succ k ih => unfold journalData; split
                 · rfl
                 · rw [ih]; rfl
@[simp] theorem journalData_snapWin (c : HostCmd) (k a n : Nat) (s : State) : (journalData c k a n s).snapWin = s.snapWin := by
  induction k generalizing a n s with
  | zero => rfl
  | succ k ih => unfold journalData; split
                 · rfl
                 · rw [ih]; rfl
@[simp] theorem journalData_snapPorts (c : HostCmd) (k a n : Nat) (s : State) : (journalData c k a n s).snapPorts = s.snapPorts := by
  induction k generalizing a n s with
  | zero => rfl
  | succ k ih => unfold journalData; split
                 · rfl
                 · rw [ih]; rfl
@[simp] theorem journalData_captured (c : HostCmd) (k a n : Nat) (s : State) : (journalData c k a n s).captured = s.captured := by
  induction k generalizing a n s with
  | zero => rfl
  | succ k ih => unfold journalData; split
                 · rfl
                 · rw [ih]; rfl
@[simp] theorem journalData_hif (c : HostCmd) (k a n : Nat) (s : State) : (journalData c k a n s).hif = s.hif := by
  induction k generalizing a n s with
  | zero => rfl
  | succ k ih => unfold journalData; split
                 · rfl
                 · rw [ih]; rfl
@[simp] theorem journalData_pair (c : HostCmd) (k a n : Nat) (s : State) : (journalData c k a n s).pair = s.pair := by
  induction k generalizing a n s with
  | zero => rfl
  | succ k ih => unfold journalData; split
                 · rfl
                 · rw [ih]; rfl
@[simp] theorem journalData_err (c : HostCmd) (k a n : Nat) (s : State) : (journalData c k a n s).err = s.err := by
  induction k generalizing a n s with
  | zero => rfl
  | succ k ih => unfold journalData; split
                 · rfl
                 · rw [ih]; rfl
@[simp] theorem journalData_pwr (c : HostCmd) (k a n : Nat) (s : State) : (journalData c k a n s).pwr = s.pwr := by
  induction k generalizing a n s with
  | zero => rfl
  | succ k ih => unfold journalData; split
                 · rfl
                 · rw [ih]; rfl

/-! ### journalCmd -/
@[simp] theorem journalCmd_pending (r : CmdRef) (op n : Nat) (c : HostCmd) (s : State) : (journalCmd r op n c s).pending = s.pending := by simp [journalCmd]
@[simp] theorem journalCmd_rdata (r : CmdRef) (op n : Nat) (c : HostCmd) (s : State) : (journalCmd r op n c s).rdata = s.rdata := by simp [journalCmd]
@[simp] theorem journalCmd_fresh (r : CmdRef) (op n : Nat) (c : HostCmd) (s : State) : (journalCmd r op n c s).fresh = s.fresh := by simp [journalCmd]
@[simp] theorem journalCmd_regs (r : CmdRef) (op n : Nat) (c : HostCmd) (s : State) : (journalCmd r op n c s).regs = s.regs := by simp [journalCmd]
@[simp] theorem journalCmd_active (r : CmdRef) (op n : Nat) (c : HostCmd) (s : State) : (journalCmd r op n c s).active = s.active := by simp [journalCmd]
@[simp] theorem journalCmd_latch (r : CmdRef) (op n : Nat) (c : HostCmd) (s : State) : (journalCmd r op n c s).latch = s.latch := by simp [journalCmd]
@[simp] theorem journalCmd_time (r : CmdRef) (op n : Nat) (c : HostCmd) (s : State) : (journalCmd r op n c s).time = s.time := by simp [journalCmd]
@[simp] theorem journalCmd_rf (r : CmdRef) (op n : Nat) (c : HostCmd) (s : State) : (journalCmd r op n c s).rf = s.rf := by simp [journalCmd]
@[simp] theorem journalCmd_rx (r : CmdRef) (op n : Nat) (c : HostCmd) (s : State) : (journalCmd r op n c s).rx = s.rx := by simp [journalCmd]
@[simp] theorem journalCmd_bank (r : CmdRef) (op n : Nat) (c : HostCmd) (s : State) : (journalCmd r op n c s).bank = s.bank := by simp [journalCmd]
@[simp] theorem journalCmd_tbl (r : CmdRef) (op n : Nat) (c : HostCmd) (s : State) : (journalCmd r op n c s).tbl = s.tbl := by simp [journalCmd]
@[simp] theorem journalCmd_sch (r : CmdRef) (op n : Nat) (c : HostCmd) (s : State) : (journalCmd r op n c s).sch = s.sch := by simp [journalCmd]
@[simp] theorem journalCmd_tx (r : CmdRef) (op n : Nat) (c : HostCmd) (s : State) : (journalCmd r op n c s).tx = s.tx := by simp [journalCmd]
@[simp] theorem journalCmd_herd (r : CmdRef) (op n : Nat) (c : HostCmd) (s : State) : (journalCmd r op n c s).herd = s.herd := by simp [journalCmd]
@[simp] theorem journalCmd_adp (r : CmdRef) (op n : Nat) (c : HostCmd) (s : State) : (journalCmd r op n c s).adp = s.adp := by simp [journalCmd]
@[simp] theorem journalCmd_sec (r : CmdRef) (op n : Nat) (c : HostCmd) (s : State) : (journalCmd r op n c s).sec = s.sec := by simp [journalCmd]
@[simp] theorem journalCmd_eth (r : CmdRef) (op n : Nat) (c : HostCmd) (s : State) : (journalCmd r op n c s).eth = s.eth := by simp [journalCmd]
@[simp] theorem journalCmd_snap (r : CmdRef) (op n : Nat) (c : HostCmd) (s : State) : (journalCmd r op n c s).snap = s.snap := by simp [journalCmd]
@[simp] theorem journalCmd_snapWin (r : CmdRef) (op n : Nat) (c : HostCmd) (s : State) : (journalCmd r op n c s).snapWin = s.snapWin := by simp [journalCmd]
@[simp] theorem journalCmd_snapPorts (r : CmdRef) (op n : Nat) (c : HostCmd) (s : State) : (journalCmd r op n c s).snapPorts = s.snapPorts := by simp [journalCmd]
@[simp] theorem journalCmd_captured (r : CmdRef) (op n : Nat) (c : HostCmd) (s : State) : (journalCmd r op n c s).captured = s.captured := by simp [journalCmd]
@[simp] theorem journalCmd_hif (r : CmdRef) (op n : Nat) (c : HostCmd) (s : State) : (journalCmd r op n c s).hif = s.hif := by simp [journalCmd]
@[simp] theorem journalCmd_pair (r : CmdRef) (op n : Nat) (c : HostCmd) (s : State) : (journalCmd r op n c s).pair = s.pair := by simp [journalCmd]
@[simp] theorem journalCmd_err (r : CmdRef) (op n : Nat) (c : HostCmd) (s : State) : (journalCmd r op n c s).err = s.err := by simp [journalCmd]
@[simp] theorem journalCmd_pwr (r : CmdRef) (op n : Nat) (c : HostCmd) (s : State) : (journalCmd r op n c s).pwr = s.pwr := by simp [journalCmd]

/-! ### reserve -/
@[simp] theorem reserve_pending (r : CmdRef) (op need : Nat) (q : Option Nat) (s : State) : (reserve r op need q s).pending = s.pending := rfl
@[simp] theorem reserve_rdata (r : CmdRef) (op need : Nat) (q : Option Nat) (s : State) : (reserve r op need q s).rdata = s.rdata := rfl
@[simp] theorem reserve_fresh (r : CmdRef) (op need : Nat) (q : Option Nat) (s : State) : (reserve r op need q s).fresh = s.fresh := rfl
@[simp] theorem reserve_regs (r : CmdRef) (op need : Nat) (q : Option Nat) (s : State) : (reserve r op need q s).regs = s.regs := rfl
@[simp] theorem reserve_cnt (r : CmdRef) (op need : Nat) (q : Option Nat) (s : State) : (reserve r op need q s).cnt = s.cnt := rfl
@[simp] theorem reserve_active (r : CmdRef) (op need : Nat) (q : Option Nat) (s : State) : (reserve r op need q s).active = s.active := rfl
@[simp] theorem reserve_latch (r : CmdRef) (op need : Nat) (q : Option Nat) (s : State) : (reserve r op need q s).latch = s.latch := rfl
@[simp] theorem reserve_time (r : CmdRef) (op need : Nat) (q : Option Nat) (s : State) : (reserve r op need q s).time = s.time := rfl
@[simp] theorem reserve_rf (r : CmdRef) (op need : Nat) (q : Option Nat) (s : State) : (reserve r op need q s).rf = s.rf := rfl
@[simp] theorem reserve_rx (r : CmdRef) (op need : Nat) (q : Option Nat) (s : State) : (reserve r op need q s).rx = s.rx := rfl
@[simp] theorem reserve_bank (r : CmdRef) (op need : Nat) (q : Option Nat) (s : State) : (reserve r op need q s).bank = s.bank := rfl
@[simp] theorem reserve_tbl (r : CmdRef) (op need : Nat) (q : Option Nat) (s : State) : (reserve r op need q s).tbl = s.tbl := rfl
@[simp] theorem reserve_sch (r : CmdRef) (op need : Nat) (q : Option Nat) (s : State) : (reserve r op need q s).sch = s.sch := rfl
@[simp] theorem reserve_tx (r : CmdRef) (op need : Nat) (q : Option Nat) (s : State) : (reserve r op need q s).tx = s.tx := rfl
@[simp] theorem reserve_herd (r : CmdRef) (op need : Nat) (q : Option Nat) (s : State) : (reserve r op need q s).herd = s.herd := rfl
@[simp] theorem reserve_adp (r : CmdRef) (op need : Nat) (q : Option Nat) (s : State) : (reserve r op need q s).adp = s.adp := rfl
@[simp] theorem reserve_sec (r : CmdRef) (op need : Nat) (q : Option Nat) (s : State) : (reserve r op need q s).sec = s.sec := rfl
@[simp] theorem reserve_eth (r : CmdRef) (op need : Nat) (q : Option Nat) (s : State) : (reserve r op need q s).eth = s.eth := rfl
@[simp] theorem reserve_snap (r : CmdRef) (op need : Nat) (q : Option Nat) (s : State) : (reserve r op need q s).snap = s.snap := rfl
@[simp] theorem reserve_snapWin (r : CmdRef) (op need : Nat) (q : Option Nat) (s : State) : (reserve r op need q s).snapWin = s.snapWin := rfl
@[simp] theorem reserve_snapPorts (r : CmdRef) (op need : Nat) (q : Option Nat) (s : State) : (reserve r op need q s).snapPorts = s.snapPorts := rfl
@[simp] theorem reserve_captured (r : CmdRef) (op need : Nat) (q : Option Nat) (s : State) : (reserve r op need q s).captured = s.captured := rfl
@[simp] theorem reserve_que (r : CmdRef) (op need : Nat) (q : Option Nat) (s : State) : (reserve r op need q s).que = s.que := rfl
@[simp] theorem reserve_jrn (r : CmdRef) (op need : Nat) (q : Option Nat) (s : State) : (reserve r op need q s).jrn = s.jrn := rfl
@[simp] theorem reserve_pair (r : CmdRef) (op need : Nat) (q : Option Nat) (s : State) : (reserve r op need q s).pair = s.pair := rfl
@[simp] theorem reserve_err (r : CmdRef) (op need : Nat) (q : Option Nat) (s : State) : (reserve r op need q s).err = s.err := rfl
@[simp] theorem reserve_pwr (r : CmdRef) (op need : Nat) (q : Option Nat) (s : State) : (reserve r op need q s).pwr = s.pwr := rfl

/-! ### admitCmd -/
@[simp] theorem admitCmd_pending (r : CmdRef) (op need n : Nat) (c : HostCmd) (s : State) : (admitCmd r op need n c s).pending = s.pending := by simp [admitCmd]
@[simp] theorem admitCmd_rdata (r : CmdRef) (op need n : Nat) (c : HostCmd) (s : State) : (admitCmd r op need n c s).rdata = s.rdata := by simp [admitCmd]
@[simp] theorem admitCmd_fresh (r : CmdRef) (op need n : Nat) (c : HostCmd) (s : State) : (admitCmd r op need n c s).fresh = s.fresh := by simp [admitCmd]
@[simp] theorem admitCmd_regs (r : CmdRef) (op need n : Nat) (c : HostCmd) (s : State) : (admitCmd r op need n c s).regs = s.regs := by simp [admitCmd]
@[simp] theorem admitCmd_active (r : CmdRef) (op need n : Nat) (c : HostCmd) (s : State) : (admitCmd r op need n c s).active = s.active := by simp [admitCmd]
@[simp] theorem admitCmd_latch (r : CmdRef) (op need n : Nat) (c : HostCmd) (s : State) : (admitCmd r op need n c s).latch = s.latch := by simp [admitCmd]
@[simp] theorem admitCmd_time (r : CmdRef) (op need n : Nat) (c : HostCmd) (s : State) : (admitCmd r op need n c s).time = s.time := by simp [admitCmd]
@[simp] theorem admitCmd_rf (r : CmdRef) (op need n : Nat) (c : HostCmd) (s : State) : (admitCmd r op need n c s).rf = s.rf := by simp [admitCmd]
@[simp] theorem admitCmd_rx (r : CmdRef) (op need n : Nat) (c : HostCmd) (s : State) : (admitCmd r op need n c s).rx = s.rx := by simp [admitCmd]
@[simp] theorem admitCmd_bank (r : CmdRef) (op need n : Nat) (c : HostCmd) (s : State) : (admitCmd r op need n c s).bank = s.bank := by simp [admitCmd]
@[simp] theorem admitCmd_tbl (r : CmdRef) (op need n : Nat) (c : HostCmd) (s : State) : (admitCmd r op need n c s).tbl = s.tbl := by simp [admitCmd]
@[simp] theorem admitCmd_sch (r : CmdRef) (op need n : Nat) (c : HostCmd) (s : State) : (admitCmd r op need n c s).sch = s.sch := by simp [admitCmd]
@[simp] theorem admitCmd_tx (r : CmdRef) (op need n : Nat) (c : HostCmd) (s : State) : (admitCmd r op need n c s).tx = s.tx := by simp [admitCmd]
@[simp] theorem admitCmd_herd (r : CmdRef) (op need n : Nat) (c : HostCmd) (s : State) : (admitCmd r op need n c s).herd = s.herd := by simp [admitCmd]
@[simp] theorem admitCmd_adp (r : CmdRef) (op need n : Nat) (c : HostCmd) (s : State) : (admitCmd r op need n c s).adp = s.adp := by simp [admitCmd]
@[simp] theorem admitCmd_sec (r : CmdRef) (op need n : Nat) (c : HostCmd) (s : State) : (admitCmd r op need n c s).sec = s.sec := by simp [admitCmd]
@[simp] theorem admitCmd_eth (r : CmdRef) (op need n : Nat) (c : HostCmd) (s : State) : (admitCmd r op need n c s).eth = s.eth := by simp [admitCmd]
@[simp] theorem admitCmd_snap (r : CmdRef) (op need n : Nat) (c : HostCmd) (s : State) : (admitCmd r op need n c s).snap = s.snap := by simp [admitCmd]
@[simp] theorem admitCmd_snapWin (r : CmdRef) (op need n : Nat) (c : HostCmd) (s : State) : (admitCmd r op need n c s).snapWin = s.snapWin := by simp [admitCmd]
@[simp] theorem admitCmd_snapPorts (r : CmdRef) (op need n : Nat) (c : HostCmd) (s : State) : (admitCmd r op need n c s).snapPorts = s.snapPorts := by simp [admitCmd]
@[simp] theorem admitCmd_captured (r : CmdRef) (op need n : Nat) (c : HostCmd) (s : State) : (admitCmd r op need n c s).captured = s.captured := by simp [admitCmd]
@[simp] theorem admitCmd_pair (r : CmdRef) (op need n : Nat) (c : HostCmd) (s : State) : (admitCmd r op need n c s).pair = s.pair := by simp [admitCmd]
@[simp] theorem admitCmd_err (r : CmdRef) (op need n : Nat) (c : HostCmd) (s : State) : (admitCmd r op need n c s).err = s.err := by simp [admitCmd]
@[simp] theorem admitCmd_pwr (r : CmdRef) (op need n : Nat) (c : HostCmd) (s : State) : (admitCmd r op need n c s).pwr = s.pwr := by simp [admitCmd]

/-! ### postBy -/
@[simp] theorem postBy_pending (f : SlotSt → List CplSlot → List CplSlot) (r : CmdRef) (a b c d : Nat) (s : State) : (postBy f r a b c d s).pending = s.pending := rfl
@[simp] theorem postBy_rdata (f : SlotSt → List CplSlot → List CplSlot) (r : CmdRef) (a b c d : Nat) (s : State) : (postBy f r a b c d s).rdata = s.rdata := rfl
@[simp] theorem postBy_fresh (f : SlotSt → List CplSlot → List CplSlot) (r : CmdRef) (a b c d : Nat) (s : State) : (postBy f r a b c d s).fresh = s.fresh := rfl
@[simp] theorem postBy_regs (f : SlotSt → List CplSlot → List CplSlot) (r : CmdRef) (a b c d : Nat) (s : State) : (postBy f r a b c d s).regs = s.regs := rfl
@[simp] theorem postBy_active (f : SlotSt → List CplSlot → List CplSlot) (r : CmdRef) (a b c d : Nat) (s : State) : (postBy f r a b c d s).active = s.active := rfl
@[simp] theorem postBy_latch (f : SlotSt → List CplSlot → List CplSlot) (r : CmdRef) (a b c d : Nat) (s : State) : (postBy f r a b c d s).latch = s.latch := rfl
@[simp] theorem postBy_time (f : SlotSt → List CplSlot → List CplSlot) (r : CmdRef) (a b c d : Nat) (s : State) : (postBy f r a b c d s).time = s.time := rfl
@[simp] theorem postBy_rf (f : SlotSt → List CplSlot → List CplSlot) (r : CmdRef) (a b c d : Nat) (s : State) : (postBy f r a b c d s).rf = s.rf := rfl
@[simp] theorem postBy_rx (f : SlotSt → List CplSlot → List CplSlot) (r : CmdRef) (a b c d : Nat) (s : State) : (postBy f r a b c d s).rx = s.rx := rfl
@[simp] theorem postBy_bank (f : SlotSt → List CplSlot → List CplSlot) (r : CmdRef) (a b c d : Nat) (s : State) : (postBy f r a b c d s).bank = s.bank := rfl
@[simp] theorem postBy_tbl (f : SlotSt → List CplSlot → List CplSlot) (r : CmdRef) (a b c d : Nat) (s : State) : (postBy f r a b c d s).tbl = s.tbl := rfl
@[simp] theorem postBy_sch (f : SlotSt → List CplSlot → List CplSlot) (r : CmdRef) (a b c d : Nat) (s : State) : (postBy f r a b c d s).sch = s.sch := rfl
@[simp] theorem postBy_tx (f : SlotSt → List CplSlot → List CplSlot) (r : CmdRef) (a b c d : Nat) (s : State) : (postBy f r a b c d s).tx = s.tx := rfl
@[simp] theorem postBy_herd (f : SlotSt → List CplSlot → List CplSlot) (r : CmdRef) (a b c d : Nat) (s : State) : (postBy f r a b c d s).herd = s.herd := rfl
@[simp] theorem postBy_adp (f : SlotSt → List CplSlot → List CplSlot) (r : CmdRef) (a b c d : Nat) (s : State) : (postBy f r a b c d s).adp = s.adp := rfl
@[simp] theorem postBy_sec (f : SlotSt → List CplSlot → List CplSlot) (r : CmdRef) (a b c d : Nat) (s : State) : (postBy f r a b c d s).sec = s.sec := rfl
@[simp] theorem postBy_eth (f : SlotSt → List CplSlot → List CplSlot) (r : CmdRef) (a b c d : Nat) (s : State) : (postBy f r a b c d s).eth = s.eth := rfl
@[simp] theorem postBy_snap (f : SlotSt → List CplSlot → List CplSlot) (r : CmdRef) (a b c d : Nat) (s : State) : (postBy f r a b c d s).snap = s.snap := rfl
@[simp] theorem postBy_snapWin (f : SlotSt → List CplSlot → List CplSlot) (r : CmdRef) (a b c d : Nat) (s : State) : (postBy f r a b c d s).snapWin = s.snapWin := rfl
@[simp] theorem postBy_snapPorts (f : SlotSt → List CplSlot → List CplSlot) (r : CmdRef) (a b c d : Nat) (s : State) : (postBy f r a b c d s).snapPorts = s.snapPorts := rfl
@[simp] theorem postBy_captured (f : SlotSt → List CplSlot → List CplSlot) (r : CmdRef) (a b c d : Nat) (s : State) : (postBy f r a b c d s).captured = s.captured := rfl
@[simp] theorem postBy_que (f : SlotSt → List CplSlot → List CplSlot) (r : CmdRef) (a b c d : Nat) (s : State) : (postBy f r a b c d s).que = s.que := rfl
@[simp] theorem postBy_jrn (f : SlotSt → List CplSlot → List CplSlot) (r : CmdRef) (a b c d : Nat) (s : State) : (postBy f r a b c d s).jrn = s.jrn := rfl
@[simp] theorem postBy_pair (f : SlotSt → List CplSlot → List CplSlot) (r : CmdRef) (a b c d : Nat) (s : State) : (postBy f r a b c d s).pair = s.pair := rfl
@[simp] theorem postBy_err (f : SlotSt → List CplSlot → List CplSlot) (r : CmdRef) (a b c d : Nat) (s : State) : (postBy f r a b c d s).err = s.err := rfl
@[simp] theorem postBy_pwr (f : SlotSt → List CplSlot → List CplSlot) (r : CmdRef) (a b c d : Nat) (s : State) : (postBy f r a b c d s).pwr = s.pwr := rfl

/-! ### post -/
@[simp] theorem post_pending (r : CmdRef) (a b c d : Nat) (s : State) : (post r a b c d s).pending = s.pending := rfl
@[simp] theorem post_rdata (r : CmdRef) (a b c d : Nat) (s : State) : (post r a b c d s).rdata = s.rdata := rfl
@[simp] theorem post_fresh (r : CmdRef) (a b c d : Nat) (s : State) : (post r a b c d s).fresh = s.fresh := rfl
@[simp] theorem post_regs (r : CmdRef) (a b c d : Nat) (s : State) : (post r a b c d s).regs = s.regs := rfl
@[simp] theorem post_active (r : CmdRef) (a b c d : Nat) (s : State) : (post r a b c d s).active = s.active := rfl
@[simp] theorem post_latch (r : CmdRef) (a b c d : Nat) (s : State) : (post r a b c d s).latch = s.latch := rfl
@[simp] theorem post_time (r : CmdRef) (a b c d : Nat) (s : State) : (post r a b c d s).time = s.time := rfl
@[simp] theorem post_rf (r : CmdRef) (a b c d : Nat) (s : State) : (post r a b c d s).rf = s.rf := rfl
@[simp] theorem post_rx (r : CmdRef) (a b c d : Nat) (s : State) : (post r a b c d s).rx = s.rx := rfl
@[simp] theorem post_bank (r : CmdRef) (a b c d : Nat) (s : State) : (post r a b c d s).bank = s.bank := rfl
@[simp] theorem post_tbl (r : CmdRef) (a b c d : Nat) (s : State) : (post r a b c d s).tbl = s.tbl := rfl
@[simp] theorem post_sch (r : CmdRef) (a b c d : Nat) (s : State) : (post r a b c d s).sch = s.sch := rfl
@[simp] theorem post_tx (r : CmdRef) (a b c d : Nat) (s : State) : (post r a b c d s).tx = s.tx := rfl
@[simp] theorem post_herd (r : CmdRef) (a b c d : Nat) (s : State) : (post r a b c d s).herd = s.herd := rfl
@[simp] theorem post_adp (r : CmdRef) (a b c d : Nat) (s : State) : (post r a b c d s).adp = s.adp := rfl
@[simp] theorem post_sec (r : CmdRef) (a b c d : Nat) (s : State) : (post r a b c d s).sec = s.sec := rfl
@[simp] theorem post_eth (r : CmdRef) (a b c d : Nat) (s : State) : (post r a b c d s).eth = s.eth := rfl
@[simp] theorem post_snap (r : CmdRef) (a b c d : Nat) (s : State) : (post r a b c d s).snap = s.snap := rfl
@[simp] theorem post_snapWin (r : CmdRef) (a b c d : Nat) (s : State) : (post r a b c d s).snapWin = s.snapWin := rfl
@[simp] theorem post_snapPorts (r : CmdRef) (a b c d : Nat) (s : State) : (post r a b c d s).snapPorts = s.snapPorts := rfl
@[simp] theorem post_captured (r : CmdRef) (a b c d : Nat) (s : State) : (post r a b c d s).captured = s.captured := rfl
@[simp] theorem post_que (r : CmdRef) (a b c d : Nat) (s : State) : (post r a b c d s).que = s.que := rfl
@[simp] theorem post_jrn (r : CmdRef) (a b c d : Nat) (s : State) : (post r a b c d s).jrn = s.jrn := rfl
@[simp] theorem post_pair (r : CmdRef) (a b c d : Nat) (s : State) : (post r a b c d s).pair = s.pair := rfl
@[simp] theorem post_err (r : CmdRef) (a b c d : Nat) (s : State) : (post r a b c d s).err = s.err := rfl
@[simp] theorem post_pwr (r : CmdRef) (a b c d : Nat) (s : State) : (post r a b c d s).pwr = s.pwr := rfl

/-! ### complete -/
@[simp] theorem complete_pending (r : CmdRef) (a b c d : Nat) (s : State) : (complete r a b c d s).pending = s.pending := rfl
@[simp] theorem complete_rdata (r : CmdRef) (a b c d : Nat) (s : State) : (complete r a b c d s).rdata = s.rdata := rfl
@[simp] theorem complete_fresh (r : CmdRef) (a b c d : Nat) (s : State) : (complete r a b c d s).fresh = s.fresh := rfl
@[simp] theorem complete_regs (r : CmdRef) (a b c d : Nat) (s : State) : (complete r a b c d s).regs = s.regs := rfl
@[simp] theorem complete_active (r : CmdRef) (a b c d : Nat) (s : State) : (complete r a b c d s).active = s.active := rfl
@[simp] theorem complete_latch (r : CmdRef) (a b c d : Nat) (s : State) : (complete r a b c d s).latch = s.latch := rfl
@[simp] theorem complete_time (r : CmdRef) (a b c d : Nat) (s : State) : (complete r a b c d s).time = s.time := rfl
@[simp] theorem complete_rf (r : CmdRef) (a b c d : Nat) (s : State) : (complete r a b c d s).rf = s.rf := rfl
@[simp] theorem complete_rx (r : CmdRef) (a b c d : Nat) (s : State) : (complete r a b c d s).rx = s.rx := rfl
@[simp] theorem complete_bank (r : CmdRef) (a b c d : Nat) (s : State) : (complete r a b c d s).bank = s.bank := rfl
@[simp] theorem complete_tbl (r : CmdRef) (a b c d : Nat) (s : State) : (complete r a b c d s).tbl = s.tbl := rfl
@[simp] theorem complete_sch (r : CmdRef) (a b c d : Nat) (s : State) : (complete r a b c d s).sch = s.sch := rfl
@[simp] theorem complete_tx (r : CmdRef) (a b c d : Nat) (s : State) : (complete r a b c d s).tx = s.tx := rfl
@[simp] theorem complete_herd (r : CmdRef) (a b c d : Nat) (s : State) : (complete r a b c d s).herd = s.herd := rfl
@[simp] theorem complete_adp (r : CmdRef) (a b c d : Nat) (s : State) : (complete r a b c d s).adp = s.adp := rfl
@[simp] theorem complete_sec (r : CmdRef) (a b c d : Nat) (s : State) : (complete r a b c d s).sec = s.sec := rfl
@[simp] theorem complete_eth (r : CmdRef) (a b c d : Nat) (s : State) : (complete r a b c d s).eth = s.eth := rfl
@[simp] theorem complete_snap (r : CmdRef) (a b c d : Nat) (s : State) : (complete r a b c d s).snap = s.snap := rfl
@[simp] theorem complete_snapWin (r : CmdRef) (a b c d : Nat) (s : State) : (complete r a b c d s).snapWin = s.snapWin := rfl
@[simp] theorem complete_snapPorts (r : CmdRef) (a b c d : Nat) (s : State) : (complete r a b c d s).snapPorts = s.snapPorts := rfl
@[simp] theorem complete_captured (r : CmdRef) (a b c d : Nat) (s : State) : (complete r a b c d s).captured = s.captured := rfl
@[simp] theorem complete_que (r : CmdRef) (a b c d : Nat) (s : State) : (complete r a b c d s).que = s.que := rfl
@[simp] theorem complete_jrn (r : CmdRef) (a b c d : Nat) (s : State) : (complete r a b c d s).jrn = s.jrn := rfl
@[simp] theorem complete_pair (r : CmdRef) (a b c d : Nat) (s : State) : (complete r a b c d s).pair = s.pair := rfl
@[simp] theorem complete_err (r : CmdRef) (a b c d : Nat) (s : State) : (complete r a b c d s).err = s.err := rfl
@[simp] theorem complete_pwr (r : CmdRef) (a b c d : Nat) (s : State) : (complete r a b c d s).pwr = s.pwr := rfl

/-! ### done -/
@[simp] theorem done_pending (r : CmdRef) (s : State) : (done r s).pending = s.pending := rfl
@[simp] theorem done_rdata (r : CmdRef) (s : State) : (done r s).rdata = s.rdata := rfl
@[simp] theorem done_fresh (r : CmdRef) (s : State) : (done r s).fresh = s.fresh := rfl
@[simp] theorem done_regs (r : CmdRef) (s : State) : (done r s).regs = s.regs := rfl
@[simp] theorem done_active (r : CmdRef) (s : State) : (done r s).active = s.active := rfl
@[simp] theorem done_latch (r : CmdRef) (s : State) : (done r s).latch = s.latch := rfl
@[simp] theorem done_time (r : CmdRef) (s : State) : (done r s).time = s.time := rfl
@[simp] theorem done_rf (r : CmdRef) (s : State) : (done r s).rf = s.rf := rfl
@[simp] theorem done_rx (r : CmdRef) (s : State) : (done r s).rx = s.rx := rfl
@[simp] theorem done_bank (r : CmdRef) (s : State) : (done r s).bank = s.bank := rfl
@[simp] theorem done_tbl (r : CmdRef) (s : State) : (done r s).tbl = s.tbl := rfl
@[simp] theorem done_sch (r : CmdRef) (s : State) : (done r s).sch = s.sch := rfl
@[simp] theorem done_tx (r : CmdRef) (s : State) : (done r s).tx = s.tx := rfl
@[simp] theorem done_herd (r : CmdRef) (s : State) : (done r s).herd = s.herd := rfl
@[simp] theorem done_adp (r : CmdRef) (s : State) : (done r s).adp = s.adp := rfl
@[simp] theorem done_sec (r : CmdRef) (s : State) : (done r s).sec = s.sec := rfl
@[simp] theorem done_eth (r : CmdRef) (s : State) : (done r s).eth = s.eth := rfl
@[simp] theorem done_snap (r : CmdRef) (s : State) : (done r s).snap = s.snap := rfl
@[simp] theorem done_snapWin (r : CmdRef) (s : State) : (done r s).snapWin = s.snapWin := rfl
@[simp] theorem done_snapPorts (r : CmdRef) (s : State) : (done r s).snapPorts = s.snapPorts := rfl
@[simp] theorem done_captured (r : CmdRef) (s : State) : (done r s).captured = s.captured := rfl
@[simp] theorem done_que (r : CmdRef) (s : State) : (done r s).que = s.que := rfl
@[simp] theorem done_jrn (r : CmdRef) (s : State) : (done r s).jrn = s.jrn := rfl
@[simp] theorem done_pair (r : CmdRef) (s : State) : (done r s).pair = s.pair := rfl
@[simp] theorem done_err (r : CmdRef) (s : State) : (done r s).err = s.err := rfl
@[simp] theorem done_pwr (r : CmdRef) (s : State) : (done r s).pwr = s.pwr := rfl

/-! ### doneWith -/
@[simp] theorem doneWith_pending (r : CmdRef) (n : Nat) (s : State) : (doneWith r n s).pending = s.pending := rfl
@[simp] theorem doneWith_rdata (r : CmdRef) (n : Nat) (s : State) : (doneWith r n s).rdata = s.rdata := rfl
@[simp] theorem doneWith_fresh (r : CmdRef) (n : Nat) (s : State) : (doneWith r n s).fresh = s.fresh := rfl
@[simp] theorem doneWith_regs (r : CmdRef) (n : Nat) (s : State) : (doneWith r n s).regs = s.regs := rfl
@[simp] theorem doneWith_active (r : CmdRef) (n : Nat) (s : State) : (doneWith r n s).active = s.active := rfl
@[simp] theorem doneWith_latch (r : CmdRef) (n : Nat) (s : State) : (doneWith r n s).latch = s.latch := rfl
@[simp] theorem doneWith_time (r : CmdRef) (n : Nat) (s : State) : (doneWith r n s).time = s.time := rfl
@[simp] theorem doneWith_rf (r : CmdRef) (n : Nat) (s : State) : (doneWith r n s).rf = s.rf := rfl
@[simp] theorem doneWith_rx (r : CmdRef) (n : Nat) (s : State) : (doneWith r n s).rx = s.rx := rfl
@[simp] theorem doneWith_bank (r : CmdRef) (n : Nat) (s : State) : (doneWith r n s).bank = s.bank := rfl
@[simp] theorem doneWith_tbl (r : CmdRef) (n : Nat) (s : State) : (doneWith r n s).tbl = s.tbl := rfl
@[simp] theorem doneWith_sch (r : CmdRef) (n : Nat) (s : State) : (doneWith r n s).sch = s.sch := rfl
@[simp] theorem doneWith_tx (r : CmdRef) (n : Nat) (s : State) : (doneWith r n s).tx = s.tx := rfl
@[simp] theorem doneWith_herd (r : CmdRef) (n : Nat) (s : State) : (doneWith r n s).herd = s.herd := rfl
@[simp] theorem doneWith_adp (r : CmdRef) (n : Nat) (s : State) : (doneWith r n s).adp = s.adp := rfl
@[simp] theorem doneWith_sec (r : CmdRef) (n : Nat) (s : State) : (doneWith r n s).sec = s.sec := rfl
@[simp] theorem doneWith_eth (r : CmdRef) (n : Nat) (s : State) : (doneWith r n s).eth = s.eth := rfl
@[simp] theorem doneWith_snap (r : CmdRef) (n : Nat) (s : State) : (doneWith r n s).snap = s.snap := rfl
@[simp] theorem doneWith_snapWin (r : CmdRef) (n : Nat) (s : State) : (doneWith r n s).snapWin = s.snapWin := rfl
@[simp] theorem doneWith_snapPorts (r : CmdRef) (n : Nat) (s : State) : (doneWith r n s).snapPorts = s.snapPorts := rfl
@[simp] theorem doneWith_captured (r : CmdRef) (n : Nat) (s : State) : (doneWith r n s).captured = s.captured := rfl
@[simp] theorem doneWith_que (r : CmdRef) (n : Nat) (s : State) : (doneWith r n s).que = s.que := rfl
@[simp] theorem doneWith_jrn (r : CmdRef) (n : Nat) (s : State) : (doneWith r n s).jrn = s.jrn := rfl
@[simp] theorem doneWith_pair (r : CmdRef) (n : Nat) (s : State) : (doneWith r n s).pair = s.pair := rfl
@[simp] theorem doneWith_err (r : CmdRef) (n : Nat) (s : State) : (doneWith r n s).err = s.err := rfl
@[simp] theorem doneWith_pwr (r : CmdRef) (n : Nat) (s : State) : (doneWith r n s).pwr = s.pwr := rfl

/-! ### refuse -/
@[simp] theorem refuse_pending (r : CmdRef) (a b c : Nat) (s : State) : (refuse r a b c s).pending = s.pending := rfl
@[simp] theorem refuse_rdata (r : CmdRef) (a b c : Nat) (s : State) : (refuse r a b c s).rdata = s.rdata := rfl
@[simp] theorem refuse_fresh (r : CmdRef) (a b c : Nat) (s : State) : (refuse r a b c s).fresh = s.fresh := rfl
@[simp] theorem refuse_regs (r : CmdRef) (a b c : Nat) (s : State) : (refuse r a b c s).regs = s.regs := rfl
@[simp] theorem refuse_active (r : CmdRef) (a b c : Nat) (s : State) : (refuse r a b c s).active = s.active := rfl
@[simp] theorem refuse_latch (r : CmdRef) (a b c : Nat) (s : State) : (refuse r a b c s).latch = s.latch := rfl
@[simp] theorem refuse_time (r : CmdRef) (a b c : Nat) (s : State) : (refuse r a b c s).time = s.time := rfl
@[simp] theorem refuse_rf (r : CmdRef) (a b c : Nat) (s : State) : (refuse r a b c s).rf = s.rf := rfl
@[simp] theorem refuse_rx (r : CmdRef) (a b c : Nat) (s : State) : (refuse r a b c s).rx = s.rx := rfl
@[simp] theorem refuse_bank (r : CmdRef) (a b c : Nat) (s : State) : (refuse r a b c s).bank = s.bank := rfl
@[simp] theorem refuse_tbl (r : CmdRef) (a b c : Nat) (s : State) : (refuse r a b c s).tbl = s.tbl := rfl
@[simp] theorem refuse_sch (r : CmdRef) (a b c : Nat) (s : State) : (refuse r a b c s).sch = s.sch := rfl
@[simp] theorem refuse_tx (r : CmdRef) (a b c : Nat) (s : State) : (refuse r a b c s).tx = s.tx := rfl
@[simp] theorem refuse_herd (r : CmdRef) (a b c : Nat) (s : State) : (refuse r a b c s).herd = s.herd := rfl
@[simp] theorem refuse_adp (r : CmdRef) (a b c : Nat) (s : State) : (refuse r a b c s).adp = s.adp := rfl
@[simp] theorem refuse_sec (r : CmdRef) (a b c : Nat) (s : State) : (refuse r a b c s).sec = s.sec := rfl
@[simp] theorem refuse_eth (r : CmdRef) (a b c : Nat) (s : State) : (refuse r a b c s).eth = s.eth := rfl
@[simp] theorem refuse_snap (r : CmdRef) (a b c : Nat) (s : State) : (refuse r a b c s).snap = s.snap := rfl
@[simp] theorem refuse_snapWin (r : CmdRef) (a b c : Nat) (s : State) : (refuse r a b c s).snapWin = s.snapWin := rfl
@[simp] theorem refuse_snapPorts (r : CmdRef) (a b c : Nat) (s : State) : (refuse r a b c s).snapPorts = s.snapPorts := rfl
@[simp] theorem refuse_captured (r : CmdRef) (a b c : Nat) (s : State) : (refuse r a b c s).captured = s.captured := rfl
@[simp] theorem refuse_que (r : CmdRef) (a b c : Nat) (s : State) : (refuse r a b c s).que = s.que := rfl
@[simp] theorem refuse_jrn (r : CmdRef) (a b c : Nat) (s : State) : (refuse r a b c s).jrn = s.jrn := rfl
@[simp] theorem refuse_pair (r : CmdRef) (a b c : Nat) (s : State) : (refuse r a b c s).pair = s.pair := rfl
@[simp] theorem refuse_err (r : CmdRef) (a b c : Nat) (s : State) : (refuse r a b c s).err = s.err := rfl
@[simp] theorem refuse_pwr (r : CmdRef) (a b c : Nat) (s : State) : (refuse r a b c s).pwr = s.pwr := rfl

/-! ### useFresh -/
@[simp] theorem useFresh_pending (n : Nat) (s : State) : (useFresh n s).pending = s.pending := rfl
@[simp] theorem useFresh_rdata (n : Nat) (s : State) : (useFresh n s).rdata = s.rdata := rfl
@[simp] theorem useFresh_regs (n : Nat) (s : State) : (useFresh n s).regs = s.regs := rfl
@[simp] theorem useFresh_cnt (n : Nat) (s : State) : (useFresh n s).cnt = s.cnt := rfl
@[simp] theorem useFresh_active (n : Nat) (s : State) : (useFresh n s).active = s.active := rfl
@[simp] theorem useFresh_latch (n : Nat) (s : State) : (useFresh n s).latch = s.latch := rfl
@[simp] theorem useFresh_time (n : Nat) (s : State) : (useFresh n s).time = s.time := rfl
@[simp] theorem useFresh_rf (n : Nat) (s : State) : (useFresh n s).rf = s.rf := rfl
@[simp] theorem useFresh_rx (n : Nat) (s : State) : (useFresh n s).rx = s.rx := rfl
@[simp] theorem useFresh_bank (n : Nat) (s : State) : (useFresh n s).bank = s.bank := rfl
@[simp] theorem useFresh_tbl (n : Nat) (s : State) : (useFresh n s).tbl = s.tbl := rfl
@[simp] theorem useFresh_sch (n : Nat) (s : State) : (useFresh n s).sch = s.sch := rfl
@[simp] theorem useFresh_tx (n : Nat) (s : State) : (useFresh n s).tx = s.tx := rfl
@[simp] theorem useFresh_herd (n : Nat) (s : State) : (useFresh n s).herd = s.herd := rfl
@[simp] theorem useFresh_adp (n : Nat) (s : State) : (useFresh n s).adp = s.adp := rfl
@[simp] theorem useFresh_sec (n : Nat) (s : State) : (useFresh n s).sec = s.sec := rfl
@[simp] theorem useFresh_eth (n : Nat) (s : State) : (useFresh n s).eth = s.eth := rfl
@[simp] theorem useFresh_snap (n : Nat) (s : State) : (useFresh n s).snap = s.snap := rfl
@[simp] theorem useFresh_snapWin (n : Nat) (s : State) : (useFresh n s).snapWin = s.snapWin := rfl
@[simp] theorem useFresh_snapPorts (n : Nat) (s : State) : (useFresh n s).snapPorts = s.snapPorts := rfl
@[simp] theorem useFresh_captured (n : Nat) (s : State) : (useFresh n s).captured = s.captured := rfl
@[simp] theorem useFresh_que (n : Nat) (s : State) : (useFresh n s).que = s.que := rfl
@[simp] theorem useFresh_hif (n : Nat) (s : State) : (useFresh n s).hif = s.hif := rfl
@[simp] theorem useFresh_jrn (n : Nat) (s : State) : (useFresh n s).jrn = s.jrn := rfl
@[simp] theorem useFresh_pair (n : Nat) (s : State) : (useFresh n s).pair = s.pair := rfl
@[simp] theorem useFresh_err (n : Nat) (s : State) : (useFresh n s).err = s.err := rfl
@[simp] theorem useFresh_pwr (n : Nat) (s : State) : (useFresh n s).pwr = s.pwr := rfl

end Sys2Proof.Machine
end

