-- ==== Sys2Proof/Laws/Shared.lean ====
section
/-! SUPPORT. Everything the gates that commands share can answer: work of the core, journaled writes, admission, checks, the
journal and the records. -/
namespace Sys2Proof.Machine

/-! ## Core work and journaled writes -/

theorem coreOnly_cases (s t : State) :
    (coreRuns s = true ∧ coreOnly s t = t) ∨ (coreRuns s = false ∧ coreOnly s t = s) := by
  unfold coreOnly
  cases coreRuns s <;> simp

/-- A journaled write waits (nothing happens), is discarded with JWRDROP, or takes effect. -/
theorem jwr_cases (f : State → State) (s : State) :
    ((bar0 s = false ∨ s.pwr.preparing = true) ∧ jwr f s = s) ∨
    (bar0 s = true ∧ s.pwr.preparing = false ∧ jwrDrops s = true ∧ jwr f s = glbFlag 4 s) ∨
    (bar0 s = true ∧ s.pwr.preparing = false ∧ jwrDrops s = false ∧ jwr f s = f s) := by
  unfold jwr
  cases bar0 s <;> cases s.pwr.preparing <;> cases jwrDrops s <;> simp

/-! ## Admission and checks -/

/-- A command that was admitted, or that waits, changes nothing; one that may be admitted runs on the state its admission left;
any other is completed at its admission. -/
theorem runCmd_cases (r : CmdRef) (op need n : Nat) (c : HostCmd) (s : State) (body : State → State) :
    ((booked s r = true ∨ gateOf s r.ring op need = .wait) ∧ runCmd r op need n c s body = s) ∨
    (booked s r = false ∧ (∃ st u d, gateOf s r.ring op need = .stop st u d ∧
      runCmd r op need n c s body = refuse r st u d (admitCmd r op need n (.ended st u d) s))) ∨
    (goes s r op need = true ∧ runCmd r op need n c s body = body (admitCmd r op need n c s)) := by
  unfold runCmd booked goes
  cases hb : (admOf s r).isSome
  · cases hg : gateOf s r.ring op need with
    | wait => simp
    | stop st u d => exact .inr (.inl ⟨rfl, st, u, d, rfl, by simp⟩)
    | go => simp_all [Option.isNone_iff_eq_none]
  · simp

/-- A command that may be admitted runs on the state its admission left. -/
theorem runCmd_goes {r : CmdRef} {op need : Nat} {s : State} (n : Nat) (c : HostCmd) (body : State → State)
    (h : goes s r op need = true) : runCmd r op need n c s body = body (admitCmd r op need n c s) := by
  simp only [goes, Bool.and_eq_true, Option.isNone_iff_eq_none, beq_iff_eq] at h
  simp [runCmd, h.1, h.2]

/-- CMDDATA records touch the journal, the queues and the counters alone. -/
theorem journalData_eq (c : HostCmd) (k a n : Nat) (s : State) :
    ∃ j q w, journalData c k a n s = { s with jrn := j, que := q, cnt := w } := by
  induction k generalizing a n s with
  | zero => exact ⟨_, _, _, rfl⟩
  | succ k ih =>
    unfold journalData
    split
    · exact ⟨_, _, _, rfl⟩
    · obtain ⟨j, q, w, h⟩ := ih (a + 4064) (n - 4064) (journalMore (decide (4064 < n)) (.cmdData c a (min n 4064)) s)
      exact ⟨j, q, w, h⟩

/-- What an admission may touch: the reserved slots and the admission entry, the journal, and through its ring the queues and the
counters. -/
theorem admitCmd_eq (r : CmdRef) (op need n : Nat) (c : HostCmd) (s : State) :
    ∃ j q w, admitCmd r op need n c s = { s with
      jrn := j
      que := q
      cnt := w
      hif := (reserve r op need (if jrnWrites s then some s.jrn.seq else none) s).hif } := by
  obtain ⟨j, q, w, h⟩ := journalData_eq (unkeyed c) ((n - 4024) / 4064 + 1) 4024 (n - 4024)
    (journalMore (decide (4024 < n)) (.cmd r.ring (r.dindex % 65536) op r.tag r.asn (min n 4024) (unkeyed c))
      (reserve r op need (if jrnWrites s then some s.jrn.seq else none) s))
  exact ⟨j, q, w, h⟩

/-- Admission and completion write no output buffer; an output buffer changes nothing else. -/
@[simp] theorem admitCmd_outBuf (r : CmdRef) (op need n : Nat) (c : HostCmd) (s : State) :
    (admitCmd r op need n c s).hif.outBuf = s.hif.outBuf := by
  obtain ⟨j, q, w, h⟩ := admitCmd_eq r op need n c s
  rw [h]
  rfl

@[simp] theorem complete_outBuf (r : CmdRef) (st u res d : Nat) (s : State) :
    (complete r st u res d s).hif.outBuf = s.hif.outBuf := rfl
@[simp] theorem done_outBuf (r : CmdRef) (s : State) : (done r s).hif.outBuf = s.hif.outBuf := rfl
@[simp] theorem doneWith_outBuf (r : CmdRef) (n : Nat) (s : State) : (doneWith r n s).hif.outBuf = s.hif.outBuf := rfl

/-- The first check that holds decides; where none holds, the effect happens. -/
theorem checked_cases (r : CmdRef) (l : List (Bool × Nat × Nat × Nat)) (f : State → State) (s : State) :
    ((∀ x ∈ l, x.1 = false) ∧ checked r l f s = f s) ∨
    (∃ x ∈ l, x.1 = true ∧ checked r l f s = refuse r x.2.1 x.2.2.1 x.2.2.2 s) := by
  induction l with
  | nil => simp [checked]
  | cons x t ih =>
    obtain ⟨c, st, u, d⟩ := x
    cases c with
    | true => exact .inr ⟨(true, st, u, d), by simp, rfl, by simp [checked]⟩
    | false =>
      rcases ih with ⟨h, e⟩ | ⟨x, hx, h, e⟩
      · exact .inl ⟨by simpa using h, by simpa [checked] using e⟩
      · exact .inr ⟨x, by simp [hx], h, by simpa [checked] using e⟩

/-! ## Journal and records -/

@[simp] theorem stage_isOpen (j : JrnSt) (r : JRec) : (j.stage r).isOpen = j.isOpen := by
  unfold JrnSt.stage
  split <;> rfl

@[simp] theorem stage_seq (j : JrnSt) (r : JRec) : (j.stage r).seq = j.seq := by
  unfold JrnSt.stage
  split <;> rfl

@[simp] theorem stage_frozen (j : JrnSt) (r : JRec) : (j.stage r).frozen = j.frozen := by
  unfold JrnSt.stage
  split <;> rfl

/-- A record never opens or closes a journal. -/
@[simp] theorem journal_isOpen (b : JBody) (s : State) : (journal b s).jrn.isOpen = s.jrn.isOpen := by
  unfold journal journalMore
  cases jrnWrites s <;> simp

theorem journalMore_frozen (m : Bool) (b : JBody) (s : State) : (journalMore m b s).jrn.frozen = s.jrn.frozen := by
  unfold journalMore
  cases jrnWrites s <;> simp

theorem journalData_frozen (c : HostCmd) (k a n : Nat) (s : State) : (journalData c k a n s).jrn.frozen = s.jrn.frozen := by
  induction k generalizing a n s with
  | zero => rfl
  | succ k ih =>
    unfold journalData
    split
    · rfl
    · exact (ih _ _ _).trans (journalMore_frozen _ _ _)

/-- An admission freezes nothing. -/
@[simp] theorem admitCmd_frozen (r : CmdRef) (op need n : Nat) (c : HostCmd) (s : State) :
    (admitCmd r op need n c s).jrn.frozen = s.jrn.frozen := by
  unfold admitCmd journalCmd
  rw [journalData_frozen, journalMore_frozen]
  rfl

@[simp] theorem stage_dump (j : JrnSt) (r : JRec) : (j.stage r).dump = j.dump := by
  unfold JrnSt.stage
  split <;> rfl

theorem journalMore_dump (m : Bool) (b : JBody) (s : State) : (journalMore m b s).jrn.dump = s.jrn.dump := by
  unfold journalMore
  cases jrnWrites s <;> simp

theorem journalData_dump (c : HostCmd) (k a n : Nat) (s : State) : (journalData c k a n s).jrn.dump = s.jrn.dump := by
  induction k generalizing a n s with
  | zero => rfl
  | succ k ih =>
    unfold journalData
    split
    · rfl
    · exact (ih _ _ _).trans (journalMore_dump _ _ _)

@[simp] theorem admitCmd_dump (r : CmdRef) (op need n : Nat) (c : HostCmd) (s : State) :
    (admitCmd r op need n c s).jrn.dump = s.jrn.dump := by
  unfold admitCmd journalCmd
  rw [journalData_dump, journalMore_dump]
  rfl

@[simp] theorem stage_started (j : JrnSt) (r : JRec) : (j.stage r).started = j.started := by
  unfold JrnSt.stage
  split <;> rfl

theorem journalMore_started (m : Bool) (b : JBody) (s : State) : (journalMore m b s).jrn.started = s.jrn.started := by
  unfold journalMore
  cases jrnWrites s <;> simp

theorem journalData_started (c : HostCmd) (k a n : Nat) (s : State) : (journalData c k a n s).jrn.started = s.jrn.started := by
  induction k generalizing a n s with
  | zero => rfl
  | succ k ih =>
    unfold journalData
    split
    · rfl
    · exact (ih _ _ _).trans (journalMore_started _ _ _)

@[simp] theorem admitCmd_started (r : CmdRef) (op need n : Nat) (c : HostCmd) (s : State) :
    (admitCmd r op need n c s).jrn.started = s.jrn.started := by
  unfold admitCmd journalCmd
  rw [journalData_started, journalMore_started]
  rfl

/-- On a unit that writes no journal nothing is journaled. -/
theorem journal_off (b : JBody) (s : State) (h : jrnWrites s = false) : journal b s = s := by
  simp [journal, journalMore, h]

/-- A record that its ring takes, or that it loses, changes nothing but queues, counters and the ring's own counts. -/
theorem offerRec_off (d : Nat) (r : HRec) (s : State) (h : ringEn s (dlvCtl d) = false) :
    (offerRec d r s).que = s.que ∧ (offerRec d r s).cnt = cntBump (0xE061C + 32 * d) 0 32 1 s.cnt ∧
      (offerRec d r s).hif.dring = s.hif.dring := by
  simp [offerRec, h, bumpAll]

end Sys2Proof.Machine
end

