-- ==== Sys2Proof/Laws/Errors.lean ====
section
/-! SUPPORT. What raising an error can touch: the error FIFO, the counters, the rings and, for DEVICE_FATAL, the carriers, the
journal and the pair. -/
namespace Sys2Proof.Machine

/-- Nothing is sent to a peer that is not linked. -/
theorem sendPair_off (k v : Nat) (s : State) (h : s.pair.link = false) : sendPair k v s = s := by
  simp only [sendPair, withPair, h, Bool.false_eq_true, if_false]
  rw [← h]

/-- The parts of the state that no error record touches. -/
def errFrame (s : State) := (s.sec, s.regs, s.time, s.tbl, s.sch, s.herd, s.adp, s.eth, s.bank, s.active, s.fresh, s.pwr)

theorem foldl_errFrame {α : Type} (f : State → α → State) (h : ∀ s x, errFrame (f s x) = errFrame s) (l : List α) (s : State) :
    errFrame (l.foldl f s) = errFrame s := by
  induction l generalizing s with
  | nil => rfl
  | cons a l ih => rw [List.foldl_cons, ih, h]

theorem eventIf_errFrame (c : Bool) (k : Nat) (l : List Nat) (s : State) : errFrame (eventIf c k l s) = errFrame s := by
  cases c <;> rfl

theorem gapOut_errFrame (s : State) (d : Nat) : errFrame (gapOut s d) = errFrame s := by
  unfold gapOut
  simp only
  split
  · split <;> rfl
  · rfl

theorem fatalReport_errFrame (r : ErrRec) (s : State) : errFrame (fatalReport r s) = errFrame s := by
  have hm : ∀ (v : Nat) (x : State), errFrame (sendMsi v x) = errFrame x := fun _ _ => rfl
  have hp : ∀ (q : ErrRec) (x : State), errFrame (postErr q x) = errFrame x := fun _ _ => rfl
  have hq : ∀ (x : State) (q : Nat), errFrame (gapAll q x) = errFrame x := fun _ _ => rfl
  have ha : ∀ (x : State) (a : Adm), errFrame (refuse a.ref stAbort r.unit 0 x) = errFrame x := fun _ _ => rfl
  simp only [fatalReport, gapRings]
  rw [hm, hp, foldl_errFrame _ gapOut_errFrame, foldl_errFrame _ hq, foldl_errFrame _ ha]

theorem deviceFatal_errFrame (r : ErrRec) (s : State) : errFrame (deviceFatal r s) = errFrame s := by
  have hf : ∀ x : State, errFrame (freezeFor 3 x) = errFrame x := fun x => by
    unfold freezeFor
    exact eventIf_errFrame _ _ _ _
  have hd : ∀ x : State, errFrame (enterDiverged 4 false x) = errFrame x := fun x => by
    unfold enterDiverged setPair
    exact eventIf_errFrame _ _ _ _
  unfold deviceFatal
  simp only
  split
  · show errFrame (enterDiverged 4 false _) = _
    rw [hd]
    split
    · rw [fatalReport_errFrame, hf]; rfl
    · rw [hf]; rfl
  · split
    · rw [fatalReport_errFrame, hf]; rfl
    · rw [hf]; rfl

/-- An error record reaches the FIFO, the counters and the rings; DEVICE_FATAL stops carriers, freezes the journal and diverges a
follower. No table, register, key or clock changes. -/
theorem raiseErr_errFrame (a b c d e f g : Nat) (s : State) : errFrame (raiseErr a b c d e f g s) = errFrame s := by
  unfold raiseErr
  split
  · rfl
  · simp only
    generalize (if (s.err.busy && decide (b < 3) && (s.err.fifo.head?.map ErrRec.unit) == some c) = true then b + 1 else b) = k
    by_cases h0 : k = 0
    · simp only [h0, if_true]
      split
      · rfl
      · split <;> rfl
    · simp only [h0, if_false]
      split
      · rfl
      · split
        · rw [deviceFatal_errFrame]; rfl
        · rfl

@[simp] theorem raiseErr_sec (a b c d e f g : Nat) (s : State) : (raiseErr a b c d e f g s).sec = s.sec :=
  congrArg (·.1) (raiseErr_errFrame a b c d e f g s)
@[simp] theorem raiseErr_regs (a b c d e f g : Nat) (s : State) : (raiseErr a b c d e f g s).regs = s.regs :=
  congrArg (·.2.1) (raiseErr_errFrame a b c d e f g s)
@[simp] theorem raiseErr_time (a b c d e f g : Nat) (s : State) : (raiseErr a b c d e f g s).time = s.time :=
  congrArg (·.2.2.1) (raiseErr_errFrame a b c d e f g s)
@[simp] theorem raiseErr_tbl (a b c d e f g : Nat) (s : State) : (raiseErr a b c d e f g s).tbl = s.tbl :=
  congrArg (·.2.2.2.1) (raiseErr_errFrame a b c d e f g s)
@[simp] theorem raiseErr_pwr (a b c d e f g : Nat) (s : State) : (raiseErr a b c d e f g s).pwr = s.pwr :=
  congrArg (·.2.2.2.2.2.2.2.2.2.2.2) (raiseErr_errFrame a b c d e f g s)

/-! ## What a stop leaves (R491) -/

/-- The error unit and the pair state. -/
def errPair (s : State) := (s.err, s.pair)

theorem foldl_errPair {α : Type} (f : State → α → State) (h : ∀ s x, errPair (f s x) = errPair s) (l : List α) (s : State) :
    errPair (l.foldl f s) = errPair s := by
  induction l generalizing s with
  | nil => rfl
  | cons a l ih => rw [List.foldl_cons, ih, h]

theorem eventIf_errPair (c : Bool) (k : Nat) (l : List Nat) (s : State) : errPair (eventIf c k l s) = errPair s := by
  cases c <;> rfl

theorem gapOut_errPair (s : State) (d : Nat) : errPair (gapOut s d) = errPair s := by
  unfold gapOut
  simp only
  split
  · split <;> rfl
  · rfl

theorem fatalReport_errPair (r : ErrRec) (s : State) : errPair (fatalReport r s) = errPair s := by
  have hm : ∀ (v : Nat) (x : State), errPair (sendMsi v x) = errPair x := fun _ _ => rfl
  have hp : ∀ (q : ErrRec) (x : State), errPair (postErr q x) = errPair x := fun _ _ => rfl
  have hq : ∀ (x : State) (q : Nat), errPair (gapAll q x) = errPair x := fun _ _ => rfl
  have ha : ∀ (x : State) (a : Adm), errPair (refuse a.ref stAbort r.unit 0 x) = errPair x := fun _ _ => rfl
  simp only [fatalReport, gapRings]
  rw [hm, hp, foldl_errPair _ gapOut_errPair, foldl_errPair _ hq, foldl_errPair _ ha]

theorem closeJournal_err (k : Nat) (s : State) : (closeJournal k s).err = s.err := rfl

/-- A unit that diverges drives no PAIR_ACTIVE; its error unit stays. -/
theorem enterDiverged_stops (k : Nat) (m : Bool) (s : State) :
    (enterDiverged k m s).err = s.err ∧ (enterDiverged k m s).pair.activeOut = false := by
  have hs : ∀ x : State, errPair (setPair .diverged k x) = errPair (withPair (fun p => { p with st := .diverged, activeOut := false }) x) := by
    intro x
    unfold setPair
    rw [eventIf_errPair]; rfl
  unfold enterDiverged
  refine ⟨(congrArg Prod.fst (hs _)).trans ?_, (congrArg (fun x => x.2.activeOut) (hs _)).trans rfl⟩
  exact closeJournal_err 2 (stopCarriers s)

/-- A DEVICE_FATAL error leaves the device stopped and PAIR_ACTIVE inactive. -/
theorem deviceFatal_stops (r : ErrRec) (s : State) :
    (deviceFatal r s).err.devFatal = true ∧ (deviceFatal r s).pair.activeOut = false := by
  have hf : ∀ x : State, errPair (freezeFor 3 x) = errPair x := fun x => by
    unfold freezeFor
    exact eventIf_errPair _ _ _ _
  have hi : ∀ (k : Nat) (l : List Nat) (x : State), (event k l x).err = x.err ∧ (event k l x).pair = x.pair := fun _ _ _ => ⟨rfl, rfl⟩
  have key : ∀ x : State, errPair x = errPair ({ sendPair 1 (asnNow s) (stopCarriers s) with
      pair := { (sendPair 1 (asnNow s) (stopCarriers s)).pair with activeOut := false }
      err := { (sendPair 1 (asnNow s) (stopCarriers s)).err with
        fatal := some ((sendPair 1 (asnNow s) (stopCarriers s)).err.fatal.getD r)
        devFatal := true } }) → x.err.devFatal = true ∧ x.pair.activeOut = false := by
    intro x h
    exact ⟨congrArg (fun y => y.1.devFatal) h, congrArg (fun y => y.2.activeOut) h⟩
  unfold deviceFatal
  simp only
  generalize hv : (if s.pair.st = .solo ∧ (!s.offline 11) = true then fatalReport r (freezeFor 3 _) else freezeFor 3 _) = v
  have kv : v.err.devFatal = true ∧ v.pair.activeOut = false := by
    rw [← hv]
    split
    · exact key _ ((fatalReport_errPair _ _).trans (hf _))
    · exact key _ (hf _)
  split
  · have h := enterDiverged_stops 4 false v
    exact ⟨(congrArg ErrSt.devFatal ((hi _ _ _).1.trans h.1)).trans kv.1, (congrArg PairSt.activeOut (hi _ _ _).2).trans h.2⟩
  · exact kv

end Sys2Proof.Machine
end

