-- ==== Sys2Proof/Laws/Frames.lean ====
section
/-! SUPPORT. What the final outcome of a frame may touch: each operation of Machine/Frames.lean leaves everything but the fields
that its lemma names. -/
namespace Sys2Proof.Machine

/-- A completion touches the completion rings, the admission entries and the counters alone. -/
theorem complete_eq (r : CmdRef) (st u res d : Nat) (s : State) : ∃ h w, complete r st u res d s = { s with hif := h, cnt := w } :=
  ⟨_, _, rfl⟩

theorem partDone_eq (r : CmdRef) (part st : Nat) (s : State) :
    ∃ h w x, partDone r part st s = { s with hif := h, cnt := w, tx := x } := by
  unfold partDone
  split
  · exact ⟨_, _, _, rfl⟩
  · dsimp only
    split
    · exact ⟨_, _, _, rfl⟩
    · exact ⟨_, _, _, rfl⟩

theorem endFrame_eq (st : Nat) (f : Frame) (s : State) :
    ∃ h w x q t, endFrame st f s = { s with hif := h, cnt := w, tx := x, que := q, tbl := { s.tbl with nodes := t } } := by
  unfold endFrame
  split
  · rename_i r _
    obtain ⟨h, w, x, e⟩ := partDone_eq r f.part st (withNodes (fun l => l.map (fun n => { n with dl := n.dl.filter (· != f.id) }))
      { s with
        que := releaseIn s f.cells s.que
        tx := { s.tx with
          frames := s.tx.frames.filter (fun g => g.id != f.id)
          bulk := s.tx.bulk.filter (· != f.id) } })
    exact ⟨h, w, x, _, _, e⟩
  · exact ⟨_, _, _, _, _, rfl⟩

theorem foldl_endFrame_eq (st : Nat) (l : List Frame) (s : State) :
    ∃ h w x q t, l.foldl (fun u g => endFrame st g u) s = { s with hif := h, cnt := w, tx := x, que := q, tbl := { s.tbl with nodes := t } } := by
  induction l generalizing s with
  | nil => exact ⟨_, _, _, _, _, rfl⟩
  | cons f l ih =>
    obtain ⟨h, w, x, q, t, e⟩ := endFrame_eq st f s
    obtain ⟨h', w', x', q', t', e'⟩ := ih (endFrame st f s)
    exact ⟨h', w', x', q', t', by rw [List.foldl_cons, e', e]⟩

/-- The final outcome of a frame touches packet memory, its lists, its command's completion, tombstones and counters alone. -/
theorem frameDone_eq (id st : Nat) (s : State) :
    ∃ h w x q t, frameDone id st s = { s with hif := h, cnt := w, tx := x, que := q, tbl := { s.tbl with nodes := t } } := by
  unfold frameDone
  split
  · rename_i f _
    obtain ⟨h, w, x, q, t, e⟩ := foldl_endFrame_eq st (endsWith s st f) s
    rw [e]
    exact ⟨_, _, _, _, _, rfl⟩
  · exact ⟨_, _, _, _, _, rfl⟩

theorem lastTry_eq (id st : Nat) (s : State) :
    ∃ h w x q t, lastTry id st s = { s with hif := h, cnt := w, tx := x, que := q, tbl := { s.tbl with nodes := t } } := by
  unfold lastTry
  split
  · split
    · exact frameDone_eq id st s
    · exact ⟨_, _, _, _, _, rfl⟩
  · exact ⟨_, _, _, _, _, rfl⟩

theorem foldl_lastTry_eq (st : Nat) (l : List Nat) (s : State) :
    ∃ h w x q t, l.foldl (fun u g => lastTry g st u) s = { s with hif := h, cnt := w, tx := x, que := q, tbl := { s.tbl with nodes := t } } := by
  induction l generalizing s with
  | nil => exact ⟨_, _, _, _, _, rfl⟩
  | cons f l ih =>
    obtain ⟨h, w, x, q, t, e⟩ := lastTry_eq f st s
    obtain ⟨h', w', x', q', t', e'⟩ := ih (lastTry f st s)
    exact ⟨h', w', x', q', t', by rw [List.foldl_cons, e', e]⟩

theorem framesDone_eq (l : List Nat) (st : Nat) (s : State) :
    ∃ h w x q t, framesDone l st s = { s with hif := h, cnt := w, tx := x, que := q, tbl := { s.tbl with nodes := t } } := by
  unfold framesDone
  induction l generalizing s with
  | nil => exact ⟨_, _, _, _, _, rfl⟩
  | cons f l ih =>
    obtain ⟨h, w, x, q, t, e⟩ := frameDone_eq f st s
    obtain ⟨h', w', x', q', t', e'⟩ := ih (frameDone f st s)
    exact ⟨h', w', x', q', t', by rw [List.foldl_cons, e', e]⟩

/-! ## Time -/

/-- A step moves the timebase and is over; it touches neither registers nor bank nor schedule nor keys. -/
theorem takeStep_spec (q : StepReq) (s : State) :
    (takeStep q s).time.tb = s.time.tb + q.step ∧ (takeStep q s).time.step = none ∧
      (takeStep q s).time.stepSum = s.time.stepSum + q.step ∧
      (takeStep q s).time.srcs = (s.time.srcs.map (SrcSt.shift q.step)).map SrcSt.span ∧
      (takeStep q s).regs = s.regs ∧ (takeStep q s).bank = s.bank ∧ (takeStep q s).sch = s.sch ∧
      (takeStep q s).sec.slots = s.sec.slots := by
  unfold takeStep
  simp only
  generalize hl : List.filterMap Tx.frame _ = l
  generalize hv : ({ shiftTimes (q.step : Int) s with time := _, tx := _ } : State) = v
  obtain ⟨h, w, x, p, t, e⟩ := foldl_lastTry_eq stNoNode l v
  rw [e]
  subst hv
  simp [sweepTombs, withNodes, shiftTimes, TimeSt.shift, mv]
  omega

end Sys2Proof.Machine
end

