-- ==== Sys2Proof/Laws/Pair.lean ====
section
/-! SUPPORT. What the moves of the pair state machine do. -/
namespace Sys2Proof.Machine

/-- A change of the pair state: PAIR_ACTIVE follows it, an event is raised; the replay's keys and the rest stay. -/
theorem setPair_spec (n : PairState) (trig : Nat) (x : State) : (setPair n trig x).pair.st = n ∧
    (setPair n trig x).pair.activeOut = (n == .solo || n == .active) ∧ (setPair n trig x).pair.store = x.pair.store ∧
    (setPair n trig x).tbl = x.tbl ∧ (setPair n trig x).sch = x.sch ∧ (setPair n trig x).regs = x.regs ∧ (setPair n trig x).sec = x.sec := by
  unfold setPair eventIf
  dsimp only
  split <;> simp [withPair]

/-- A joiner whose active unit is lost waits without core state. -/
theorem activeLost_spec (x : State) : (activeLost x).pair.wait = true ∧ (activeLost x).pair.peerOk = false ∧
    (activeLost x).tbl = TblSt.reset ∧ (activeLost x).sch = SchSt.reset ∧ (activeLost x).regs = x.regs := by
  unfold activeLost joinFailed
  generalize hy : withPair _ (clearCore x) = y
  have f : y.pair.wait = true ∧ y.pair.peerOk = false ∧ y.tbl = TblSt.reset ∧ y.sch = SchSt.reset ∧ y.regs = x.regs := by
    subst hy
    exact ⟨rfl, rfl, rfl, rfl, rfl⟩
  unfold endJoin
  split <;> simpa [withPair, bump] using f

/-- An active unit that stops is DIVERGED with its journal closed; keys and registers stay. -/
theorem yieldActive_spec (n : Nat) (x : State) : (yieldActive n x).pair.st = .diverged ∧ (yieldActive n x).pair.activeOut = false ∧
    (yieldActive n x).pair.peerOk = false ∧ (yieldActive n x).jrn.isOpen = false ∧ (yieldActive n x).sec = x.sec ∧
    (yieldActive n x).regs = x.regs ∧ (yieldActive n x).pair.failIn = x.pair.failIn := by
  unfold yieldActive enterDiverged
  generalize hy : closeJournal 2 (stopCarriers (withPair (fun p => { p with peerOk := false }) x)) = y
  have f : y.pair.peerOk = false ∧ y.jrn.isOpen = false ∧ y.sec = x.sec ∧ y.regs = x.regs ∧ y.pair.failIn = x.pair.failIn := by
    subst hy
    exact ⟨rfl, rfl, rfl, rfl, rfl⟩
  obtain ⟨f1, f2, f3, f4, f5⟩ := f
  simp only [setPair, eventIf]
  split <;> exact ⟨rfl, rfl, f1, f2, f3, f4, f5⟩

end Sys2Proof.Machine
end

