-- ==== Sys2Proof/Laws/Power.lean ====
section
/-! SUPPORT. What the parts of a power change may touch: ports that return, Ethernet ports, queues that are emptied and rings that
are written out. -/
namespace Sys2Proof.Machine

theorem foldl_done_eq (l : List (CmdRef × PortState)) (s : State) :
    ∃ h w, l.foldl (fun u x => done x.1 u) s = { s with hif := h, cnt := w } := by
  induction l generalizing s with
  | nil => exact ⟨_, _, rfl⟩
  | cons x l ih =>
    obtain ⟨h, w, e⟩ := ih (done x.1 s)
    exact ⟨h, w, by rw [List.foldl_cons, e]; rfl⟩

theorem portReached_eq (p : Nat) (s : State) : ∃ r h w, portReached p s = { s with rf := r, hif := h, cnt := w } := by
  unfold portReached
  dsimp only
  split
  · obtain ⟨h, w, e⟩ := foldl_done_eq (portOf s p).waiting (modPort p (fun y => { y with waiting := [] }) s)
    exact ⟨_, h, w, e⟩
  · exact ⟨_, _, _, rfl⟩

/-- Ports that return touch the ports and the completions of their commands alone. -/
theorem returnPorts_eq (s : State) : ∃ r h w, returnPorts s = { s with rf := r, hif := h, cnt := w } := by
  have hs : ∀ (u : State) (p : Nat) (f : Port → Port), ∃ r h w, portReached p (modPort p f u) = { u with rf := r, hif := h, cnt := w } := by
    intro u p f
    obtain ⟨r, h, w, e⟩ := portReached_eq p (modPort p f u)
    exact ⟨r, h, w, e⟩
  unfold returnPorts
  generalize [0, 1, 2, 3, 4, 5] = l
  induction l generalizing s with
  | nil => exact ⟨_, _, _, rfl⟩
  | cons p l ih =>
    rw [List.foldl_cons]
    dsimp only
    split
    · exact ih s
    · obtain ⟨r, h, w, e⟩ := hs s p (startTo s p s.time.tb
        (if isOut p && wanted s p != .off && !portsHeld s && !(portOf s p).failed then
          (if (portOf s p).st = .off ∧ txReturn s p = .off ∧ (portOf s p).waiting = [] then .off else .idle) else restOf s p))
      rw [e]
      obtain ⟨r', h', w', e'⟩ := ih { s with rf := r, hif := h, cnt := w }
      exact ⟨r', h', w', e'⟩

theorem ethDown_eq (p : Nat) (s : State) : ∃ x q w, ethDown p s = { s with eth := x, que := q, cnt := w } := by
  simp only [ethDown, drainEth, modEth, emptyQueue, bumpN]
  exact ⟨_, _, _, rfl⟩

/-- An Ethernet port that comes up or goes down touches Ethernet, the queues, the journal's records and the counters. -/
theorem ethEval_eq (p : Nat) (s : State) : ∃ x q j h w, ethEval p s = { s with eth := x, que := q, jrn := j, hif := h, cnt := w } := by
  have hz : ∃ x q w, (if ethUp s p then ethRise p s else ethDown p s) = { s with eth := x, que := q, cnt := w } := by
    split
    · exact ⟨_, _, _, rfl⟩
    · exact ethDown_eq p s
  obtain ⟨x, q, w, hz⟩ := hz
  unfold ethEval
  dsimp only
  split
  · exact ⟨_, _, _, _, _, rfl⟩
  · rw [hz]
    exact ⟨_, _, _, _, _, rfl⟩

theorem deliverHead_eq (d : Nat) (x : DRing) (l : List EgItem) (s : State) : ∃ q h, deliverHead d x l s = { s with que := q, hif := h } := by
  unfold deliverHead
  dsimp only
  split
  · split
    · exact ⟨_, _, rfl⟩
    · exact ⟨_, _, rfl⟩
  · exact ⟨_, _, rfl⟩
  · exact ⟨_, _, rfl⟩
  · exact ⟨_, _, rfl⟩

theorem flushRing_eq (d n : Nat) (s : State) : ∃ q h, flushRing d n s = { s with que := q, hif := h } := by
  induction n generalizing s with
  | zero => exact ⟨_, _, rfl⟩
  | succ n ih =>
    unfold flushRing
    split
    · rename_i x _
      split
      · obtain ⟨q, h, e⟩ := deliverHead_eq d x (s.que.egress.getD (dlvQueue d) []) s
        obtain ⟨q', h', e'⟩ := ih (deliverHead d x (s.que.egress.getD (dlvQueue d) []) s)
        exact ⟨q', h', by rw [e', e]⟩
      · exact ⟨_, _, rfl⟩
    · exact ⟨_, _, rfl⟩

theorem flushAll_eq (s : State) : ∃ q h w, flushAll s = { s with que := q, hif := h, cnt := w } := by
  unfold flushAll
  generalize List.range 10 = l
  induction l generalizing s with
  | nil => exact ⟨_, _, _, rfl⟩
  | cons d l ih =>
    rw [List.foldl_cons]
    obtain ⟨q, h, e⟩ := flushRing_eq d (s.que.egress.getD (dlvQueue d) []).length s
    obtain ⟨q', h', w', e'⟩ := ih (dropWaiting d (flushRing d (s.que.egress.getD (dlvQueue d) []).length s))
    exact ⟨q', h', w', by rw [e', e]; rfl⟩

theorem flushCpl_eq (s : State) : ∃ h, flushCpl s = { s with hif := h } := by
  unfold flushCpl
  split <;> exact ⟨_, rfl⟩

/-- What KEEP drops: frames, transmissions, reassembly contexts and packets for Ethernet. -/
theorem keepDrop_eq (s : State) : ∃ h w x q t a, keepDrop s = { s with hif := h, cnt := w, tx := x, que := q, tbl := { s.tbl with nodes := t }, adp := a } := by
  unfold keepDrop
  dsimp only
  obtain ⟨h, w, x, q, t, e⟩ := framesDone_eq (s.tbl.nodes.flatMap Node.dl ++ s.tx.bulk) stAbort { s with tx := { s.tx with txs := [] } }
  have h1 : ∀ (l : List ReCtx) (u : State), ∃ q a, l.foldl (fun v c => dropCtx c v) u = { u with que := q, adp := a } := by
    intro l
    induction l with
    | nil => intro u; exact ⟨_, _, rfl⟩
    | cons c l ih =>
      intro u
      obtain ⟨q, a, e⟩ := ih (dropCtx c u)
      exact ⟨q, a, by rw [List.foldl_cons, e]; rfl⟩
  have h2 : ∀ (l : List Nat) (u : State), ∃ q w,
      l.foldl (fun v q => bumpN (0xD00C0 + 4 * q) (v.que.egress.getD q []).length (emptyQueue q v)) u = { u with que := q, cnt := w } := by
    intro l
    induction l with
    | nil => intro u; exact ⟨_, _, rfl⟩
    | cons c l ih =>
      intro u
      obtain ⟨q, a, e⟩ := ih (bumpN (0xD00C0 + 4 * c) (u.que.egress.getD c []).length (emptyQueue c u))
      exact ⟨q, a, by rw [List.foldl_cons, e]; rfl⟩
  rw [e]
  obtain ⟨q1, a1, e1⟩ := h1 s.adp.ctxs { s with hif := h, cnt := w, tx := x, que := q, tbl := { s.tbl with nodes := t } }
  obtain ⟨q2, w2, e2⟩ := h2 [0, 1, 2, 3] { s with hif := h, cnt := w, tx := x, que := q1, tbl := { s.tbl with nodes := t }, adp := a1 }
  refine ⟨h, w2, x, q2, t, a1, ?_⟩
  show List.foldl _ (List.foldl _ _ s.adp.ctxs) _ = _
  rw [e1, e2]

theorem partDone_txs (r : CmdRef) (part st : Nat) (s : State) : (partDone r part st s).tx.txs = s.tx.txs := by
  unfold partDone
  split
  · rfl
  · dsimp only
    split <;> rfl

theorem framesDone_txs (l : List Nat) (st : Nat) (s : State) : (framesDone l st s).tx.txs = s.tx.txs := by
  have h1 : ∀ (f : Frame) (u : State), (endFrame st f u).tx.txs = u.tx.txs := by
    intro f u
    unfold endFrame
    dsimp only
    split
    · rw [partDone_txs]; rfl
    · rfl
  have h2 : ∀ (l : List Frame) (u : State), (l.foldl (fun u g => endFrame st g u) u).tx.txs = u.tx.txs := by
    intro l
    induction l with
    | nil => intro u; rfl
    | cons f l ih => intro u; rw [List.foldl_cons, ih, h1]
  unfold framesDone
  induction l generalizing s with
  | nil => rfl
  | cons i l ih =>
    rw [List.foldl_cons, ih]
    unfold frameDone
    split
    · exact h2 _ s
    · rfl

/-- KEEP drops every transmission. -/
theorem keepDrop_txs (s : State) : ∃ h w x q t a,
    keepDrop s = { s with hif := h, cnt := w, tx := x, que := q, tbl := { s.tbl with nodes := t }, adp := a } ∧ x.txs = [] := by
  obtain ⟨h, w, x, q, t, a, e⟩ := keepDrop_eq s
  refine ⟨h, w, x, q, t, a, e, ?_⟩
  have hx : (keepDrop s).tx = x := by rw [e]
  rw [← hx]
  unfold keepDrop
  dsimp only
  have h1 : ∀ (l : List ReCtx) (u : State), (l.foldl (fun v c => dropCtx c v) u).tx = u.tx := by
    intro l
    induction l with
    | nil => intro u; rfl
    | cons c l ih => intro u; rw [List.foldl_cons, ih]; rfl
  have h2 : ∀ (l : List Nat) (u : State),
      (l.foldl (fun v q => bumpN (0xD00C0 + 4 * q) (v.que.egress.getD q []).length (emptyQueue q v)) u).tx = u.tx := by
    intro l
    induction l with
    | nil => intro u; rfl
    | cons c l ih => intro u; rw [List.foldl_cons, ih]; rfl
  rw [h2, h1, framesDone_txs]

theorem closeJournal_eq (n : Nat) (s : State) :
    ∃ j q w, closeJournal n s = { s with jrn := j, que := q, cnt := w } ∧ j.isOpen = false := ⟨_, _, _, rfl, rfl⟩

/-- What has happened when KEEP's records, completions and frames are dealt with. -/
theorem keepWritten_eq (r : CmdRef) (s : State) : ∃ h w x q n a j,
    flushCpl (done r (flushAll (closeJournal 0 (keepDrop s)))) =
      { s with hif := h, cnt := w, tx := x, que := q, tbl := { s.tbl with nodes := n }, adp := a, jrn := j } ∧ j.isOpen = false ∧ x.txs = [] := by
  obtain ⟨h, w, x, q, n, a, ek, hx⟩ := keepDrop_txs s
  obtain ⟨j, q1, w1, ej, hj⟩ := closeJournal_eq 0 (keepDrop s)
  obtain ⟨q2, h2, w2, ea⟩ := flushAll_eq (closeJournal 0 (keepDrop s))
  obtain ⟨h3, w3, ed⟩ := complete_eq r stOk 0 0 0 (flushAll (closeJournal 0 (keepDrop s)))
  obtain ⟨h4, ec⟩ := flushCpl_eq (done r (flushAll (closeJournal 0 (keepDrop s))))
  change done r _ = _ at ed
  refine ⟨h4, w3, x, q2, n, a, j, ?_, hj, hx⟩
  rw [ec, ed, ea, ej, ek]

/-- The clock only moves forward. -/
theorem reach_le (n : Nat) (s : State) : s.time.tb ≤ (reach n s).time.tb := by
  simp only [reach, TimeSt.reach]
  exact Nat.le_max_left _ _

/-- The transactions that a wake or a lost node closes: Herd's list, their nodes' numbers, events and counters. -/
theorem sixpClosed_eq (i : Nat) (s : State) : ∃ q h w t, sixpClosed i s =
    { s with que := q, hif := h, cnt := w, tbl := { s.tbl with nodes := t }, herd := { s.herd with sixp := s.herd.sixp.filter (fun x => x.node != i) } } :=
  ⟨_, _, _, _, rfl⟩

theorem closeSixps_eq (s : State) (h0 : s.herd.sixp = []) :
    ∃ q h w t, closeSixps s = { s with que := q, hif := h, cnt := w, tbl := { s.tbl with nodes := t } } ∧ (s.tbl.nodes = [] → t = []) := by
  by_cases hn : s.tbl.nodes = []
  · refine ⟨s.que, s.hif, s.cnt, s.tbl.nodes, ?_, id⟩
    unfold closeSixps
    simp [hn]
    rw [← hn]
  · unfold closeSixps
    generalize (s.tbl.nodes.filter (fun n => n.herd.txn != 0)).map Node.idx = l
    suffices h : ∃ q h w t, l.foldl (fun u i => sixpClosed i u) s = { s with que := q, hif := h, cnt := w, tbl := { s.tbl with nodes := t } } by
      obtain ⟨q, h, w, t, e⟩ := h
      exact ⟨q, h, w, t, e, fun h => absurd h hn⟩
    clear hn
    induction l generalizing s with
    | nil => exact ⟨_, _, _, _, rfl⟩
    | cons i l ih =>
      rw [List.foldl_cons]
      obtain ⟨q, h, w, t, e⟩ := sixpClosed_eq i s
      have h1 : (sixpClosed i s).herd.sixp = [] := by rw [e]; simp [h0]
      obtain ⟨q', h', w', t', e'⟩ := ih (sixpClosed i s) h1
      refine ⟨q', h', w', t', ?_⟩
      rw [e', e]
      simp only [h0, List.filter_nil]
      rw [← h0]

/-- Closing the transactions of a list of nodes: their numbers become 0, their entries leave Herd's list; the rest but queues, rings
and counters stays. -/
theorem sixpsClosed_spec (l : List Nat) (s : State) : ∃ q h w, l.foldl (fun u i => sixpClosed i u) s =
    { s with
      que := q
      hif := h
      cnt := w
      tbl := { s.tbl with nodes := s.tbl.nodes.map (fun n => if n.idx ∈ l then { n with herd := { n.herd with txn := 0 } } else n) }
      herd := { s.herd with sixp := s.herd.sixp.filter (fun x => decide (x.node ∉ l)) } } := by
  induction l generalizing s with
  | nil =>
    have e1 : s.tbl.nodes.map (fun n => if n.idx ∈ ([] : List Nat) then { n with herd := { n.herd with txn := 0 } } else n) = s.tbl.nodes := by
      rw [show (fun n : Node => if n.idx ∈ ([] : List Nat) then { n with herd := { n.herd with txn := 0 } } else n) = id from rfl, List.map_id]
    have e2 : s.herd.sixp.filter (fun x => decide (x.node ∉ ([] : List Nat))) = s.herd.sixp := List.filter_eq_self.mpr (by simp)
    refine ⟨s.que, s.hif, s.cnt, ?_⟩
    rw [e1, e2]
    rfl
  | cons i l ih =>
    rw [List.foldl_cons]
    obtain ⟨q, h, w, e⟩ := ih (sixpClosed i s)
    refine ⟨q, h, w, ?_⟩
    rw [e]
    have e1 : (sixpClosed i s).tbl.nodes = s.tbl.nodes.map (fun n => if n.idx = i then { n with herd := { n.herd with txn := 0 } } else n) := rfl
    have e2 : (sixpClosed i s).herd.sixp = s.herd.sixp.filter (fun x => x.node != i) := rfl
    have e3 : (sixpClosed i s).tbl = { s.tbl with nodes := (sixpClosed i s).tbl.nodes } := rfl
    have e4 : (sixpClosed i s).herd = { s.herd with sixp := (sixpClosed i s).herd.sixp } := rfl
    have n1 : (sixpClosed i s).tbl.nodes.map (fun n => if n.idx ∈ l then { n with herd := { n.herd with txn := 0 } } else n) =
        s.tbl.nodes.map (fun n => if n.idx ∈ i :: l then { n with herd := { n.herd with txn := 0 } } else n) := by
      rw [e1, List.map_map]
      apply List.map_congr_left
      intro n _
      simp only [Function.comp_apply, List.mem_cons]
      by_cases h1 : n.idx = i <;> by_cases h2 : n.idx ∈ l <;> simp [h1, h2] <;> simp_all
    have n2 : (sixpClosed i s).herd.sixp.filter (fun x => decide (x.node ∉ l)) = s.herd.sixp.filter (fun x => decide (x.node ∉ i :: l)) := by
      rw [e2, List.filter_filter]
      apply List.filter_congr
      intro x _
      simp only [List.mem_cons]
      by_cases h1 : x.node = i <;> by_cases h2 : x.node ∈ l <;> simp [h1, h2]
    rw [n1, n2, e3, e4]
    rfl

/-- Every open transaction closes: no entry has a number any more. -/
theorem closeSixps_spec (s : State) : ∃ q h w ns sx, closeSixps s =
    { s with
      que := q
      hif := h
      cnt := w
      tbl := { s.tbl with nodes := ns }
      herd := { s.herd with sixp := sx } } ∧
    (∀ n ∈ ns, n.herd.txn = 0) ∧ (∀ x ∈ sx, x ∈ s.herd.sixp) ∧ ns.length = s.tbl.nodes.length := by
  obtain ⟨q, h, w, e⟩ := sixpsClosed_spec ((s.tbl.nodes.filter (fun n => n.herd.txn != 0)).map Node.idx) s
  refine ⟨q, h, w, _, _, e, ?_, ?_, by simp⟩
  · intro n hn
    obtain ⟨m, hm, rfl⟩ := List.mem_map.mp hn
    split
    · rfl
    · rename_i hc
      by_cases h0 : m.herd.txn = 0
      · exact h0
      · exact absurd (List.mem_map.mpr ⟨m, List.mem_filter.mpr ⟨hm, by simpa using h0⟩, rfl⟩) hc
  · intro x hx
    exact (List.mem_filter.mp hx).1

/-! ## The host link -/

theorem shade_spec (h : Bool) (q : Nat) (y : CRing) : (CRing.shade h q y).fetched = y.fetched ∧ (CRing.shade h q y).ci = y.ci := by
  unfold CRing.shade
  split <;> exact ⟨rfl, rfl⟩

/-- Disabling a ring touches its registers, the journal, the queues, the counters and the rings' own state. -/
theorem ringDown_eq (u : State) (ring : RingSel) : ∃ c q w h r j, ringDown u ring =
    { u with cnt := c, que := q, hif := { u.hif with cring := h, linkReset := r }, regs := w, jrn := j } := by
  unfold ringDown
  dsimp only
  split
  · have hj : ∃ j q w, (if ctlJournaled ring then journalCfg (RingSel.ctl ring) (u.reg (RingSel.ctl ring) &&& 0x7FFF_FFFF) u else u) =
        { u with jrn := j, que := q, cnt := w } := by
      split <;> exact ⟨_, _, _, rfl⟩
    obtain ⟨j, q, w, e⟩ := hj
    rw [e]
    cases ring <;> exact ⟨_, _, _, _, _, _, rfl⟩
  · exact ⟨_, _, _, _, _, _, rfl⟩

theorem ringsDown_eq (l : List RingSel) (u : State) : ∃ c q w h r j, l.foldl ringDown u =
    { u with cnt := c, que := q, hif := { u.hif with cring := h, linkReset := r }, regs := w, jrn := j } := by
  induction l generalizing u with
  | nil => exact ⟨_, _, _, _, _, _, rfl⟩
  | cons x l ih =>
    obtain ⟨c, q, w, h, r, j, e⟩ := ringDown_eq u x
    obtain ⟨c', q', w', h', r', j', e'⟩ := ih (ringDown u x)
    exact ⟨c', q', w', h', r', j', by rw [List.foldl_cons, e', e]⟩

/-- A link reset leaves no ring, no link and no Bus Master Enable, and the core as it was. -/
theorem linkDown_spec (s : State) : ∃ t, linkDown s = t ∧ t.hif.speed = 0 ∧ t.hif.width = 0 ∧ t.hif.busMaster = false ∧ t.hif.pba = [] ∧
    (∀ a ∈ t.hif.admitted, a.cpl = none) ∧ (∀ x ∈ t.hif.cpl, x.slots = []) ∧ (∀ x ∈ t.hif.dring, x.out = [] ∧ x.armed = false) ∧
    t.tbl = s.tbl ∧ t.sch = s.sch ∧ t.sec = s.sec ∧ t.active = s.active ∧ t.time = s.time ∧ t.rf = s.rf := by
  refine ⟨_, rfl, ?_⟩
  unfold linkDown
  dsimp only
  obtain ⟨c, q, w, h, r, j, e⟩ := ringsDown_eq allRings { s with
    hif := { s.hif with linkReset := some (unwritten s, 0), speed := 0, width := 0, busMaster := false, d3hot := false, pba := [] }
    cnt := cntBump 0xE0014 0 32 (unwritten s) s.cnt }
  rw [e]
  generalize he : ({ s with cnt := c, que := q, hif := _, regs := w, jrn := j } : State) = z
  have g : z.hif.speed = 0 ∧ z.hif.width = 0 ∧ z.hif.busMaster = false ∧ z.hif.pba = [] ∧ z.tbl = s.tbl ∧ z.sch = s.sch ∧ z.sec = s.sec ∧
      z.active = s.active ∧ z.time = s.time ∧ z.rf = s.rf := by
    subst he
    exact ⟨rfl, rfl, rfl, rfl, rfl, rfl, rfl, rfl, rfl, rfl⟩
  clear he e
  generalize hy : (if z.reg 0xE0004 = resetAt 0xE0004 then z
    else (journalCfg 0xE0004 (resetAt 0xE0004) z).setReg 0xE0004 (resetAt 0xE0004)) = y
  have f : y.hif.speed = 0 ∧ y.hif.width = 0 ∧ y.hif.busMaster = false ∧ y.hif.pba = [] ∧ y.tbl = s.tbl ∧ y.sch = s.sch ∧ y.sec = s.sec ∧
      y.active = s.active ∧ y.time = s.time ∧ y.rf = s.rf := by
    subst hy
    split
    · exact g
    · exact g
  obtain ⟨f1, f2, f3, f4, f5⟩ := f
  refine ⟨f1, f2, f3, f4, ?_, ?_, ?_, f5⟩
  · intro a ha
    obtain ⟨b, _, rfl⟩ := List.mem_map.mp ha
    rfl
  · intro x hx
    obtain ⟨b, _, rfl⟩ := List.mem_map.mp hx
    rfl
  · intro x hx
    obtain ⟨b, _, rfl⟩ := List.mem_map.mp hx
    exact ⟨rfl, rfl⟩

/-! ## Resets and boot -/

/-- No alarm condition stands. -/
theorem standing_nil (s : State) (h : ∀ a ∈ s.sec.alarmAt, a.2 ≤ s.time.tb) : standing s = [] := by
  unfold standing
  apply List.filter_eq_nil_iff.mpr
  intro b _
  have : tampNow s b = false := by
    unfold tampNow
    apply List.any_eq_false.mpr
    intro a ha
    have := h a ha
    simp
    omega
  simp [this]

/-- The alarm of an enabled source stands. -/
theorem standing_ne (s : State) (a : Nat × Nat) (h : a ∈ s.sec.alarmAt) (h1 : s.time.tb < a.2) (h2 : s.regB 0xC0040 a.1 = true) :
    standing s ≠ [] := by
  intro e
  unfold standing at e
  have := List.filter_eq_nil_iff.mp e a.1 (List.mem_map.mpr ⟨a, h, rfl⟩)
  apply this
  simp only [tampEnabled, h2, Bool.true_or, Bool.true_and, tampNow]
  apply List.any_eq_true.mpr
  exact ⟨a, h, by simp [h1]⟩

theorem tamperAll_eq (l : List Nat) (s : State) : ∃ x w p, l.foldl (fun u b => tamperKeys b u) s = { s with sec := x, cnt := w, pair := p } ∧
    (l = [] → x = s.sec) ∧ (l ≠ [] → x.slots = [KeySlot.reset, KeySlot.reset] ∧ x.tlock = true) ∧ p.activeOut = s.pair.activeOut := by
  induction l generalizing s with
  | nil => exact ⟨_, _, _, rfl, fun _ => rfl, fun h => absurd rfl h, rfl⟩
  | cons b l ih =>
    obtain ⟨x, w, p, e, h1, h2, h3⟩ := ih (tamperKeys b s)
    refine ⟨x, w, p, by rw [List.foldl_cons, e]; rfl, by simp, fun _ => ?_, h3⟩
    by_cases hl : l = []
    · rw [h1 hl]; exact ⟨rfl, rfl⟩
    · exact h2 hl

/-- Phase 2 touches the security state, the counters, the free values and, when an alarm stands, the pair's keys. -/
theorem bootKeys_eq (s : State) : ∃ x w p, bootKeys s = { s with sec := x, cnt := w, pair := p, fresh := s.fresh + 2 } ∧
    (standing s = [] → x.slots = s.sec.slots ∧ x.tlock = s.sec.tlock ∧ x.sw = s.sec.sw) ∧
    (standing s ≠ [] → x.slots = [KeySlot.reset, KeySlot.reset] ∧ x.tlock = true) ∧ (x.tlock = true → x.rootOk = false) ∧
    p.activeOut = s.pair.activeOut := by
  obtain ⟨x, w, p, e, h1, h2, h3⟩ := tamperAll_eq (standing s) s
  unfold bootKeys
  dsimp only
  rw [e]
  refine ⟨_, w, p, rfl, fun h => ?_, fun h => ?_, fun h => ?_, h3⟩
  · rw [h1 h]; exact ⟨rfl, rfl, rfl⟩
  · exact h2 h
  · dsimp only at h ⊢
    rw [h]
    rfl

/-- A calibration's report touches the journal, the queues, the counters and the delivery rings. -/
theorem calResult_eq (port kind : Nat) (ok : Bool) (t0 : Nat) (s : State) : ∃ j q w d l, calResult port kind ok t0 s =
    { s with jrn := j, que := q, cnt := w, hif := { s.hif with dring := d, linkReset := l } } := ⟨_, _, _, _, _, rfl⟩

theorem calReports_eq (kind : Nat) (f : Nat → Bool) (l : List Nat) (s : State) : ∃ j q w d k,
    l.foldl (fun u i => calResult i kind (f i) u.time.tb u) s =
      { s with jrn := j, que := q, cnt := w, hif := { s.hif with dring := d, linkReset := k } } := by
  induction l generalizing s with
  | nil => exact ⟨_, _, _, _, _, rfl⟩
  | cons i l ih =>
    rw [List.foldl_cons]
    obtain ⟨j, q, w, d, k, e⟩ := calResult_eq i kind (f i) s.time.tb s
    obtain ⟨j', q', w', d', k', e'⟩ := ih (calResult i kind (f i) s.time.tb s)
    exact ⟨j', q', w', d', k', by rw [e', e]⟩

/-- The boot of a device whose BIST passes: the SPLL is locked, the host interface ready and the ports idle in OFF. -/
theorem boot_ok (oks : List Bool) (bad : List Nat) (s : State) : ∃ x p j q w d k, boot oks true bad s = { s with
      sec := x, pair := p, jrn := j, que := q, cnt := w, fresh := s.fresh + 2
      rf := { s.rf with refOk := true, spll := .locked, ports := calPorts oks s.rf.ports }
      hif := { s.hif with dring := d, linkReset := k, ready := true }
      pwr := { s.pwr with st := .run, phase := 6, warm := false, bistFail := false, pwrOk := true, perst := false } } ∧ p.activeOut = true ∧
    ((∀ a ∈ s.sec.alarmAt, a.2 ≤ s.time.tb) → x.slots = s.sec.slots ∧ x.tlock = s.sec.tlock) ∧
    ((∃ a ∈ s.sec.alarmAt, s.time.tb < a.2 ∧ s.regB 0xC0040 a.1 = true) → x.slots = [KeySlot.reset, KeySlot.reset] ∧ x.tlock = true) ∧
    (x.tlock = true → x.rootOk = false) := by
  generalize hy : (withPwr (fun p => { p with st := .run, phase := if true then 6 else 3, warm := false, bistFail := !true, pwrOk := true, perst := false })
    { s with sec := { s.sec with otpBad := bad, fuseErr := fuseErrOf bad } }) = y
  obtain ⟨x, w, p, e, h1, h2, h3, h4⟩ := bootKeys_eq y
  unfold boot calReports
  dsimp only
  rw [hy, e]
  simp only [Bool.not_true, Bool.false_eq_true, if_false]
  generalize hz : ({ ({ y with sec := x, cnt := w, pair := p, fresh := y.fresh + 2 } : State) with rf := _, hif := _, pair := _ } : State) = z
  obtain ⟨j, q, w', d, k, e'⟩ := calReports_eq 0 (fun i => oks.getD i true) (List.range 6) z
  rw [e']
  subst hz
  subst hy
  refine ⟨x, _, j, q, w', d, k, rfl, rfl, fun h => ?_, fun ⟨a, ha, hb, hc⟩ => ?_, h3⟩
  · obtain ⟨a, b, _⟩ := h1 (standing_nil _ h)
    exact ⟨a, b⟩
  · exact h2 (standing_ne _ a ha hb hc)

/-- The boot of a device whose BIST fails stops in phase 3. -/
theorem boot_fail (oks : List Bool) (bad : List Nat) (s : State) : ∃ x p w, boot oks false bad s = { s with
      sec := x, pair := p, cnt := w, fresh := s.fresh + 2
      pwr := { s.pwr with st := .run, phase := 3, warm := false, bistFail := true, pwrOk := true, perst := false } } ∧
    ((∀ a ∈ s.sec.alarmAt, a.2 ≤ s.time.tb) → x.slots = s.sec.slots ∧ x.tlock = s.sec.tlock) ∧ (x.tlock = true → x.rootOk = false) := by
  generalize hy : (withPwr (fun p => { p with st := .run, phase := if false then 6 else 3, warm := false, bistFail := !false, pwrOk := true, perst := false })
    { s with sec := { s.sec with otpBad := bad, fuseErr := fuseErrOf bad } }) = y
  obtain ⟨x, w, p, e, h1, h2, h3, h4⟩ := bootKeys_eq y
  unfold boot calReports
  dsimp only
  rw [hy, e]
  simp only [Bool.not_false, if_true]
  subst hy
  refine ⟨x, p, w, rfl, fun h => ?_, h3⟩
  obtain ⟨a, b, _⟩ := h1 (standing_nil _ h)
  exact ⟨a, b⟩

/-! ## The software reset -/

/-- What the stop before a software reset leaves as it is. -/
def linkFrame (s : State) := (s.sec, s.time, s.hif.speed, s.hif.width, s.regs, s.pwr)

theorem foldl_linkFrame {α : Type} (f : State → α → State) (h : ∀ s x, linkFrame (f s x) = linkFrame s) (l : List α) (s : State) :
    linkFrame (l.foldl f s) = linkFrame s := by
  induction l generalizing s with
  | nil => rfl
  | cons a l ih => rw [List.foldl_cons, ih, h]

theorem softStop_linkFrame (s : State) : linkFrame (softStop s) = linkFrame s := by
  have hq : ∀ (x : State) (q : Nat), linkFrame (gapAll q x) = linkFrame x := fun _ _ => rfl
  have ha : ∀ (x : State) (a : Adm), linkFrame (refuse a.ref stAbort 14 0 x) = linkFrame x := fun _ _ => rfl
  have hg : ∀ (x : State) (d : Nat), linkFrame (gapOut x d) = linkFrame x := fun x d => by
    unfold gapOut
    dsimp only
    split
    · split <;> rfl
    · rfl
  have ht : ∀ x : State, linkFrame (gapRings x) = linkFrame x := fun x => by
    unfold gapRings
    rw [foldl_linkFrame _ hg, foldl_linkFrame _ hq]
  unfold softStop
  dsimp only
  generalize hy : closeJournal 1 (stopCarriers s) = y
  have e : linkFrame y = linkFrame s := by subst hy; rfl
  split
  · exact e
  · have : linkFrame (gapRings (y.hif.admitted.foldl (fun v a => refuse a.ref stAbort 14 0 v) y)) = linkFrame s := by
      rw [ht, foldl_linkFrame _ ha, e]
    generalize gapRings (y.hif.admitted.foldl (fun v a => refuse a.ref stAbort 14 0 v) y) = v at this ⊢
    exact this

/-! ## The wake -/

theorem openJournal_eq (n : Nat) (s : State) : ∃ f j q w, openJournal n s = { s with fresh := f, jrn := j, que := q, cnt := w } :=
  ⟨_, _, _, _, rfl⟩

theorem switchIfDue_eq (n : Nat) (s : State) : ∃ x h w, switchIfDue n s = { s with sec := x, hif := h, cnt := w } := by
  unfold switchIfDue takeSwitch
  split
  · split
    · split <;> exact ⟨_, _, _, rfl⟩
    · exact ⟨_, _, _, rfl⟩
  · exact ⟨_, _, _, rfl⟩

theorem setTimeState_eq (n : TimeState) (s : State) : ∃ q w h, setTimeState n s = { s with
    time := { s.time with
      st := n
      forced := s.time.forced && n != .locked
      sinceWake := s.time.sinceWake && n != .locked
      recon := if n = .locked then none else s.time.recon }
    que := q, cnt := w, hif := h } := by
  unfold setTimeState eventIf
  dsimp only
  split <;> exact ⟨_, _, _, rfl⟩

/-- The parts of the state that a wake takes from its bank, the time state apart. -/
def wakeFrame (s : State) := (s.active, s.tx, s.herd, s.rx, s.sch, s.regs, s.tbl.pfx, s.bank)

/-- A wake whose bank stands in `a` boots its keys, chooses the time state and returns the ports (Table 18-9). -/
theorem wakeServe_spec (cause c1 : Nat) (n : TimeState) (est : Rat) (oks : List Bool) (s a : State) (ha : a.herd.sixp = []) :
    let t := wakeServe cause c1 n est oks s a
    wakeFrame t = wakeFrame a ∧ t.pwr = { a.pwr with phase := 6, warm := true, pwrOk := true, slck := c1, slckTb := a.time.tb } ∧
    t.time = { a.time with
      st := n
      forced := a.time.forced && n != .locked
      sinceWake := a.time.sinceWake && n != .locked
      recon := if n = .locked then none else a.time.recon } ∧
    (a.tbl.nodes = [] → t.tbl.nodes = []) ∧ t.hif.ready = true ∧ t.pair.activeOut = true ∧ t.rf.spll = .locked ∧ t.rf.refOk = true := by
  have hb : wakeFrame (wakeKeys c1 a) = wakeFrame a ∧ (wakeKeys c1 a).pwr = { a.pwr with
        phase := 6, warm := true, pwrOk := true, slck := c1, slckTb := a.time.tb } ∧ (wakeKeys c1 a).time = a.time ∧
      (wakeKeys c1 a).tbl = a.tbl ∧ (wakeKeys c1 a).pair.activeOut = true := by
    unfold wakeKeys
    generalize hy : ({ a with pair := _, pwr := _ } : State) = y
    obtain ⟨x, w, p, eb, _, _, _, hp⟩ := bootKeys_eq y
    rw [eb]
    subst hy
    exact ⟨rfl, rfl, rfl, rfl, hp⟩
  obtain ⟨b1, b2, b3, b4, b5⟩ := hb
  intro t
  have ht : t = wakeServe cause c1 n est oks s a := rfl
  clear_value t
  unfold wakeServe at ht
  dsimp only at ht
  generalize wakeKeys c1 a = b at *
  -- the journal
  have hc : ∀ c, c = (if n = .acquire then b else openJournal 1 b) → wakeFrame c = wakeFrame b ∧ c.pwr = b.pwr ∧ c.time = b.time ∧ c.tbl = b.tbl ∧
      c.pair = b.pair := by
    intro c hc
    subst hc
    split <;> exact ⟨rfl, rfl, rfl, rfl, rfl⟩
  obtain ⟨c1', c2, c3, c4, c5⟩ := hc _ rfl
  generalize (if n = .acquire then b else openJournal 1 b) = c at *
  -- the switch
  obtain ⟨x, h, w, ed⟩ := switchIfDue_eq (asnNow b) c
  have hd : wakeFrame (switchIfDue (asnNow b) c) = wakeFrame c ∧ (switchIfDue (asnNow b) c).pwr = c.pwr ∧
      (switchIfDue (asnNow b) c).time = c.time ∧ (switchIfDue (asnNow b) c).tbl = c.tbl ∧ (switchIfDue (asnNow b) c).pair = c.pair := by
    rw [ed]
    exact ⟨rfl, rfl, rfl, rfl, rfl⟩
  obtain ⟨d1, d2, d3, d4, d5⟩ := hd
  generalize switchIfDue (asnNow b) c = d at *
  -- transactions
  have hv : ∀ v, v = freshPools (event 0x040A [c1, wakeElapsed s.time c1, ratFloor est, timeCode n] d) → wakeFrame v = wakeFrame d ∧
      v.pwr = d.pwr ∧ v.time = d.time ∧ v.tbl = d.tbl ∧ v.pair = d.pair := by
    intro v hv
    subst hv
    exact ⟨rfl, rfl, rfl, rfl, rfl⟩
  obtain ⟨v1, v2, v3, v4, v5⟩ := hv _ rfl
  generalize freshPools (event 0x040A [c1, wakeElapsed s.time c1, ratFloor est, timeCode n] d) = v at *
  have fr : wakeFrame v = wakeFrame a := by rw [v1, d1, c1', b1]
  have h6 : v.herd.sixp = [] := by
    have : v.herd = a.herd := congrArg (·.2.2.1) fr
    rw [this]; exact ha
  obtain ⟨q3, h3, w3, t3, es, hn⟩ := closeSixps_eq v h6
  have he : wakeFrame (closeSixps v) = wakeFrame v ∧ (closeSixps v).pwr = v.pwr ∧ (closeSixps v).time = v.time ∧
      (v.tbl.nodes = [] → (closeSixps v).tbl.nodes = []) ∧ (closeSixps v).pair = v.pair := by
    rw [es]
    exact ⟨rfl, rfl, rfl, hn, rfl⟩
  obtain ⟨e1, e2, e3, e4, e5⟩ := he
  generalize closeSixps v = e at *
  -- the time state
  obtain ⟨q4, w4, h4, et⟩ := setTimeState_eq n e
  have hf : wakeFrame (setTimeState n e) = wakeFrame e ∧ (setTimeState n e).pwr = e.pwr ∧ (setTimeState n e).time = { e.time with
      st := n
      forced := e.time.forced && n != .locked
      sinceWake := e.time.sinceWake && n != .locked
      recon := if n = .locked then none else e.time.recon } ∧ (setTimeState n e).tbl = e.tbl ∧ (setTimeState n e).pair = e.pair := by
    rw [et]
    exact ⟨rfl, rfl, rfl, rfl, rfl⟩
  obtain ⟨f1, f2, f3, f4, f5⟩ := hf
  generalize setTimeState n e = f at *
  -- the ports
  have hg : ∀ g, g = wakeRadio oks (fun i => bitOf (freshAt s) i) s (pwrEvent .keep .run cause f) → wakeFrame g = wakeFrame f ∧
      g.pwr = f.pwr ∧ g.time = f.time ∧ g.tbl = f.tbl ∧ g.pair = f.pair ∧ g.rf.spll = .locked ∧ g.rf.refOk = true := by
    intro g hg
    subst hg
    exact ⟨rfl, rfl, rfl, rfl, rfl, rfl, rfl⟩
  obtain ⟨g1, g2, g3, g4, g5, g6, g7⟩ := hg _ rfl
  generalize wakeRadio oks (fun i => bitOf (freshAt s) i) s (pwrEvent .keep .run cause f) = g at *
  unfold wakeCals at ht
  obtain ⟨j5, q5, w5, d5', k5, e5'⟩ := calReports_eq 0 (fun i => bitOf (freshAt s) i) ((List.range 6).filter (fun i => !oks.getD i true)) g
  rw [e5'] at ht
  subst ht
  have ft : f.time = { a.time with
      st := n
      forced := a.time.forced && n != .locked
      sinceWake := a.time.sinceWake && n != .locked
      recon := if n = .locked then none else a.time.recon } := by rw [f3, e3, v3, d3, c3, b3]
  refine ⟨?_, ?_, ?_, ?_, rfl, ?_, g6, g7⟩
  · exact (g1.trans (f1.trans (e1.trans fr)))
  · exact g2.trans (f2.trans (e2.trans (v2.trans (d2.trans (c2.trans b2)))))
  · exact g3.trans ft
  · intro hz
    have : v.tbl.nodes = [] := by rw [v4, d4, c4, b4]; exact hz
    show g.tbl.nodes = []
    rw [g4, f4]
    exact e4 this
  · show g.pair.activeOut = true
    rw [g5, f5, e5, v5, d5, c5]
    exact b5

end Sys2Proof.Machine
end

