-- ==== Sys2Proof/Laws/State.lean ====
section
/-! SUPPORT. One lemma for each field and each one-field update of the state: no proof unfolds a record update. -/
namespace Sys2Proof.Machine

@[simp] theorem State.upd_pending_pending (s : State) (v : List Instr) : { s with pending := v }.pending = v := rfl
@[simp] theorem State.upd_pending_rdata (s : State) (v : List Instr) : { s with pending := v }.rdata = s.rdata := rfl
@[simp] theorem State.upd_pending_fresh (s : State) (v : List Instr) : { s with pending := v }.fresh = s.fresh := rfl
@[simp] theorem State.upd_pending_regs (s : State) (v : List Instr) : { s with pending := v }.regs = s.regs := rfl
@[simp] theorem State.upd_pending_cnt (s : State) (v : List Instr) : { s with pending := v }.cnt = s.cnt := rfl
@[simp] theorem State.upd_pending_active (s : State) (v : List Instr) : { s with pending := v }.active = s.active := rfl
@[simp] theorem State.upd_pending_latch (s : State) (v : List Instr) : { s with pending := v }.latch = s.latch := rfl
@[simp] theorem State.upd_pending_time (s : State) (v : List Instr) : { s with pending := v }.time = s.time := rfl
@[simp] theorem State.upd_pending_rf (s : State) (v : List Instr) : { s with pending := v }.rf = s.rf := rfl
@[simp] theorem State.upd_pending_rx (s : State) (v : List Instr) : { s with pending := v }.rx = s.rx := rfl
@[simp] theorem State.upd_pending_bank (s : State) (v : List Instr) : { s with pending := v }.bank = s.bank := rfl
@[simp] theorem State.upd_pending_tbl (s : State) (v : List Instr) : { s with pending := v }.tbl = s.tbl := rfl
@[simp] theorem State.upd_pending_sch (s : State) (v : List Instr) : { s with pending := v }.sch = s.sch := rfl
@[simp] theorem State.upd_pending_tx (s : State) (v : List Instr) : { s with pending := v }.tx = s.tx := rfl
@[simp] theorem State.upd_pending_herd (s : State) (v : List Instr) : { s with pending := v }.herd = s.herd := rfl
@[simp] theorem State.upd_pending_adp (s : State) (v : List Instr) : { s with pending := v }.adp = s.adp := rfl
@[simp] theorem State.upd_pending_sec (s : State) (v : List Instr) : { s with pending := v }.sec = s.sec := rfl
@[simp] theorem State.upd_pending_eth (s : State) (v : List Instr) : { s with pending := v }.eth = s.eth := rfl
@[simp] theorem State.upd_pending_snap (s : State) (v : List Instr) : { s with pending := v }.snap = s.snap := rfl
@[simp] theorem State.upd_pending_snapWin (s : State) (v : List Instr) : { s with pending := v }.snapWin = s.snapWin := rfl
@[simp] theorem State.upd_pending_snapPorts (s : State) (v : List Instr) : { s with pending := v }.snapPorts = s.snapPorts := rfl
@[simp] theorem State.upd_pending_captured (s : State) (v : List Instr) : { s with pending := v }.captured = s.captured := rfl
@[simp] theorem State.upd_pending_que (s : State) (v : List Instr) : { s with pending := v }.que = s.que := rfl
@[simp] theorem State.upd_pending_hif (s : State) (v : List Instr) : { s with pending := v }.hif = s.hif := rfl
@[simp] theorem State.upd_pending_jrn (s : State) (v : List Instr) : { s with pending := v }.jrn = s.jrn := rfl
@[simp] theorem State.upd_pending_pair (s : State) (v : List Instr) : { s with pending := v }.pair = s.pair := rfl
@[simp] theorem State.upd_pending_err (s : State) (v : List Instr) : { s with pending := v }.err = s.err := rfl
@[simp] theorem State.upd_pending_pwr (s : State) (v : List Instr) : { s with pending := v }.pwr = s.pwr := rfl
@[simp] theorem State.upd_rdata_pending (s : State) (v : Word) : { s with rdata := v }.pending = s.pending := rfl
@[simp] theorem State.upd_rdata_rdata (s : State) (v : Word) : { s with rdata := v }.rdata = v := rfl
@[simp] theorem State.upd_rdata_fresh (s : State) (v : Word) : { s with rdata := v }.fresh = s.fresh := rfl
@[simp] theorem State.upd_rdata_regs (s : State) (v : Word) : { s with rdata := v }.regs = s.regs := rfl
@[simp] theorem State.upd_rdata_cnt (s : State) (v : Word) : { s with rdata := v }.cnt = s.cnt := rfl
@[simp] theorem State.upd_rdata_active (s : State) (v : Word) : { s with rdata := v }.active = s.active := rfl
@[simp] theorem State.upd_rdata_latch (s : State) (v : Word) : { s with rdata := v }.latch = s.latch := rfl
@[simp] theorem State.upd_rdata_time (s : State) (v : Word) : { s with rdata := v }.time = s.time := rfl
@[simp] theorem State.upd_rdata_rf (s : State) (v : Word) : { s with rdata := v }.rf = s.rf := rfl
@[simp] theorem State.upd_rdata_rx (s : State) (v : Word) : { s with rdata := v }.rx = s.rx := rfl
@[simp] theorem State.upd_rdata_bank (s : State) (v : Word) : { s with rdata := v }.bank = s.bank := rfl
@[simp] theorem State.upd_rdata_tbl (s : State) (v : Word) : { s with rdata := v }.tbl = s.tbl := rfl
@[simp] theorem State.upd_rdata_sch (s : State) (v : Word) : { s with rdata := v }.sch = s.sch := rfl
@[simp] theorem State.upd_rdata_tx (s : State) (v : Word) : { s with rdata := v }.tx = s.tx := rfl
@[simp] theorem State.upd_rdata_herd (s : State) (v : Word) : { s with rdata := v }.herd = s.herd := rfl
@[simp] theorem State.upd_rdata_adp (s : State) (v : Word) : { s with rdata := v }.adp = s.adp := rfl
@[simp] theorem State.upd_rdata_sec (s : State) (v : Word) : { s with rdata := v }.sec = s.sec := rfl
@[simp] theorem State.upd_rdata_eth (s : State) (v : Word) : { s with rdata := v }.eth = s.eth := rfl
@[simp] theorem State.upd_rdata_snap (s : State) (v : Word) : { s with rdata := v }.snap = s.snap := rfl
@[simp] theorem State.upd_rdata_snapWin (s : State) (v : Word) : { s with rdata := v }.snapWin = s.snapWin := rfl
@[simp] theorem State.upd_rdata_snapPorts (s : State) (v : Word) : { s with rdata := v }.snapPorts = s.snapPorts := rfl
@[simp] theorem State.upd_rdata_captured (s : State) (v : Word) : { s with rdata := v }.captured = s.captured := rfl
@[simp] theorem State.upd_rdata_que (s : State) (v : Word) : { s with rdata := v }.que = s.que := rfl
@[simp] theorem State.upd_rdata_hif (s : State) (v : Word) : { s with rdata := v }.hif = s.hif := rfl
@[simp] theorem State.upd_rdata_jrn (s : State) (v : Word) : { s with rdata := v }.jrn = s.jrn := rfl
@[simp] theorem State.upd_rdata_pair (s : State) (v : Word) : { s with rdata := v }.pair = s.pair := rfl
@[simp] theorem State.upd_rdata_err (s : State) (v : Word) : { s with rdata := v }.err = s.err := rfl
@[simp] theorem State.upd_rdata_pwr (s : State) (v : Word) : { s with rdata := v }.pwr = s.pwr := rfl
@[simp] theorem State.upd_fresh_pending (s : State) (v : Nat) : { s with fresh := v }.pending = s.pending := rfl
@[simp] theorem State.upd_fresh_rdata (s : State) (v : Nat) : { s with fresh := v }.rdata = s.rdata := rfl
@[simp] theorem State.upd_fresh_fresh (s : State) (v : Nat) : { s with fresh := v }.fresh = v := rfl
@[simp] theorem State.upd_fresh_regs (s : State) (v : Nat) : { s with fresh := v }.regs = s.regs := rfl
@[simp] theorem State.upd_fresh_cnt (s : State) (v : Nat) : { s with fresh := v }.cnt = s.cnt := rfl
@[simp] theorem State.upd_fresh_active (s : State) (v : Nat) : { s with fresh := v }.active = s.active := rfl
@[simp] theorem State.upd_fresh_latch (s : State) (v : Nat) : { s with fresh := v }.latch = s.latch := rfl
@[simp] theorem State.upd_fresh_time (s : State) (v : Nat) : { s with fresh := v }.time = s.time := rfl
@[simp] theorem State.upd_fresh_rf (s : State) (v : Nat) : { s with fresh := v }.rf = s.rf := rfl
@[simp] theorem State.upd_fresh_rx (s : State) (v : Nat) : { s with fresh := v }.rx = s.rx := rfl
@[simp] theorem State.upd_fresh_bank (s : State) (v : Nat) : { s with fresh := v }.bank = s.bank := rfl
@[simp] theorem State.upd_fresh_tbl (s : State) (v : Nat) : { s with fresh := v }.tbl = s.tbl := rfl
@[simp] theorem State.upd_fresh_sch (s : State) (v : Nat) : { s with fresh := v }.sch = s.sch := rfl
@[simp] theorem State.upd_fresh_tx (s : State) (v : Nat) : { s with fresh := v }.tx = s.tx := rfl
@[simp] theorem State.upd_fresh_herd (s : State) (v : Nat) : { s with fresh := v }.herd = s.herd := rfl
@[simp] theorem State.upd_fresh_adp (s : State) (v : Nat) : { s with fresh := v }.adp = s.adp := rfl
@[simp] theorem State.upd_fresh_sec (s : State) (v : Nat) : { s with fresh := v }.sec = s.sec := rfl
@[simp] theorem State.upd_fresh_eth (s : State) (v : Nat) : { s with fresh := v }.eth = s.eth := rfl
@[simp] theorem State.upd_fresh_snap (s : State) (v : Nat) : { s with fresh := v }.snap = s.snap := rfl
@[simp] theorem State.upd_fresh_snapWin (s : State) (v : Nat) : { s with fresh := v }.snapWin = s.snapWin := rfl
@[simp] theorem State.upd_fresh_snapPorts (s : State) (v : Nat) : { s with fresh := v }.snapPorts = s.snapPorts := rfl
@[simp] theorem State.upd_fresh_captured (s : State) (v : Nat) : { s with fresh := v }.captured = s.captured := rfl
@[simp] theorem State.upd_fresh_que (s : State) (v : Nat) : { s with fresh := v }.que = s.que := rfl
@[simp] theorem State.upd_fresh_hif (s : State) (v : Nat) : { s with fresh := v }.hif = s.hif := rfl
@[simp] theorem State.upd_fresh_jrn (s : State) (v : Nat) : { s with fresh := v }.jrn = s.jrn := rfl
@[simp] theorem State.upd_fresh_pair (s : State) (v : Nat) : { s with fresh := v }.pair = s.pair := rfl
@[simp] theorem State.upd_fresh_err (s : State) (v : Nat) : { s with fresh := v }.err = s.err := rfl
@[simp] theorem State.upd_fresh_pwr (s : State) (v : Nat) : { s with fresh := v }.pwr = s.pwr := rfl
@[simp] theorem State.upd_regs_pending (s : State) (v : List (Nat × Word)) : { s with regs := v }.pending = s.pending := rfl
@[simp] theorem State.upd_regs_rdata (s : State) (v : List (Nat × Word)) : { s with regs := v }.rdata = s.rdata := rfl
@[simp] theorem State.upd_regs_fresh (s : State) (v : List (Nat × Word)) : { s with regs := v }.fresh = s.fresh := rfl
@[simp] theorem State.upd_regs_regs (s : State) (v : List (Nat × Word)) : { s with regs := v }.regs = v := rfl
@[simp] theorem State.upd_regs_cnt (s : State) (v : List (Nat × Word)) : { s with regs := v }.cnt = s.cnt := rfl
@[simp] theorem State.upd_regs_active (s : State) (v : List (Nat × Word)) : { s with regs := v }.active = s.active := rfl
@[simp] theorem State.upd_regs_latch (s : State) (v : List (Nat × Word)) : { s with regs := v }.latch = s.latch := rfl
@[simp] theorem State.upd_regs_time (s : State) (v : List (Nat × Word)) : { s with regs := v }.time = s.time := rfl
@[simp] theorem State.upd_regs_rf (s : State) (v : List (Nat × Word)) : { s with regs := v }.rf = s.rf := rfl
@[simp] theorem State.upd_regs_rx (s : State) (v : List (Nat × Word)) : { s with regs := v }.rx = s.rx := rfl
@[simp] theorem State.upd_regs_bank (s : State) (v : List (Nat × Word)) : { s with regs := v }.bank = s.bank := rfl
@[simp] theorem State.upd_regs_tbl (s : State) (v : List (Nat × Word)) : { s with regs := v }.tbl = s.tbl := rfl
@[simp] theorem State.upd_regs_sch (s : State) (v : List (Nat × Word)) : { s with regs := v }.sch = s.sch := rfl
@[simp] theorem State.upd_regs_tx (s : State) (v : List (Nat × Word)) : { s with regs := v }.tx = s.tx := rfl
@[simp] theorem State.upd_regs_herd (s : State) (v : List (Nat × Word)) : { s with regs := v }.herd = s.herd := rfl
@[simp] theorem State.upd_regs_adp (s : State) (v : List (Nat × Word)) : { s with regs := v }.adp = s.adp := rfl
@[simp] theorem State.upd_regs_sec (s : State) (v : List (Nat × Word)) : { s with regs := v }.sec = s.sec := rfl
@[simp] theorem State.upd_regs_eth (s : State) (v : List (Nat × Word)) : { s with regs := v }.eth = s.eth := rfl
@[simp] theorem State.upd_regs_snap (s : State) (v : List (Nat × Word)) : { s with regs := v }.snap = s.snap := rfl
@[simp] theorem State.upd_regs_snapWin (s : State) (v : List (Nat × Word)) : { s with regs := v }.snapWin = s.snapWin := rfl
@[simp] theorem State.upd_regs_snapPorts (s : State) (v : List (Nat × Word)) : { s with regs := v }.snapPorts = s.snapPorts := rfl
@[simp] theorem State.upd_regs_captured (s : State) (v : List (Nat × Word)) : { s with regs := v }.captured = s.captured := rfl
@[simp] theorem State.upd_regs_que (s : State) (v : List (Nat × Word)) : { s with regs := v }.que = s.que := rfl
@[simp] theorem State.upd_regs_hif (s : State) (v : List (Nat × Word)) : { s with regs := v }.hif = s.hif := rfl
@[simp] theorem State.upd_regs_jrn (s : State) (v : List (Nat × Word)) : { s with regs := v }.jrn = s.jrn := rfl
@[simp] theorem State.upd_regs_pair (s : State) (v : List (Nat × Word)) : { s with regs := v }.pair = s.pair := rfl
@[simp] theorem State.upd_regs_err (s : State) (v : List (Nat × Word)) : { s with regs := v }.err = s.err := rfl
@[simp] theorem State.upd_regs_pwr (s : State) (v : List (Nat × Word)) : { s with regs := v }.pwr = s.pwr := rfl
@[simp] theorem State.upd_cnt_pending (s : State) (v : List (Nat × Word)) : { s with cnt := v }.pending = s.pending := rfl
@[simp] theorem State.upd_cnt_rdata (s : State) (v : List (Nat × Word)) : { s with cnt := v }.rdata = s.rdata := rfl
@[simp] theorem State.upd_cnt_fresh (s : State) (v : List (Nat × Word)) : { s with cnt := v }.fresh = s.fresh := rfl
@[simp] theorem State.upd_cnt_regs (s : State) (v : List (Nat × Word)) : { s with cnt := v }.regs = s.regs := rfl
@[simp] theorem State.upd_cnt_cnt (s : State) (v : List (Nat × Word)) : { s with cnt := v }.cnt = v := rfl
@[simp] theorem State.upd_cnt_active (s : State) (v : List (Nat × Word)) : { s with cnt := v }.active = s.active := rfl
@[simp] theorem State.upd_cnt_latch (s : State) (v : List (Nat × Word)) : { s with cnt := v }.latch = s.latch := rfl
@[simp] theorem State.upd_cnt_time (s : State) (v : List (Nat × Word)) : { s with cnt := v }.time = s.time := rfl
@[simp] theorem State.upd_cnt_rf (s : State) (v : List (Nat × Word)) : { s with cnt := v }.rf = s.rf := rfl
@[simp] theorem State.upd_cnt_rx (s : State) (v : List (Nat × Word)) : { s with cnt := v }.rx = s.rx := rfl
@[simp] theorem State.upd_cnt_bank (s : State) (v : List (Nat × Word)) : { s with cnt := v }.bank = s.bank := rfl
@[simp] theorem State.upd_cnt_tbl (s : State) (v : List (Nat × Word)) : { s with cnt := v }.tbl = s.tbl := rfl
@[simp] theorem State.upd_cnt_sch (s : State) (v : List (Nat × Word)) : { s with cnt := v }.sch = s.sch := rfl
@[simp] theorem State.upd_cnt_tx (s : State) (v : List (Nat × Word)) : { s with cnt := v }.tx = s.tx := rfl
@[simp] theorem State.upd_cnt_herd (s : State) (v : List (Nat × Word)) : { s with cnt := v }.herd = s.herd := rfl
@[simp] theorem State.upd_cnt_adp (s : State) (v : List (Nat × Word)) : { s with cnt := v }.adp = s.adp := rfl
@[simp] theorem State.upd_cnt_sec (s : State) (v : List (Nat × Word)) : { s with cnt := v }.sec = s.sec := rfl
@[simp] theorem State.upd_cnt_eth (s : State) (v : List (Nat × Word)) : { s with cnt := v }.eth = s.eth := rfl
@[simp] theorem State.upd_cnt_snap (s : State) (v : List (Nat × Word)) : { s with cnt := v }.snap = s.snap := rfl
@[simp] theorem State.upd_cnt_snapWin (s : State) (v : List (Nat × Word)) : { s with cnt := v }.snapWin = s.snapWin := rfl
@[simp] theorem State.upd_cnt_snapPorts (s : State) (v : List (Nat × Word)) : { s with cnt := v }.snapPorts = s.snapPorts := rfl
@[simp] theorem State.upd_cnt_captured (s : State) (v : List (Nat × Word)) : { s with cnt := v }.captured = s.captured := rfl
@[simp] theorem State.upd_cnt_que (s : State) (v : List (Nat × Word)) : { s with cnt := v }.que = s.que := rfl
@[simp] theorem State.upd_cnt_hif (s : State) (v : List (Nat × Word)) : { s with cnt := v }.hif = s.hif := rfl
@[simp] theorem State.upd_cnt_jrn (s : State) (v : List (Nat × Word)) : { s with cnt := v }.jrn = s.jrn := rfl
@[simp] theorem State.upd_cnt_pair (s : State) (v : List (Nat × Word)) : { s with cnt := v }.pair = s.pair := rfl
@[simp] theorem State.upd_cnt_err (s : State) (v : List (Nat × Word)) : { s with cnt := v }.err = s.err := rfl
@[simp] theorem State.upd_cnt_pwr (s : State) (v : List (Nat × Word)) : { s with cnt := v }.pwr = s.pwr := rfl
@[simp] theorem State.upd_active_pending (s : State) (v : List (Nat × Word)) : { s with active := v }.pending = s.pending := rfl
@[simp] theorem State.upd_active_rdata (s : State) (v : List (Nat × Word)) : { s with active := v }.rdata = s.rdata := rfl
@[simp] theorem State.upd_active_fresh (s : State) (v : List (Nat × Word)) : { s with active := v }.fresh = s.fresh := rfl
@[simp] theorem State.upd_active_regs (s : State) (v : List (Nat × Word)) : { s with active := v }.regs = s.regs := rfl
@[simp] theorem State.upd_active_cnt (s : State) (v : List (Nat × Word)) : { s with active := v }.cnt = s.cnt := rfl
@[simp] theorem State.upd_active_active (s : State) (v : List (Nat × Word)) : { s with active := v }.active = v := rfl
@[simp] theorem State.upd_active_latch (s : State) (v : List (Nat × Word)) : { s with active := v }.latch = s.latch := rfl
@[simp] theorem State.upd_active_time (s : State) (v : List (Nat × Word)) : { s with active := v }.time = s.time := rfl
@[simp] theorem State.upd_active_rf (s : State) (v : List (Nat × Word)) : { s with active := v }.rf = s.rf := rfl
@[simp] theorem State.upd_active_rx (s : State) (v : List (Nat × Word)) : { s with active := v }.rx = s.rx := rfl
@[simp] theorem State.upd_active_bank (s : State) (v : List (Nat × Word)) : { s with active := v }.bank = s.bank := rfl
@[simp] theorem State.upd_active_tbl (s : State) (v : List (Nat × Word)) : { s with active := v }.tbl = s.tbl := rfl
@[simp] theorem State.upd_active_sch (s : State) (v : List (Nat × Word)) : { s with active := v }.sch = s.sch := rfl
@[simp] theorem State.upd_active_tx (s : State) (v : List (Nat × Word)) : { s with active := v }.tx = s.tx := rfl
@[simp] theorem State.upd_active_herd (s : State) (v : List (Nat × Word)) : { s with active := v }.herd = s.herd := rfl
@[simp] theorem State.upd_active_adp (s : State) (v : List (Nat × Word)) : { s with active := v }.adp = s.adp := rfl
@[simp] theorem State.upd_active_sec (s : State) (v : List (Nat × Word)) : { s with active := v }.sec = s.sec := rfl
@[simp] theorem State.upd_active_eth (s : State) (v : List (Nat × Word)) : { s with active := v }.eth = s.eth := rfl
@[simp] theorem State.upd_active_snap (s : State) (v : List (Nat × Word)) : { s with active := v }.snap = s.snap := rfl
@[simp] theorem State.upd_active_snapWin (s : State) (v : List (Nat × Word)) : { s with active := v }.snapWin = s.snapWin := rfl
@[simp] theorem State.upd_active_snapPorts (s : State) (v : List (Nat × Word)) : { s with active := v }.snapPorts = s.snapPorts := rfl
@[simp] theorem State.upd_active_captured (s : State) (v : List (Nat × Word)) : { s with active := v }.captured = s.captured := rfl
@[simp] theorem State.upd_active_que (s : State) (v : List (Nat × Word)) : { s with active := v }.que = s.que := rfl
@[simp] theorem State.upd_active_hif (s : State) (v : List (Nat × Word)) : { s with active := v }.hif = s.hif := rfl
@[simp] theorem State.upd_active_jrn (s : State) (v : List (Nat × Word)) : { s with active := v }.jrn = s.jrn := rfl
@[simp] theorem State.upd_active_pair (s : State) (v : List (Nat × Word)) : { s with active := v }.pair = s.pair := rfl
@[simp] theorem State.upd_active_err (s : State) (v : List (Nat × Word)) : { s with active := v }.err = s.err := rfl
@[simp] theorem State.upd_active_pwr (s : State) (v : List (Nat × Word)) : { s with active := v }.pwr = s.pwr := rfl
@[simp] theorem State.upd_latch_pending (s : State) (v : List (Nat × Word)) : { s with latch := v }.pending = s.pending := rfl
@[simp] theorem State.upd_latch_rdata (s : State) (v : List (Nat × Word)) : { s with latch := v }.rdata = s.rdata := rfl
@[simp] theorem State.upd_latch_fresh (s : State) (v : List (Nat × Word)) : { s with latch := v }.fresh = s.fresh := rfl
@[simp] theorem State.upd_latch_regs (s : State) (v : List (Nat × Word)) : { s with latch := v }.regs = s.regs := rfl
@[simp] theorem State.upd_latch_cnt (s : State) (v : List (Nat × Word)) : { s with latch := v }.cnt = s.cnt := rfl
@[simp] theorem State.upd_latch_active (s : State) (v : List (Nat × Word)) : { s with latch := v }.active = s.active := rfl
@[simp] theorem State.upd_latch_latch (s : State) (v : List (Nat × Word)) : { s with latch := v }.latch = v := rfl
@[simp] theorem State.upd_latch_time (s : State) (v : List (Nat × Word)) : { s with latch := v }.time = s.time := rfl
@[simp] theorem State.upd_latch_rf (s : State) (v : List (Nat × Word)) : { s with latch := v }.rf = s.rf := rfl
@[simp] theorem State.upd_latch_rx (s : State) (v : List (Nat × Word)) : { s with latch := v }.rx = s.rx := rfl
@[simp] theorem State.upd_latch_bank (s : State) (v : List (Nat × Word)) : { s with latch := v }.bank = s.bank := rfl
@[simp] theorem State.upd_latch_tbl (s : State) (v : List (Nat × Word)) : { s with latch := v }.tbl = s.tbl := rfl
@[simp] theorem State.upd_latch_sch (s : State) (v : List (Nat × Word)) : { s with latch := v }.sch = s.sch := rfl
@[simp] theorem State.upd_latch_tx (s : State) (v : List (Nat × Word)) : { s with latch := v }.tx = s.tx := rfl
@[simp] theorem State.upd_latch_herd (s : State) (v : List (Nat × Word)) : { s with latch := v }.herd = s.herd := rfl
@[simp] theorem State.upd_latch_adp (s : State) (v : List (Nat × Word)) : { s with latch := v }.adp = s.adp := rfl
@[simp] theorem State.upd_latch_sec (s : State) (v : List (Nat × Word)) : { s with latch := v }.sec = s.sec := rfl
@[simp] theorem State.upd_latch_eth (s : State) (v : List (Nat × Word)) : { s with latch := v }.eth = s.eth := rfl
@[simp] theorem State.upd_latch_snap (s : State) (v : List (Nat × Word)) : { s with latch := v }.snap = s.snap := rfl
@[simp] theorem State.upd_latch_snapWin (s : State) (v : List (Nat × Word)) : { s with latch := v }.snapWin = s.snapWin := rfl
@[simp] theorem State.upd_latch_snapPorts (s : State) (v : List (Nat × Word)) : { s with latch := v }.snapPorts = s.snapPorts := rfl
@[simp] theorem State.upd_latch_captured (s : State) (v : List (Nat × Word)) : { s with latch := v }.captured = s.captured := rfl
@[simp] theorem State.upd_latch_que (s : State) (v : List (Nat × Word)) : { s with latch := v }.que = s.que := rfl
@[simp] theorem State.upd_latch_hif (s : State) (v : List (Nat × Word)) : { s with latch := v }.hif = s.hif := rfl
@[simp] theorem State.upd_latch_jrn (s : State) (v : List (Nat × Word)) : { s with latch := v }.jrn = s.jrn := rfl
@[simp] theorem State.upd_latch_pair (s : State) (v : List (Nat × Word)) : { s with latch := v }.pair = s.pair := rfl
@[simp] theorem State.upd_latch_err (s : State) (v : List (Nat × Word)) : { s with latch := v }.err = s.err := rfl
@[simp] theorem State.upd_latch_pwr (s : State) (v : List (Nat × Word)) : { s with latch := v }.pwr = s.pwr := rfl
@[simp] theorem State.upd_time_pending (s : State) (v : TimeSt) : { s with time := v }.pending = s.pending := rfl
@[simp] theorem State.upd_time_rdata (s : State) (v : TimeSt) : { s with time := v }.rdata = s.rdata := rfl
@[simp] theorem State.upd_time_fresh (s : State) (v : TimeSt) : { s with time := v }.fresh = s.fresh := rfl
@[simp] theorem State.upd_time_regs (s : State) (v : TimeSt) : { s with time := v }.regs = s.regs := rfl
@[simp] theorem State.upd_time_cnt (s : State) (v : TimeSt) : { s with time := v }.cnt = s.cnt := rfl
@[simp] theorem State.upd_time_active (s : State) (v : TimeSt) : { s with time := v }.active = s.active := rfl
@[simp] theorem State.upd_time_latch (s : State) (v : TimeSt) : { s with time := v }.latch = s.latch := rfl
@[simp] theorem State.upd_time_time (s : State) (v : TimeSt) : { s with time := v }.time = v := rfl
@[simp] theorem State.upd_time_rf (s : State) (v : TimeSt) : { s with time := v }.rf = s.rf := rfl
@[simp] theorem State.upd_time_rx (s : State) (v : TimeSt) : { s with time := v }.rx = s.rx := rfl
@[simp] theorem State.upd_time_bank (s : State) (v : TimeSt) : { s with time := v }.bank = s.bank := rfl
@[simp] theorem State.upd_time_tbl (s : State) (v : TimeSt) : { s with time := v }.tbl = s.tbl := rfl
@[simp] theorem State.upd_time_sch (s : State) (v : TimeSt) : { s with time := v }.sch = s.sch := rfl
@[simp] theorem State.upd_time_tx (s : State) (v : TimeSt) : { s with time := v }.tx = s.tx := rfl
@[simp] theorem State.upd_time_herd (s : State) (v : TimeSt) : { s with time := v }.herd = s.herd := rfl
@[simp] theorem State.upd_time_adp (s : State) (v : TimeSt) : { s with time := v }.adp = s.adp := rfl
@[simp] theorem State.upd_time_sec (s : State) (v : TimeSt) : { s with time := v }.sec = s.sec := rfl
@[simp] theorem State.upd_time_eth (s : State) (v : TimeSt) : { s with time := v }.eth = s.eth := rfl
@[simp] theorem State.upd_time_snap (s : State) (v : TimeSt) : { s with time := v }.snap = s.snap := rfl
@[simp] theorem State.upd_time_snapWin (s : State) (v : TimeSt) : { s with time := v }.snapWin = s.snapWin := rfl
@[simp] theorem State.upd_time_snapPorts (s : State) (v : TimeSt) : { s with time := v }.snapPorts = s.snapPorts := rfl
@[simp] theorem State.upd_time_captured (s : State) (v : TimeSt) : { s with time := v }.captured = s.captured := rfl
@[simp] theorem State.upd_time_que (s : State) (v : TimeSt) : { s with time := v }.que = s.que := rfl
@[simp] theorem State.upd_time_hif (s : State) (v : TimeSt) : { s with time := v }.hif = s.hif := rfl
@[simp] theorem State.upd_time_jrn (s : State) (v : TimeSt) : { s with time := v }.jrn = s.jrn := rfl
@[simp] theorem State.upd_time_pair (s : State) (v : TimeSt) : { s with time := v }.pair = s.pair := rfl
@[simp] theorem State.upd_time_err (s : State) (v : TimeSt) : { s with time := v }.err = s.err := rfl
@[simp] theorem State.upd_time_pwr (s : State) (v : TimeSt) : { s with time := v }.pwr = s.pwr := rfl
@[simp] theorem State.upd_rf_pending (s : State) (v : RfSt) : { s with rf := v }.pending = s.pending := rfl
@[simp] theorem State.upd_rf_rdata (s : State) (v : RfSt) : { s with rf := v }.rdata = s.rdata := rfl
@[simp] theorem State.upd_rf_fresh (s : State) (v : RfSt) : { s with rf := v }.fresh = s.fresh := rfl
@[simp] theorem State.upd_rf_regs (s : State) (v : RfSt) : { s with rf := v }.regs = s.regs := rfl
@[simp] theorem State.upd_rf_cnt (s : State) (v : RfSt) : { s with rf := v }.cnt = s.cnt := rfl
@[simp] theorem State.upd_rf_active (s : State) (v : RfSt) : { s with rf := v }.active = s.active := rfl
@[simp] theorem State.upd_rf_latch (s : State) (v : RfSt) : { s with rf := v }.latch = s.latch := rfl
@[simp] theorem State.upd_rf_time (s : State) (v : RfSt) : { s with rf := v }.time = s.time := rfl
@[simp] theorem State.upd_rf_rf (s : State) (v : RfSt) : { s with rf := v }.rf = v := rfl
@[simp] theorem State.upd_rf_rx (s : State) (v : RfSt) : { s with rf := v }.rx = s.rx := rfl
@[simp] theorem State.upd_rf_bank (s : State) (v : RfSt) : { s with rf := v }.bank = s.bank := rfl
@[simp] theorem State.upd_rf_tbl (s : State) (v : RfSt) : { s with rf := v }.tbl = s.tbl := rfl
@[simp] theorem State.upd_rf_sch (s : State) (v : RfSt) : { s with rf := v }.sch = s.sch := rfl
@[simp] theorem State.upd_rf_tx (s : State) (v : RfSt) : { s with rf := v }.tx = s.tx := rfl
@[simp] theorem State.upd_rf_herd (s : State) (v : RfSt) : { s with rf := v }.herd = s.herd := rfl
@[simp] theorem State.upd_rf_adp (s : State) (v : RfSt) : { s with rf := v }.adp = s.adp := rfl
@[simp] theorem State.upd_rf_sec (s : State) (v : RfSt) : { s with rf := v }.sec = s.sec := rfl
@[simp] theorem State.upd_rf_eth (s : State) (v : RfSt) : { s with rf := v }.eth = s.eth := rfl
@[simp] theorem State.upd_rf_snap (s : State) (v : RfSt) : { s with rf := v }.snap = s.snap := rfl
@[simp] theorem State.upd_rf_snapWin (s : State) (v : RfSt) : { s with rf := v }.snapWin = s.snapWin := rfl
@[simp] theorem State.upd_rf_snapPorts (s : State) (v : RfSt) : { s with rf := v }.snapPorts = s.snapPorts := rfl
@[simp] theorem State.upd_rf_captured (s : State) (v : RfSt) : { s with rf := v }.captured = s.captured := rfl
@[simp] theorem State.upd_rf_que (s : State) (v : RfSt) : { s with rf := v }.que = s.que := rfl
@[simp] theorem State.upd_rf_hif (s : State) (v : RfSt) : { s with rf := v }.hif = s.hif := rfl
@[simp] theorem State.upd_rf_jrn (s : State) (v : RfSt) : { s with rf := v }.jrn = s.jrn := rfl
@[simp] theorem State.upd_rf_pair (s : State) (v : RfSt) : { s with rf := v }.pair = s.pair := rfl
@[simp] theorem State.upd_rf_err (s : State) (v : RfSt) : { s with rf := v }.err = s.err := rfl
@[simp] theorem State.upd_rf_pwr (s : State) (v : RfSt) : { s with rf := v }.pwr = s.pwr := rfl
@[simp] theorem State.upd_rx_pending (s : State) (v : RxSt) : { s with rx := v }.pending = s.pending := rfl
@[simp] theorem State.upd_rx_rdata (s : State) (v : RxSt) : { s with rx := v }.rdata = s.rdata := rfl
@[simp] theorem State.upd_rx_fresh (s : State) (v : RxSt) : { s with rx := v }.fresh = s.fresh := rfl
@[simp] theorem State.upd_rx_regs (s : State) (v : RxSt) : { s with rx := v }.regs = s.regs := rfl
@[simp] theorem State.upd_rx_cnt (s : State) (v : RxSt) : { s with rx := v }.cnt = s.cnt := rfl
@[simp] theorem State.upd_rx_active (s : State) (v : RxSt) : { s with rx := v }.active = s.active := rfl
@[simp] theorem State.upd_rx_latch (s : State) (v : RxSt) : { s with rx := v }.latch = s.latch := rfl
@[simp] theorem State.upd_rx_time (s : State) (v : RxSt) : { s with rx := v }.time = s.time := rfl
@[simp] theorem State.upd_rx_rf (s : State) (v : RxSt) : { s with rx := v }.rf = s.rf := rfl
@[simp] theorem State.upd_rx_rx (s : State) (v : RxSt) : { s with rx := v }.rx = v := rfl
@[simp] theorem State.upd_rx_bank (s : State) (v : RxSt) : { s with rx := v }.bank = s.bank := rfl
@[simp] theorem State.upd_rx_tbl (s : State) (v : RxSt) : { s with rx := v }.tbl = s.tbl := rfl
@[simp] theorem State.upd_rx_sch (s : State) (v : RxSt) : { s with rx := v }.sch = s.sch := rfl
@[simp] theorem State.upd_rx_tx (s : State) (v : RxSt) : { s with rx := v }.tx = s.tx := rfl
@[simp] theorem State.upd_rx_herd (s : State) (v : RxSt) : { s with rx := v }.herd = s.herd := rfl
@[simp] theorem State.upd_rx_adp (s : State) (v : RxSt) : { s with rx := v }.adp = s.adp := rfl
@[simp] theorem State.upd_rx_sec (s : State) (v : RxSt) : { s with rx := v }.sec = s.sec := rfl
@[simp] theorem State.upd_rx_eth (s : State) (v : RxSt) : { s with rx := v }.eth = s.eth := rfl
@[simp] theorem State.upd_rx_snap (s : State) (v : RxSt) : { s with rx := v }.snap = s.snap := rfl
@[simp] theorem State.upd_rx_snapWin (s : State) (v : RxSt) : { s with rx := v }.snapWin = s.snapWin := rfl
@[simp] theorem State.upd_rx_snapPorts (s : State) (v : RxSt) : { s with rx := v }.snapPorts = s.snapPorts := rfl
@[simp] theorem State.upd_rx_captured (s : State) (v : RxSt) : { s with rx := v }.captured = s.captured := rfl
@[simp] theorem State.upd_rx_que (s : State) (v : RxSt) : { s with rx := v }.que = s.que := rfl
@[simp] theorem State.upd_rx_hif (s : State) (v : RxSt) : { s with rx := v }.hif = s.hif := rfl
@[simp] theorem State.upd_rx_jrn (s : State) (v : RxSt) : { s with rx := v }.jrn = s.jrn := rfl
@[simp] theorem State.upd_rx_pair (s : State) (v : RxSt) : { s with rx := v }.pair = s.pair := rfl
@[simp] theorem State.upd_rx_err (s : State) (v : RxSt) : { s with rx := v }.err = s.err := rfl
@[simp] theorem State.upd_rx_pwr (s : State) (v : RxSt) : { s with rx := v }.pwr = s.pwr := rfl
@[simp] theorem State.upd_bank_pending (s : State) (v : BankSt) : { s with bank := v }.pending = s.pending := rfl
@[simp] theorem State.upd_bank_rdata (s : State) (v : BankSt) : { s with bank := v }.rdata = s.rdata := rfl
@[simp] theorem State.upd_bank_fresh (s : State) (v : BankSt) : { s with bank := v }.fresh = s.fresh := rfl
@[simp] theorem State.upd_bank_regs (s : State) (v : BankSt) : { s with bank := v }.regs = s.regs := rfl
@[simp] theorem State.upd_bank_cnt (s : State) (v : BankSt) : { s with bank := v }.cnt = s.cnt := rfl
@[simp] theorem State.upd_bank_active (s : State) (v : BankSt) : { s with bank := v }.active = s.active := rfl
@[simp] theorem State.upd_bank_latch (s : State) (v : BankSt) : { s with bank := v }.latch = s.latch := rfl
@[simp] theorem State.upd_bank_time (s : State) (v : BankSt) : { s with bank := v }.time = s.time := rfl
@[simp] theorem State.upd_bank_rf (s : State) (v : BankSt) : { s with bank := v }.rf = s.rf := rfl
@[simp] theorem State.upd_bank_rx (s : State) (v : BankSt) : { s with bank := v }.rx = s.rx := rfl
@[simp] theorem State.upd_bank_bank (s : State) (v : BankSt) : { s with bank := v }.bank = v := rfl
@[simp] theorem State.upd_bank_tbl (s : State) (v : BankSt) : { s with bank := v }.tbl = s.tbl := rfl
@[simp] theorem State.upd_bank_sch (s : State) (v : BankSt) : { s with bank := v }.sch = s.sch := rfl
@[simp] theorem State.upd_bank_tx (s : State) (v : BankSt) : { s with bank := v }.tx = s.tx := rfl
@[simp] theorem State.upd_bank_herd (s : State) (v : BankSt) : { s with bank := v }.herd = s.herd := rfl
@[simp] theorem State.upd_bank_adp (s : State) (v : BankSt) : { s with bank := v }.adp = s.adp := rfl
@[simp] theorem State.upd_bank_sec (s : State) (v : BankSt) : { s with bank := v }.sec = s.sec := rfl
@[simp] theorem State.upd_bank_eth (s : State) (v : BankSt) : { s with bank := v }.eth = s.eth := rfl
@[simp] theorem State.upd_bank_snap (s : State) (v : BankSt) : { s with bank := v }.snap = s.snap := rfl
@[simp] theorem State.upd_bank_snapWin (s : State) (v : BankSt) : { s with bank := v }.snapWin = s.snapWin := rfl
@[simp] theorem State.upd_bank_snapPorts (s : State) (v : BankSt) : { s with bank := v }.snapPorts = s.snapPorts := rfl
@[simp] theorem State.upd_bank_captured (s : State) (v : BankSt) : { s with bank := v }.captured = s.captured := rfl
@[simp] theorem State.upd_bank_que (s : State) (v : BankSt) : { s with bank := v }.que = s.que := rfl
@[simp] theorem State.upd_bank_hif (s : State) (v : BankSt) : { s with bank := v }.hif = s.hif := rfl
@[simp] theorem State.upd_bank_jrn (s : State) (v : BankSt) : { s with bank := v }.jrn = s.jrn := rfl
@[simp] theorem State.upd_bank_pair (s : State) (v : BankSt) : { s with bank := v }.pair = s.pair := rfl
@[simp] theorem State.upd_bank_err (s : State) (v : BankSt) : { s with bank := v }.err = s.err := rfl
@[simp] theorem State.upd_bank_pwr (s : State) (v : BankSt) : { s with bank := v }.pwr = s.pwr := rfl
@[simp] theorem State.upd_tbl_pending (s : State) (v : TblSt) : { s with tbl := v }.pending = s.pending := rfl
@[simp] theorem State.upd_tbl_rdata (s : State) (v : TblSt) : { s with tbl := v }.rdata = s.rdata := rfl
@[simp] theorem State.upd_tbl_fresh (s : State) (v : TblSt) : { s with tbl := v }.fresh = s.fresh := rfl
@[simp] theorem State.upd_tbl_regs (s : State) (v : TblSt) : { s with tbl := v }.regs = s.regs := rfl
@[simp] theorem State.upd_tbl_cnt (s : State) (v : TblSt) : { s with tbl := v }.cnt = s.cnt := rfl
@[simp] theorem State.upd_tbl_active (s : State) (v : TblSt) : { s with tbl := v }.active = s.active := rfl
@[simp] theorem State.upd_tbl_latch (s : State) (v : TblSt) : { s with tbl := v }.latch = s.latch := rfl
@[simp] theorem State.upd_tbl_time (s : State) (v : TblSt) : { s with tbl := v }.time = s.time := rfl
@[simp] theorem State.upd_tbl_rf (s : State) (v : TblSt) : { s with tbl := v }.rf = s.rf := rfl
@[simp] theorem State.upd_tbl_rx (s : State) (v : TblSt) : { s with tbl := v }.rx = s.rx := rfl
@[simp] theorem State.upd_tbl_bank (s : State) (v : TblSt) : { s with tbl := v }.bank = s.bank := rfl
@[simp] theorem State.upd_tbl_tbl (s : State) (v : TblSt) : { s with tbl := v }.tbl = v := rfl
@[simp] theorem State.upd_tbl_sch (s : State) (v : TblSt) : { s with tbl := v }.sch = s.sch := rfl
@[simp] theorem State.upd_tbl_tx (s : State) (v : TblSt) : { s with tbl := v }.tx = s.tx := rfl
@[simp] theorem State.upd_tbl_herd (s : State) (v : TblSt) : { s with tbl := v }.herd = s.herd := rfl
@[simp] theorem State.upd_tbl_adp (s : State) (v : TblSt) : { s with tbl := v }.adp = s.adp := rfl
@[simp] theorem State.upd_tbl_sec (s : State) (v : TblSt) : { s with tbl := v }.sec = s.sec := rfl
@[simp] theorem State.upd_tbl_eth (s : State) (v : TblSt) : { s with tbl := v }.eth = s.eth := rfl
@[simp] theorem State.upd_tbl_snap (s : State) (v : TblSt) : { s with tbl := v }.snap = s.snap := rfl
@[simp] theorem State.upd_tbl_snapWin (s : State) (v : TblSt) : { s with tbl := v }.snapWin = s.snapWin := rfl
@[simp] theorem State.upd_tbl_snapPorts (s : State) (v : TblSt) : { s with tbl := v }.snapPorts = s.snapPorts := rfl
@[simp] theorem State.upd_tbl_captured (s : State) (v : TblSt) : { s with tbl := v }.captured = s.captured := rfl
@[simp] theorem State.upd_tbl_que (s : State) (v : TblSt) : { s with tbl := v }.que = s.que := rfl
@[simp] theorem State.upd_tbl_hif (s : State) (v : TblSt) : { s with tbl := v }.hif = s.hif := rfl
@[simp] theorem State.upd_tbl_jrn (s : State) (v : TblSt) : { s with tbl := v }.jrn = s.jrn := rfl
@[simp] theorem State.upd_tbl_pair (s : State) (v : TblSt) : { s with tbl := v }.pair = s.pair := rfl
@[simp] theorem State.upd_tbl_err (s : State) (v : TblSt) : { s with tbl := v }.err = s.err := rfl
@[simp] theorem State.upd_tbl_pwr (s : State) (v : TblSt) : { s with tbl := v }.pwr = s.pwr := rfl
@[simp] theorem State.upd_sch_pending (s : State) (v : SchSt) : { s with sch := v }.pending = s.pending := rfl
@[simp] theorem State.upd_sch_rdata (s : State) (v : SchSt) : { s with sch := v }.rdata = s.rdata := rfl
@[simp] theorem State.upd_sch_fresh (s : State) (v : SchSt) : { s with sch := v }.fresh = s.fresh := rfl
@[simp] theorem State.upd_sch_regs (s : State) (v : SchSt) : { s with sch := v }.regs = s.regs := rfl
@[simp] theorem State.upd_sch_cnt (s : State) (v : SchSt) : { s with sch := v }.cnt = s.cnt := rfl
@[simp] theorem State.upd_sch_active (s : State) (v : SchSt) : { s with sch := v }.active = s.active := rfl
@[simp] theorem State.upd_sch_latch (s : State) (v : SchSt) : { s with sch := v }.latch = s.latch := rfl
@[simp] theorem State.upd_sch_time (s : State) (v : SchSt) : { s with sch := v }.time = s.time := rfl
@[simp] theorem State.upd_sch_rf (s : State) (v : SchSt) : { s with sch := v }.rf = s.rf := rfl
@[simp] theorem State.upd_sch_rx (s : State) (v : SchSt) : { s with sch := v }.rx = s.rx := rfl
@[simp] theorem State.upd_sch_bank (s : State) (v : SchSt) : { s with sch := v }.bank = s.bank := rfl
@[simp] theorem State.upd_sch_tbl (s : State) (v : SchSt) : { s with sch := v }.tbl = s.tbl := rfl
@[simp] theorem State.upd_sch_sch (s : State) (v : SchSt) : { s with sch := v }.sch = v := rfl
@[simp] theorem State.upd_sch_tx (s : State) (v : SchSt) : { s with sch := v }.tx = s.tx := rfl
@[simp] theorem State.upd_sch_herd (s : State) (v : SchSt) : { s with sch := v }.herd = s.herd := rfl
@[simp] theorem State.upd_sch_adp (s : State) (v : SchSt) : { s with sch := v }.adp = s.adp := rfl
@[simp] theorem State.upd_sch_sec (s : State) (v : SchSt) : { s with sch := v }.sec = s.sec := rfl
@[simp] theorem State.upd_sch_eth (s : State) (v : SchSt) : { s with sch := v }.eth = s.eth := rfl
@[simp] theorem State.upd_sch_snap (s : State) (v : SchSt) : { s with sch := v }.snap = s.snap := rfl
@[simp] theorem State.upd_sch_snapWin (s : State) (v : SchSt) : { s with sch := v }.snapWin = s.snapWin := rfl
@[simp] theorem State.upd_sch_snapPorts (s : State) (v : SchSt) : { s with sch := v }.snapPorts = s.snapPorts := rfl
@[simp] theorem State.upd_sch_captured (s : State) (v : SchSt) : { s with sch := v }.captured = s.captured := rfl
@[simp] theorem State.upd_sch_que (s : State) (v : SchSt) : { s with sch := v }.que = s.que := rfl
@[simp] theorem State.upd_sch_hif (s : State) (v : SchSt) : { s with sch := v }.hif = s.hif := rfl
@[simp] theorem State.upd_sch_jrn (s : State) (v : SchSt) : { s with sch := v }.jrn = s.jrn := rfl
@[simp] theorem State.upd_sch_pair (s : State) (v : SchSt) : { s with sch := v }.pair = s.pair := rfl
@[simp] theorem State.upd_sch_err (s : State) (v : SchSt) : { s with sch := v }.err = s.err := rfl
@[simp] theorem State.upd_sch_pwr (s : State) (v : SchSt) : { s with sch := v }.pwr = s.pwr := rfl
@[simp] theorem State.upd_tx_pending (s : State) (v : TxSt) : { s with tx := v }.pending = s.pending := rfl
@[simp] theorem State.upd_tx_rdata (s : State) (v : TxSt) : { s with tx := v }.rdata = s.rdata := rfl
@[simp] theorem State.upd_tx_fresh (s : State) (v : TxSt) : { s with tx := v }.fresh = s.fresh := rfl
@[simp] theorem State.upd_tx_regs (s : State) (v : TxSt) : { s with tx := v }.regs = s.regs := rfl
@[simp] theorem State.upd_tx_cnt (s : State) (v : TxSt) : { s with tx := v }.cnt = s.cnt := rfl
@[simp] theorem State.upd_tx_active (s : State) (v : TxSt) : { s with tx := v }.active = s.active := rfl
@[simp] theorem State.upd_tx_latch (s : State) (v : TxSt) : { s with tx := v }.latch = s.latch := rfl
@[simp] theorem State.upd_tx_time (s : State) (v : TxSt) : { s with tx := v }.time = s.time := rfl
@[simp] theorem State.upd_tx_rf (s : State) (v : TxSt) : { s with tx := v }.rf = s.rf := rfl
@[simp] theorem State.upd_tx_rx (s : State) (v : TxSt) : { s with tx := v }.rx = s.rx := rfl
@[simp] theorem State.upd_tx_bank (s : State) (v : TxSt) : { s with tx := v }.bank = s.bank := rfl
@[simp] theorem State.upd_tx_tbl (s : State) (v : TxSt) : { s with tx := v }.tbl = s.tbl := rfl
@[simp] theorem State.upd_tx_sch (s : State) (v : TxSt) : { s with tx := v }.sch = s.sch := rfl
@[simp] theorem State.upd_tx_tx (s : State) (v : TxSt) : { s with tx := v }.tx = v := rfl
@[simp] theorem State.upd_tx_herd (s : State) (v : TxSt) : { s with tx := v }.herd = s.herd := rfl
@[simp] theorem State.upd_tx_adp (s : State) (v : TxSt) : { s with tx := v }.adp = s.adp := rfl
@[simp] theorem State.upd_tx_sec (s : State) (v : TxSt) : { s with tx := v }.sec = s.sec := rfl
@[simp] theorem State.upd_tx_eth (s : State) (v : TxSt) : { s with tx := v }.eth = s.eth := rfl
@[simp] theorem State.upd_tx_snap (s : State) (v : TxSt) : { s with tx := v }.snap = s.snap := rfl
@[simp] theorem State.upd_tx_snapWin (s : State) (v : TxSt) : { s with tx := v }.snapWin = s.snapWin := rfl
@[simp] theorem State.upd_tx_snapPorts (s : State) (v : TxSt) : { s with tx := v }.snapPorts = s.snapPorts := rfl
@[simp] theorem State.upd_tx_captured (s : State) (v : TxSt) : { s with tx := v }.captured = s.captured := rfl
@[simp] theorem State.upd_tx_que (s : State) (v : TxSt) : { s with tx := v }.que = s.que := rfl
@[simp] theorem State.upd_tx_hif (s : State) (v : TxSt) : { s with tx := v }.hif = s.hif := rfl
@[simp] theorem State.upd_tx_jrn (s : State) (v : TxSt) : { s with tx := v }.jrn = s.jrn := rfl
@[simp] theorem State.upd_tx_pair (s : State) (v : TxSt) : { s with tx := v }.pair = s.pair := rfl
@[simp] theorem State.upd_tx_err (s : State) (v : TxSt) : { s with tx := v }.err = s.err := rfl
@[simp] theorem State.upd_tx_pwr (s : State) (v : TxSt) : { s with tx := v }.pwr = s.pwr := rfl
@[simp] theorem State.upd_herd_pending (s : State) (v : HerdSt) : { s with herd := v }.pending = s.pending := rfl
@[simp] theorem State.upd_herd_rdata (s : State) (v : HerdSt) : { s with herd := v }.rdata = s.rdata := rfl
@[simp] theorem State.upd_herd_fresh (s : State) (v : HerdSt) : { s with herd := v }.fresh = s.fresh := rfl
@[simp] theorem State.upd_herd_regs (s : State) (v : HerdSt) : { s with herd := v }.regs = s.regs := rfl
@[simp] theorem State.upd_herd_cnt (s : State) (v : HerdSt) : { s with herd := v }.cnt = s.cnt := rfl
@[simp] theorem State.upd_herd_active (s : State) (v : HerdSt) : { s with herd := v }.active = s.active := rfl
@[simp] theorem State.upd_herd_latch (s : State) (v : HerdSt) : { s with herd := v }.latch = s.latch := rfl
@[simp] theorem State.upd_herd_time (s : State) (v : HerdSt) : { s with herd := v }.time = s.time := rfl
@[simp] theorem State.upd_herd_rf (s : State) (v : HerdSt) : { s with herd := v }.rf = s.rf := rfl
@[simp] theorem State.upd_herd_rx (s : State) (v : HerdSt) : { s with herd := v }.rx = s.rx := rfl
@[simp] theorem State.upd_herd_bank (s : State) (v : HerdSt) : { s with herd := v }.bank = s.bank := rfl
@[simp] theorem State.upd_herd_tbl (s : State) (v : HerdSt) : { s with herd := v }.tbl = s.tbl := rfl
@[simp] theorem State.upd_herd_sch (s : State) (v : HerdSt) : { s with herd := v }.sch = s.sch := rfl
@[simp] theorem State.upd_herd_tx (s : State) (v : HerdSt) : { s with herd := v }.tx = s.tx := rfl
@[simp] theorem State.upd_herd_herd (s : State) (v : HerdSt) : { s with herd := v }.herd = v := rfl
@[simp] theorem State.upd_herd_adp (s : State) (v : HerdSt) : { s with herd := v }.adp = s.adp := rfl
@[simp] theorem State.upd_herd_sec (s : State) (v : HerdSt) : { s with herd := v }.sec = s.sec := rfl
@[simp] theorem State.upd_herd_eth (s : State) (v : HerdSt) : { s with herd := v }.eth = s.eth := rfl
@[simp] theorem State.upd_herd_snap (s : State) (v : HerdSt) : { s with herd := v }.snap = s.snap := rfl
@[simp] theorem State.upd_herd_snapWin (s : State) (v : HerdSt) : { s with herd := v }.snapWin = s.snapWin := rfl
@[simp] theorem State.upd_herd_snapPorts (s : State) (v : HerdSt) : { s with herd := v }.snapPorts = s.snapPorts := rfl
@[simp] theorem State.upd_herd_captured (s : State) (v : HerdSt) : { s with herd := v }.captured = s.captured := rfl
@[simp] theorem State.upd_herd_que (s : State) (v : HerdSt) : { s with herd := v }.que = s.que := rfl
@[simp] theorem State.upd_herd_hif (s : State) (v : HerdSt) : { s with herd := v }.hif = s.hif := rfl
@[simp] theorem State.upd_herd_jrn (s : State) (v : HerdSt) : { s with herd := v }.jrn = s.jrn := rfl
@[simp] theorem State.upd_herd_pair (s : State) (v : HerdSt) : { s with herd := v }.pair = s.pair := rfl
@[simp] theorem State.upd_herd_err (s : State) (v : HerdSt) : { s with herd := v }.err = s.err := rfl
@[simp] theorem State.upd_herd_pwr (s : State) (v : HerdSt) : { s with herd := v }.pwr = s.pwr := rfl
@[simp] theorem State.upd_adp_pending (s : State) (v : AdpSt) : { s with adp := v }.pending = s.pending := rfl
@[simp] theorem State.upd_adp_rdata (s : State) (v : AdpSt) : { s with adp := v }.rdata = s.rdata := rfl
@[simp] theorem State.upd_adp_fresh (s : State) (v : AdpSt) : { s with adp := v }.fresh = s.fresh := rfl
@[simp] theorem State.upd_adp_regs (s : State) (v : AdpSt) : { s with adp := v }.regs = s.regs := rfl
@[simp] theorem State.upd_adp_cnt (s : State) (v : AdpSt) : { s with adp := v }.cnt = s.cnt := rfl
@[simp] theorem State.upd_adp_active (s : State) (v : AdpSt) : { s with adp := v }.active = s.active := rfl
@[simp] theorem State.upd_adp_latch (s : State) (v : AdpSt) : { s with adp := v }.latch = s.latch := rfl
@[simp] theorem State.upd_adp_time (s : State) (v : AdpSt) : { s with adp := v }.time = s.time := rfl
@[simp] theorem State.upd_adp_rf (s : State) (v : AdpSt) : { s with adp := v }.rf = s.rf := rfl
@[simp] theorem State.upd_adp_rx (s : State) (v : AdpSt) : { s with adp := v }.rx = s.rx := rfl
@[simp] theorem State.upd_adp_bank (s : State) (v : AdpSt) : { s with adp := v }.bank = s.bank := rfl
@[simp] theorem State.upd_adp_tbl (s : State) (v : AdpSt) : { s with adp := v }.tbl = s.tbl := rfl
@[simp] theorem State.upd_adp_sch (s : State) (v : AdpSt) : { s with adp := v }.sch = s.sch := rfl
@[simp] theorem State.upd_adp_tx (s : State) (v : AdpSt) : { s with adp := v }.tx = s.tx := rfl
@[simp] theorem State.upd_adp_herd (s : State) (v : AdpSt) : { s with adp := v }.herd = s.herd := rfl
@[simp] theorem State.upd_adp_adp (s : State) (v : AdpSt) : { s with adp := v }.adp = v := rfl
@[simp] theorem State.upd_adp_sec (s : State) (v : AdpSt) : { s with adp := v }.sec = s.sec := rfl
@[simp] theorem State.upd_adp_eth (s : State) (v : AdpSt) : { s with adp := v }.eth = s.eth := rfl
@[simp] theorem State.upd_adp_snap (s : State) (v : AdpSt) : { s with adp := v }.snap = s.snap := rfl
@[simp] theorem State.upd_adp_snapWin (s : State) (v : AdpSt) : { s with adp := v }.snapWin = s.snapWin := rfl
@[simp] theorem State.upd_adp_snapPorts (s : State) (v : AdpSt) : { s with adp := v }.snapPorts = s.snapPorts := rfl
@[simp] theorem State.upd_adp_captured (s : State) (v : AdpSt) : { s with adp := v }.captured = s.captured := rfl
@[simp] theorem State.upd_adp_que (s : State) (v : AdpSt) : { s with adp := v }.que = s.que := rfl
@[simp] theorem State.upd_adp_hif (s : State) (v : AdpSt) : { s with adp := v }.hif = s.hif := rfl
@[simp] theorem State.upd_adp_jrn (s : State) (v : AdpSt) : { s with adp := v }.jrn = s.jrn := rfl
@[simp] theorem State.upd_adp_pair (s : State) (v : AdpSt) : { s with adp := v }.pair = s.pair := rfl
@[simp] theorem State.upd_adp_err (s : State) (v : AdpSt) : { s with adp := v }.err = s.err := rfl
@[simp] theorem State.upd_adp_pwr (s : State) (v : AdpSt) : { s with adp := v }.pwr = s.pwr := rfl
@[simp] theorem State.upd_sec_pending (s : State) (v : SecSt) : { s with sec := v }.pending = s.pending := rfl
@[simp] theorem State.upd_sec_rdata (s : State) (v : SecSt) : { s with sec := v }.rdata = s.rdata := rfl
@[simp] theorem State.upd_sec_fresh (s : State) (v : SecSt) : { s with sec := v }.fresh = s.fresh := rfl
@[simp] theorem State.upd_sec_regs (s : State) (v : SecSt) : { s with sec := v }.regs = s.regs := rfl
@[simp] theorem State.upd_sec_cnt (s : State) (v : SecSt) : { s with sec := v }.cnt = s.cnt := rfl
@[simp] theorem State.upd_sec_active (s : State) (v : SecSt) : { s with sec := v }.active = s.active := rfl
@[simp] theorem State.upd_sec_latch (s : State) (v : SecSt) : { s with sec := v }.latch = s.latch := rfl
@[simp] theorem State.upd_sec_time (s : State) (v : SecSt) : { s with sec := v }.time = s.time := rfl
@[simp] theorem State.upd_sec_rf (s : State) (v : SecSt) : { s with sec := v }.rf = s.rf := rfl
@[simp] theorem State.upd_sec_rx (s : State) (v : SecSt) : { s with sec := v }.rx = s.rx := rfl
@[simp] theorem State.upd_sec_bank (s : State) (v : SecSt) : { s with sec := v }.bank = s.bank := rfl
@[simp] theorem State.upd_sec_tbl (s : State) (v : SecSt) : { s with sec := v }.tbl = s.tbl := rfl
@[simp] theorem State.upd_sec_sch (s : State) (v : SecSt) : { s with sec := v }.sch = s.sch := rfl
@[simp] theorem State.upd_sec_tx (s : State) (v : SecSt) : { s with sec := v }.tx = s.tx := rfl
@[simp] theorem State.upd_sec_herd (s : State) (v : SecSt) : { s with sec := v }.herd = s.herd := rfl
@[simp] theorem State.upd_sec_adp (s : State) (v : SecSt) : { s with sec := v }.adp = s.adp := rfl
@[simp] theorem State.upd_sec_sec (s : State) (v : SecSt) : { s with sec := v }.sec = v := rfl
@[simp] theorem State.upd_sec_eth (s : State) (v : SecSt) : { s with sec := v }.eth = s.eth := rfl
@[simp] theorem State.upd_sec_snap (s : State) (v : SecSt) : { s with sec := v }.snap = s.snap := rfl
@[simp] theorem State.upd_sec_snapWin (s : State) (v : SecSt) : { s with sec := v }.snapWin = s.snapWin := rfl
@[simp] theorem State.upd_sec_snapPorts (s : State) (v : SecSt) : { s with sec := v }.snapPorts = s.snapPorts := rfl
@[simp] theorem State.upd_sec_captured (s : State) (v : SecSt) : { s with sec := v }.captured = s.captured := rfl
@[simp] theorem State.upd_sec_que (s : State) (v : SecSt) : { s with sec := v }.que = s.que := rfl
@[simp] theorem State.upd_sec_hif (s : State) (v : SecSt) : { s with sec := v }.hif = s.hif := rfl
@[simp] theorem State.upd_sec_jrn (s : State) (v : SecSt) : { s with sec := v }.jrn = s.jrn := rfl
@[simp] theorem State.upd_sec_pair (s : State) (v : SecSt) : { s with sec := v }.pair = s.pair := rfl
@[simp] theorem State.upd_sec_err (s : State) (v : SecSt) : { s with sec := v }.err = s.err := rfl
@[simp] theorem State.upd_sec_pwr (s : State) (v : SecSt) : { s with sec := v }.pwr = s.pwr := rfl
@[simp] theorem State.upd_eth_pending (s : State) (v : List EthPort) : { s with eth := v }.pending = s.pending := rfl
@[simp] theorem State.upd_eth_rdata (s : State) (v : List EthPort) : { s with eth := v }.rdata = s.rdata := rfl
@[simp] theorem State.upd_eth_fresh (s : State) (v : List EthPort) : { s with eth := v }.fresh = s.fresh := rfl
@[simp] theorem State.upd_eth_regs (s : State) (v : List EthPort) : { s with eth := v }.regs = s.regs := rfl
@[simp] theorem State.upd_eth_cnt (s : State) (v : List EthPort) : { s with eth := v }.cnt = s.cnt := rfl
@[simp] theorem State.upd_eth_active (s : State) (v : List EthPort) : { s with eth := v }.active = s.active := rfl
@[simp] theorem State.upd_eth_latch (s : State) (v : List EthPort) : { s with eth := v }.latch = s.latch := rfl
@[simp] theorem State.upd_eth_time (s : State) (v : List EthPort) : { s with eth := v }.time = s.time := rfl
@[simp] theorem State.upd_eth_rf (s : State) (v : List EthPort) : { s with eth := v }.rf = s.rf := rfl
@[simp] theorem State.upd_eth_rx (s : State) (v : List EthPort) : { s with eth := v }.rx = s.rx := rfl
@[simp] theorem State.upd_eth_bank (s : State) (v : List EthPort) : { s with eth := v }.bank = s.bank := rfl
@[simp] theorem State.upd_eth_tbl (s : State) (v : List EthPort) : { s with eth := v }.tbl = s.tbl := rfl
@[simp] theorem State.upd_eth_sch (s : State) (v : List EthPort) : { s with eth := v }.sch = s.sch := rfl
@[simp] theorem State.upd_eth_tx (s : State) (v : List EthPort) : { s with eth := v }.tx = s.tx := rfl
@[simp] theorem State.upd_eth_herd (s : State) (v : List EthPort) : { s with eth := v }.herd = s.herd := rfl
@[simp] theorem State.upd_eth_adp (s : State) (v : List EthPort) : { s with eth := v }.adp = s.adp := rfl
@[simp] theorem State.upd_eth_sec (s : State) (v : List EthPort) : { s with eth := v }.sec = s.sec := rfl
@[simp] theorem State.upd_eth_eth (s : State) (v : List EthPort) : { s with eth := v }.eth = v := rfl
@[simp] theorem State.upd_eth_snap (s : State) (v : List EthPort) : { s with eth := v }.snap = s.snap := rfl
@[simp] theorem State.upd_eth_snapWin (s : State) (v : List EthPort) : { s with eth := v }.snapWin = s.snapWin := rfl
@[simp] theorem State.upd_eth_snapPorts (s : State) (v : List EthPort) : { s with eth := v }.snapPorts = s.snapPorts := rfl
@[simp] theorem State.upd_eth_captured (s : State) (v : List EthPort) : { s with eth := v }.captured = s.captured := rfl
@[simp] theorem State.upd_eth_que (s : State) (v : List EthPort) : { s with eth := v }.que = s.que := rfl
@[simp] theorem State.upd_eth_hif (s : State) (v : List EthPort) : { s with eth := v }.hif = s.hif := rfl
@[simp] theorem State.upd_eth_jrn (s : State) (v : List EthPort) : { s with eth := v }.jrn = s.jrn := rfl
@[simp] theorem State.upd_eth_pair (s : State) (v : List EthPort) : { s with eth := v }.pair = s.pair := rfl
@[simp] theorem State.upd_eth_err (s : State) (v : List EthPort) : { s with eth := v }.err = s.err := rfl
@[simp] theorem State.upd_eth_pwr (s : State) (v : List EthPort) : { s with eth := v }.pwr = s.pwr := rfl
@[simp] theorem State.upd_snap_pending (s : State) (v : Option Snap) : { s with snap := v }.pending = s.pending := rfl
@[simp] theorem State.upd_snap_rdata (s : State) (v : Option Snap) : { s with snap := v }.rdata = s.rdata := rfl
@[simp] theorem State.upd_snap_fresh (s : State) (v : Option Snap) : { s with snap := v }.fresh = s.fresh := rfl
@[simp] theorem State.upd_snap_regs (s : State) (v : Option Snap) : { s with snap := v }.regs = s.regs := rfl
@[simp] theorem State.upd_snap_cnt (s : State) (v : Option Snap) : { s with snap := v }.cnt = s.cnt := rfl
@[simp] theorem State.upd_snap_active (s : State) (v : Option Snap) : { s with snap := v }.active = s.active := rfl
@[simp] theorem State.upd_snap_latch (s : State) (v : Option Snap) : { s with snap := v }.latch = s.latch := rfl
@[simp] theorem State.upd_snap_time (s : State) (v : Option Snap) : { s with snap := v }.time = s.time := rfl
@[simp] theorem State.upd_snap_rf (s : State) (v : Option Snap) : { s with snap := v }.rf = s.rf := rfl
@[simp] theorem State.upd_snap_rx (s : State) (v : Option Snap) : { s with snap := v }.rx = s.rx := rfl
@[simp] theorem State.upd_snap_bank (s : State) (v : Option Snap) : { s with snap := v }.bank = s.bank := rfl
@[simp] theorem State.upd_snap_tbl (s : State) (v : Option Snap) : { s with snap := v }.tbl = s.tbl := rfl
@[simp] theorem State.upd_snap_sch (s : State) (v : Option Snap) : { s with snap := v }.sch = s.sch := rfl
@[simp] theorem State.upd_snap_tx (s : State) (v : Option Snap) : { s with snap := v }.tx = s.tx := rfl
@[simp] theorem State.upd_snap_herd (s : State) (v : Option Snap) : { s with snap := v }.herd = s.herd := rfl
@[simp] theorem State.upd_snap_adp (s : State) (v : Option Snap) : { s with snap := v }.adp = s.adp := rfl
@[simp] theorem State.upd_snap_sec (s : State) (v : Option Snap) : { s with snap := v }.sec = s.sec := rfl
@[simp] theorem State.upd_snap_eth (s : State) (v : Option Snap) : { s with snap := v }.eth = s.eth := rfl
@[simp] theorem State.upd_snap_snap (s : State) (v : Option Snap) : { s with snap := v }.snap = v := rfl
@[simp] theorem State.upd_snap_snapWin (s : State) (v : Option Snap) : { s with snap := v }.snapWin = s.snapWin := rfl
@[simp] theorem State.upd_snap_snapPorts (s : State) (v : Option Snap) : { s with snap := v }.snapPorts = s.snapPorts := rfl
@[simp] theorem State.upd_snap_captured (s : State) (v : Option Snap) : { s with snap := v }.captured = s.captured := rfl
@[simp] theorem State.upd_snap_que (s : State) (v : Option Snap) : { s with snap := v }.que = s.que := rfl
@[simp] theorem State.upd_snap_hif (s : State) (v : Option Snap) : { s with snap := v }.hif = s.hif := rfl
@[simp] theorem State.upd_snap_jrn (s : State) (v : Option Snap) : { s with snap := v }.jrn = s.jrn := rfl
@[simp] theorem State.upd_snap_pair (s : State) (v : Option Snap) : { s with snap := v }.pair = s.pair := rfl
@[simp] theorem State.upd_snap_err (s : State) (v : Option Snap) : { s with snap := v }.err = s.err := rfl
@[simp] theorem State.upd_snap_pwr (s : State) (v : Option Snap) : { s with snap := v }.pwr = s.pwr := rfl
@[simp] theorem State.upd_snapWin_pending (s : State) (v : Nat) : { s with snapWin := v }.pending = s.pending := rfl
@[simp] theorem State.upd_snapWin_rdata (s : State) (v : Nat) : { s with snapWin := v }.rdata = s.rdata := rfl
@[simp] theorem State.upd_snapWin_fresh (s : State) (v : Nat) : { s with snapWin := v }.fresh = s.fresh := rfl
@[simp] theorem State.upd_snapWin_regs (s : State) (v : Nat) : { s with snapWin := v }.regs = s.regs := rfl
@[simp] theorem State.upd_snapWin_cnt (s : State) (v : Nat) : { s with snapWin := v }.cnt = s.cnt := rfl
@[simp] theorem State.upd_snapWin_active (s : State) (v : Nat) : { s with snapWin := v }.active = s.active := rfl
@[simp] theorem State.upd_snapWin_latch (s : State) (v : Nat) : { s with snapWin := v }.latch = s.latch := rfl
@[simp] theorem State.upd_snapWin_time (s : State) (v : Nat) : { s with snapWin := v }.time = s.time := rfl
@[simp] theorem State.upd_snapWin_rf (s : State) (v : Nat) : { s with snapWin := v }.rf = s.rf := rfl
@[simp] theorem State.upd_snapWin_rx (s : State) (v : Nat) : { s with snapWin := v }.rx = s.rx := rfl
@[simp] theorem State.upd_snapWin_bank (s : State) (v : Nat) : { s with snapWin := v }.bank = s.bank := rfl
@[simp] theorem State.upd_snapWin_tbl (s : State) (v : Nat) : { s with snapWin := v }.tbl = s.tbl := rfl
@[simp] theorem State.upd_snapWin_sch (s : State) (v : Nat) : { s with snapWin := v }.sch = s.sch := rfl
@[simp] theorem State.upd_snapWin_tx (s : State) (v : Nat) : { s with snapWin := v }.tx = s.tx := rfl
@[simp] theorem State.upd_snapWin_herd (s : State) (v : Nat) : { s with snapWin := v }.herd = s.herd := rfl
@[simp] theorem State.upd_snapWin_adp (s : State) (v : Nat) : { s with snapWin := v }.adp = s.adp := rfl
@[simp] theorem State.upd_snapWin_sec (s : State) (v : Nat) : { s with snapWin := v }.sec = s.sec := rfl
@[simp] theorem State.upd_snapWin_eth (s : State) (v : Nat) : { s with snapWin := v }.eth = s.eth := rfl
@[simp] theorem State.upd_snapWin_snap (s : State) (v : Nat) : { s with snapWin := v }.snap = s.snap := rfl
@[simp] theorem State.upd_snapWin_snapWin (s : State) (v : Nat) : { s with snapWin := v }.snapWin = v := rfl
@[simp] theorem State.upd_snapWin_snapPorts (s : State) (v : Nat) : { s with snapWin := v }.snapPorts = s.snapPorts := rfl
@[simp] theorem State.upd_snapWin_captured (s : State) (v : Nat) : { s with snapWin := v }.captured = s.captured := rfl
@[simp] theorem State.upd_snapWin_que (s : State) (v : Nat) : { s with snapWin := v }.que = s.que := rfl
@[simp] theorem State.upd_snapWin_hif (s : State) (v : Nat) : { s with snapWin := v }.hif = s.hif := rfl
@[simp] theorem State.upd_snapWin_jrn (s : State) (v : Nat) : { s with snapWin := v }.jrn = s.jrn := rfl
@[simp] theorem State.upd_snapWin_pair (s : State) (v : Nat) : { s with snapWin := v }.pair = s.pair := rfl
@[simp] theorem State.upd_snapWin_err (s : State) (v : Nat) : { s with snapWin := v }.err = s.err := rfl
@[simp] theorem State.upd_snapWin_pwr (s : State) (v : Nat) : { s with snapWin := v }.pwr = s.pwr := rfl
@[simp] theorem State.upd_snapPorts_pending (s : State) (v : Nat) : { s with snapPorts := v }.pending = s.pending := rfl
@[simp] theorem State.upd_snapPorts_rdata (s : State) (v : Nat) : { s with snapPorts := v }.rdata = s.rdata := rfl
@[simp] theorem State.upd_snapPorts_fresh (s : State) (v : Nat) : { s with snapPorts := v }.fresh = s.fresh := rfl
@[simp] theorem State.upd_snapPorts_regs (s : State) (v : Nat) : { s with snapPorts := v }.regs = s.regs := rfl
@[simp] theorem State.upd_snapPorts_cnt (s : State) (v : Nat) : { s with snapPorts := v }.cnt = s.cnt := rfl
@[simp] theorem State.upd_snapPorts_active (s : State) (v : Nat) : { s with snapPorts := v }.active = s.active := rfl
@[simp] theorem State.upd_snapPorts_latch (s : State) (v : Nat) : { s with snapPorts := v }.latch = s.latch := rfl
@[simp] theorem State.upd_snapPorts_time (s : State) (v : Nat) : { s with snapPorts := v }.time = s.time := rfl
@[simp] theorem State.upd_snapPorts_rf (s : State) (v : Nat) : { s with snapPorts := v }.rf = s.rf := rfl
@[simp] theorem State.upd_snapPorts_rx (s : State) (v : Nat) : { s with snapPorts := v }.rx = s.rx := rfl
@[simp] theorem State.upd_snapPorts_bank (s : State) (v : Nat) : { s with snapPorts := v }.bank = s.bank := rfl
@[simp] theorem State.upd_snapPorts_tbl (s : State) (v : Nat) : { s with snapPorts := v }.tbl = s.tbl := rfl
@[simp] theorem State.upd_snapPorts_sch (s : State) (v : Nat) : { s with snapPorts := v }.sch = s.sch := rfl
@[simp] theorem State.upd_snapPorts_tx (s : State) (v : Nat) : { s with snapPorts := v }.tx = s.tx := rfl
@[simp] theorem State.upd_snapPorts_herd (s : State) (v : Nat) : { s with snapPorts := v }.herd = s.herd := rfl
@[simp] theorem State.upd_snapPorts_adp (s : State) (v : Nat) : { s with snapPorts := v }.adp = s.adp := rfl
@[simp] theorem State.upd_snapPorts_sec (s : State) (v : Nat) : { s with snapPorts := v }.sec = s.sec := rfl
@[simp] theorem State.upd_snapPorts_eth (s : State) (v : Nat) : { s with snapPorts := v }.eth = s.eth := rfl
@[simp] theorem State.upd_snapPorts_snap (s : State) (v : Nat) : { s with snapPorts := v }.snap = s.snap := rfl
@[simp] theorem State.upd_snapPorts_snapWin (s : State) (v : Nat) : { s with snapPorts := v }.snapWin = s.snapWin := rfl
@[simp] theorem State.upd_snapPorts_snapPorts (s : State) (v : Nat) : { s with snapPorts := v }.snapPorts = v := rfl
@[simp] theorem State.upd_snapPorts_captured (s : State) (v : Nat) : { s with snapPorts := v }.captured = s.captured := rfl
@[simp] theorem State.upd_snapPorts_que (s : State) (v : Nat) : { s with snapPorts := v }.que = s.que := rfl
@[simp] theorem State.upd_snapPorts_hif (s : State) (v : Nat) : { s with snapPorts := v }.hif = s.hif := rfl
@[simp] theorem State.upd_snapPorts_jrn (s : State) (v : Nat) : { s with snapPorts := v }.jrn = s.jrn := rfl
@[simp] theorem State.upd_snapPorts_pair (s : State) (v : Nat) : { s with snapPorts := v }.pair = s.pair := rfl
@[simp] theorem State.upd_snapPorts_err (s : State) (v : Nat) : { s with snapPorts := v }.err = s.err := rfl
@[simp] theorem State.upd_snapPorts_pwr (s : State) (v : Nat) : { s with snapPorts := v }.pwr = s.pwr := rfl
@[simp] theorem State.upd_captured_pending (s : State) (v : Nat) : { s with captured := v }.pending = s.pending := rfl
@[simp] theorem State.upd_captured_rdata (s : State) (v : Nat) : { s with captured := v }.rdata = s.rdata := rfl
@[simp] theorem State.upd_captured_fresh (s : State) (v : Nat) : { s with captured := v }.fresh = s.fresh := rfl
@[simp] theorem State.upd_captured_regs (s : State) (v : Nat) : { s with captured := v }.regs = s.regs := rfl
@[simp] theorem State.upd_captured_cnt (s : State) (v : Nat) : { s with captured := v }.cnt = s.cnt := rfl
@[simp] theorem State.upd_captured_active (s : State) (v : Nat) : { s with captured := v }.active = s.active := rfl
@[simp] theorem State.upd_captured_latch (s : State) (v : Nat) : { s with captured := v }.latch = s.latch := rfl
@[simp] theorem State.upd_captured_time (s : State) (v : Nat) : { s with captured := v }.time = s.time := rfl
@[simp] theorem State.upd_captured_rf (s : State) (v : Nat) : { s with captured := v }.rf = s.rf := rfl
@[simp] theorem State.upd_captured_rx (s : State) (v : Nat) : { s with captured := v }.rx = s.rx := rfl
@[simp] theorem State.upd_captured_bank (s : State) (v : Nat) : { s with captured := v }.bank = s.bank := rfl
@[simp] theorem State.upd_captured_tbl (s : State) (v : Nat) : { s with captured := v }.tbl = s.tbl := rfl
@[simp] theorem State.upd_captured_sch (s : State) (v : Nat) : { s with captured := v }.sch = s.sch := rfl
@[simp] theorem State.upd_captured_tx (s : State) (v : Nat) : { s with captured := v }.tx = s.tx := rfl
@[simp] theorem State.upd_captured_herd (s : State) (v : Nat) : { s with captured := v }.herd = s.herd := rfl
@[simp] theorem State.upd_captured_adp (s : State) (v : Nat) : { s with captured := v }.adp = s.adp := rfl
@[simp] theorem State.upd_captured_sec (s : State) (v : Nat) : { s with captured := v }.sec = s.sec := rfl
@[simp] theorem State.upd_captured_eth (s : State) (v : Nat) : { s with captured := v }.eth = s.eth := rfl
@[simp] theorem State.upd_captured_snap (s : State) (v : Nat) : { s with captured := v }.snap = s.snap := rfl
@[simp] theorem State.upd_captured_snapWin (s : State) (v : Nat) : { s with captured := v }.snapWin = s.snapWin := rfl
@[simp] theorem State.upd_captured_snapPorts (s : State) (v : Nat) : { s with captured := v }.snapPorts = s.snapPorts := rfl
@[simp] theorem State.upd_captured_captured (s : State) (v : Nat) : { s with captured := v }.captured = v := rfl
@[simp] theorem State.upd_captured_que (s : State) (v : Nat) : { s with captured := v }.que = s.que := rfl
@[simp] theorem State.upd_captured_hif (s : State) (v : Nat) : { s with captured := v }.hif = s.hif := rfl
@[simp] theorem State.upd_captured_jrn (s : State) (v : Nat) : { s with captured := v }.jrn = s.jrn := rfl
@[simp] theorem State.upd_captured_pair (s : State) (v : Nat) : { s with captured := v }.pair = s.pair := rfl
@[simp] theorem State.upd_captured_err (s : State) (v : Nat) : { s with captured := v }.err = s.err := rfl
@[simp] theorem State.upd_captured_pwr (s : State) (v : Nat) : { s with captured := v }.pwr = s.pwr := rfl
@[simp] theorem State.upd_que_pending (s : State) (v : QueSt) : { s with que := v }.pending = s.pending := rfl
@[simp] theorem State.upd_que_rdata (s : State) (v : QueSt) : { s with que := v }.rdata = s.rdata := rfl
@[simp] theorem State.upd_que_fresh (s : State) (v : QueSt) : { s with que := v }.fresh = s.fresh := rfl
@[simp] theorem State.upd_que_regs (s : State) (v : QueSt) : { s with que := v }.regs = s.regs := rfl
@[simp] theorem State.upd_que_cnt (s : State) (v : QueSt) : { s with que := v }.cnt = s.cnt := rfl
@[simp] theorem State.upd_que_active (s : State) (v : QueSt) : { s with que := v }.active = s.active := rfl
@[simp] theorem State.upd_que_latch (s : State) (v : QueSt) : { s with que := v }.latch = s.latch := rfl
@[simp] theorem State.upd_que_time (s : State) (v : QueSt) : { s with que := v }.time = s.time := rfl
@[simp] theorem State.upd_que_rf (s : State) (v : QueSt) : { s with que := v }.rf = s.rf := rfl
@[simp] theorem State.upd_que_rx (s : State) (v : QueSt) : { s with que := v }.rx = s.rx := rfl
@[simp] theorem State.upd_que_bank (s : State) (v : QueSt) : { s with que := v }.bank = s.bank := rfl
@[simp] theorem State.upd_que_tbl (s : State) (v : QueSt) : { s with que := v }.tbl = s.tbl := rfl
@[simp] theorem State.upd_que_sch (s : State) (v : QueSt) : { s with que := v }.sch = s.sch := rfl
@[simp] theorem State.upd_que_tx (s : State) (v : QueSt) : { s with que := v }.tx = s.tx := rfl
@[simp] theorem State.upd_que_herd (s : State) (v : QueSt) : { s with que := v }.herd = s.herd := rfl
@[simp] theorem State.upd_que_adp (s : State) (v : QueSt) : { s with que := v }.adp = s.adp := rfl
@[simp] theorem State.upd_que_sec (s : State) (v : QueSt) : { s with que := v }.sec = s.sec := rfl
@[simp] theorem State.upd_que_eth (s : State) (v : QueSt) : { s with que := v }.eth = s.eth := rfl
@[simp] theorem State.upd_que_snap (s : State) (v : QueSt) : { s with que := v }.snap = s.snap := rfl
@[simp] theorem State.upd_que_snapWin (s : State) (v : QueSt) : { s with que := v }.snapWin = s.snapWin := rfl
@[simp] theorem State.upd_que_snapPorts (s : State) (v : QueSt) : { s with que := v }.snapPorts = s.snapPorts := rfl
@[simp] theorem State.upd_que_captured (s : State) (v : QueSt) : { s with que := v }.captured = s.captured := rfl
@[simp] theorem State.upd_que_que (s : State) (v : QueSt) : { s with que := v }.que = v := rfl
@[simp] theorem State.upd_que_hif (s : State) (v : QueSt) : { s with que := v }.hif = s.hif := rfl
@[simp] theorem State.upd_que_jrn (s : State) (v : QueSt) : { s with que := v }.jrn = s.jrn := rfl
@[simp] theorem State.upd_que_pair (s : State) (v : QueSt) : { s with que := v }.pair = s.pair := rfl
@[simp] theorem State.upd_que_err (s : State) (v : QueSt) : { s with que := v }.err = s.err := rfl
@[simp] theorem State.upd_que_pwr (s : State) (v : QueSt) : { s with que := v }.pwr = s.pwr := rfl
@[simp] theorem State.upd_hif_pending (s : State) (v : HifSt) : { s with hif := v }.pending = s.pending := rfl
@[simp] theorem State.upd_hif_rdata (s : State) (v : HifSt) : { s with hif := v }.rdata = s.rdata := rfl
@[simp] theorem State.upd_hif_fresh (s : State) (v : HifSt) : { s with hif := v }.fresh = s.fresh := rfl
@[simp] theorem State.upd_hif_regs (s : State) (v : HifSt) : { s with hif := v }.regs = s.regs := rfl
@[simp] theorem State.upd_hif_cnt (s : State) (v : HifSt) : { s with hif := v }.cnt = s.cnt := rfl
@[simp] theorem State.upd_hif_active (s : State) (v : HifSt) : { s with hif := v }.active = s.active := rfl
@[simp] theorem State.upd_hif_latch (s : State) (v : HifSt) : { s with hif := v }.latch = s.latch := rfl
@[simp] theorem State.upd_hif_time (s : State) (v : HifSt) : { s with hif := v }.time = s.time := rfl
@[simp] theorem State.upd_hif_rf (s : State) (v : HifSt) : { s with hif := v }.rf = s.rf := rfl
@[simp] theorem State.upd_hif_rx (s : State) (v : HifSt) : { s with hif := v }.rx = s.rx := rfl
@[simp] theorem State.upd_hif_bank (s : State) (v : HifSt) : { s with hif := v }.bank = s.bank := rfl
@[simp] theorem State.upd_hif_tbl (s : State) (v : HifSt) : { s with hif := v }.tbl = s.tbl := rfl
@[simp] theorem State.upd_hif_sch (s : State) (v : HifSt) : { s with hif := v }.sch = s.sch := rfl
@[simp] theorem State.upd_hif_tx (s : State) (v : HifSt) : { s with hif := v }.tx = s.tx := rfl
@[simp] theorem State.upd_hif_herd (s : State) (v : HifSt) : { s with hif := v }.herd = s.herd := rfl
@[simp] theorem State.upd_hif_adp (s : State) (v : HifSt) : { s with hif := v }.adp = s.adp := rfl
@[simp] theorem State.upd_hif_sec (s : State) (v : HifSt) : { s with hif := v }.sec = s.sec := rfl
@[simp] theorem State.upd_hif_eth (s : State) (v : HifSt) : { s with hif := v }.eth = s.eth := rfl
@[simp] theorem State.upd_hif_snap (s : State) (v : HifSt) : { s with hif := v }.snap = s.snap := rfl
@[simp] theorem State.upd_hif_snapWin (s : State) (v : HifSt) : { s with hif := v }.snapWin = s.snapWin := rfl
@[simp] theorem State.upd_hif_snapPorts (s : State) (v : HifSt) : { s with hif := v }.snapPorts = s.snapPorts := rfl
@[simp] theorem State.upd_hif_captured (s : State) (v : HifSt) : { s with hif := v }.captured = s.captured := rfl
@[simp] theorem State.upd_hif_que (s : State) (v : HifSt) : { s with hif := v }.que = s.que := rfl
@[simp] theorem State.upd_hif_hif (s : State) (v : HifSt) : { s with hif := v }.hif = v := rfl
@[simp] theorem State.upd_hif_jrn (s : State) (v : HifSt) : { s with hif := v }.jrn = s.jrn := rfl
@[simp] theorem State.upd_hif_pair (s : State) (v : HifSt) : { s with hif := v }.pair = s.pair := rfl
@[simp] theorem State.upd_hif_err (s : State) (v : HifSt) : { s with hif := v }.err = s.err := rfl
@[simp] theorem State.upd_hif_pwr (s : State) (v : HifSt) : { s with hif := v }.pwr = s.pwr := rfl
@[simp] theorem State.upd_jrn_pending (s : State) (v : JrnSt) : { s with jrn := v }.pending = s.pending := rfl
@[simp] theorem State.upd_jrn_rdata (s : State) (v : JrnSt) : { s with jrn := v }.rdata = s.rdata := rfl
@[simp] theorem State.upd_jrn_fresh (s : State) (v : JrnSt) : { s with jrn := v }.fresh = s.fresh := rfl
@[simp] theorem State.upd_jrn_regs (s : State) (v : JrnSt) : { s with jrn := v }.regs = s.regs := rfl
@[simp] theorem State.upd_jrn_cnt (s : State) (v : JrnSt) : { s with jrn := v }.cnt = s.cnt := rfl
@[simp] theorem State.upd_jrn_active (s : State) (v : JrnSt) : { s with jrn := v }.active = s.active := rfl
@[simp] theorem State.upd_jrn_latch (s : State) (v : JrnSt) : { s with jrn := v }.latch = s.latch := rfl
@[simp] theorem State.upd_jrn_time (s : State) (v : JrnSt) : { s with jrn := v }.time = s.time := rfl
@[simp] theorem State.upd_jrn_rf (s : State) (v : JrnSt) : { s with jrn := v }.rf = s.rf := rfl
@[simp] theorem State.upd_jrn_rx (s : State) (v : JrnSt) : { s with jrn := v }.rx = s.rx := rfl
@[simp] theorem State.upd_jrn_bank (s : State) (v : JrnSt) : { s with jrn := v }.bank = s.bank := rfl
@[simp] theorem State.upd_jrn_tbl (s : State) (v : JrnSt) : { s with jrn := v }.tbl = s.tbl := rfl
@[simp] theorem State.upd_jrn_sch (s : State) (v : JrnSt) : { s with jrn := v }.sch = s.sch := rfl
@[simp] theorem State.upd_jrn_tx (s : State) (v : JrnSt) : { s with jrn := v }.tx = s.tx := rfl
@[simp] theorem State.upd_jrn_herd (s : State) (v : JrnSt) : { s with jrn := v }.herd = s.herd := rfl
@[simp] theorem State.upd_jrn_adp (s : State) (v : JrnSt) : { s with jrn := v }.adp = s.adp := rfl
@[simp] theorem State.upd_jrn_sec (s : State) (v : JrnSt) : { s with jrn := v }.sec = s.sec := rfl
@[simp] theorem State.upd_jrn_eth (s : State) (v : JrnSt) : { s with jrn := v }.eth = s.eth := rfl
@[simp] theorem State.upd_jrn_snap (s : State) (v : JrnSt) : { s with jrn := v }.snap = s.snap := rfl
@[simp] theorem State.upd_jrn_snapWin (s : State) (v : JrnSt) : { s with jrn := v }.snapWin = s.snapWin := rfl
@[simp] theorem State.upd_jrn_snapPorts (s : State) (v : JrnSt) : { s with jrn := v }.snapPorts = s.snapPorts := rfl
@[simp] theorem State.upd_jrn_captured (s : State) (v : JrnSt) : { s with jrn := v }.captured = s.captured := rfl
@[simp] theorem State.upd_jrn_que (s : State) (v : JrnSt) : { s with jrn := v }.que = s.que := rfl
@[simp] theorem State.upd_jrn_hif (s : State) (v : JrnSt) : { s with jrn := v }.hif = s.hif := rfl
@[simp] theorem State.upd_jrn_jrn (s : State) (v : JrnSt) : { s with jrn := v }.jrn = v := rfl
@[simp] theorem State.upd_jrn_pair (s : State) (v : JrnSt) : { s with jrn := v }.pair = s.pair := rfl
@[simp] theorem State.upd_jrn_err (s : State) (v : JrnSt) : { s with jrn := v }.err = s.err := rfl
@[simp] theorem State.upd_jrn_pwr (s : State) (v : JrnSt) : { s with jrn := v }.pwr = s.pwr := rfl
@[simp] theorem State.upd_pair_pending (s : State) (v : PairSt) : { s with pair := v }.pending = s.pending := rfl
@[simp] theorem State.upd_pair_rdata (s : State) (v : PairSt) : { s with pair := v }.rdata = s.rdata := rfl
@[simp] theorem State.upd_pair_fresh (s : State) (v : PairSt) : { s with pair := v }.fresh = s.fresh := rfl
@[simp] theorem State.upd_pair_regs (s : State) (v : PairSt) : { s with pair := v }.regs = s.regs := rfl
@[simp] theorem State.upd_pair_cnt (s : State) (v : PairSt) : { s with pair := v }.cnt = s.cnt := rfl
@[simp] theorem State.upd_pair_active (s : State) (v : PairSt) : { s with pair := v }.active = s.active := rfl
@[simp] theorem State.upd_pair_latch (s : State) (v : PairSt) : { s with pair := v }.latch = s.latch := rfl
@[simp] theorem State.upd_pair_time (s : State) (v : PairSt) : { s with pair := v }.time = s.time := rfl
@[simp] theorem State.upd_pair_rf (s : State) (v : PairSt) : { s with pair := v }.rf = s.rf := rfl
@[simp] theorem State.upd_pair_rx (s : State) (v : PairSt) : { s with pair := v }.rx = s.rx := rfl
@[simp] theorem State.upd_pair_bank (s : State) (v : PairSt) : { s with pair := v }.bank = s.bank := rfl
@[simp] theorem State.upd_pair_tbl (s : State) (v : PairSt) : { s with pair := v }.tbl = s.tbl := rfl
@[simp] theorem State.upd_pair_sch (s : State) (v : PairSt) : { s with pair := v }.sch = s.sch := rfl
@[simp] theorem State.upd_pair_tx (s : State) (v : PairSt) : { s with pair := v }.tx = s.tx := rfl
@[simp] theorem State.upd_pair_herd (s : State) (v : PairSt) : { s with pair := v }.herd = s.herd := rfl
@[simp] theorem State.upd_pair_adp (s : State) (v : PairSt) : { s with pair := v }.adp = s.adp := rfl
@[simp] theorem State.upd_pair_sec (s : State) (v : PairSt) : { s with pair := v }.sec = s.sec := rfl
@[simp] theorem State.upd_pair_eth (s : State) (v : PairSt) : { s with pair := v }.eth = s.eth := rfl
@[simp] theorem State.upd_pair_snap (s : State) (v : PairSt) : { s with pair := v }.snap = s.snap := rfl
@[simp] theorem State.upd_pair_snapWin (s : State) (v : PairSt) : { s with pair := v }.snapWin = s.snapWin := rfl
@[simp] theorem State.upd_pair_snapPorts (s : State) (v : PairSt) : { s with pair := v }.snapPorts = s.snapPorts := rfl
@[simp] theorem State.upd_pair_captured (s : State) (v : PairSt) : { s with pair := v }.captured = s.captured := rfl
@[simp] theorem State.upd_pair_que (s : State) (v : PairSt) : { s with pair := v }.que = s.que := rfl
@[simp] theorem State.upd_pair_hif (s : State) (v : PairSt) : { s with pair := v }.hif = s.hif := rfl
@[simp] theorem State.upd_pair_jrn (s : State) (v : PairSt) : { s with pair := v }.jrn = s.jrn := rfl
@[simp] theorem State.upd_pair_pair (s : State) (v : PairSt) : { s with pair := v }.pair = v := rfl
@[simp] theorem State.upd_pair_err (s : State) (v : PairSt) : { s with pair := v }.err = s.err := rfl
@[simp] theorem State.upd_pair_pwr (s : State) (v : PairSt) : { s with pair := v }.pwr = s.pwr := rfl
@[simp] theorem State.upd_err_pending (s : State) (v : ErrSt) : { s with err := v }.pending = s.pending := rfl
@[simp] theorem State.upd_err_rdata (s : State) (v : ErrSt) : { s with err := v }.rdata = s.rdata := rfl
@[simp] theorem State.upd_err_fresh (s : State) (v : ErrSt) : { s with err := v }.fresh = s.fresh := rfl
@[simp] theorem State.upd_err_regs (s : State) (v : ErrSt) : { s with err := v }.regs = s.regs := rfl
@[simp] theorem State.upd_err_cnt (s : State) (v : ErrSt) : { s with err := v }.cnt = s.cnt := rfl
@[simp] theorem State.upd_err_active (s : State) (v : ErrSt) : { s with err := v }.active = s.active := rfl
@[simp] theorem State.upd_err_latch (s : State) (v : ErrSt) : { s with err := v }.latch = s.latch := rfl
@[simp] theorem State.upd_err_time (s : State) (v : ErrSt) : { s with err := v }.time = s.time := rfl
@[simp] theorem State.upd_err_rf (s : State) (v : ErrSt) : { s with err := v }.rf = s.rf := rfl
@[simp] theorem State.upd_err_rx (s : State) (v : ErrSt) : { s with err := v }.rx = s.rx := rfl
@[simp] theorem State.upd_err_bank (s : State) (v : ErrSt) : { s with err := v }.bank = s.bank := rfl
@[simp] theorem State.upd_err_tbl (s : State) (v : ErrSt) : { s with err := v }.tbl = s.tbl := rfl
@[simp] theorem State.upd_err_sch (s : State) (v : ErrSt) : { s with err := v }.sch = s.sch := rfl
@[simp] theorem State.upd_err_tx (s : State) (v : ErrSt) : { s with err := v }.tx = s.tx := rfl
@[simp] theorem State.upd_err_herd (s : State) (v : ErrSt) : { s with err := v }.herd = s.herd := rfl
@[simp] theorem State.upd_err_adp (s : State) (v : ErrSt) : { s with err := v }.adp = s.adp := rfl
@[simp] theorem State.upd_err_sec (s : State) (v : ErrSt) : { s with err := v }.sec = s.sec := rfl
@[simp] theorem State.upd_err_eth (s : State) (v : ErrSt) : { s with err := v }.eth = s.eth := rfl
@[simp] theorem State.upd_err_snap (s : State) (v : ErrSt) : { s with err := v }.snap = s.snap := rfl
@[simp] theorem State.upd_err_snapWin (s : State) (v : ErrSt) : { s with err := v }.snapWin = s.snapWin := rfl
@[simp] theorem State.upd_err_snapPorts (s : State) (v : ErrSt) : { s with err := v }.snapPorts = s.snapPorts := rfl
@[simp] theorem State.upd_err_captured (s : State) (v : ErrSt) : { s with err := v }.captured = s.captured := rfl
@[simp] theorem State.upd_err_que (s : State) (v : ErrSt) : { s with err := v }.que = s.que := rfl
@[simp] theorem State.upd_err_hif (s : State) (v : ErrSt) : { s with err := v }.hif = s.hif := rfl
@[simp] theorem State.upd_err_jrn (s : State) (v : ErrSt) : { s with err := v }.jrn = s.jrn := rfl
@[simp] theorem State.upd_err_pair (s : State) (v : ErrSt) : { s with err := v }.pair = s.pair := rfl
@[simp] theorem State.upd_err_err (s : State) (v : ErrSt) : { s with err := v }.err = v := rfl
@[simp] theorem State.upd_err_pwr (s : State) (v : ErrSt) : { s with err := v }.pwr = s.pwr := rfl
@[simp] theorem State.upd_pwr_pending (s : State) (v : PwrSt) : { s with pwr := v }.pending = s.pending := rfl
@[simp] theorem State.upd_pwr_rdata (s : State) (v : PwrSt) : { s with pwr := v }.rdata = s.rdata := rfl
@[simp] theorem State.upd_pwr_fresh (s : State) (v : PwrSt) : { s with pwr := v }.fresh = s.fresh := rfl
@[simp] theorem State.upd_pwr_regs (s : State) (v : PwrSt) : { s with pwr := v }.regs = s.regs := rfl
@[simp] theorem State.upd_pwr_cnt (s : State) (v : PwrSt) : { s with pwr := v }.cnt = s.cnt := rfl
@[simp] theorem State.upd_pwr_active (s : State) (v : PwrSt) : { s with pwr := v }.active = s.active := rfl
@[simp] theorem State.upd_pwr_latch (s : State) (v : PwrSt) : { s with pwr := v }.latch = s.latch := rfl
@[simp] theorem State.upd_pwr_time (s : State) (v : PwrSt) : { s with pwr := v }.time = s.time := rfl
@[simp] theorem State.upd_pwr_rf (s : State) (v : PwrSt) : { s with pwr := v }.rf = s.rf := rfl
@[simp] theorem State.upd_pwr_rx (s : State) (v : PwrSt) : { s with pwr := v }.rx = s.rx := rfl
@[simp] theorem State.upd_pwr_bank (s : State) (v : PwrSt) : { s with pwr := v }.bank = s.bank := rfl
@[simp] theorem State.upd_pwr_tbl (s : State) (v : PwrSt) : { s with pwr := v }.tbl = s.tbl := rfl
@[simp] theorem State.upd_pwr_sch (s : State) (v : PwrSt) : { s with pwr := v }.sch = s.sch := rfl
@[simp] theorem State.upd_pwr_tx (s : State) (v : PwrSt) : { s with pwr := v }.tx = s.tx := rfl
@[simp] theorem State.upd_pwr_herd (s : State) (v : PwrSt) : { s with pwr := v }.herd = s.herd := rfl
@[simp] theorem State.upd_pwr_adp (s : State) (v : PwrSt) : { s with pwr := v }.adp = s.adp := rfl
@[simp] theorem State.upd_pwr_sec (s : State) (v : PwrSt) : { s with pwr := v }.sec = s.sec := rfl
@[simp] theorem State.upd_pwr_eth (s : State) (v : PwrSt) : { s with pwr := v }.eth = s.eth := rfl
@[simp] theorem State.upd_pwr_snap (s : State) (v : PwrSt) : { s with pwr := v }.snap = s.snap := rfl
@[simp] theorem State.upd_pwr_snapWin (s : State) (v : PwrSt) : { s with pwr := v }.snapWin = s.snapWin := rfl
@[simp] theorem State.upd_pwr_snapPorts (s : State) (v : PwrSt) : { s with pwr := v }.snapPorts = s.snapPorts := rfl
@[simp] theorem State.upd_pwr_captured (s : State) (v : PwrSt) : { s with pwr := v }.captured = s.captured := rfl
@[simp] theorem State.upd_pwr_que (s : State) (v : PwrSt) : { s with pwr := v }.que = s.que := rfl
@[simp] theorem State.upd_pwr_hif (s : State) (v : PwrSt) : { s with pwr := v }.hif = s.hif := rfl
@[simp] theorem State.upd_pwr_jrn (s : State) (v : PwrSt) : { s with pwr := v }.jrn = s.jrn := rfl
@[simp] theorem State.upd_pwr_pair (s : State) (v : PwrSt) : { s with pwr := v }.pair = s.pair := rfl
@[simp] theorem State.upd_pwr_err (s : State) (v : PwrSt) : { s with pwr := v }.err = s.err := rfl
@[simp] theorem State.upd_pwr_pwr (s : State) (v : PwrSt) : { s with pwr := v }.pwr = v := rfl

end Sys2Proof.Machine
end

