-- ==== Sys2Proof/Laws/Words.lean ====
section
/-! SUPPORT. The sparse words of Machine/Ops.lean: every write of a word keeps the canonical form; what a change of one element
of a list leaves. -/
namespace Sys2Proof.Machine

/-- An element of a list in which element `i` was changed. -/
@[simp] theorem getElem?_modAt {α : Type} (i j : Nat) (f : α → α) (l : List α) :
    (modAt i f l)[j]? = if j = i then l[j]?.map f else l[j]? := by
  induction l generalizing i j with
  | nil => simp [modAt]
  | cons x t ih =>
    cases i with
    | zero => cases j <;> simp [modAt]
    | succ i => cases j <;> simp [modAt, ih]

@[simp] theorem length_modAt {α : Type} (i : Nat) (f : α → α) (l : List α) : (modAt i f l).length = l.length := by
  induction l generalizing i with
  | nil => simp [modAt]
  | cons x t ih => cases i <;> simp [modAt, ih]

@[simp] theorem getElem_modAt {α : Type} (i j : Nat) (f : α → α) (l : List α) (h : j < (modAt i f l).length) :
    (modAt i f l)[j] = if j = i then f (l[j]'(by simpa using h)) else l[j]'(by simpa using h) := by
  have h' : j < l.length := by simpa using h
  have e := getElem?_modAt i j f l
  rw [List.getElem?_eq_getElem h, List.getElem?_eq_getElem h'] at e
  split at e <;> simp_all

/-- Two changes of one element are one. -/
@[simp] theorem modAt_modAt {α : Type} (i : Nat) (f g : α → α) (l : List α) :
    modAt i f (modAt i g l) = modAt i (fun x => f (g x)) l := by
  apply List.ext_getElem?
  intro j
  simp only [getElem?_modAt]
  split <;> simp [Function.comp_def]

theorem getD_modAt {α : Type} (i j : Nat) (f : α → α) (l : List α) (d : α) (h : j < l.length) :
    (modAt i f l).getD j d = if j = i then f (l.getD j d) else l.getD j d := by
  simp only [List.getD_eq_getElem?_getD, getElem?_modAt]
  split <;> simp [h]

/-- The canonical form said entry by entry. -/
theorem cellsWf_cons (f : Nat → Word) (a : Nat) (w : Word) (t : List (Nat × Word)) :
    cellsWf f ((a, w) :: t) = true ↔ w ≠ f a ∧ (∀ p ∈ t.head?, a < p.1) ∧ cellsWf f t = true := by
  cases t with
  | nil => simp [cellsWf]
  | cons p t => simp [cellsWf, and_assoc]

/-- A write at a place after `b` leaves the first entry at a place after `b`. -/
theorem cellsPut_head (b a : Nat) (v d : Word) (l : List (Nat × Word)) (hb : b < a) (h : ∀ p ∈ l.head?, b < p.1) (f : Nat → Word)
    (hw : cellsWf f l = true) : ∀ p ∈ (cellsPut a v d l).head?, b < p.1 := by
  cases l with
  | nil => by_cases hv : v = d <;> simp [cellsPut, hv, hb]
  | cons p t =>
    have hp : b < p.1 := h p (by simp)
    have ht := ((cellsWf_cons f p.1 p.2 t).mp hw).2.1
    unfold cellsPut
    split
    · split
      · simpa using hp
      · simpa using hb
    · split
      · split
        · intro q hq
          exact Nat.lt_trans hp (ht q hq)
        · simpa using hb
      · simpa using hp

/-- Writing a word keeps the canonical form. -/
theorem cellsWf_put (f : Nat → Word) (a : Nat) (v : Word) (l : List (Nat × Word)) (h : cellsWf f l = true) :
    cellsWf f (cellsPut a v (f a) l) = true := by
  induction l with
  | nil => by_cases hv : v = f a <;> simp [cellsPut, hv, cellsWf]
  | cons p t ih =>
    obtain ⟨b, w⟩ := p
    obtain ⟨h1, h2, h3⟩ := (cellsWf_cons f b w t).mp h
    unfold cellsPut
    split
    · split
      · exact h
      · rename_i hab hv
        exact (cellsWf_cons f a v _).mpr ⟨hv, by simpa using hab, h⟩
    · split
      · rename_i hab
        subst hab
        split
        · exact h3
        · rename_i hv
          exact (cellsWf_cons f a v t).mpr ⟨hv, h2, h3⟩
      · rename_i hab hne
        exact (cellsWf_cons f b w _).mpr ⟨h1, cellsPut_head b a v (f a) t (by omega) h2 f h3, ih h3⟩

/-- The reads beside a write are as before. -/
theorem cellsGet_put_ne (a b : Nat) (v d e : Word) (l : List (Nat × Word)) (h : b ≠ a) :
    cellsGet b e (cellsPut a v d l) = cellsGet b e l := by
  induction l with
  | nil => by_cases hv : v = d <;> simp [cellsPut, cellsGet, hv, h]
  | cons p t ih =>
    unfold cellsPut
    split
    · split <;> simp [cellsGet, h]
    · split
      · rename_i hab
        have : b ≠ p.1 := by omega
        split <;> simp [cellsGet, h, this]
      · simp [cellsGet, ih]

/-- A place below the first entry reads as unlisted. -/
theorem cellsGet_below (f : Nat → Word) (a : Nat) (d : Word) (l : List (Nat × Word)) (hw : cellsWf f l = true)
    (h : ∀ p ∈ l.head?, a < p.1) : cellsGet a d l = d := by
  induction l with
  | nil => rfl
  | cons p t ih =>
    have hp : a < p.1 := h p (by simp)
    obtain ⟨_, h2, h3⟩ := (cellsWf_cons f p.1 p.2 t).mp hw
    have : a ≠ p.1 := by omega
    simp only [cellsGet, this, if_false]
    exact ih h3 (fun q hq => Nat.lt_trans hp (h2 q hq))

/-- A write reads back. -/
theorem cellsGet_put (f : Nat → Word) (a : Nat) (v : Word) (l : List (Nat × Word)) (hw : cellsWf f l = true) :
    cellsGet a (f a) (cellsPut a v (f a) l) = v := by
  induction l with
  | nil => by_cases hv : v = f a <;> simp [cellsPut, cellsGet, hv]
  | cons p t ih =>
    obtain ⟨_, h2, h3⟩ := (cellsWf_cons f p.1 p.2 t).mp hw
    unfold cellsPut
    split
    · rename_i hab
      split
      · rename_i hv
        rw [hv]
        exact cellsGet_below f a (f a) _ hw (by simpa using hab)
      · simp [cellsGet]
    · split
      · rename_i hab
        split
        · rename_i hv
          rw [hv]
          exact cellsGet_below f a (f a) t h3 (by rw [hab]; exact h2)
        · simp [cellsGet]
      · rename_i hne
        simp [cellsGet, hne, ih h3]

/-- Reading where the words that a predicate takes have been removed. -/
theorem cellsGet_filter (q : Nat → Bool) (d : Word) (l : List (Nat × Word)) (a : Nat) :
    cellsGet a d (l.filter (fun p => !q p.1)) = if q a = true then d else cellsGet a d l := by
  induction l with
  | nil => simp [cellsGet]
  | cons p t ih =>
    by_cases hp : q p.1 = true
    · simp only [List.filter_cons, hp, Bool.not_true, Bool.false_eq_true, if_false, ih, cellsGet]
      by_cases ha : a = p.1
      · simp [ha, hp]
      · simp [ha]
    · simp only [List.filter_cons, hp, Bool.not_false, if_true, cellsGet, ih]
      by_cases ha : a = p.1
      · simp [ha, hp]
      · simp [ha]

/-- Keeping some words keeps the form. -/
theorem cellsWf_filter (f : Nat → Word) (q : Nat × Word → Bool) (l : List (Nat × Word)) (h : cellsWf f l = true) :
    cellsWf f (l.filter q) = true := by
  have hh : ∀ (l : List (Nat × Word)) (b : Nat), cellsWf f l = true → (∀ p ∈ l.head?, b < p.1) → ∀ p ∈ (l.filter q).head?, b < p.1 := by
    intro l
    induction l with
    | nil => intro b _ _ p hp; simp at hp
    | cons x t ih =>
      obtain ⟨a, w⟩ := x
      intro b hw hb p hp
      obtain ⟨_, h2, h3⟩ := (cellsWf_cons f a w t).mp hw
      by_cases hq : q (a, w) = true
      · simp only [List.filter_cons, hq, if_true, List.head?_cons, Option.mem_def, Option.some.injEq] at hp
        subst hp
        exact hb (a, w) (by simp)
      · simp only [List.filter_cons, hq] at hp
        have hba : b < a := hb (a, w) (by simp)
        exact ih b h3 (fun p hp => Nat.lt_trans hba (h2 p hp)) p hp
  induction l with
  | nil => exact h
  | cons x t ih =>
    obtain ⟨a, w⟩ := x
    obtain ⟨h1, h2, h3⟩ := (cellsWf_cons f a w t).mp h
    by_cases hq : q (a, w) = true
    · simp only [List.filter_cons, hq, if_true]
      exact (cellsWf_cons f a w _).mpr ⟨h1, hh t a h3 h2, ih h3⟩
    · simp only [List.filter_cons, hq]
      exact ih h3

/-- Storing a register word keeps the form of all of them. -/
theorem setReg_wf (a : Nat) (v : Word) (s : State) (h : cellsWf resetAt s.regs = true) :
    cellsWf resetAt (s.setReg a v).regs = true := cellsWf_put resetAt a v s.regs h

/-- Counting keeps the form of the counters. -/
theorem cntBump_wf (a lo w n : Nat) (c : List (Nat × Word)) (h : cellsWf (fun _ => 0) c = true) :
    cellsWf (fun _ => 0) (cntBump a lo w n c) = true := cellsWf_put (fun _ => 0) a _ c h

end Sys2Proof.Machine
end

