-- ==== Sys2Proof/Tests/Slice0.lean ====
section
/-! SUPPORT. Tests: a small state in service and changes of it, a witness for the hypotheses of every obligation, ill-formed
commands that each check refuses, and worked examples of the spec. -/
namespace Sys2Proof.Tests
open Sys2Proof Sys2Proof.Machine

set_option maxRecDepth 8000

/-! ## A state in service -/

/-- SOLO in RUN, 5 s after an epoch at 0 with slots of 10 ms; command ring 0 bound to completion ring 0, delivery ring 7 on. -/
def ready : State :=
  { State.reset with
    regs := [(0xE0110, 0x80080000), (0xE0408, 0x80080000), (0xE06F0, 0x80080000)]
    time := { TimeSt.reset with
      tb := 5_000_000_000
      loaded := true
      acqLoaded := true
      epochSet := true
      st := .locked }
    rf := { RfSt.reset with
      spll := .locked
      refOk := true }
    hif := { HifSt.reset with
      busMaster := true
      speed := 4
      width := 4
      ready := true }
    jrn := { JrnSt.reset with
      isOpen := true
      started := true }
    pwr := { PwrSt.reset with
      st := .run
      phase := 6
      pwrOk := true } }

def ref1 : CmdRef := ⟨0, 0, 0x11, 0⟩
def ref2 : CmdRef := ⟨0, 1, 0x12, 0⟩
def ref1at : CmdRef := ⟨0, 0, 0x11, 600⟩

/-- The command `ref1` with opcode `op` is admitted and not complete. -/
def booked1 (op : Nat) (s : State) : State :=
  { s with hif := { s.hif with
      admitted := [⟨ref1, op, some 0, 5_000_000_000, none⟩]
      cpl := modAt 0 (fun x => { x with
        slots := [⟨0, 0, 0x11, op, .reserved⟩]
        nextSlot := 1 }) s.hif.cpl } }

/-! ## Small changes of a state -/

def offlineU (u : Nat) (s : State) : State := { s with err := { s.err with offline := [u] } }
def offline5 (s : State) : State := offlineU 5 s
def offline6 (s : State) : State := offlineU 6 s
def acquiring : State := { ready with time := { ready.time with st := .acquire } }
def tim (f : TimeSt → TimeSt) (s : State) : State := { s with time := f s.time }
def use0 : SfUse := ⟨⟨false, 0, 1, 100, 0⟩, 0, none, true, none, none⟩
/-- Slotframe handle 0 is active. -/
def withSf0 (s : State) : State := { s with sch := { s.sch with sf := setAt s.sch.sf 0 [use0] } }

/-! ### Time sources -/

def stepping (s : State) : State := tim (fun t => { t with step := some ⟨ref1, 5, 0, 1⟩ }) s
def skipping (s : State) : State := tim (fun t => { t with srcs := setAt t.srcs 2 { SrcSt.reset with skip := true } }) s
def qualified3 (s : State) : State :=
  tim (fun t => { t with
    src := 3
    srcs := setAt t.srcs 2 { SrcSt.reset with
      qualified := true
      offs := [0] } }) (s.setReg 0x30004 3)
/-- In ACQUIRE, epoch at 2 s, a first offset of PPS before it would qualify PPS and load. -/
def beforeE (s : State) : State :=
  tim (fun t => { t with st := .acquire, acqLoaded := false, epoch := 2_000_000_000 }) (((s.setReg 0x30004 3).setReg 0x30008 1).setReg 0x30020 5)
def airFollow (s : State) : State :=
  tim (fun t => { t with
    peers := setAt t.peers 0 { SrcSt.reset with qualified := true }
    bcnDue := setAt t.bcnDue 0 (some 100) }) (s.setReg 0x3010C 0x80000000)
def ppsOn (s : State) : State := s.setReg 0x30020 1
def pps (f : PpsSt → PpsSt) (s : State) : State := tim (fun t => { t with pps := f t.pps }) (ppsOn s)
def pulsing (s : State) : State := pps (fun y => { y with pulse := some ⟨5_000_000_000, none, 5, 0, none⟩ }) s
def edgeOnly (s : State) : State :=
  pps (fun y => { y with
    lastActive := some 5_000_000_000
    lastEdge := some 5_000_000_000 }) s
def noisyPps (s : State) : State := pps (fun y => { y with noisy := true }) s
def awaitTod (s : State) : State := pps (fun y => { y with todFor := some (5_000_000_000, true) }) s
/-- A PTP message of type `ty` and sequence 7 from the master 1 in domain 0, `n` octets behind its header. -/
def ptpMsg (ty flags n : Nat) : List Octet :=
  octetsBE 1 ty ++ zeros 5 ++ octetsBE 1 flags ++ zeros 13 ++ octetsBE 8 1 ++ octetsBE 2 1 ++ octetsBE 2 7 ++ zeros 2 ++ zeros n
def syncA : List Octet := ptpMsg 0 2 10
def syncB : List Octet := ptpMsg 0 0 10
def followA : List Octet := ptpMsg 8 0 10
def respA : List Octet := ptpMsg 9 0 10 ++ octetsBE 8 0 ++ octetsBE 2 1
def announceA : List Octet := ptpMsg 11 0 30
/-- PTP of port 0 is on, with master 1. -/
def ptpUp (s : State) : State :=
  { (s.setReg 0x30090 0x80000000).setReg 0x300A0 1 with eth := modAt 0 (fun x => { x with up := true }) s.eth }
def ptpWaiting (s : State) : State :=
  tim (fun t => { t with
    src := 1
    ptp := setAt t.ptp 0 { PtpSt.reset with
      wait := some (7, 100, 5_000_000_000)
      sync := some (10, 100)
      delayReq := some (7, 50) } }) (ptpUp s)

/-! ### Ports and the sample clock -/

def port (p : Nat) (f : Port → Port) (s : State) : State := { s with rf := { s.rf with ports := modAt p f s.rf.ports } }
def rfs (f : RfSt → RfSt) (s : State) : State := { s with rf := f s.rf }
def portPending (s : State) : State := port 0 (fun p => { p with pending := [(ref1, .idle, 0)] }) s
def portMoving (s : State) : State :=
  port 0 (fun p => { p with
    trans := some (.idle, 7_000_000_000)
    cmd := .idle }) s
def calPending (s : State) : State := port 0 (fun p => { p with calPend := some (ref1, 0) }) s
def portRunning (s : State) : State := port 0 (fun p => { p with calRun := some (some ref1, 5) }) s
def spllRunning (s : State) : State := rfs (fun r => { r with spllRun := some (ref1, 5) }) s
def spllDue (s : State) : State := rfs (fun r => { r with spll := .off, spllPend := some (ref1, 0) }) s
def noSpll (s : State) : State := rfs (fun r => { r with spll := .locking }) s
def refGone (s : State) : State :=
  rfs (fun r => { r with
    refOk := false
    spll := .unlocked
    refLostAt := some 5_000_000_000 }) s
def rxOn (s : State) : State := port 0 (fun p => { p with st := .on }) s
def clipOn (s : State) : State := port 0 (fun p => { p with clipping := true }) s
def coexOn (s : State) : State := s.setReg 0x50020 1
/-- RFOUT_A makes port 0's channel slots within 1,000 kHz DEAF. -/
def deafOn (s : State) : State := (s.setReg 0x40014 1000).setReg 0x40018 1
def deafAt (u : Option Nat) (s : State) : State := rfs (fun r => { r with deaf := [⟨0, 0, 5, u⟩] }) s
def deniedAt0 (s : State) : State := rfs (fun r => { r with denied := some 0 }) s

/-! ### The channel bank and the schedule -/

/-- An active copy differs from its reset value. -/
def act (a : Nat) (v : Word) (s : State) : State := { s with active := cellsPut a v (resetAt a) s.active }
/-- Window 0 at 902 MHz, channel slot 0 in it with SUN FSK profile 0, 50 kb/s. -/
def banked (s : State) : State :=
  act 0x60020 902_000_000 (act 0x60024 0x80000000 (act 0x60100 0x80000000 (act 0x70100 0x80000000
    (act 0x70104 0x00400020 (act 0x70108 0x00080008 (act 0x70400 1 s))))))
def tx0 : Tx where
  id := 0
  kind := .unicast
  phase := .staged
  port := 4
  entry := 0
  chIdx := 0
  freq := 902_000_000
  profile := 0
  node := 4
  frame := none
  sfh := 0
  asn := 501
  vasn := 501
  ext := 0
  t := 5_012_000_000
  start := 5_012_000_000
  airtime := 1_000_000
  rate := 0
  msKey := none
  psdu := []
  onTick := none
  asked := false
  late := 0
  yield := none
  ackReq := true
  seq := 7
  level := 0
  cls := 2
  lbt := false
  coexFrom := 0
  ann := []
  sync := none
def withTx (t : Tx) (s : State) : State := { s with tx := { s.tx with txs := [t] } }
def onTx (s : State) : State := withTx tx0 (banked s)
/-- Window 0 is enabled below every band. -/
def badBank (s : State) : State := s.setReg 0x60024 0x80000000
def applyPending (s : State) : State := { s with bank := { s.bank with apply := some ⟨ref1, 0, []⟩ } }
def sfA : SfArgs := ⟨0, true, false, 0, 1, 101, 0⟩
/-- Context 0 holds a 64-bit prefix and hopping band 0 is enabled. -/
def sfReady (s : State) : State := act 0x91400 0x80000001 (s.setReg 0xA0050 0x80000040)
def withUse (u : SfUse) (s : State) : State := { s with sch := { s.sch with sf := setAt s.sch.sf 0 [u] } }
def sfPending (s : State) : State :=
  withUse { use0 with
    actRef := some ref1
    begun := false } s
def sfGoing (s : State) : State := withUse { { use0 with rec_ := ⟨false, 0, 1, 4, 0⟩ } with rem := some 4 } s
def cellE : CellEntry := ⟨1, 0, 0xC007FFFF⟩
def cellsPending (s : State) : State := { s with sch := { s.sch with writes := [⟨some ref1, 1, 0, 0, [cellE]⟩] } }

/-! ### Nodes and Herd -/

def insA : InsertArgs := ⟨0x00124B0000000001, 10, 0, 1, false, none⟩
def nodeX (i : Nat) : Node := newNode State.reset i insA
def putNode (n : Node) (s : State) : State := { s with tbl := { s.tbl with nodes := [n] } }
def withNode (i : Nat) (s : State) : State := putNode (nodeX i) s
def sixpOpen (s : State) : State := { withNode 4 s with herd := { s.herd with sixp := [⟨4, 1, [], some 3⟩] } }
/-- Herd decides: MODE is FULL. -/
def herdOn (s : State) : State := s.setReg 0x92000 0x02010202
/-- Node `i` dropped a group at ASN 0 and the present ASN lets it come back. -/
def withDrop (i : Nat) (s : State) : State :=
  tim (fun t => { t with tb := 85_852_200_000_000 })
    (putNode { nodeX i with herd := { (nodeX i).herd with drop := 1 } } s)
def ageOn (s : State) : State := s.setReg 0xB0004 0x80000001
def aged (s : State) : State := { ageOn s with tbl := { s.tbl with ageAsn := some 500 } }
def quiet (i : Nat) (s : State) : State := putNode { nodeX i with asnl := 2 ^ 31 } s
def childless (i : Nat) (s : State) : State :=
  putNode { nodeX i with
    parent := rootParent
    pexp := 500 } s
def parentLater (i : Nat) (s : State) : State :=
  putNode { nodeX i with
    parent := rootParent
    pexp := 501 } s
def withPfx (s : State) : State := { s with tbl := { s.tbl with pfx := [⟨0, 0, 0x1000⟩] } }
def rooted (s : State) : State := putNode { nodeX 4 with parent := rootParent } s

/-! ### Packets and images -/

/-- A UDP packet of 80 octets from ::1 to `dst`. -/
def udpTo (dst : Nat) : List Octet :=
  ipPacket 0 0 17 64 1 dst (udpFilled 1 dst (octetsBE 2 5683 ++ octetsBE 2 5683 ++ octetsBE 2 40 ++ zeros 34))
def pktA : List Octet := udpTo 0xFD000000000000000212_4B0000000001
def bcastA : List Octet := udpTo 0xFF020000000000000000000000000001
/-- Profile 0 is SUN FSK at 50 kb/s. -/
def profiled (s : State) : State := banked s
def imgA : ImgOpenArgs where
  session := 0
  objid := 1
  size := 64
  sym := 64
  profile := 0
  sport := 0xF0B0
  dport := 0xF0B1
  dst := 0xFF020000000000000000000000000001
  outAddr := 0
def imgX (n : Nat) : ImgSess where
  objid := 1
  f := 64
  t := 64
  z := 1
  kl := 1
  ks := 1
  zl := 0
  zs := 1
  profile := 0
  sport := 0xF0B0
  dport := 0xF0B1
  dst := 0xFF020000000000000000000000000001
  loaded := n
  data := []
  cells := []
def imgOpenS (n : Nat) (s : State) : State := { s with adp := { s.adp with img := setAt s.adp.img 0 (some (imgX n)) } }
def imgDue (s : State) : State := { s with adp := { s.adp with rq := [⟨ref1, 0, 0, 0, 1, 0⟩] } }
/-- Slotframe handles 0 and 1 are active. -/
def twoFrames (s : State) : State :=
  { s with sch := { s.sch with sf := setAt (setAt s.sch.sf 0 [use0]) 1 [{ use0 with rec_ := ⟨false, 0, 1, 100, 100⟩ }] } }
/-- The timebase stands in ASN 65,540. -/
def atFour (s : State) : State := tim (fun t => { t with tb := 655_400_000_000 }) s
def herdA : HerdSetArgs := ⟨4, 0xF, 0xF, 0xC, 0, 0, -3, 2⟩
def herdP : HerdSetArgs := ⟨4, 0, 0, 3, 0, 0, 0, 0⟩
/-- Rung 0 of class 0 is profile 0, whose sensitivity is given. -/
def laddered (s : State) : State := ((banked s).setReg 0x92040 0x80).setReg 0x920C0 0x80000000
/-- An insertion with a transmit cell of slotframe handle 0. -/
def insC : InsertArgs := { insA with cell := some ⟨0, 0, 1, 0, 1⟩ }

/-! ### Security -/

def sec (f : SecSt → SecSt) (s : State) : State := { s with sec := f s.sec }
def mission (s : State) : State :=
  sec (fun x => { x with
    lc := 0xF
    vfuseOk := true
    rootOk := true }) s
def locked (s : State) : State := sec (fun x => { x with tlock := true }) s
def rooted2 (s : State) : State := sec (fun x => { x with rootOk := true }) s
def fusable (s : State) : State := sec (fun x => { x with vfuseOk := true }) s
def keys : List KeySlot := [⟨true, false, false, 5, 0, 77⟩, ⟨true, false, false, 6, 0, 78⟩]
def keyed (s : State) : State := sec (fun x => { x with slots := keys }) s
def switching (n : Nat) (s : State) : State := sec (fun x => { x with sw := some n }) (keyed s)
def counting (s : State) : State :=
  sec (fun x => { x with
    fcNext := 2 ^ 19 - 1
    fcValid := true }) (keyed s)
def alarmed (s : State) : State := sec (fun x => { x with alarmAt := [(2, s.time.tb)] }) (s.setReg 0xC0040 4)
/-- The lid mesh is enabled and its alarm stands. -/
def warned (s : State) : State := sec (fun x => { x with alarmAt := [(8, s.time.tb + 1000)] }) (s.setReg 0xC0040 0x100)
def meshOn (s : State) : State := s.setReg 0xC0040 0x100
def cipA : CipherArgs where
  mode := 0
  dir := 1
  ksrc := 0
  gensel := 0
  tagLen := 16
  keyLen := 16
  karg := 0
  outAddr := 0x1000
  tagAddr := 0x2000
  key := zeros 16
  nonce := zeros 13
  aad := zeros 8
  input := zeros 16
  tag := zeros 16
  outOk := true
def cipherOn (s : State) : State := sec (fun x => { x with ops := [⟨ref1, cipA, false, zeros 16⟩] }) s

/-! ### Power and the pair -/

def pwr (f : PwrSt → PwrSt) (s : State) : State := { s with pwr := f s.pwr }
def retained (s : State) : State := s.setReg 0x10004 0x00FFFFFF
def committing (t : PowerState) (n : Nat) (s : State) : State :=
  pwr (fun p => { p with
    commit := some ⟨ref1, t, n, 5⟩
    preparing := true }) s
def asleep (s : State) : State :=
  pwr (fun p => { p with
    st := .keep
    wakeAfter := 5 }) (s.setReg 0x10024 1)
def waking (s : State) : State :=
  pwr (fun p => { p with
    st := .keep
    waking := some 1
    kept := false }) s
def pair (f : PairSt → PairSt) (s : State) : State := { s with pair := f s.pair }
def paired (st : PairState) (s : State) : State :=
  pair (fun p => { p with
    st := st
    link := true }) s
def jrec (n : Nat) : JRec := ⟨n, 500, 0, 40, false, 0, .slot false []⟩
/-- A SLOT record whose CRC holds. -/
def jrecOk (n : Nat) : JRec := { jrec n with crc := recCrc (jrec n) }
/-- An IDENT of a unit like `ready`. -/
def ident0 (role : Nat) : Ident := ⟨5, ready.sec.romRev, ready.sec.patchMask, lcState ready, false, role, []⟩
def metPeer (role : Nat) (s : State) : State := pair (fun p => { p with peer := some (ident0 role) }) (paired .solo s)
def backlogged (s : State) : State := pair (fun p => { p with backlog := [jrec 4, jrec 5] }) (paired .standbySynced s)
def diverged (s : State) : State :=
  pair (fun p => { p with
    divergedAt := some 5
    peerOk := true }) (paired .diverged (s.setReg 0x110004 3))
def hbLost (s : State) : State := pair (fun p => { p with hbMiss := 3 }) (paired .standbySynced (s.setReg 0x110004 1))
def ackLost (s : State) : State :=
  pair (fun p => { p with
    peerOk := true
    ackMiss := 3 }) (paired .active s)
def drillOk (s : State) : State := pair (fun p => { p with peerOk := true }) (paired .active s)
def drillAt (s : State) : State :=
  tim (fun t => { t with lastAsn := some 400 }) (pair (fun p => { p with drill := some (ref1, 0, 1) }) (drillOk s))
def drillStandby (s : State) : State := pair (fun p => { p with drillB := some 400 }) (paired .standbySynced s)
/-- Command ring 15 is on, bound to completion ring 0. -/
def ring15 (s : State) : State := s.setReg 0xE02F0 0x80080000
def ref15 : CmdRef := ⟨15, 0, 0x11, 0⟩
def ring8 (s : State) : State := s.setReg 0xE0710 0x80080000
def staged (s : State) : State := { ring8 s with jrn := { s.jrn with
    staging := [jrec 4]
    ringNext := 4 } }
def owing (n : Nat) (s : State) : State := { s with jrn := { s.jrn with owed := [(1, n, [])] } }
/-- No journal has started. -/
def idle0 (s : State) : State := { s with jrn := JrnSt.reset }
/-- A storage blob of `x` with generation `g`, IV and ciphertext of zeros, and the tag that verifies. -/
def blobOf (x : SecSt) (g : Nat) : List Octet :=
  storageHead x g ++ zeros 12 ++ zeros 32 ++ gcmTag (roundKeys (keyDwk x)) (zeros 12) (storageHead x g) (zeros 32)

theorem blobOf_passes (x : SecSt) (s : State) (g : Nat) (hx : s.sec = x) (hr : x.rootOk = true) :
    ∀ y ∈ importChecks s (blobOf x g) 0 0, y.1 = false := by
  subst hx
  have hh : (storageHead s.sec g).length = 24 := by simp [storageHead, devOct]
  have ht := length_gcmTag (keyDwk s.sec) (zeros 12) (storageHead s.sec g) (zeros 32) (.inr (by simp)) (by simp)
  generalize htag : gcmTag (roundKeys (keyDwk s.sec)) (zeros 12) (storageHead s.sec g) (zeros 32) = tag at ht
  have hb : blobOf s.sec g = storageHead s.sec g ++ zeros 12 ++ zeros 32 ++ tag := by rw [blobOf, htag]
  have l : (blobOf s.sec g).length = 84 := by simp [hb, hh, ht]
  have s1 : (blobOf s.sec g).take 24 = storageHead s.sec g := by rw [hb]; simp [hh]
  have s2 : slice (blobOf s.sec g) 24 12 = zeros 12 := by rw [hb]; simp [slice, hh]
  have s3 : slice (blobOf s.sec g) 36 32 = zeros 32 := by rw [hb]; simp [slice, List.drop_append, List.take_append, hh]
  have s4 : slice (blobOf s.sec g) 68 16 = tag := by
    rw [hb, slice, List.drop_left' (by simp [hh]), List.take_of_length_le (by omega)]
  have g5 : ∀ i, i < 24 → (blobOf s.sec g).getD i 0 = (storageHead s.sec g).getD i 0 := by
    intro i hi; rw [← s1]; simp [List.getD_eq_getElem?_getD, hi]
  have t5 : (blobOf s.sec g).take 5 = (storageHead s.sec g).take 5 := by rw [← s1]; simp [List.take_take]
  have t8 : slice (blobOf s.sec g) 8 8 = devOct s.sec := by
    have : slice (blobOf s.sec g) 8 8 = slice (storageHead s.sec g) 8 8 := by
      rw [← s1]; simp [slice, List.drop_take, List.take_take]
    rw [this]; simp [slice, storageHead, devOct]
  have ty : blobTyp (blobOf s.sec g) = 2 := by simp only [blobTyp, g5 5 (by decide)]; rfl
  have f : blobForm (blobOf s.sec g) = true := by
    simp only [blobForm, t5, g5 6 (by decide), ty, l]
    simp [storageHead]
  have st : blobState (blobOf s.sec g) = lcState s := by
    simp only [blobState, g5 7 (by decide)]
    have : lcState s < 256 := by unfold lcState lcIn lcOf; repeat' split
                                 all_goals decide
    simp [storageHead, octetsBE, octetsLE, lcState] at this ⊢
    omega
  have dv : blobDevid (blobOf s.sec g) = devIdOf s.sec := by
    simp only [blobDevid, t8, devOct, beOf_octetsBE]
    refine Nat.mod_eq_of_lt ?_
    simp only [devIdOf, fuseField]
    split
    · decide
    · exact Nat.mod_lt _ (by decide)
  have un : (unwrap s.sec (blobOf s.sec g)).2 = true := by
    simp [unwrap, ty, s1, s2, s3, s4, gcmOpen, htag]
  simp [importChecks, f, st, dv, hr, un]

/-- A unit in REPLAY, its journal not yet begun. -/
def replayUp (s : State) : State := pair (fun p => { p with st := .replay }) s
def agreed (s : State) : State := pair (fun p => { p with agree := some 5 }) s
/-- A ROM patch of one body octet. -/
def patchA : List Octet := [0x44, 0x58, 0x50, 0x54, 0x02, 0x03, 0x05, 0x03, 1, 0, 0, 0, 0x0F] ++ zeros 136
def cipN : CipherArgs := { cipA with
  ksrc := 1
  keyLen := 0
  karg := 4 }

/-! ### Diagnostics and rings -/

def iqReady (s : State) : State := rxOn (banked (s.setReg 0xE0730 0x80080000))
def iqPending (s : State) : State := { s with snap := some ⟨ref1, 0, 1, 16, 5_000_000_000⟩ }
/-- A unit that executes no command: its ring is not read. -/
def cmdOnly (s : State) : State := paired .standbySynced s
def cplA : Cpl := ⟨0x0901, 0, 0, 0x11, 500, 0, 0, 0⟩
def withCpl (armed : Bool) (s : State) : State :=
  { s with hif := { s.hif with cpl := setAt s.hif.cpl 0 ⟨0, 1, [⟨0, 0, 0x11, 0x0901, .valid cplA⟩], armed, none⟩ } }
def validated (s : State) : State := withCpl false s
def armed (s : State) : State := withCpl true s
def recA : HRec := ⟨4, 0, 0x0401, 500, 5_000_000_000, 8, [1], [], 0⟩
def delivered (s : State) : State :=
  { s with hif := { s.hif with dring := setAt s.hif.dring 7 ⟨1, 0, 1, [(recA, true, 0)], false, none⟩ } }
def queued (s : State) : State :=
  { s with que := { s.que with egress := modAt (dlvQueue 7) (fun _ => [⟨.record recA, []⟩]) s.que.egress } }
/-- `DIAG_NOP`, PHASE 1, TAG 0x11, with its CRC; and with an argument octet that must be 0. -/
def descOf (l : List Octet) : RawDesc := ⟨l ++ octetsLE 2 (crc16 l), [], [], true, true, true⟩
def descA : RawDesc := descOf ([1, 9, 0, 0x80, 0x11, 0, 0, 0] ++ List.replicate 22 0)
def descB : RawDesc := descOf ([1, 9, 0, 0x80, 0x11, 0, 0, 0] ++ List.replicate 8 0 ++ [1] ++ List.replicate 13 0)
def fetched (d : RawDesc) (s : State) : State :=
  { s with hif := { s.hif with cring := setAt s.hif.cring 0 ⟨0, true, 0, 1, 0, [], [d]⟩ } }
def restarting5 (s : State) : State := { offline5 s with err := { (offline5 s).err with restarting := [5] } }

/-! ### Transmissions -/

def rfout (st : PortState) (s : State) : State :=
  port 4 (fun p => { p with
    st := st
    cmd := .idle }) s
def txPhase (ph : TxPhase) (s : State) : State := withTx { tx0 with phase := ph } (port 4 (fun p => { p with cmd := .idle }) s)
def lbtTx (s : State) : State :=
  withTx { tx0 with
    phase := .ramping
    lbt := true } s
def yielded (s : State) : State :=
  withTx { tx0 with
    phase := .ramping
    yield := some (0, 0) } s
def onAirAck (s : State) : State :=
  withTx { tx0 with
    kind := .ack
    phase := .onAir } s
def lingering (st : PortState) (s : State) : State :=
  port 4 (fun p => { p with
    st := st
    cmd := .idle
    linger := some 9
    femUntil := some 9 }) s

/-! ### Receiving -/

/-- Port 0 hears channel slot 0; then ports 0 and 1. -/
def hears (s : State) : State := rxOn (banked s)
def hears2 (s : State) : State := port 1 (fun p => { p with st := .on }) (hears s)
def lockA : Lock := ⟨0, -300, 4_999_000_000, none, none, false⟩
def lockB : Lock := ⟨0, -300, 4_999_000_000, some ⟨3_999_600_000, 0, 0, true, 80, 0⟩, none, false⟩
def lockedOn (l : Lock) (s : State) : State := { hears s with rx := { s.rx with locks := [⟨0, l⟩] } }
/-- Mode-switch key 5 maps to profile 0. -/
def msMap (s : State) : State := act 0x70080 0x80000500 s
/-- Key 5 maps to the SUN OFDM profile 1, which wideband channel slot 0 searches for. -/
def msOfdm (s : State) : State :=
  act 0x70080 0x80000501 (act 0x70110 0x81000000 (act 0x70600 2 (act 0x60300 0x80000000 s)))
/-- Profile 0 is Eland. -/
def elandOn (s : State) : State := act 0x70100 0x83000000 (lockedOn lockB s)
def metaA : RxMeta where
  chSlot := 0
  profile := 0
  mode := 0x200
  tick := 3_996_800_000
  port := 0
  single := true
  snr1Q := 80
  snr2Q := 0
  rssiQ := -300
  cfoHz := 0
  rateOfs := 0
  fec := 0
/-! ### Ethernet, queues and errors -/

def ethCtl (s : State) : State := s.setReg 0xF0000 0x80000000
/-- Port 0 is enabled and its PCS has no lock yet; it is up. -/
def ethOn (s : State) : State := ethCtl s
def eth (f : EthPort → EthPort) (s : State) : State := { s with eth := modAt 0 f s.eth }
def ethUpS (s : State) : State :=
  eth (fun x => { x with
    lock := true
    up := true
    tokens := 131_072_000 }) (ethCtl s)
def rxPause (s : State) : State := s.setReg 0xF0000 0x80000100
/-- A frame from DA to FCS around `b`. -/
def ethOf (da ty : Nat) (b : List Octet) : List Octet := withFcs 4 (octetsBE 6 da ++ octetsBE 6 0 ++ octetsBE 2 ty ++ b)
def ethA : List Octet := ethOf 0xFFFF_FFFF_FFFF 0x86DD pktA
def ethQueued (s : State) : State := eth (fun x => { x with fifo := [⟨false, ethA⟩] }) (ethUpS s)
def holdMode (s : State) : State := s.setReg 0xF001C 0x81900100
def pauseWaits (s : State) : State := { s with que := { s.que with pauseTx := [[5], []] } }
def ethOut (s : State) : State := eth (fun x => { x with out := [pktA] }) (ethUpS s)
def ethPaused (s : State) : State := eth (fun x => { x with paused := some 9 }) (ethUpS s)
def repeats (s : State) : State :=
  { s.setReg 0xD0A80 0x8000FFFF with que := { s.que with
      above := [31]
      pauseAt := [some 9, none] } }
/-- Egress queue 6 holds `n` cells; its source 54 has HIGH 400 and LOW 300 (the example after R372). -/
def wmAt (n : Nat) (s : State) : State :=
  { s.setReg 0xD0460 0x012C0190 with que := { s.que with
      egress := modAt 6 (fun _ => [⟨.record recA, List.replicate n 0⟩]) s.que.egress } }
def wmAbove (s : State) : State := { s with que := { s.que with above := [54] } }
def pinOn (s : State) : State := { s with que := { s.que with qflow := [⟨true, 9⟩, ⟨false, 0⟩] } }
def scrubOn (s : State) : State := s.setReg 0x120004 7
def scrubEnd (s : State) : State := { s with err := { s.err with scrubWord := 2_621_439 } }
def errA (c : Nat) : ErrRec := ⟨0x0104, c, false, false, 5, 1, 0, 500, 5_000_000_000, 7, 0, 0⟩
def erred (c : Nat) (s : State) : State := { s with err := { s.err with fifo := [errA c] } }
def busyErr (c : Nat) (s : State) : State := { erred c s with err := { (erred c s).err with busy := true } }
def busyTwo (s : State) : State :=
  { s with err := { s.err with
      fifo := [errA 1, errA 2]
      busy := true } }
def errFull (s : State) : State := { s with err := { s.err with fifo := List.replicate 60 (errA 1) } }

/-! ## Witnesses: states and operands that meet the hypotheses of each obligation -/
/-! StepRunsTheFrontCommand -/
theorem wit_step_front : ({ State.reset with pending := [.refLost] } : State).pending = .refLost :: [] := rfl
theorem wit_step_idle : State.reset.pending = [] := rfl

/-! ResetState -/
theorem wit_reset_port : (5 : Nat) < 6 := by decide
theorem wit_reset_words : State.reset.regs = [] := rfl

/-! WordsOkKept -/
theorem wit_words_kept : State.reset.wordsOk = true ∧ ∃ s', step State.reset = .next s' := ⟨by decide, _, rfl⟩

/-! FusesNeverClear -/
theorem wit_fuses : (∃ s', step State.reset = .next s') ∧ State.reset.sec.lc &&& 3 = 3 ∧ State.reset.sec.ownerId &&& 0 = 0 ∧
    State.reset.sec.ownerTamp &&& 0 = 0 ∧ lcOf State.reset.sec.lc ≠ 0 := ⟨⟨_, rfl⟩, by decide, by decide, by decide, by decide⟩
theorem wit_only_fuses : (∃ t, exec .refLost State.reset = .next t) ∧ (∃ t, exec (.glbResetWrite 0) State.reset = .next t) :=
  ⟨⟨_, rfl⟩, ⟨_, rfl⟩⟩

/-! CommandsLeaveTheQueue -/
theorem wit_queue : ∃ t, exec .refLost State.reset = .next t ∧ t.pending = [] := ⟨_, rfl, rfl⟩

/-! RegisterReadsBack -/
theorem wit_reads_back : State.reset.wordsOk = true ∧ (0x14 : Nat) ≠ 0xC := ⟨by decide, by decide⟩

/-! CountersSaturate -/
theorem wit_saturate : cellsWf (fun _ => 0) ([] : List (Nat × Word)) = true ∧ 0 < 16 ∧ 16 + 16 ≤ 32 ∧ (1 : Nat) ≠ 0 := by decide

/-! CompletionFillsItsSlots -/
theorem wit_complete : admOf (booked1 0x0112 ready) ref1 = some ⟨ref1, 0x0112, some 0, 5_000_000_000, none⟩ ∧
    (booked1 0x0112 ready).hif.cpl[0]?.isSome = true ∧ (1 : Nat) ≠ 0 := by decide

/-! AdmissionGate -/
theorem wit_gate_wait : (admOf State.reset ref1).isSome = false ∧ gateOf State.reset 0 0x0112 1 = .wait := by decide
theorem wit_gate_stop : (admOf (offline5 ready) ref1).isSome = false ∧ gateOf (offline5 ready) 0 0x0112 1 = .stop stInternal 5 0x0201 := by decide
theorem wit_gate_go : (admOf ready ref1).isSome = false ∧ gateOf ready 0 0x0112 1 = .go := by decide
theorem wit_gate_booked : (admOf (booked1 0x0112 ready) ref1).isSome = true ∧ cipA.ksrc = 0 ∧ cipN.ksrc ≠ 0 ∧ jrnWrites State.reset = false := by decide

/-! StagingHoldsOneMebibyte -/
theorem wit_staging : (32 : Nat) ≤ 1_048_576 ∧ JrnSt.reset.frozen = false := by decide
theorem wit_staging_frozen : ({ JrnSt.reset with frozen := true } : JrnSt).frozen = true := rfl

/-! JournalAndEventRecords -/
theorem wit_journal_on : jrnWrites ready = true := by decide
theorem wit_journal_off : jrnWrites State.reset = false := by decide
theorem wit_event_on : ringEn ready (dlvCtl (evtRing ready)) = true ∧ ready.pair.follows = false := by decide
theorem wit_event_off : ringEn State.reset (dlvCtl (evtRing State.reset)) = false := by decide

/-! CellsAreConserved -/
theorem wit_take_cells : (∀ p ∈ [((0 : Nat), (10240 : Nat))], p.1 < p.2) ∧ takeCells 2 [(0, 10240)] = some ([0, 1], [(2, 10240)]) := by decide

/-! SlotClock -/
theorem wit_clock_on : ready.time.running = true := by decide
theorem wit_clock_off : State.reset.time.running = false := by decide

/-! TimeSetEpoch -/
theorem wit_epoch : goes ready ref1 0x0110 1 = true ∧ allInactive ready = true ∧ 8 ≤ 40 ∧ 40 ≤ 160 ∧
    0 ≤ ready.time.tb ∧ ready.time.loaded = true ∧ 161 > 160 := by decide
theorem wit_epoch_state : allInactive (withSf0 ready) = false ∧ goes (withSf0 ready) ref1 0x0110 1 = true := by decide

/-! TimeForceServes -/
theorem wit_force : goes acquiring ref1 0x0112 1 = true ∧ acquiring.time.st = .acquire ∧
    acquiring.time.epochSet = true ∧ acquiring.time.loaded = true ∧ acquiring.pair.leads = true := by decide
theorem wit_force_state : goes ready ref1 0x0112 1 = true ∧ ready.time.st ≠ .acquire := by decide

/-! TimeStep -/
theorem wit_step_cmd : goes (withSf0 ready) ref1 0x0111 1 = true ∧ (withSf0 ready).time.st ≠ .acquire ∧
    1 ≤ 5 ∧ 5 ≤ 2 ^ 62 ∧ (sfActive (withSf0 ready) 0).isSome = true ∧ (withSf0 ready).time.step = none ∧
    (stepBoundary (withSf0 ready) (sfLen (withSf0 ready) 0) 0 * ready.time.l + 5) / max 1 ready.time.l < 2 ^ 40 := by decide
theorem wit_step_busy : goes (stepping (withSf0 ready)) ref2 0x0111 1 = true ∧ (sfActive (stepping (withSf0 ready)) 0).isSome = true ∧
    (stepBoundary (stepping (withSf0 ready)) (sfLen (stepping (withSf0 ready)) 0) 0 * ready.time.l + 5) / max 1 ready.time.l < 2 ^ 40 := by decide
theorem wit_step_exec : coreRuns (stepping ready) = true ∧ (stepping ready).time.step = some ⟨ref1, 5, 0, 1⟩ ∧
    (stepping ready).time.running = true ∧ 1 ≤ asnNow (stepping ready) := by decide

/-! ReferenceOutcomes -/
theorem wit_ref_skip : (srcIn (skipping ready) 3 0).skip = true := by decide
theorem wit_ref_outlier : (srcIn (qualified3 ready) 3 0).skip = false ∧ beforeEpoch (qualified3 ready) 3 0 5000 = false ∧
    outlier (qualified3 ready) 3 (srcIn (qualified3 ready) 3 0) 5000 = true := by decide +kernel
theorem wit_ref_ok : outlier (qualified3 ready) 3 (srcIn (qualified3 ready) 3 0) 500 = false ∧
    beforeEpoch (qualified3 ready) 3 0 500 = false := by decide +kernel
theorem wit_ref_epoch : (srcIn (beforeE ready) 3 0).skip = false ∧ beforeEpoch (beforeE ready) 3 0 (-4_000_000_000) = true := by decide +kernel
theorem wit_ref_row : coreRuns ready = true ∧ ready.up = true := by decide
theorem wit_air : coreRuns (airFollow ready) = true ∧ followed (airFollow ready) = some 0 ∧ (airFollow ready).time.bcnDue.getD 0 none = some 100 := by decide

/-! ServoSamplesAndRatios -/
theorem wit_servo : coreRuns (qualified3 ready) = true ∧ (qualified3 ready).time.src ≠ 0 ∧
    srcQual (qualified3 ready) (qualified3 ready).time.src = true := by decide
theorem wit_slck : coreRuns ready = true ∧ ready.pwr.st = .run ∧ ready.time.st = .locked := by decide

/-! PulsePerSecond -/
theorem wit_pps : coreRuns (ppsOn ready) = true ∧ ppsEn (ppsOn ready) = true ∧ (ppsOn ready).time.pps.noisy = false ∧
    (true != (ppsOn ready).regB 0x30020 1) = true ∧ (false != (ppsOn ready).regB 0x30020 1) = false ∧
    (ppsOn ready).time.pps.lastActive = none ∧ (ppsOn ready).time.pps.pulse = none ∧ (ppsOn acquiring).time.st ≠ .locked ∧
    coreRuns (ppsOn acquiring) = true ∧ ppsEn (ppsOn acquiring) = true := by decide
theorem wit_pps_width : ppsEn (pulsing ready) = true ∧ (pulsing ready).time.pps.pulse = some ⟨5_000_000_000, none, 5, 0, none⟩ ∧
    coreRuns (pulsing ready) = true ∧ (pulsing ready).time.pps.noisy = false ∧ (false != (pulsing ready).regB 0x30020 1) = false := by decide
theorem wit_pps_noisy : ppsEn (noisyPps ready) = true ∧ (noisyPps ready).time.pps.noisy = true ∧ coreRuns (noisyPps ready) = true := by decide

/-! TimeOfDay -/
theorem wit_tod : coreRuns (ppsOn ready) = true ∧ ppsEn (ppsOn ready) = true ∧ (ppsOn ready).time.pps.noisy = false ∧
    (ppsOn ready).time.pps.pulse = none ∧ (ppsOn ready).time.pps.tod.length + [0xA5#8].length < 16 ∧ (ppsOn ready).time.pps.tod = [] ∧
    (List.replicate 16 (0#8)).length = 16 := by decide
theorem wit_tod_wait : ppsEn (awaitTod ready) = true ∧ (awaitTod ready).time.pps.todFor = some (5_000_000_000, true) ∧
    coreRuns (awaitTod ready) = true := by decide

/-! PtpMessages -/
theorem wit_ptp : coreRuns (ptpUp ready) = true ∧ ptpEn (ptpUp ready) 0 = true ∧ Machine.ptpOn (ptpUp ready) 0 = true ∧
    ptpType syncA = 0 ∧ 44 ≤ syncA.length ∧ ptpClock syncA = ptpMaster (ptpUp ready) 0 ∧
    ptpDomain syncA = (ptpUp ready).regF (0x30090 + 4 * 0) 7 0 ∧ ptpTwoStep syncA = true ∧ ptpTwoStep syncB = false ∧
    ptpClock syncB = ptpMaster (ptpUp ready) 0 ∧ ptpType syncB = 0 ∧ ptpType followA ≠ 0 := by decide
theorem wit_ptp_wait : ptpEn (ptpWaiting ready) 0 = true ∧ (ptpAt (ptpWaiting ready) 0).wait = some (7, 100, 5_000_000_000) ∧
    ((ptpWaiting ready).time.tb : Int) ≤ 5_000_000_000 + interval (ptpAt (ptpWaiting ready) 0).syncLog ∧
    (ptpAt (ptpWaiting ready) 0).delayReq = some (7, 50) ∧ (ptpAt (ptpWaiting ready) 0).sync = some (10, 100) ∧
    (ptpWaiting ready).time.src = 0 + 1 ∧ coreRuns (ptpWaiting ready) = true ∧ ptpSeq followA = 7 ∧ ptpType followA = 8 ∧
    ptpClock followA = ptpMaster (ptpWaiting ready) 0 ∧ ptpDomain followA = (ptpWaiting ready).regF (0x30090 + 4 * 0) 7 0 ∧ 44 ≤ followA.length := by decide
theorem wit_ptp_resp : ptpType respA = 9 ∧ 54 ≤ respA.length ∧ ptpSeq respA = 7 ∧ ptpClock respA = ptpMaster (ptpWaiting ready) 0 ∧
    ptpDomain respA = (ptpWaiting ready).regF (0x30090 + 4 * 0) 7 0 ∧ ptpAsker respA = (ownEui (ptpWaiting ready), 0 + 1) := by decide
theorem wit_ptp_announce : ptpType announceA = 11 ∧ 64 ≤ announceA.length ∧ ptpClock announceA = ptpMaster (ptpWaiting ready) 0 ∧
    ptpDomain announceA = (ptpWaiting ready).regF (0x30090 + 4 * 0) 7 0 := by decide
theorem wit_ptp_delay : mayAskDelay (ptpWaiting ready) 0 = true ∧ 0 < (ptpWaiting ready).time.ptp.length ∧ 0 < (ptpWaiting ready).eth.length := by decide

/-! PortCommands -/
theorem wit_port_set : goes ready ref1at 0x0201 1 = true ∧ portArgsBad 0 2 = false ∧ portArgsBad 4 1 = false ∧ 0 < 4 ∧ 2 ≤ 2 ∧
    ready.rf.spll = .locked ∧ (portOf ready 0).failed = false ∧ (portOf ready 4).failed = false ∧ ref1at.asn ≠ 0 ∧ ready.time.loaded = true ∧
    needsTime ready ref1at.asn = false ∧ goes ready ref1 0x0201 1 = true ∧ needsTime ready ref1.asn = false ∧ (6 : Nat) > 5 := by decide
theorem wit_port_effect : coreRuns (portPending ready) = true ∧ (portOf (portPending ready) 0).pending = [(ref1, .idle, 0)] ∧
    (0 : Nat) ≤ nowFor (portPending ready) := by decide
theorem wit_port_done : (portOf (portMoving ready) 0).trans = some (.idle, 7_000_000_000) ∧ (portOf (portMoving ready) 0).cmd = .idle ∧
    (portOf (portMoving ready) 0).waiting = [] ∧ (portOf (portMoving ready) 0).failed = false ∧ portsHeld (portMoving ready) = false ∧
    (portMoving ready).pair.follows = false ∧ (portMoving ready).pwr.st = .run := by decide

/-! PortCalibration -/
theorem wit_cal : goes ready ref1at 0x0202 1 = true ∧ goes ready ref1 0x0202 1 = true ∧ calBusy ready 0 (ready.time.at_ ref1at.asn) = false ∧
    calBusy ready 6 ready.time.tb = false ∧ ready.rf.spll = .locked ∧ needsTime ready ref1at.asn = false ∧ needsTime ready ref1.asn = false ∧
    (7 : Nat) > 6 := by decide
theorem wit_cal_start : coreRuns (calPending ready) = true ∧ (portOf (calPending ready) 0).calPend = some (ref1, 0) ∧
    0 ≤ nowFor (calPending ready) ∧ (calPending ready).rf.spll = .locked ∧ (portOf (calPending ready) (partner 0)).calRun = none ∧
    onAir (portOf (calPending ready) 0) = [] := by decide
theorem wit_cal_spll : coreRuns (spllDue ready) = true ∧ (spllDue ready).rf.spllPend = some (ref1, 0) ∧ 0 ≤ nowFor (spllDue ready) ∧
    (spllDue ready).rf.spll ≠ .locked := by decide
theorem wit_cal_done : (spllRunning ready).rf.spllRun = some (ref1, 5) ∧ (portOf (portRunning ready) 0).calRun = some (some ref1, 5) := by decide
theorem wit_trim : ready.up = true ∧ (25 : Nat) ≤ 25 ∧ (portOf ready 0).advised = false ∧ 25 < (26 : Nat) ∧ (26 : Nat) ≤ 255 := by decide

/-! SampleClock -/
theorem wit_ref : (noSpll ready).up = true ∧ (noSpll ready).rf.refOk = true ∧ (noSpll ready).rf.spll = .locking ∧
    (noSpll ready).rf.spllRun = none ∧ (noSpll ready).rf.attempts < 2 ∧ (noSpll ready).offline 1 = false ∧ (noSpll ready).err.busy = false ∧
    (noSpll ready).err.fifo.length < 60 := by decide
theorem wit_ref_lock : (raiseErr 0x0401 1 1 0 0 0 0 (event 0x0101 [] (journal (.clock 2) { ready with
      rf := { ready.rf with refOk := false, refLostAt := some ready.time.tb }, cnt := cntBump 0x20104 16 16 1 ready.cnt }))).rf.spll = .locked ∧
    (raiseErr 0x0401 1 1 0 0 0 0 (event 0x0101 [] (journal (.clock 2) { noSpll ready with
      rf := { (noSpll ready).rf with refOk := false, refLostAt := some ready.time.tb }, cnt := cntBump 0x20104 16 16 1 ready.cnt }))).rf.spll ≠ .locked :=
  ⟨rfl, by intro h; exact SpllState.noConfusion h⟩
theorem wit_ref_gone : (refGone ready).up = true ∧ (refGone ready).rf.refOk = false ∧ (refGone ready).rf.spll = .unlocked ∧
    (refGone ready).rf.refLostAt = some 5_000_000_000 := by decide
theorem wit_ref_back : (rfs (fun r => { r with refOk := false }) (noSpll ready)).up = true ∧
    (rfs (fun r => { r with refOk := false }) (noSpll ready)).rf.spll ≠ .unlocked := by decide
theorem wit_spll : ready.up = true ∧ ready.rf.spll = .locked ∧ ready.rf.refOk = true ∧ (rfs (fun r => { r with refOk := false }) ready).rf.spll = .locked := by decide
theorem wit_spll_band : (rfs (fun r => { r with spll := .band }) ready).up = true ∧ (rfs (fun r => { r with spll := .band }) ready).rf.spllRun = none ∧
    (rfs (fun r => { r with spll := .band }) ready).rf.attempts < 2 ∧ 2 ≤ (rfs (fun r => { r with attempts := 2 }) (noSpll ready)).rf.attempts := by decide

/-! DeafClippingAndCoexistence -/
theorem wit_deaf : txAt (onTx ready) 0 = some tx0 ∧ tx0.phase ≠ .ackWait ∧ deafens (deafOn (onTx ready)) tx0.port tx0.freq 0 = true ∧
    txAt (deafOn (onTx ready)) 0 = some tx0 ∧ (onTx ready).rf.deaf = [] ∧ txAt ready 0 = none := by decide
theorem wit_deaf_end : (deafAt (some 9) ready).rf.deaf.find? (fun d => d.ch == 0 && d.id == 0) = some ⟨0, 0, 5, some 9⟩ ∧
    (deafAt none ready).rf.deaf = [⟨0, 0, 5, none⟩] ∧ txAt (deafAt none ready) 0 = none := by decide
theorem wit_clip : (0 : Nat) < 4 ∧ (portOf (rxOn ready) 0).st = .on ∧ (portOf (clipOn ready) 0).clipping = true := by decide
theorem wit_coex : (coexOn ready).up = true ∧ coexEn (coexOn ready) = true ∧ (coexOn ready).rf.grant = true ∧ (coexOn ready).rf.denied = none := by decide
theorem wit_coex_clear : (deniedAt0 ready).up = true ∧ (deniedAt0 ready).rf.denied = some 0 ∧ 0 + 5_000_000_000 ≤ (deniedAt0 ready).time.tb := by decide

/-! BankApply -/
theorem wit_apply : goes ready ref1at 0x0203 1 = true ∧ needsTime ready ref1at.asn = false ∧ ready.bank.apply = none ∧
    tooSoon ready ref1at.asn = false ∧ goes ready ref1 0x0203 1 = true ∧ needsTime ready ref1.asn = false ∧ tooSoon ready ref1.asn = false := by decide
theorem wit_apply_ok : checkSnapshot (snapGet (stagingNow ready)) = none := by decide +kernel
theorem wit_apply_bad : goes (badBank ready) ref1at 0x0203 1 = true ∧ (badBank ready).bank.apply = none ∧
    ∃ f, checkSnapshot (snapGet (stagingNow (badBank ready))) = some f :=
  ⟨by decide, rfl, Option.isSome_iff_exists.mp (by decide +kernel)⟩
theorem wit_apply_busy : goes (applyPending ready) ref1 0x0203 1 = true ∧ needsTime (applyPending ready) ref1.asn = false ∧
    (applyPending ready).bank.apply.isSome = true := by decide
theorem wit_activate : coreRuns (applyPending ready) = true ∧ (applyPending ready).bank.apply = some ⟨ref1, 0, []⟩ ∧ 0 ≤ nowFor (applyPending ready) := by decide

/-! Slotframes -/
theorem wit_sf_set : goes (sfReady ready) ref1at 0x0301 1 = true ∧ sfA.en = true ∧ sfA.sfh < 64 ∧ sfUses (sfReady ready) sfA.sfh = [] ∧
    (sfReady ready).time.loaded = true ∧ asnNow (sfReady ready) + 2 ≤ ref1at.asn ∧ herdForbids (sfReady ready) sfA.sfh true = false ∧
    ctxZero (sfReady ready) = true ∧ poolErr (sfReady ready) = false := by decide
theorem wit_sf_fields : sfFieldsBad (sfReady ready) sfA ref1at.asn = false := by decide
theorem wit_sf_check : ∀ x ∈ sfCheck (sfReady ready) ref1at sfA, x.1 = false := by decide
theorem wit_sf_off : goes (withSf0 ready) ref1at 0x0301 1 = true ∧ sfUses (withSf0 ready) 0 = [use0] ∧ use0.begun = true ∧ use0.rem = none ∧
    (withSf0 ready).time.loaded = true ∧ asnNow (withSf0 ready) + 2 ≤ ref1at.asn ∧ herdForbids (withSf0 ready) 0 false = false ∧
    ∀ x ∈ sfCheck (withSf0 ready) ref1at { sfA with en := false }, x.1 = false := by decide
theorem wit_sf_high : ({ sfA with sfh := 64 } : SfArgs).sfh > 63 := by decide
theorem wit_sf_again : goes (withSf0 ready) ref1 0x0301 1 = true ∧ ref1.asn = 0 ∧ sfState (withSf0 ready) 0 = 1 := by decide
theorem wit_sf_begin : coreRuns (sfPending ready) = true ∧ ∃ u, sfUses (sfPending ready) 0 = [u] ∧ u.begun = false ∧ u.act ≤ nowFor (sfPending ready) ∧
    u.rem = none ∧ u.actRef = some ref1 := ⟨by decide, _, rfl, by decide, by decide, by decide, by decide⟩
theorem wit_sf_remove : coreRuns (sfGoing ready) = true ∧ ∃ u, sfUses (sfGoing ready) 0 = [u] ∧ u.begun = true ∧ u.actRef = none ∧
    u.act ≤ nowFor (sfGoing ready) ∧ u.rem = some 4 ∧ 4 ≤ nowFor (sfGoing ready) ∧ u.rec_.has 0 = true ∧ u.rec_.has 9 = false :=
  ⟨by decide, _, rfl, by decide, by decide, by decide, by decide, by decide, by decide, by decide⟩

/-! ScheduleCells -/
theorem wit_cells : goes (withSf0 ready) ref1at 0x0302 1 = true ∧ (0 : Nat) < 64 ∧ [cellE] ≠ [] ∧ [cellE].length ≤ 64 ∧
    needsTime (withSf0 ready) ref1at.asn = false ∧ tooSoon (withSf0 ready) ref1at.asn = false ∧
    ∀ x ∈ cellsCheck (withSf0 ready) 0 (namedAsn (withSf0 ready) ref1at.asn) [cellE] false, x.1 = false := by decide
theorem wit_cells_none : goes ready ref1 0x0302 1 = true ∧ (63 : Nat) < 64 := by decide
theorem wit_cells_effect : coreRuns (cellsPending (withSf0 ready)) = true ∧
    (cellsPending (withSf0 ready)).sch.writes = [⟨some ref1, 1, 0, 0, [cellE]⟩] ∧ 1 ≤ nowFor (cellsPending (withSf0 ready)) ∧
    sfAt (cellsPending (withSf0 ready)) 0 1 = some use0 ∧ use0.act = 0 ∧ cellsWf (fun _ => 0) (cellsPending (withSf0 ready)).sch.store = true := by decide
theorem wit_cells_gone : (cellsPending ready).sch.writes = [⟨some ref1, 1, 0, 0, [cellE]⟩] ∧ sfAt (cellsPending ready) 0 1 = none := by decide

/-! HerdCommandsAndEvents -/
theorem wit_mode_off : goes ready ref1 0x0310 1 = true ∧ (1 : Nat) < 64 ∧ (2 : Nat) < 64 ∧ (1 : Nat) ≠ 2 ∧ 2 ≤ (2 : Nat) ∧ (15 : Nat) < 16 ∧
    ready.wordsOk = true ∧ (0xC : Nat) ≠ 0x92000 ∧ ¬ ((0 : Nat) = 1 ∨ (0 : Nat) = 2) := by decide
theorem wit_mode_on : goes (twoFrames ready) ref1 0x0310 1 = true ∧ (sfActive (twoFrames ready) 0).isSome = true ∧
    (sfActive (twoFrames ready) 1).isSome = true := by decide
theorem wit_mode_full : sfActive ready 1 = none := by decide
theorem wit_node_set : nodeAt ready 4 = none ∧ (nodeAt (withNode 4 ready) 4).isSome = true ∧ goes ready ref1 0x0311 1 = true ∧
    goes (withNode 4 ready) ref1 0x0311 1 = true ∧ goes ready ref1 0x0312 1 = true ∧ goes (withNode 4 ready) ref1 0x0312 1 = true := by decide
theorem wit_node_forced : forced herdA 2 = true ∧ forced herdA 3 = true ∧ herdA.hint = 2 ∧ forced herdA 0 = false ∧ forced herdA 1 = false ∧
    (withNode 4 ready).herd.anns = [] ∧ signedOf 4 (nodeX 4).herd.pwr - 0 + herdA.power = -3 := by decide
theorem wit_node_profile : forced herdP 0 = true ∧ herdP.rung ≤ 7 ∧ usable (withNode 4 (laddered ready)) (nodeX 4) (nodeChans (withNode 4 (laddered ready)) (nodeX 4)) herdP.rung = true ∧
    forced herdP 1 = true ∧ setValid (withNode 4 (laddered ready)) (herdP.drop.toNat % 16) = true := by decide
theorem wit_hctl : bar0 ready = true ∧ ready.pwr.preparing = false ∧ jwrDrops ready = false ∧ (modeBreach ready 1 0 0 0).isSome = true ∧
    modeBreach ready 0 1 2 2 = none := by decide
theorem wit_sixp_timeout : coreRuns (sixpOpen ready) = true ∧ ∃ x, (sixpOpen ready).herd.sixp.find? (fun y => y.node == 4) = some x ∧ x.ackAt = some 3 :=
  ⟨by decide, _, rfl, by decide⟩
theorem wit_overrun : coreRuns ready = true := by decide
theorem wit_readmit : coreRuns (herdOn (withDrop 4 ready)) = true ∧ deciding (herdOn (withDrop 4 ready)) = true ∧
    asnNow (herdOn (withDrop 4 ready)) % 65536 = 4 % 65536 ∧
    ∃ n, nodeAt (herdOn (withDrop 4 ready)) 4 = some n ∧ n.herd.drop ≠ 0 ∧
      (((herdOn (withDrop 4 ready)).regF 0x92008 31 16 * 60_000_000_000 : Nat) : Int) ≤
        (((asnNow (herdOn (withDrop 4 ready)) / 256 + 2 ^ 24 - n.herd.dropasn) % 2 ^ 24 : Nat) - 1 : Int) * 256 *
          ((herdOn (withDrop 4 ready)).time.l : Int) :=
  ⟨by decide, by decide, by decide, _, rfl, by decide, by decide⟩
theorem wit_readmit_none : coreRuns (herdOn (withNode 4 (atFour ready))) = true ∧ deciding (herdOn (withNode 4 (atFour ready))) = true ∧
    asnNow (herdOn (withNode 4 (atFour ready))) % 65536 = 4 % 65536 ∧ (nodeAt (herdOn (withNode 4 (atFour ready))) 4) = some (nodeX 4) ∧
    (nodeX 4).herd.drop = 0 := by decide

/-! NodeTable -/
theorem wit_insert : goes ready ref1 0x0401 1 = true ∧ insA.cls < 8 ∧ insA.cell = none ∧ findEui ready insA.eui = none ∧
    freeWay ready.tbl.nodes (hash0 insA.eui) = some 0 := by decide
theorem wit_insert_any : ∃ p, placeFor ready insA.eui = some p ∧
    insA.cell.bind (fun c => insertCellBad (placed (admitCmd ref1 0x0401 1 24 (.nodeInsert insA) ready) p insA) c p.idx) = none := ⟨_, rfl, rfl⟩
theorem wit_insert_cell : goes (withSf0 ready) ref1 0x0401 1 = true ∧ insC.cls < 8 ∧ findEui (withSf0 ready) insC.eui = none ∧
    ∃ p, placeFor (withSf0 ready) insC.eui = some p ∧
      insC.cell.bind (fun c => insertCellBad (placed (admitCmd ref1 0x0401 1 24 (.nodeInsert insC) (withSf0 ready)) p insC) c p.idx) = none :=
  ⟨by decide, by decide, by decide, _, rfl, by decide +kernel⟩
theorem wit_insert_again : goes (withNode 4 ready) ref1 0x0401 1 = true ∧ (findEui (withNode 4 ready) insA.eui).isSome = true := by decide
theorem wit_remove : goes (withNode 4 ready) ref1 0x0402 1 = true ∧
    (nodeAt (withNode 4 ready) 4).map Node.eui = some insA.eui ∧ (nodeAt ready 4).map Node.eui ≠ some 0 ∧ goes ready ref1 0x0402 1 = true := by decide
theorem wit_node_read : goes (withNode 4 ready) ref1 0x0403 1 = true ∧ (entryAt (withNode 4 ready) 4).isSome = true ∧
    (findEui (withNode 4 ready) insA.eui).isSome = true ∧ goes ready ref1 0x0403 1 = true ∧ findEui ready 77 = none ∧ entryAt ready 4 = none := by decide

/-! TwoCandidatePlacement -/
theorem wit_place : ∃ p, placeFor State.reset 1 = some p ∧ p.moves = [] := ⟨_, rfl, rfl⟩

/-! NodeUpkeep -/
theorem wit_ageing : coreRuns (ageOn ready) = true ∧ (ageOn ready).time.running = true ∧ (ageOn ready).regB 0xB0004 31 = true ∧
    (ageOn ready).tbl.ageAsn ≠ some (asnNow (ageOn ready)) ∧ (aged ready).tbl.ageAsn = some (asnNow (aged ready)) := by decide
theorem wit_silent : coreRuns (quiet 4 ready) = true ∧ (quiet 4 ready).time.running = true ∧ ∃ n ∈ overdue (quiet 4 ready), n.idx = 4 :=
  ⟨by decide, by decide, _, List.mem_of_find?_eq_some (p := fun n => n.idx == 4) rfl, rfl⟩
theorem wit_parent : coreRuns (childless 4 ready) = true ∧ (childless 4 ready).time.running = true ∧ ∃ n, entryAt (childless 4 ready) 4 = some n ∧
    n.parent ≠ noParent ∧ n.pnoexp = false ∧ (asn32 (childless 4 ready) + 2 ^ 32 - n.pexp) % 2 ^ 32 < 2 ^ 31 :=
  ⟨by decide, by decide, _, rfl, by decide, by decide, by decide⟩
theorem wit_parent_later : ∃ n, entryAt (parentLater 4 ready) 4 = some n ∧ 2 ^ 31 ≤ (asn32 (parentLater 4 ready) + 2 ^ 32 - n.pexp) % 2 ^ 32 := ⟨_, rfl, by decide⟩

/-! PrefixMemory -/
theorem wit_prefix : goes ready ref1 0x0410 1 = true ∧ pfxBadArgs 0 0 = false ∧ bitsOf 0x1000 15 12 ≤ 4 ∧ ready.tbl.pfx.length < 8192 ∧
    128 < (129 : Nat) ∧ goes ready ref1 0x0411 1 = true ∧ ∀ p ∈ ready.tbl.pfx, ¬(p.key = 0 ∧ p.len = 0) := by decide
theorem wit_prefix_order : (∃ p ∈ (withPfx ready).tbl.pfx, p.key = 0 ∧ p.len = 0) ∧ (withPfx ready).tbl.pfx.Pairwise (fun a b => b.len < a.len ∨ (b.len = a.len ∧ a.key < b.key)) := by decide
theorem wit_prefix_remove : goes (withPfx ready) ref1 0x0411 1 = true ∧ ∃ p ∈ (withPfx ready).tbl.pfx, p.key = 0 ∧ p.len = 0 := by decide
theorem wit_route : (withPfx ready).tbl.pfx.Pairwise (fun a b => b.len ≤ a.len) ∧ (⟨0, 0, 0x1000⟩ : Pfx) ∈ (withPfx ready).tbl.pfx ∧
    (⟨0, 0, 0x1000⟩ : Pfx).matches_ 5 = true ∧ (∀ q ∈ (withPfx ready).tbl.pfx, q.matches_ 5 = true → q ≠ ⟨0, 0, 0x1000⟩ → q.len < 0) ∧
    (withPfx ready).tbl.pfxBad.contains (0, 0) = false := by decide

/-! FramesSent -/
theorem wit_pkt : goes (rooted ready) ref1 0x0501 1 = true ∧ 40 ≤ pktA.length ∧ pktA.length ≤ 1500 ∧ ipVersion pktA = 6 ∧ ipPayLen pktA = pktA.length - 40 := by decide +kernel
theorem wit_pkt_linked : ∃ n k u, downlink (some ref1) pktA (admitCmd ref1 0x0501 1 (16 + pktA.length) (.pktSend pktA) (rooted ready)) = .linked n k u := by
  have h : (match downlink (some ref1) pktA (admitCmd ref1 0x0501 1 (16 + pktA.length) (.pktSend pktA) (rooted ready)) with | .linked _ _ _ => true | _ => false) = true := by decide +kernel
  split at h <;> first | exact ⟨_, _, _, by assumption⟩ | exact absurd h (by decide)
theorem wit_pkt_none : goes ready ref1 0x0501 1 = true ∧ ready.offline 7 = false ∧ nodeOfAddr ready (ipDst pktA) = none := by decide +kernel
theorem wit_pkt_len : (zeros 1501).length > 1500 ∧ (zeros 39).length < 40 := by decide +kernel
theorem wit_bcast : goes (profiled ready) ref1 0x0502 1 = true ∧ 40 ≤ bcastA.length ∧ bcastA.length ≤ 1500 ∧ ipVersion bcastA = 6 ∧
    ipPayLen bcastA = bcastA.length - 40 ∧ isMulticast (ipDst bcastA) = true ∧ (profiled ready).offline 7 = false ∧
    bcastLen (profiled ready) (profAt (profiled ready).act 0) (bcastPayload (profiled ready) bcastA) ≤
      Prof.maxPsdu (profAt (profiled ready).act 0) := by decide +kernel
theorem wit_bcast_unicast : isMulticast (ipDst pktA) = false ∧ goes ready ref1 0x0502 1 = true := by decide +kernel

/-! ImageSessions -/
theorem wit_img_open : goes (profiled ready) ref1 0x0520 1 = true ∧ imgA.session ≤ 1 ∧ imgA.profile ≤ 31 ∧ 0 < imgA.size ∧ imgA.size ≤ 4_194_304 ∧
    64 ≤ imgA.sym ∧ imgA.sym ≤ 1024 ∧ imgA.sym % 4 = 0 ∧ sessAt (profiled ready) imgA.session = none ∧
    imgLen (profiled ready) (profAt (profiled ready).act 0) imgA ≤ Prof.maxPsdu (profAt (profiled ready).act 0) ∧
    imgCellsUsed (profiled ready) + imgCells imgA.size ≤ 16384 ∧ (66 : Nat) % 4 ≠ 0 := by decide +kernel
theorem wit_img_load : goes (imgOpenS 0 ready) ref1 0x0521 1 = true ∧ [(7 : Octet)] ≠ [] ∧ [(7 : Octet)].length ≤ 65536 ∧
    sessAt (imgOpenS 0 ready) 0 = some (imgX 0) ∧ (imgX 0).loaded + 1 ≤ (imgX 0).f ∧ 5 ≠ (imgX 0).loaded := by decide
theorem wit_img_send : goes (imgOpenS 64 ready) ref1 0x0522 1 = true ∧ sessAt (imgOpenS 64 ready) 0 = some (imgX 64) ∧
    (imgX 64).loaded = (imgX 64).f ∧ 0 < (imgX 64).z ∧ 300_000_000 ≤ rqLag (imgOpenS 64 ready) * (imgOpenS 64 ready).time.l ∧
    sessAt ready 1 = none ∧ goes ready ref1 0x0522 1 = true := by decide
theorem wit_img_esi : 0 + 1 - 1 ≤ (imgX 64).esiMax 0 := Nat.zero_le _
theorem wit_img_link : coreRuns (imgDue ready) = true ∧ (imgDue ready).time.running = true ∧ (imgDue ready).adp.rq = [⟨ref1, 0, 0, 0, 1, 0⟩] ∧
    0 ≤ asnNow (imgDue ready) ∧ ∀ q ∈ ready.adp.rq, asnNow ready < q.asn := by decide
theorem wit_img_close : goes (imgOpenS 0 ready) ref1 0x0523 1 = true ∧ imgBusy (imgOpenS 0 ready) 0 = false ∧
    sessAt (imgOpenS 0 ready) 0 = some (imgX 0) ∧ goes (imgDue (imgOpenS 64 ready)) ref1 0x0523 1 = true ∧
    imgBusy (imgDue (imgOpenS 64 ready)) 0 = true ∧ sessAt (imgDue (imgOpenS 64 ready)) 0 = some (imgX 64) := by decide

/-! SecurityGate -/
theorem wit_gate_state : goes (mission ready) ref1 0x060A 1 = true ∧ lcPermits (lcState (mission ready)) 0x060A = false := by decide
theorem wit_gate_lock : goes (locked ready) ref1 0x0602 1 = true ∧ lcPermits (lcState (locked ready)) 0x0602 = true ∧
    (locked ready).sec.tlock = true := by decide

/-! VaultAndSwitch -/
theorem wit_import : goes (rooted2 ready) ref1 0x0603 1 = true ∧ ref1.asn = 0 ∧ lcPermits (lcState (rooted2 ready)) 0x0603 = true ∧
    (rooted2 ready).sec.tlock = false ∧ (rooted2 ready).pair.st ≠ .replay ∧ (curSlot (rooted2 ready)).valid = false ∧
    (rooted2 ready).sec.cur < (rooted2 ready).sec.slots.length := by decide
theorem wit_import_checks : ∀ x ∈ importChecks (rooted2 ready) (blobOf (rooted2 ready).sec 5) 0 0, x.1 = false :=
  blobOf_passes _ _ 5 rfl rfl
theorem wit_import_place : (placement (rooted2 ready) (blobGen (blobOf (rooted2 ready).sec 5)) ref1.asn).1 ≠ .refused := by
  have h : placement (rooted2 ready) (blobGen (blobOf (rooted2 ready).sec 5)) ref1.asn = (.current, false) := rfl
  rw [h]; decide
theorem wit_import_replay : goes (replayUp (rooted2 ready)) ref1 0x0603 1 = true ∧ (replayUp (rooted2 ready)).pair.st = .replay ∧
    lcPermits (lcState (replayUp (rooted2 ready))) 0x0603 = true ∧ (replayUp (rooted2 ready)).sec.tlock = false ∧
    ((replayUp (rooted2 ready)).pair.store.filter (fun e => e.1 != 5)).length < 8 := by decide
theorem wit_replay_checks : ∀ x ∈ importChecks (replayUp (rooted2 ready)) (blobOf (rooted2 ready).sec 5) 0 0, x.1 = false :=
  blobOf_passes _ _ 5 rfl rfl
theorem wit_switch : goes (keyed ready) ref1at 0x0604 1 = true ∧ lcPermits (lcState (keyed ready)) 0x0604 = true ∧
    (keyed ready).sec.tlock = false ∧ (keyed ready).time.loaded = true ∧
    tooSoon (keyed ready) ref1at.asn = false ∧ nextReady (keyed ready) = true ∧ (keyed ready).sec.sw = none := by decide
theorem wit_take : coreRuns (switching 0 ready) = true ∧ (switching 0 ready).sec.sw = some 0 ∧ 0 ≤ asnNow (switching 0 ready) ∧
    (switching 0 ready).sec.cur < 2 ∧ (switching 0 ready).sec.slots.length = 2 ∧ (switching 9999 ready).sec.sw = some 9999 ∧ asnNow (switching 9999 ready) < 9999 := by decide
theorem wit_clear : goes (keyed ready) ref1 0x0605 1 = true ∧ lcPermits (lcState (keyed ready)) 0x0605 = true ∧
    (keyed ready).sec.tlock = false ∧ (keyed ready).sec.sw = none ∧ (keyed ready).sec.slots.length = 2 ∧
    (keyed ready).sec.cur < 2 ∧ (switching 0 ready).sec.sw = some 0 ∧ goes (switching 0 ready) ref1 0x0605 1 = true := by decide

/-! FrameCounter -/
theorem wit_draw : fcReason (counting ready) = none ∧ (counting ready).sec.fcNext = 2 ^ 19 - 1 := by decide
theorem wit_ack : goes (counting ready) ref1 0x0606 1 = true ∧ lcPermits (lcState (counting ready)) 0x0606 = true ∧
    (counting ready).sec.tlock = false ∧ (curSlot (counting ready)).valid = true ∧
    0 ≤ (counting ready).sec.fcRes ∧ 77 ≠ curGen (counting ready) := by decide
theorem wit_restore : goes (counting ready) ref1 0x0607 1 = true ∧ lcPermits (lcState (counting ready)) 0x0607 = true ∧
    (counting ready).sec.tlock = false ∧ (curSlot (counting ready)).valid = true ∧ 4095 ≤ 4095 ∧
    (counting ready).sec.fcNext / 2 ^ 20 < 4095 ∧ (counting ready).sec.fcValid = true ∧
    0 ≤ (counting ready).sec.fcNext / 2 ^ 20 ∧ 4095 < (4096 : Nat) := by decide

/-! LifeCycle -/
theorem wit_advance : goes (fusable ready) ref1 0x0608 1 = true ∧ lcPermits (lcState (fusable ready)) 0x0608 = true ∧
    (fusable ready).sec.tlock = false ∧ mayAdvance (lcState (fusable ready)) 2 = true ∧
    mayAdvance (lcState (fusable ready)) 3 = false ∧ allInactive (fusable ready) = true ∧ (fusable ready).sec.vfuseOk = true := by decide
theorem wit_rma : goes (mission ready) ref1 0x0608 1 = true ∧ lcPermits (lcState (mission ready)) 0x0608 = true ∧ mayAdvance (lcState (mission ready)) 3 = true ∧
    allInactive (mission ready) = true ∧ (mission ready).sec.vfuseOk = true ∧ (mission ready).sec.tlock = false := by decide
theorem wit_fuse : goes (fusable ready) ref1 0x060A 1 = true ∧ lcPermits (lcState (fusable ready)) 0x060A = true ∧
    (fusable ready).sec.ownerId = 0 ∧ (fusable ready).sec.ownerTamp = 0 := by decide
theorem wit_patch : goes (mission ready) ref1 0x060B 1 = true ∧ lcPermits (lcState (mission ready)) 0x060B = true ∧ patchForm patchA = true := by decide
theorem wit_identity : goes ready ref1 0x0601 1 = true := by decide
theorem wit_attest : goes (rooted2 ready) ref1 0x0602 1 = true ∧ lcPermits (lcState (rooted2 ready)) 0x0602 = true ∧
    (rooted2 ready).sec.tlock = false ∧ (rooted2 ready).sec.rootOk = true ∧ (agreed (rooted2 ready)).pair.agree.isSome = true ∧
    goes (agreed (rooted2 ready)) ref1 0x0602 1 = true := by decide
theorem wit_tamper_ack : goes (locked ready) ref1 0x0609 1 = true ∧ tampQuiet (locked ready) = true ∧
    (locked ready).sec.tlock = true ∧ goes (alarmed ready) ref1 0x0609 1 = true ∧ tampQuiet (alarmed ready) = false := by decide
theorem wit_alarm : tampShows (meshOn ready) (.mesh 2) = true ∧ tampEnabled (meshOn ready) (tampBit (.mesh 2)) = true ∧ (meshOn ready).pwr.st = .run ∧
    tampEnabled ready (tampBit (.mesh 2)) = false ∧ tampShows ready (.mesh 1) = false := by decide

/-! CipherEngine -/
theorem wit_cipher : goes ready ref1 0x0610 (if cipherStreams cipA then 2 else 1) = true ∧ cipA.ksrc = 0 ∧ ready.sec.tlock = false ∧ cipherForm cipA = true ∧
    ready.pair.st ≠ .replay ∧ ready.pair.rpNext = none ∧ cipA.aadLen ≤ (cipherLimits cipA.mode).1 ∧ cipA.inLen ≤ (cipherLimits cipA.mode).2 ∧
    cipherForm { cipA with tagLen := 5 } = false := by decide
theorem wit_cipher_node : goes (withNode 4 (rooted2 (keyed ready))) ref1 0x0610 (if cipherStreams cipN then 2 else 1) = true ∧ cipN.ksrc = 1 ∧
    lcState (withNode 4 (rooted2 (keyed ready))) ≠ 4 ∧ cipherForm cipN = true ∧ (nodeAt (withNode 4 (rooted2 (keyed ready))) cipN.karg).isSome = true ∧
    (withNode 4 (rooted2 (keyed ready))).sec.rootOk = true ∧ (cipherSlot (withNode 4 (rooted2 (keyed ready))) cipN).valid = true := by decide
theorem wit_cipher_len : goes ready ref1 0x0610 (if cipherStreams { cipA with input := zeros 2048 } then 2 else 1) = true ∧
    cipherForm { cipA with input := zeros 2048 } = true ∧ (cipherLimits cipA.mode).2 < ({ cipA with input := zeros 2048 } : CipherArgs).inLen := by decide +kernel
theorem wit_cipher_start : ready.pair.exec = false ∧ ready.pair.link = false ∧ ready.pair.follows = false := by decide
theorem wit_cipher_done : (cipherOn ready).up = true ∧ (cipherOn ready).sec.ops = [⟨ref1, cipA, false, zeros 16⟩] ∧ cipA.mode ≠ 2 ∧ cipA.mode = 0 ∧ cipA.outOk = true ∧
    ({ cipA with outOk := false } : CipherArgs).outOk = false := by decide
theorem wit_cipher_fails : (cipherRun ⟨ref1, cipA, false, zeros 16⟩).2.2 = false := by decide +kernel

/-! PowerChanges -/
theorem wit_enter : goes (retained ready) ref1at 0x0701 1 = true ∧ pwrTarget 2 ≠ (retained ready).pwr.st ∧ needsTime (retained ready) ref1at.asn = false ∧
    tooSoon (retained ready) ref1at.asn = false ∧ retainBad (retained ready) = false ∧ pwrRefusal (retained ready) ref1at .keep = none ∧
    pwrTarget 0 = (retained ready).pwr.st ∧ (3 : Nat) > 2 := by decide
theorem wit_enter_refused : goes (imgOpenS 0 (retained ready)) ref1at 0x0701 1 = true ∧
    retainBad (imgOpenS 0 (retained ready)) = false ∧ pwrRefusal (imgOpenS 0 (retained ready)) ref1at .keep = some (7, 0x0111) := by decide
theorem wit_commit : (committing .keep 0 ready).up = true ∧ (committing .keep 0 ready).pwr.commit = some ⟨ref1, .keep, 0, 5⟩ ∧
    0 ≤ nowFor (committing .keep 0 ready) ∧ (committing .watch 0 ready).up = true ∧ (committing .watch 0 ready).pwr.commit = some ⟨ref1, .watch, 0, 5⟩ ∧
    0 ≤ nowFor (committing .watch 0 ready) ∧ (committing .run 0 ready).up = true ∧ (committing .run 0 ready).pwr.commit = some ⟨ref1, .run, 0, 5⟩ ∧
    0 ≤ nowFor (committing .run 0 ready) ∧ (committing .keep 9999 ready).pwr.commit = some ⟨ref1, .keep, 9999, 5⟩ ∧
    nowFor (committing .keep 9999 ready) < 9999 ∧ ready.up = true ∧ ready.pwr.commit = none := by decide

/-! ResetsAndBoot -/
theorem wit_words_por : State.reset.wordsOk = true ∧ (0 : Nat) ≠ 0x10020 := by decide
theorem wit_main : ready.pwr.st = .run ∧ ready.pwr.bank = none ∧ alwaysOn 0xC = false ∧ alwaysOn 0x10024 = true ∧ (asleep ready).pwr.st = .keep ∧
    State.reset.pwr.st = .off ∧ bar0 ready = true ∧ (0 : Word) ≠ resetKey ∧ ready.pwr.phase ≠ 0 ∧ (∀ a ∈ ready.sec.alarmAt, a.2 ≤ ready.time.tb) := by decide
theorem wit_bank : (pwr (fun p => { p with bank := some (bankOf ready) }) ready).pwr.bank = some (bankOf ready) := rfl
theorem wit_standing : ∃ a ∈ (warned State.reset).sec.alarmAt, (warned State.reset).time.tb < a.2 ∧ (warned State.reset).regB 0xC0040 a.1 = true := by decide

/-! KeepAndWake -/
theorem wit_timer : (asleep ready).pwr.st = .keep ∧ (asleep ready).pwr.waking = none ∧ (asleep ready).pwr.wakeAfter ≠ 0 ∧
    (asleep ready).regB 0x10024 0 = true ∧ ready.pwr.wakeAfter = 0 ∧ ready.pwr.st ≠ .keep := by decide
theorem wit_wake : (waking ready).pwr.st = .keep ∧ (waking ready).pwr.waking = some 1 ∧ (waking ready).pwr.kept = false ∧ ready.pwr.waking = none := by decide

/-! PairJoining -/
theorem wit_join : goes (paired .solo ready) ref1 0x0801 1 = true ∧ joinState (paired .solo ready) 1 = false ∧ joinState (paired .solo ready) 0 = false ∧
    (paired .solo ready).pair.join = none ∧ (paired .solo ready).pair.link = true ∧ (paired .solo ready).pair.peer = none ∧
    goes ready ref1 0x0801 1 = true ∧ joinState ready 1 = false ∧ ready.pair.join = none ∧ ready.pair.link = false ∧
    goes (paired .active ready) ref1 0x0801 1 = true ∧ joinState (paired .active ready) 1 = true := by decide
theorem wit_join_peer : goes (metPeer 0 ready) ref1 0x0801 1 = true ∧ (metPeer 0 ready).pair.peer = some (ident0 0) ∧ (ident0 0).role = 1 - 1 ∧
    joinState (metPeer 0 ready) 1 = false ∧ (metPeer 0 ready).pair.link = true ∧ (metPeer 0 ready).pair.join = none ∧
    joinCheck (metPeer 0 ready) (ident0 0) = none ∧ joinState (metPeer 1 ready) 0 = false ∧ (ident0 1).role = 1 - 0 ∧
    joinCheck (metPeer 1 ready) (ident0 1) = none ∧ joinCheck (metPeer 1 ready) { ident0 1 with rev := 9 } = some 0x0111 := by decide
theorem wit_copy : (paired .joinCopy ready).pair.st = .joinCopy ∧ (paired .joinCopy ready).pair.wait = false ∧ (paired .joinCopy ready).up = true ∧
    joining (paired .joinCopy ready) = true := by decide
theorem wit_record : (paired .standbySynced ready).up = true ∧ (paired .standbySynced ready).pair.link = true ∧ (paired .standbySynced ready).pair.st = .standbySynced ∧
    recCrcOk (jrecOk 4) = true ∧ (∀ x, (paired .standbySynced ready).pair.backlog.getLast? = some x → (jrecOk 4).seq = x.seq + 1) ∧
    (backlogged ready).pair.backlog.getLast? = some (jrec 5) ∧ (jrec 4).seq ≠ (jrec 5).seq + 1 := by
  refine ⟨by decide, by decide, by decide, by decide +kernel, ?_, by decide, by decide⟩
  intro x h; rw [show (paired .standbySynced ready).pair.backlog.getLast? = none from rfl] at h; cases h
theorem wit_slot_run : (backlogged ready).up = true ∧ (backlogged ready).pair.wait = false ∧ (backlogged ready).pair.follows = true ∧
    nextSlotRecs ((backlogged ready).pair.st == .takeover || (backlogged ready).pair.drillB.isSome) (backlogged ready).pair.backlog = some ([jrec 4], [jrec 5]) ∧
    nextSlotRecs (ready.pair.st == .takeover || ready.pair.drillB.isSome) ready.pair.backlog = none := by decide
theorem wit_join_open : (pair (fun p => { p with join := some (ref1, 1) }) ready).up = true ∧
    joining (pair (fun p => { p with join := some (ref1, 1) }) ready) = false := by decide
theorem wit_rejoin : (diverged ready).pair.divergedAt = some 5 ∧ (diverged ready).up = true ∧ (diverged ready).pair.st = .diverged ∧
    (diverged ready).regB 0x110004 1 = true ∧ (diverged ready).pair.peerOk = true ∧ (diverged ready).pair.link = true ∧ (diverged ready).pair.rejoinAt = none := by decide
theorem wit_link : ready.up = true ∧ ready.pair.link = false ∧ ready.offline 13 = false ∧ (drillOk ready).up = true ∧ (drillOk ready).pair.link = true ∧
    (drillOk ready).pair.st = .active ∧ (paired .joinCopy ready).pair.link = true ∧ (paired .joinCopy ready).pair.tagFails < 15 := by decide
theorem wit_solo : goes (ring15 (diverged ready)) ref15 0x0804 1 = true ∧ (ring15 (diverged ready)).pair.st = .diverged ∧ (diverged ready).pair.st = .diverged ∧ goes ready ref1 0x0804 1 = true ∧
    ready.pair.st ≠ .diverged ∧ ready.pair.wait = false := by decide

/-! PairTakeover -/
theorem wit_hb : (paired .standbySynced ready).up = true ∧ (paired .standbySynced ready).pair.link = true ∧ (paired .standbySynced ready).pair.leads = false ∧
    (paired .standbySynced ready).pair.st = .standbySynced ∧
    3 ≤ (hbLost ready).pair.hbMiss ∧ (hbLost ready).pair.st = .standbySynced ∧ (hbLost ready).regB 0x110004 0 = true ∧ (hbLost ready).up = true ∧
    ready.pair.hbMiss < 3 ∧ ready.up = true ∧ ready.pair.st ≠ .standbySynced ∧ ready.pair.st ≠ .active := by decide
theorem wit_hb_join : (pair (fun p => { p with hbMiss := 3 }) (paired .joinCopy ready)).up = true ∧
    joining (pair (fun p => { p with hbMiss := 3 }) (paired .joinCopy ready)) = true ∧ (paired .joinCopy ready).pair.link = true := by decide
theorem wit_active : (paired .active ready).up = true ∧ (paired .active ready).pair.link = true ∧ (paired .active ready).pair.st = .active ∧
    (paired .active ready).pair.join = none ∧ (ackLost ready).pair.peerOk = true ∧ 3 ≤ (ackLost ready).pair.ackMiss ∧ (ackLost ready).pair.st = .active ∧
    (ackLost ready).up = true ∧ (pair (fun p => { p with join := some (ref1, 0) }) (paired .active ready)).pair.st = .active := by decide
theorem wit_takeover : goes (ring15 (paired .standbySynced ready)) ref15 0x0802 1 = true ∧ (ring15 (paired .standbySynced ready)).pair.st = .standbySynced ∧
    goes ready ref1 0x0802 1 = true ∧ ready.pair.st ≠ .standbySynced ∧
    (paired .takeover ready).up = true ∧ (paired .takeover ready).pair.backlog = [] ∧ (paired .takeover ready).time.loaded = true ∧
    (paired .takeover ready).time.epochSet = true ∧ (backlogged ready).pair.backlog ≠ [] := by decide
theorem wit_drill : goes (drillOk (withSf0 ready)) ref1 0x0803 1 = true ∧ (drillOk (withSf0 ready)).pair.st = .active ∧
    (drillOk (withSf0 ready)).pair.peerOk = true ∧ (drillOk (withSf0 ready)).pair.drill = none ∧
    (sfActive (drillOk (withSf0 ready)) 0).isSome = true ∧ (sfActive (drillOk (withSf0 ready)) 1).isNone = true ∧
    goes ready ref1 0x0803 1 = true ∧ ready.pair.st ≠ .active := by decide
theorem wit_drill_boundary : (drillAt (withSf0 ready)).up = true ∧ (drillAt (withSf0 ready)).pair.st = .active ∧ (drillAt (withSf0 ready)).time.lastAsn = some 400 ∧
    drillDue (drillAt (withSf0 ready)) 400 = true := by decide
theorem wit_drill_activate : (drillStandby ready).up = true ∧ (drillStandby ready).pair.st = .standbySynced ∧ (drillStandby ready).pair.drillB = some 400 ∧
    (drillStandby ready).pair.backlog = [] ∧ (drillStandby ready).pair.lastSlot ≤ 400 := by decide

/-! JournalAndReplay -/
theorem wit_journal_ctl : goes (ring8 ready) ref1 0x0810 1 = true ∧ ringEn (ring8 ready) (dlvCtl 8) = true ∧ goes ready ref1 0x0810 1 = true ∧
    ringEn ready (dlvCtl 8) = false ∧ goes ready ref1 0x0811 1 = true ∧ goes (staged ready) ref1 0x0811 1 = true ∧
    ringEn (staged ready) (dlvCtl 8) = true ∧ (staged ready).jrn.dump = none := by decide
theorem wit_digest : coreRuns (owing 3 ready) = true ∧ jrnWrites (owing 3 ready) = true ∧
    (owing 3 ready).jrn.owed.find? (fun o => digestDue (owing 3 ready) o.1 o.2.1) = some (1, 3, []) ∧
    (∀ o ∈ (owing 9999 ready).jrn.owed, asnNow (owing 9999 ready) < o.2.1) := by decide
theorem wit_replay : goes (idle0 ready) ref1 0x0812 1 = true ∧ (idle0 ready).pair.st = .solo ∧
    (∀ p ∈ (idle0 ready).rf.ports, p.st = .off) ∧ allInactive (idle0 ready) = true ∧ (idle0 ready).jrn.started = false ∧
    goes (withSf0 ready) ref1 0x0812 1 = true ∧ allInactive (withSf0 ready) = false := by decide
theorem wit_feed : goes (paired .replay ready) ref1 0x0813 1 = true ∧ (paired .replay ready).pair.st = .replay ∧ zeros 32 ≠ [] ∧ (zeros 32).length ≤ 65536 ∧
    goes ready ref1 0x0813 1 = true ∧ ready.pair.st ≠ .replay := by decide

/-! RegisterAccess -/
theorem wit_write : bar0 State.reset = false ∧ bar0 ready = true ∧ (2 : Nat) ≠ 4 ∧ ready.pwr.preparing = false ∧
    ready.wordsOk = true ∧ jwrDrops ready = false ∧ jwrDrops (paired .standbySynced ready) = true ∧ bar0 (paired .standbySynced ready) = true ∧
    (paired .standbySynced ready).pwr.preparing = false ∧ bar0 (committing .keep 1 ready) = true ∧ (committing .keep 1 ready).pwr.preparing = true ∧
    contained 0 4 = true ∧ contained 2 4 = false ∧ ringExists (.cmd 15) = true ∧ ringExists (.cpl 15) = true ∧ ringExists (.dlv 9) = true := by decide
theorem wit_unmapped : (0x3000 : Nat) % 4 = 0 ∧ regRow 0x3000 = none ∧ activeOf 0x3000 = none ∧ ringAtCtl 0x3000 = none ∧
    regRow 0x68000 = none ∧ (activeOf 0x68020).isSome = true ∧ regRow 0x68020 = none ∧ ringAtCtl 0x68020 = none := by decide
/-- A journaled register, one that is not, and what holds them back. -/
theorem wit_rw : ∃ r, regRow 0xB000C = some r ∧ r.acc = .rw ∧ r.jrn = true ∧ ringAtCtl 0xB000C = none ∧
    (isTemplate 0xB000C && !allInactive ready) = false ∧ isHgroup 0xB000C = false ∧ ringOfReg 0xB000C = none ∧ (0xB000C : Nat) % 4 = 0 := ⟨_, rfl, rfl, rfl, by decide⟩
theorem wit_rw_hook : ∀ (old w : Word) (x : State), regHook 0xB000C old w x = x := by
  intro old w x
  simp [regHook]
theorem wit_rw_plain : ∃ r, regRow 0x14 = some r ∧ r.acc = .rw ∧ r.jrn = false ∧ ringAtCtl 0x14 = none ∧ (isHgroup 0xB000C && groupHeld ready) = false ∧
    ringHeld ready 0xB000C = false ∧ tampHeld ready 0xB000C 0 = false := ⟨_, rfl, rfl, rfl, by decide⟩
theorem wit_rc : ∃ r, regRow 0xB0010 = some r ∧ r.acc = .rc ∧ r.acc ≠ .rw := ⟨_, rfl, rfl, by decide⟩
theorem wit_ro : ∃ r, regRow 0xB000C = some r ∧ r.acc ≠ .rc := ⟨_, rfl, by decide⟩
theorem wit_latch : cellsWf (latchReset ready) ready.latch = true ∧ isPairLo 0x30058 = true ∧ isPairLo 0x11006C = true ∧
    (bar0 ready && contained 3 2) = false ∧ (bar0 State.reset && contained 0 4) = false := by decide

/-! DiscardedWritesSetAFlag -/
theorem wit_discarded : bar0 ready = true ∧ ready.wordsOk = true ∧ (0x3002 : Nat) < 2 ^ 21 ∧ (2 : Nat) ≠ 4 ∧ (0x3002 : Nat) % 4 ≠ 0 ∧ (0x3000 : Nat) % 4 = 0 ∧
    regRow 0x3000 = none ∧ activeOf 0x3000 = none ∧ (0x1FFFFC : Nat) < 2 ^ 21 ∧ (0x1FFFFC : Nat) % 4 = 0 ∧ regRow 0x1FFFFC = none ∧ activeOf 0x1FFFFC = none := by decide

/-! RegisterRows -/
theorem wit_rows : bar0 (idle0 ready) = true ∧ (idle0 ready).pwr.preparing = false ∧ jwrDrops (idle0 ready) = false ∧ (idle0 ready).jrn.started = false ∧
    ready.jrn.started = true ∧ bar0 ready = true ∧ ready.pwr.preparing = false ∧ jwrDrops ready = false ∧ ctlJournaled (.cpl 3) = true ∧
    (offline5 ready).err.offline.filter (fun u => bitOf (0x20 : Word).toNat u && !(offline5 ready).err.restarting.contains u) = [5] ∧
    bar0 (offline5 ready) = true ∧ (offline5 ready).pwr.preparing = false ∧ jwrDrops (offline5 ready) = false := by decide
theorem wit_ring_on : ringEn ready (RingSel.ctl (.cpl 3)) = false ∧ ringEn ready (RingSel.ctl (.cpl 0)) = true ∧
    bitOf ((0x80080000 : Word) &&& BitVec.ofNat 32 (ctlMask (.cpl 3))).toNat 31 = true ∧
    enRefused (.cpl 3) ready ((0x80080000 : Word) &&& BitVec.ofNat 32 (ctlMask (.cpl 3))).toNat = false ∧
    enRefused (.cpl 3) ready ((0x80110000 : Word) &&& BitVec.ofNat 32 (ctlMask (.cpl 3))).toNat = true ∧
    ringEn ready (RingSel.ctl (.dlv 7)) = true ∧ bitOf ((0 : Word) &&& BitVec.ofNat 32 (ctlMask (.dlv 7))).toNat 31 = false ∧
    enRefused (.dlv 7) ready ((0 : Word) &&& BitVec.ofNat 32 (ctlMask (.dlv 7))).toNat = false ∧ ringExists (.cpl 3) = true := by decide

/-! DiagnosticsAndSnapshot -/
theorem wit_nop : goes ready ref1 0x0901 1 = true ∧ goes ready ref1 0x0101 1 = true ∧ goes ready ref1 0x0902 1 = true ∧ ready.pair.exec = false := by decide
theorem wit_iq : goes (iqReady ready) ref1 0x0902 1 = true ∧ 0 < (iqReady ready).time.l ∧ snapUnready ready 0 1 = true ∧
    snapUnready (iqReady ready) 0 1 = false ∧ (iqReady ready).snap = none ∧ ref1.asn = 0 ∧ ref1at.asn ≠ 0 ∧ goes (iqReady ready) ref1at 0x0902 1 = true ∧
    needsTime (iqReady ready) 600 = false ∧ (iqReady ready).time.tb ≤ (iqReady ready).time.at_ 600 + 0 ∧
    goes (iqPending (iqReady ready)) ref1 0x0902 1 = true ∧
    snapUnready (iqPending (iqReady ready)) 0 1 = false ∧ (iqPending (iqReady ready)).snap.isSome = true ∧
    (iqPending ready).up = true ∧ (iqPending ready).snap.isSome = true := by decide
theorem wit_iq_unlocked : goes (tim (fun t => { t with loaded := false }) (iqReady ready)) ref1at 0x0902 1 = true ∧
    needsTime (tim (fun t => { t with loaded := false }) (iqReady ready)) 600 = true ∧
    snapUnready (tim (fun t => { t with loaded := false }) (iqReady ready)) 0 1 = false := by decide
theorem wit_cfg_exec : ∃ s : State, goes s ref1 0x0101 1 = true ∧ s.pair.exec = true := ⟨pair (fun p => { p with exec := true }) ready, by decide⟩

/-! HostInterface -/
theorem wit_db : ready.hif.cring[1]? = some CRing.reset ∧ ringEn ready (cringCtl 1) = false ∧ (cmdOnly ready).hif.cring[0]?.isSome = true ∧
    ringEn (cmdOnly ready) (cringCtl 0) = true ∧ (3 : Word).toNat % 65536 < ringSize (cmdOnly ready) (cringCtl 0) ∧ readsRing (cmdOnly ready) 0 = false := by decide
theorem wit_db_cpl : (validated ready).hif.cpl[0]?.isSome = true ∧ ringEn (validated ready) (cplCtl 0) = true ∧
    (1 : Word).toNat % 65536 < ringSize (validated ready) (cplCtl 0) ∧ bitOf (1 : Word).toNat 31 = false ∧
    (∀ x ∈ (validated ready).hif.cpl[0]?, (1 + ringSize (validated ready) (cplCtl 0) - x.hostCi) % ringSize (validated ready) (cplCtl 0) ≤ validRun x.slots) := by decide
theorem wit_db_dlv : (delivered ready).hif.dring[7]?.isSome = true ∧ ringEn (delivered ready) (dlvCtl 7) = true ∧
    (1 : Word).toNat % 65536 < ringSize (delivered ready) (dlvCtl 7) ∧
    (∀ x ∈ (delivered ready).hif.dring[7]?, (1 + ringSize (delivered ready) (dlvCtl 7) - x.hostCi) % ringSize (delivered ready) (dlvCtl 7) ≤ x.out.length) := by decide
theorem wit_admit : (∀ x ∈ (fetched descA ready).hif.cring[0]?, x.fetched = [descA]) ∧ gateOf (fetched descA ready) 0 (dOp descA) (slotsNeeded descA) = .go ∧
    admCheck (fetched descA ready) descA = none ∧ (formOf (dOp descA)).bind (ownerCheck descA) = none := by decide +kernel
theorem wit_admit_bad : gateOf (fetched descB ready) 0 (dOp descB) (slotsNeeded descB) = .go ∧ admCheck (fetched descB ready) descB = none ∧
    (formOf (dOp descB)).bind (ownerCheck descB) = some 8 ∧ (∀ x ∈ ready.hif.cring[0]?, x.fetched = []) := by decide +kernel
theorem wit_deliver : (∀ x ∈ ready.hif.cpl[0]?, x.armed = false) ∧ ready.dma = true ∧ ready.pair.st = .solo ∧ ringEn ready (cplCtl 0) = true ∧
    (∀ x ∈ (queued ready).hif.dring[7]?, x.out.length + 1 < ringSize (queued ready) (dlvCtl 7)) ∧ ringEn (queued ready) (dlvCtl 7) = true ∧
    (queued ready).jrn.dump = none ∧ (queued ready).que.egress.getD (dlvQueue 7) [] = [⟨.record recA, []⟩] := by decide
theorem wit_interrupt : (∀ x ∈ (armed ready).hif.cpl[0]?, x.armed = true ∧ 0 < validRun x.slots ∧ modCnt ((armed ready).regN (0xE040C + 32 * 0)) ≤ validRun x.slots) ∧
    (armed ready).dma = true ∧ ringEn (armed ready) (cplCtl 0) = true := by decide
theorem wit_pcie : 4 ≤ ready.pwr.phase ∧ ready.hif.speed ≠ 0 ∧ ready.hif.width ≠ 0 ∧ State.reset.hif.speed = 0 := by decide
theorem wit_mirror : cplMirrored (validated ready) 0 = false ∧ cplMirrored (paired .standbySynced (validated ready)) 0 = true ∧
    ringEn (paired .standbySynced (validated ready)) (cplCtl 0) = true ∧ (paired .standbySynced (validated ready)).hif.cpl[0]?.isSome = true ∧
    (1 : Word).toNat % 65536 < ringSize (paired .standbySynced (validated ready)) (cplCtl 0) ∧ writesHost ready = true ∧ writesHost (queued ready) = true ∧
    released (queued ready) recA.jseq = true := by decide
def gapped (s : State) : State :=
  { s with que := { s.que with egress := modAt (dlvQueue 7) (fun _ => [⟨.gap 3 none, []⟩, ⟨.record recA, []⟩]) s.que.egress } }
theorem wit_gap : (gapped ready).que.egress.getD (dlvQueue 7) [] = [⟨.gap 3 none, []⟩, ⟨.record recA, []⟩] ∧ writesHost (gapped ready) = true ∧
    ringEn (gapped ready) (dlvCtl 7) = true ∧ (∀ x ∈ (gapped ready).hif.dring[7]?, x.out.length + 1 < ringSize (gapped ready) (dlvCtl 7)) ∧
    (gapped ready).hif.dring[7]?.isSome = true := by decide
theorem wit_gate : readsRing (fetched descA ready) 0 = true ∧ readsRing (fetched descA (cmdOnly ready)) 0 = false ∧
    gateOf (fetched descA (committing .keep 1 ready)) 0 (dOp descA) (slotsNeeded descA) = .wait ∧
    gateOf (fetched descA (offlineU (ownerOf (dOp descA)) ready)) 0 (dOp descA) (slotsNeeded descA) = .stop stInternal (ownerOf (dOp descA)) 0x0201 ∧
    (admCheck (fetched descA ready) ⟨descA.octets, [], [], false, true, true⟩).isSome = true := by decide +kernel
theorem wit_signal : (∀ x ∈ (armed ready).hif.cpl[0]?, (signalAt (armed ready) (0xE040C + 32 * 0) (validRun x.slots) x.firstAt).isSome = true) ∧
    (∀ x ∈ (delivered ready).hif.dring[7]?, (signalAt (delivered ready) (0xE0614 + 32 * 7) x.out.length x.firstAt).isSome = true) ∧
    (∃ x : DRing, x.armed = true ∧ signalAt ready 0xE06F4 x.out.length x.firstAt = some ready.time.tb) := by
  refine ⟨by decide, by decide, ⟨1, 0, 1, [(recA, true, 0)], true, none⟩, by decide, by decide +kernel⟩
theorem wit_up : 4 ≤ ready.pwr.phase ∧ State.reset.pwr.phase < 4 ∧ readable 8 true 3 0 [descA] = [descA] := by decide +kernel

/-! SlotBoundary -/
theorem wit_boundary : ready.up = true ∧ ready.pair.leads = true ∧ ready.time.loaded = true ∧ ready.time.epochSet = true ∧ 0 < ready.time.slotLen ∧
    (paired .standbySynced ready).pair.leads = false ∧ (paired .standbySynced ready).pair.st ≠ .replay ∧ (paired .replay ready).pair.st = .replay ∧
    (drillAt (withSf0 ready)).time.lastAsn = some 400 ∧ (restarting5 ready).err.restarting = [5] ∧ (paired .standbySynced ready).pair.hbSeen = false := by decide

/-! TransmitStart -/
theorem wit_port_wake : coreRuns (txPhase .staged ready) = true ∧ ∃ t, (txPhase .staged ready).tx.txs = [t] ∧ t.port = 4 ∧ t.waits = true ∧
    (txPhase .staged ready).rf.spll = .locked ∧ portsHeld (txPhase .staged ready) = false ∧ (portOf (txPhase .staged ready) 4).failed = false ∧
    (portOf (txPhase .staged ready) 4).st = .off ∧ (portOf (txPhase .staged ready) 4).trans = none ∧ wanted (txPhase .staged ready) 4 ≠ .off :=
  ⟨by decide, _, rfl, by decide, by decide, by decide, by decide, by decide, by decide, by decide, by decide⟩
theorem wit_coex_req : coreRuns (coexOn (txPhase .staged ready)) = true ∧ coexEn (coexOn (txPhase .staged ready)) = true ∧
    (txAt (coexOn (txPhase .staged ready)) 0).isSome = true := by decide
theorem wit_ramp : ∃ t, txAt (txPhase .staged (rfout .idle ready)) 0 = some t ∧ t.phase = .staged ∧ t.yield = none ∧
    canRamp (reach (t.start - 12_000) (txPhase .staged (rfout .idle ready))) t.port = true ∧
    canRamp (reach (t.start - 12_000) (txPhase .staged ready)) t.port = false ∧ inTx (reach (t.start - 12_000) (txPhase .staged ready)) t.port = false :=
  ⟨_, rfl, by decide, by decide, by decide, by decide, by decide⟩
theorem wit_instant : coreRuns (txPhase .ramping (rfout .on ready)) = true ∧ ∃ t, txAt (txPhase .ramping (rfout .on ready)) 0 = some t ∧ t.phase = .ramping ∧
    t.yield = none ∧ (txPhase .ramping (rfout .on ready)).time.tb ≤ t.start ∧ (portOf (txPhase .ramping (rfout .on ready)) t.port).st = .on ∧
    (portOf (txPhase .ramping (rfout .on ready)) t.port).trans = none ∧ powerFits (reach t.start (txPhase .ramping (rfout .on ready))) t.port t.level = true ∧
    freePos (reach t.start (txPhase .ramping (rfout .on ready))) t.port = some 0 ∧ t.lbt = false ∧ coexEn (txPhase .ramping (rfout .on ready)) = false ∧
    inTx (txPhase .ramping (rfout .on ready)) t.port = true :=
  ⟨by decide, _, rfl, by decide, by decide, by decide, by decide, by decide, by decide, by decide, by decide, by decide, by decide⟩
theorem wit_lbt : ∃ t, txAt (lbtTx (rfout .on ready)) 0 = some t ∧ t.lbt = true ∧ t.phase = .ramping ∧ freePos (reach t.start (lbtTx (rfout .on ready))) t.port = some 0 ∧
    powerFits (reach t.start (lbtTx (rfout .on ready))) t.port t.level = true := ⟨_, rfl, by decide, by decide, by decide, by decide⟩
theorem wit_hold : ∃ t, txAt (txPhase .held ready) 0 = some t ∧ t.waits = true ∧ txAt ready 0 = none := ⟨_, rfl, by decide, by decide⟩
theorem wit_in_tx : ∃ t, txAt (txPhase .staged (rfout .on ready)) 0 = some t ∧ t.waits = true ∧ t.phase ≠ .ramping ∧
    canRamp (reach (t.start - 12_000) (txPhase .staged (rfout .on ready))) t.port = false ∧
    inTx (reach (t.start - 12_000) (txPhase .staged (rfout .on ready))) t.port = true := ⟨_, rfl, by decide, by decide, by decide, by decide⟩
/-- Coexistence without a grant, ignored or not; a port not in TX; no free position. -/
theorem wit_deny : ∃ t, txAt (coexOn (txPhase .ramping (rfout .on ready))) 0 = some t ∧ t.waits = true ∧ coexEn (reach t.start (coexOn (txPhase .ramping (rfout .on ready)))) = true ∧
    (reach t.start (coexOn (txPhase .ramping (rfout .on ready)))).regB 0x50020 12 = false ∧
    ((txPhase .ramping (rfout .on ready)).setReg 0x50020 0x1001).regB 0x50020 12 = true ∧ coexEn ((txPhase .ramping (rfout .on ready)).setReg 0x50020 0x1001) = true ∧
    (reach t.start (coexOn (txPhase .ramping (rfout .on ready)))).time.tb ≤ t.start + 100_000 ∧ (portOf (reach t.start (txPhase .ramping ready)) t.port).st ≠ .on :=
  ⟨_, rfl, by decide, by decide, by decide, by decide, by decide, by decide, by decide⟩
theorem wit_full : ∃ s : State, freePos s 4 = none := ⟨port 4 (fun p => { p with carriers := (List.range 16).map (fun i => ⟨i, i, 0, 0, 0, none⟩) }) ready, by decide⟩

/-! TransmitEnd -/
theorem wit_outcome : coreRuns (yielded ready) = true ∧ ∃ t, txAt (yielded ready) 0 = some t ∧ t.yield = some (0, 0) ∧ t.phase = .ramping ∧ t.sync = none :=
  ⟨by decide, _, rfl, by decide, by decide, by decide⟩
theorem wit_skip : ∃ t, txAt (txPhase .held ready) 0 = some t ∧ t.phase = .held ∧ t.kind ≠ .ack := ⟨_, rfl, by decide, by decide⟩
theorem wit_end : coreRuns (txPhase .onAir ready) = true ∧ ∃ t, txAt (txPhase .onAir ready) 0 = some t ∧ t.phase = .onAir ∧ t.yield = none ∧ t.kind = .unicast ∧
    t.ackReq = true := ⟨by decide, _, rfl, by decide, by decide, by decide, by decide⟩
theorem wit_end_ack : ∃ t, txAt (onAirAck ready) 0 = some t ∧ t.phase = .onAir ∧ t.yield = none ∧ t.kind = .ack ∧ coreRuns (onAirAck ready) = true :=
  ⟨_, rfl, by decide, by decide, by decide, by decide⟩
theorem wit_window : ∃ t, txAt (txPhase .ackWait ready) 0 = some t ∧ t.phase = .ackWait ∧ coreRuns (txPhase .ackWait ready) = true ∧
    (∀ u ∈ txAt (txPhase .onAir ready) 0, u.phase ≠ .ackWait) := ⟨_, rfl, by decide, by decide, by decide⟩
theorem wit_linger : (portOf (lingering .on ready) 4).linger = some 9 ∧ (portOf (lingering .on ready) 4).st = .on ∧ (portOf (lingering .on ready) 4).trans = none ∧
    (portOf (lingering .on ready) 4).carriers = [] ∧ (portOf (lingering .on ready) 4).waiting = [] ∧ wanted (lingering .on ready) 4 ≠ .off ∧
    (portOf (lingering .off ready) 4).st = .off ∧ (portOf (lingering .off ready) 4).linger = some 9 ∧ (portOf (lingering .off ready) 4).femUntil = some 9 ∧
    (portOf (lingering .off ready) 4).trans = none := by decide
theorem wit_kinds : (∃ t, txAt (withTx { tx0 with phase := .onAir, kind := .bulk, frame := some 3 } (banked ready)) 0 = some t ∧ t.phase = .onAir ∧ t.yield = none ∧
      t.kind = .bulk ∧ t.frame = some 3) ∧
    (∃ t, txAt (withTx { tx0 with phase := .onAir, kind := .beacon } (banked ready)) 0 = some t ∧ t.phase = .onAir ∧ t.kind = .beacon ∧ t.frame = none) ∧
    (∃ t, txAt (withTx { tx0 with phase := .onAir, ackReq := false, frame := some 3 } (banked ready)) 0 = some t ∧ t.phase = .onAir ∧ t.kind = .unicast ∧ t.ackReq = false) ∧
    coreRuns (withTx { tx0 with phase := .onAir, kind := .beacon } (banked ready)) = true :=
  ⟨⟨_, rfl, rfl, rfl, rfl, rfl⟩, ⟨_, rfl, rfl, rfl, rfl⟩, ⟨_, rfl, rfl, rfl, rfl⟩, by decide⟩
theorem wit_fem : (portOf (lingering .off ready) 4).femUntil = some 9 ∧ onAir (portOf (lingering .on ready) 4) = [] := by decide

/-! DemodulatorLocks -/
theorem wit_demod : demRuns (hears ready) 0 = true ∧ demodAt (hears ready) 0 = none ∧ finds (hears ready) 0 0 = some 0 ∧ finds (hears ready) 0 1 = none ∧
    demRuns (lockedOn lockA ready) 0 = true ∧ demodAt (lockedOn lockA ready) 0 = some lockA ∧ finds (lockedOn lockA ready) 0 0 = some 0 ∧
    lockA.sfd = none ∧ lockA.msUntil = none ∧ demodAt (lockedOn lockB ready) 0 = some lockB ∧ demRuns (lockedOn lockB ready) 0 = true ∧
    finds (lockedOn lockB ready) 0 0 = some 0 ∧ lockB.sfd ≠ none ∧ lockB.msUntil = none ∧ (4 * (hears ready).regF 0x70004 4 0) ≠ 0 := by decide
theorem wit_demod_div : hearing (hears ready) (portA (hears ready) 0) = true ∧ hearing (hears ready) (portA (hears ready) 0 + 1) = false ∧
    hearing ready (portA ready 0) = false ∧ hearing (hears2 ready) (portA (hears2 ready) 0) = true ∧ hearing (hears2 ready) (portA (hears2 ready) 0 + 1) = true ∧
    (hears2 ready).regF 0x40010 (2 * winPair (slotWin (hears2 ready).act 0) + 1) (2 * winPair (slotWin (hears2 ready).act 0)) = 0 := by decide
/-- A mode-switch PHR with key 5 and its parity, and one with bad parity. -/
def phrM : BitVec 16 := 5383
theorem wit_demod_ms : inFrame (lockedOn lockB ready) 0 = some (lockB, ⟨3_999_600_000, 0, 0, true, 80, 0⟩) ∧ (profAt (lockedOn lockB ready).act lockB.profile).typ = 0 ∧
    msPhrOk phrM = true ∧ msPhrOk (phrM ^^^ 0x8000) = false ∧ Machine.msKey phrM = 5 ∧ msProfile (lockedOn lockB ready).act 5 = none ∧
    msProfile (msMap (lockedOn lockB ready)).act 5 = some 0 ∧ inFrame (msMap (lockedOn lockB ready)) 0 = some (lockB, ⟨3_999_600_000, 0, 0, true, 80, 0⟩) ∧
    demodAt (lockedOn { lockA with msUntil := some 9 } ready) 0 = some { lockA with msUntil := some 9 } := by decide
theorem wit_demod_ofdm : inFrame (msOfdm (lockedOn lockB ready)) 0 = some (lockB, ⟨3_999_600_000, 0, 0, true, 80, 0⟩) ∧
    msProfile (msOfdm (lockedOn lockB ready)).act 5 = some 1 ∧ (profAt (msOfdm (lockedOn lockB ready)).act 1).typ = 1 ∧
    msWide (msOfdm (lockedOn lockB ready)) 0 1 = some 0 ∧ demodAt (msOfdm (lockedOn lockB ready)) 128 = none := by decide
/-- A free state in which a mode switch is awaited, in time and too late. -/
def msWaits (u : Nat) (s : State) : State := lockedOn { lockA with msUntil := some u, ms := true } s
theorem wit_demod_wait : demRuns (msWaits 5_001_000_000 ready) 0 = true ∧ demodAt (msWaits 5_001_000_000 ready) 0 = some { lockA with msUntil := some 5_001_000_000, ms := true } ∧
    samePreamble (profAt (msWaits 5_001_000_000 ready).act 0) (profAt (msWaits 5_001_000_000 ready).act 0) = true ∧
    (msWaits 5_001_000_000 ready).time.tb ≤ 5_001_000_000 + detectNs (profAt (msWaits 5_001_000_000 ready).act 0) ∧
    1_000_000_000 + detectNs (profAt (msWaits 1_000_000_000 ready).act 0) < (msWaits 1_000_000_000 ready).time.tb := by decide
def cwA : SoftCw := ⟨0, lockB.at_, 5_000_000_000, 0, true, 96, 1, []⟩
theorem wit_demod_el : elLive (elandOn ready) 0 lockB.at_ = true ∧ [cwA].filter (fun c => elLive (elandOn ready) c.ch c.frameAt) = [cwA] ∧ (elandOn ready).rx.pool = [] ∧
    [cwA].foldl (fun l c => insCw c l) [] = [cwA] ∧ (elandOn ready).rx.elWait = [] ∧
    [cwA].filter (fun c => elLive ready c.ch c.frameAt) = [] ∧ ready.rx.pool = [] := by decide
theorem wit_demod_elwait : ∃ s w, s.rx.elWait.find? (fun w : ElWait => w.md.chSlot == cwA.ch && w.frameAt == cwA.frameAt) = some w ∧
    elLive s cwA.ch cwA.frameAt = true :=
  ⟨{ ready with rx := { ready.rx with elWait := [⟨metaA, lockB.at_, 24⟩] } }, ⟨metaA, lockB.at_, 24⟩, by decide, by decide⟩

/-! ReceivedFrames -/
theorem wit_rx_end : inFrame (lockedOn lockB ready) 0 = some (lockB, ⟨3_999_600_000, 0, 0, true, 80, 0⟩) ∧ inFrame ready 0 = none := by decide

/-! EthernetPorts -/
theorem wit_eth_link : ready.up = true ∧
    ethUp (modEth 0 (fun x => { x with
      lock := true
      anDone := false
      lpPause := false && true }) ready) 0 = false ∧ (ethPort ready 0).up = false ∧
    ethUp (modEth 0 (fun x => { x with
      lock := true
      anDone := true
      lpPause := true && true }) (ethOn ready)) 0 = true ∧ (ethPort (ethOn ready) 0).up = false ∧ 0 < ready.eth.length ∧ (ethOn ready).up = true := by decide
def ethShort : List Octet := ethOf 0xFFFF_FFFF_FFFF 0x86DD []
def ethPauseF (n : Nat) : List Octet := ethOf 0x0180_C200_0001 0x8808 (octetsBE 2 1 ++ octetsBE 2 n ++ zeros 42)
def ethPtpF : List Octet := ethOf 0x011B_1900_0000 0x88F7 (zeros 46)
def ethMultiF : List Octet := ethOf 0xFFFF_FFFF_FFFF 0x86DD bcastA
theorem wit_eth_rx : (ethPort (ethUpS ready) 0).up = true ∧ (ethUpS ready).up = true ∧ fcsGood 4 ethA = true ∧ ethBadLen (ethUpS ready) 0 ethA = false ∧
    ethDaOk (ethUpS ready) 0 ethA = true ∧ ethBadVlan (ethUpS ready) 0 ethA = false ∧ ethType ethA ≠ 0x8808 ∧ ptpTransport ethA ≠ some (ptpChosen (ethUpS ready) 0) ∧
    ethType ethA = 0x86DD ∧ mgmtDst (ipDst (ethBody ethA)) = false ∧ fcsGood 4 [1, 2, 3, 4, 5] = false ∧ fcsGood 4 ethShort = true ∧ ethShort.length < 64 ∧
    ethBadLen (ethUpS ready) 0 ethShort = true := by decide +kernel
theorem wit_eth_rx_da : fcsGood 4 (ethOf 5 0x1234 (zeros 46)) = true ∧ ethBadLen (ethUpS ready) 0 (ethOf 5 0x1234 (zeros 46)) = false ∧
    ethDaOk (ethUpS ready) 0 (ethOf 5 0x1234 (zeros 46)) = false ∧
    ethDaOk (ethUpS ready) 0 (ethOf 0xFFFF_FFFF_FFFF 0x1234 (zeros 46)) = true ∧ ethType (ethOf 0xFFFF_FFFF_FFFF 0x1234 (zeros 46)) = 0x1234 ∧
    ptpTransport (ethOf 0xFFFF_FFFF_FFFF 0x1234 (zeros 46)) = none ∧ ethBadVlan (ethUpS ready) 0 (ethOf 0xFFFF_FFFF_FFFF 0x1234 (zeros 46)) = false ∧
    ethType (ethOf 0xFFFF_FFFF_FFFF 0x0806 (zeros 46)) = 0x0806 ∧ ptpTransport (ethOf 0xFFFF_FFFF_FFFF 0x0806 (zeros 46)) = none ∧
    ethDaOk (ethUpS ready) 0 (ethOf 0xFFFF_FFFF_FFFF 0x0806 (zeros 46)) = true ∧ ethBadLen (ethUpS ready) 0 (ethOf 0xFFFF_FFFF_FFFF 0x0806 (zeros 46)) = false ∧
    ethBadVlan (ethUpS ready) 0 (ethOf 0xFFFF_FFFF_FFFF 0x8100 ([0, 5] ++ zeros 44)) = true ∧
    ethDaOk (ethUpS ready) 0 (ethOf 0xFFFF_FFFF_FFFF 0x8100 ([0, 5] ++ zeros 44)) = true ∧
    ethBadLen (ethUpS ready) 0 (ethOf 0xFFFF_FFFF_FFFF 0x8100 ([0, 5] ++ zeros 44)) = false := by decide +kernel
theorem wit_eth_rx_pause : ethType (ethPauseF 5) = 0x8808 ∧ beOf ((ethBody (ethPauseF 5)).take 2) = 1 ∧ beOf (slice (ethBody (ethPauseF 5)) 2 2) = 5 ∧
    ethDaOk (ethUpS ready) 0 (ethPauseF 5) = true ∧ ethBadLen (ethUpS ready) 0 (ethPauseF 5) = false ∧ ethBadVlan (ethUpS ready) 0 (ethPauseF 5) = false ∧
    fcsGood 4 (ethPauseF 5) = true ∧ (ethUpS ready).regB (ethBase 0) 8 = false ∧ (rxPause (ethUpS ready)).regB (ethBase 0) 8 = true ∧
    (ethPort (rxPause (ethUpS ready)) 0).up = true ∧
    ethType ethPtpF ≠ 0x8808 ∧ ptpTransport ethPtpF = some (ptpChosen (ethUpS ready) 0) ∧ ethDaOk (ethUpS ready) 0 ethPtpF = true ∧
    ethBadLen (ethUpS ready) 0 ethPtpF = false ∧ fcsGood 4 ethPtpF = true ∧ ethType (ethOf 0x0180_C200_0001 0x8808 (zeros 46)) = 0x8808 ∧
    beOf ((ethBody (ethOf 0x0180_C200_0001 0x8808 (zeros 46))).take 2) ≠ 1 ∧
    ethType ethMultiF = 0x86DD ∧ mgmtDst (ipDst (ethBody ethMultiF)) = true ∧ ethBadLen (ethUpS ready) 0 ethMultiF = false := by decide +kernel
theorem wit_eth_store : fifoLevel ready 31 + ceilDiv ethA.length 16 < 2048 ∧
    (∃ s, 2048 ≤ fifoLevel s 31 + ceilDiv ethA.length 16 ∧ fifoLevel s 31 ≠ 0) ∧ ready.up = true ∧ (ethPort ready 0).up = false :=
  ⟨by decide +kernel, ⟨{ ready with eth := modAt 0 (fun x => { x with fifo := List.replicate 30 ⟨false, zeros 1120⟩ }) ready.eth }, by decide +kernel⟩,
    by decide, by decide⟩
theorem wit_eth_admit : (ethPort (ethQueued ready) 0).fifo = [⟨false, ethA⟩] ∧ (ethQueued ready).pair.leads = true ∧ (ethPort (ethQueued ready) 0).up = true ∧
    8000 * (EthIn.mk false ethA).cost ≤ ethTokens (ethQueued ready) 0 ∧
    (∃ s, s.up = true ∧ (ethPort s 0).up = true ∧ s.pair.leads = true ∧ (ethPort s 0).fifo = [⟨false, ethA⟩] ∧
      ethTokens s 0 < 8000 * (EthIn.mk false ethA).cost ∧ s.regB (ethBase 0 + 0x1C) 31 = false) ∧
    (∃ s, s.up = true ∧ (ethPort s 0).up = true ∧ s.pair.leads = true ∧ (ethPort s 0).fifo = [⟨false, ethA⟩] ∧
      ethTokens s 0 < 8000 * (EthIn.mk false ethA).cost ∧ s.regB (ethBase 0 + 0x1C) 31 = true) := by
  refine ⟨by decide +kernel, by decide, by decide, by decide +kernel,
    ⟨eth (fun x => { x with tokens := 0, filledAt := 5_000_000_000 }) (ethQueued ready), ?_⟩,
    ⟨eth (fun x => { x with tokens := 0, filledAt := 5_000_000_000 }) (holdMode (ethQueued ready)), ?_⟩⟩ <;> decide +kernel
theorem wit_eth_tx : (ethPort ready 0).up = false ∧ (pauseWaits (ethUpS ready)).que.pauseTx.getD 0 [] = [5] ∧ (ethPort (pauseWaits (ethUpS ready)) 0).up = true ∧
    (ethUpS ready).que.pauseTx.getD 0 [] = [] ∧ (ethPort (ethUpS ready) 0).paused = none ∧ (ethPort (ethOut ready) 0).out = [pktA] ∧
    0 < (ethOut ready).eth.length ∧ (ethPort (ethPaused ready) 0).paused = some 9 ∧ (ethPort (ethPaused ready) 0).up = true ∧
    (ethPaused ready).que.pauseTx.getD 0 [] = [] := by decide
theorem wit_eth_pause : (ethPort (ethPaused ready) 0).paused = some 9 ∧ (ethPort ready 0).paused = none ∧ (repeats ready).que.pauseAt.getD 0 none = some 9 ∧
    (repeats ready).que.above.contains 31 = true ∧ (repeats ready).regB 0xD0A80 31 = true ∧ (repeats ready).que.pauseTx.getD 0 [] = [] := by decide

/-! WatermarksAndQueues -/
theorem wit_wm_rise : wmExists 54 = true ∧ (wmAt 400 ready).que.above.contains 54 = false ∧ wmHigh (wmAt 400 ready) 54 ≤ wmLevel (wmAt 400 ready) 54 ∧
    (wmAt 400 ready).wordsOk = true := by decide
theorem wit_wm_fall : (wmAbove (wmAt 300 ready)).que.above.contains 54 = true ∧ wmLevel (wmAbove (wmAt 300 ready)) 54 ≤ wmLow (wmAbove (wmAt 300 ready)) 54 := by
  decide
theorem wit_wm_between : wmLevel ready 54 < wmHigh ready 54 ∧ wmLow (wmAbove (wmAt 395 ready)) 54 < wmLevel (wmAbove (wmAt 395 ready)) 54 ∧
    (wmAbove (wmAt 395 ready)).que.above.contains 54 = true ∧ wmExists 39 = false := by decide
theorem wit_wm_event : (wmAt 400 ready).regB (0xD0104 + 16 * 54) 0 = false ∧ (wmAt 400 ready).regB (0xD0104 + 16 * 54) 8 = false ∧
    ((wmAt 400 ready).setReg (0xD0104 + 16 * 54) 0x100).regB (0xD0104 + 16 * 54) 8 = true ∧
    ((wmAt 400 ready).setReg (0xD0104 + 16 * 54) 0x100).regB (0xD0104 + 16 * 54) 0 = false := by decide
theorem wit_qflow : (pinOn ready).que.qflow[0]? = some ⟨true, 9⟩ ∧ qflowWants (pinOn ready) (pinOn ready).que.above 0 = false ∧ ready.que.qflow[0]? = some ⟨false, 0⟩ := by
  decide
theorem wit_fifo : fifoLevel ready 0 + 4 < fifoDepth 0 ∧ fifoDepth 0 ≤ fifoLevel ready 0 + 512 ∧ fifoLevel ready 0 = 0 ∧
    fifoNeverStalls 0 = true ∧ fifoNeverStalls 26 = false := by decide
theorem wit_fifo_full : (∃ s, fifoDepth 0 ≤ fifoLevel s 0 + 4 ∧ fifoLevel s 0 ≠ 0) ∧ (∃ s, fifoDepth 26 ≤ fifoLevel s 26 + 1 ∧ fifoLevel s 26 ≠ 0) :=
  ⟨⟨{ ready with rx := { ready.rx with out := setAt ready.rx.out 0 (List.replicate 4 (metaA, zeros 2015)) } }, by decide +kernel⟩,
    ⟨{ ready with sec := { ready.sec with ops := List.replicate 63 ⟨ref1, cipA, false, []⟩ } }, by decide +kernel⟩⟩
theorem wit_fifo_reset : ready.up = true ∧ (0 : Nat) < 39 ∧ (31 : Nat) < 33 := by decide

/-! OfflineErrorsAreCounted -/
theorem wit_offline_error : (offline5 ready).up = true ∧ errClass ⟨0x0104, 5, 1, 7, 0⟩ = some (1, 5, 1) ∧ (offline5 ready).offline 5 = true ∧
    (⟨0x0104, 5, 1, 7, 0⟩ : ErrSrc).code ≠ 0x0301 ∧ (offlineU 9 ready).up = true ∧ (offlineU 9 ready).offline 9 = true ∧
    (⟨0x0602, 9, 9, 0, 0⟩ : ErrSrc).code = 0x0602 := by decide
theorem wit_offline_fifo : (offlineU 3 ready).offline (fifoOwner 0).2 = true ∧ (offlineU 3 ready).up = true ∧
    (⟨0x0302, 3, 0, 0, 0⟩ : ErrSrc).detail < 39 := by decide
theorem wit_offline_wdog : (offline5 ready).offline (procUnit 0).1 = true ∧ (scrubOn (offlineU 8 ready)).regB 0x120004 1 = true ∧
    (scrubOn (offlineU 8 ready)).offline (scrubOwner (scrubOn (offlineU 8 ready)).err.scrubArr (scrubOn (offlineU 8 ready)).err.scrubWord).1 = true ∧
    (scrubOn (offlineU 8 ready)).up = true := by decide

/-! ErrorRecords -/
theorem wit_err_enter : ready.offline 5 = false ∧ ready.err.busy = false ∧ ready.err.fifo.length < 60 ∧ (busyErr 1 ready).err.busy = true ∧
    (busyErr 1 ready).err.fifo = [errA 1] ∧ (errA 1).unit = 5 ∧ 60 ≤ (errFull ready).err.fifo.length ∧ (errFull ready).err.busy = false := by decide
theorem wit_err_scrub : (scrubOn ready).up = true ∧ (scrubOn ready).regB 0x120004 1 = true ∧
    (scrubOn ready).err.scrubWord + 1 < (scrubArrays.getD (scrubOn ready).err.scrubArr (1, 10, 0)).1 ∧
    (scrubArrays.getD (scrubEnd ready).err.scrubArr (1, 10, 0)).1 ≤ (scrubEnd ready).err.scrubWord + 1 := by decide
theorem wit_err_handle : (erred 1 ready).up = true ∧ (erred 1 ready).err.busy = false ∧ (erred 1 ready).err.fifo = [errA 1] ∧
    handledAs (erred 1 ready) (errA 1) ≠ 3 ∧ (errA 1).cls = 1 ∧ handledAs (erred 2 ready) (errA 2) ≠ 3 ∧ (errA 2).cls = 2 ∧
    handledAs (erred 3 ready) (errA 3) = 3 ∧ (erred 3 ready).err.fifo = [errA 3] ∧ (erred 3 ready).up = true := by decide
theorem wit_err_done : (busyTwo ready).err.fifo = [errA 1, errA 2] ∧ (busyTwo ready).err.busy = true ∧ (busyTwo ready).up = true ∧
    (busyErr 1 ready).err.pendRst = [] ∧ (busyErr 1 ready).up = true ∧ ready.err.fifo = [] := by decide
theorem wit_err_src : errClass ⟨0x0602, 9, 9, 0, 0⟩ = some (2, 9, 9) ∧ errClass ⟨0x0104, 5, 1, 7, 0⟩ = some (1, 5, 1) ∧ (⟨0x0302, 3, 0, 0, 0⟩ : ErrSrc).detail < 39 ∧
    ready.up = true ∧ State.reset.up = false ∧
    ({ busyErr 1 ready with err := { (busyErr 1 ready).err with pendRst := [(5, 1)] } } : State).err.pendRst = [(5, 1)] ∧
    ({ busyErr 1 ready with err := { (busyErr 1 ready).err with pendRst := [(5, 1)] } } : State).err.fifo = [errA 1] := by decide

/-! ## Ill-formed commands: every check refuses one term -/

def okSf : SfArgs := ⟨0, true, false, 1, 100, 101, 0⟩
def okHerd : HerdSetArgs := ⟨5, 0, 0, 0, 0, 0, 0, 0⟩
def okCell : InsertCell := ⟨0, 0, 0, 0, 0⟩
def okIns : InsertArgs := ⟨0x12, 0, 0, 0, false, some okCell⟩
def okImg : ImgOpenArgs := ⟨0, 1, 1000, 256, 0, 1, 2, 3, 0⟩
def okErr : ErrSrc := ⟨0x0101, 1, 0, 0, 0⟩
def okRec : JRec := ⟨0, 0, 0, 32, false, 0, .seed 0⟩
def okMeas : RxMeas := ⟨0, 0, 0⟩
def okId : Ident := ⟨1, 1, 0, 0, false, 0, zeros 65⟩
def okCw : SoftCw := ⟨0, 0, 0, 0, true, 96, 1, []⟩

theorem smoke_descriptor : [CmdRef.mk 16 0 0 0, ⟨0, 0, 0, 2 ^ 40⟩].all (fun r => !(Instr.diagNop r).wf) = true := by decide

theorem smoke_arguments : ([.schedSlotframeSet ref1 { okSf with sfh := 256 }, .schedSlotframeSet ref1 { okSf with band := 256 },
    .schedSlotframeSet ref1 { okSf with depth := 256 }, .schedSlotframeSet ref1 { okSf with length := 2 ^ 16 },
    .schedSlotframeSet ref1 { okSf with base := 2 ^ 20 }, .schedCellsWrite ref1 256 [], .schedCellsWrite ref1 0 [⟨2 ^ 16, 0, 0⟩],
    .schedCellsWrite ref1 0 [⟨0, 0, 0⟩, ⟨0, 256, 0⟩], .herdModeSet ref1 256 0 0 0, .herdModeSet ref1 0 256 0 0,
    .herdModeSet ref1 0 0 256 0, .herdModeSet ref1 0 0 0 256, .herdNodeSet ref1 { okHerd with index := 2 ^ 24 },
    .herdNodeSet ref1 { okHerd with rung := 256 }, .herdNodeSet ref1 { okHerd with power := 128 },
    .herdNodeSet ref1 { okHerd with power := -129 }, .herdNodeSet ref1 { okHerd with hint := 256 }, .herdNodeRead ref1 (2 ^ 24) 0,
    .herdNodeRead ref1 0 (2 ^ 64), .nodeInsert ref1 { okIns with eui := 2 ^ 64 }, .nodeInsert ref1 { okIns with fcl := 2 ^ 32 },
    .nodeInsert ref1 { okIns with cls := 8 }, .nodeInsert ref1 { okIns with vref := 256 },
    .nodeInsert ref1 { okIns with cell := some { okCell with sfh := 256 } }, .nodeInsert ref1 { okIns with cell := some { okCell with pos := 256 } },
    .nodeInsert ref1 { okIns with cell := some { okCell with slot := 2 ^ 16 } }, .nodeInsert ref1 { okIns with cell := some { okCell with chofs := 256 } },
    .nodeRemove ref1 (2 ^ 32) 0, .nodeRemove ref1 0 (2 ^ 64), .nodeRead ref1 true (2 ^ 64) 0, .nodeRead ref1 true 0 (2 ^ 64),
    .prefixInsert ref1 (2 ^ 128) 0 0, .prefixInsert ref1 0 256 0, .prefixInsert ref1 0 0 (2 ^ 16), .prefixRemove ref1 (2 ^ 128) 0,
    .prefixRemove ref1 0 256, .bcastSend ref1 [] 256 0, .bcastSend ref1 [] 0 256, .imgOpen ref1 { okImg with session := 256 },
    .imgOpen ref1 { okImg with objid := 2 ^ 16 }, .imgOpen ref1 { okImg with size := 2 ^ 32 }, .imgOpen ref1 { okImg with sym := 2 ^ 16 },
    .imgOpen ref1 { okImg with profile := 256 }, .imgOpen ref1 { okImg with sport := 2 ^ 16 }, .imgOpen ref1 { okImg with dport := 2 ^ 16 },
    .imgOpen ref1 { okImg with dst := 2 ^ 128 }, .imgOpen ref1 { okImg with outAddr := 2 ^ 64 }, .imgLoad ref1 256 0 [],
    .imgLoad ref1 0 (2 ^ 32) [], .imgSend ref1 256 0 0 0, .imgSend ref1 0 256 0 0, .imgSend ref1 0 0 (2 ^ 24) 0, .imgSend ref1 0 0 0 256,
    .imgClose ref1 256] : List Instr).all (fun i => !i.wf) = true := by decide

theorem smoke_security : ([.secIdentity ref1 (2 ^ 64), .secAttest ref1 256 0 0, .secAttest ref1 0 (2 ^ 64) 0, .secAttest ref1 0 0 (2 ^ 256),
    .secKeyImport ref1 [] (2 ^ 64), .secFcAck ref1 (2 ^ 32) 0, .secFcAck ref1 0 (2 ^ 16), .secFcRestore ref1 (2 ^ 32) 0,
    .secFcRestore ref1 0 (2 ^ 16), .secLcAdvance ref1 256 [] true, .secLcAdvance ref1 3 (zeros 128) true, .secFuseWrite ref1 256 0 true,
    .secFuseWrite ref1 0 (2 ^ 64) true, .secCipher ref1 { cipA with mode := 256 }, .secCipher ref1 { cipA with dir := 256 },
    .secCipher ref1 { cipA with ksrc := 256 }, .secCipher ref1 { cipA with gensel := 256 }, .secCipher ref1 { cipA with tagLen := 256 },
    .secCipher ref1 { cipA with keyLen := 256 }, .secCipher ref1 { cipA with karg := 2 ^ 64 }, .secCipher ref1 { cipA with outAddr := 2 ^ 64 },
    .secCipher ref1 { cipA with tagAddr := 2 ^ 64 }] : List Instr).all (fun i => !i.wf) = true := by decide

/-- Octet strings longer than their field. -/
theorem smoke_lengths (p : List Octet) :
    (2 ^ 16 ≤ p.length → (Instr.pktSend ref1 p).wf = false ∧ (Instr.bcastSend ref1 p 0 0).wf = false ∧ (Instr.secKeyImport ref1 p 0).wf = false) ∧
    (2 ^ 16 < p.length → (Instr.imgLoad ref1 0 0 p).wf = false) ∧
    (2 ^ 32 ≤ p.length → (Instr.romPatchLoad ref1 p).wf = false ∧ (Instr.replayFeed ref1 p).wf = false ∧
      (Instr.secCipher ref1 { cipA with aad := p }).wf = false ∧ (Instr.secCipher ref1 { cipA with input := p }).wf = false) ∧
    (4096 < p.length → (Instr.dbCmdPi 0 0 [⟨zeros 32, p, [], true, true, true⟩]).wf = false) ∧
    (2047 < p.length → (Instr.rxFrameEnd 0 (.fsk 0 p) okMeas 0).wf = false ∧ (Instr.rxFrameEnd 0 (.oqpsk 0 p) okMeas 0).wf = false) ∧
    (16_384 < p.length → (Instr.ethFrameRx 0 p).wf = false ∧ (Instr.ptpSyncRx 0 ⟨p, 0⟩).wf = false ∧ (Instr.ptpFollowUpRx 0 ⟨p, 0⟩).wf = false ∧
      (Instr.ptpDelayRespRx 0 ⟨p, 0⟩).wf = false ∧ (Instr.ptpAnnounceRx 0 p 0).wf = false) := by
  refine ⟨?_, ?_, ?_, ?_, ?_, ?_⟩ <;> intro h
  · have : fits 16 p.length = false := decide_eq_false (by omega)
    simp [Instr.wf, this]
  · have : decide (p.length ≤ 65_536) = false := decide_eq_false (by omega)
    simp only [Instr.wf, this, Bool.and_false]
  · have : fits 32 p.length = false := decide_eq_false (by omega)
    simp [Instr.wf, CipherArgs.wf, CipherArgs.aadLen, CipherArgs.inLen, this]
  · have : decide (p.length ≤ 4096) = false := decide_eq_false (by omega)
    simp only [Instr.wf, RawDesc.wf, List.all_cons, this, Bool.and_false, Bool.false_and]
  · simp [Instr.wf, RxSig.wf]; omega
  · simp [Instr.wf, frameWf]; omega

theorem smoke_control : ([.cfgSnapshotRead ref1 (2 ^ 64) 0, .cfgSnapshotRead ref1 0 (2 ^ 32), .timeSetEpoch ref1 (2 ^ 64) 0, .timeSetEpoch ref1 0 256,
    .timeStep ref1 (2 ^ 64) 0, .timeStep ref1 0 256, .rfPortSet ref1 256 0, .rfPortSet ref1 0 256, .portSetEffect 6, .portTransitionDone 6,
    .rfCalibrate ref1 256, .calibrateStart 7, .calRunDone 7 true, .bgtrimStep 6 0, .slotframeSetEffect 64, .pwrEnter ref1 256 0,
    .pwrEnter ref1 0 (2 ^ 32), .pairJoin ref1 256, .swapDrill ref1 256, .journalRecordRx { okRec with len := 24 },
    .journalRecordRx { okRec with len := 4104 }, .journalRecordRx { okRec with len := 36 }, .journalRecordRx { okRec with ofs := 2 ^ 32 },
    .journalRecordRx { okRec with asn := 2 ^ 40 }, .diagIqSnapshot ref1 256 0 0 0, .diagIqSnapshot ref1 0 256 0 0,
    .diagIqSnapshot ref1 0 0 (2 ^ 32) 0, .diagIqSnapshot ref1 0 0 0 (2 ^ 32), .quePoolWrite 5 0, .ringCtlWrite (.cmd 16) 0,
    .ringCtlWrite (.cpl 16) 0, .ringCtlWrite (.dlv 10) 0, .registerWrite (2 ^ 21) 4 0, .registerWrite 0 0 0, .registerWrite 0 9 0,
    .timeNowLoRead 4 4, .timeNowLoRead 0 0, .timeNowLoRead 0 9, .loHiLatchRead (2 ^ 21) 0 4, .loHiLatchRead 2 0 4, .loHiLatchRead 0 4 4,
    .rcCounterRead (2 ^ 21) 0 4, .rcCounterRead 1 0 4, .rcCounterRead 0 0 9, .dbCmdPi 16 0 [], .dbCmdPi 0 0 [⟨zeros 31, [], [], true, true, true⟩],
    .dbCplCi 16 0, .dbDlvCi 10 0, .commandAdmit 16, .recordDeliver (.dlv 10), .interruptSend (.cpl 16)] : List Instr).all (fun i => !i.wf) = true := by
  decide

theorem smoke_radio : ([.sixpTimeout 327744, .dropReadmitCheck 327744, .nodeSupervisionTimeout 327744, .parentExpire 327744, .txPortWake 6,
    .txOutcome 0 5 0, .txOutcome 0 0 (2 ^ 16), .txLingerExpire 6, .channelDeafStart 144 0, .channelDeafEnd 144 0, .clipDetect 4,
    .clipHangExpire 4, .preambleDetect 144 0 0, .preambleDetect 0 32 0, .preambleDetect 0 0 40_000, .secondPreambleDetect 144 0 ⟨0, 0⟩,
    .secondPreambleDetect 0 32 ⟨0, 0⟩, .secondPreambleDetect 0 0 ⟨40_000, 0⟩, .secondPreambleDetect 0 0 ⟨0, (-40_000)⟩, .sfdDetect 144 0 0 ⟨0, 0⟩,
    .sfdDetect 0 40_000 0 ⟨0, 0⟩, .sfdDetect 0 0 40_000 ⟨0, 0⟩, .sfdDetect 0 0 0 ⟨2 ^ 64, 0⟩, .sfdDetect 0 0 0 ⟨0, 2 ^ 16⟩, .falseDetRelease 144,
    .msPhrRx 144 0 0, .msTimeout 144, .rxFrameEnd 144 (.eland []) okMeas 0, .rxFrameEnd 0 (.eland []) { okMeas with ballQ := 40_000 } 0,
    .rxFrameEnd 0 (.eland []) { okMeas with cfoHz := 2 ^ 31 } 0, .rxFrameEnd 0 (.eland []) { okMeas with rateOfs := 2 ^ 31 } 0,
    .rxFrameEnd 0 (.eland []) okMeas (2 ^ 16), .ldpcCodewordDone [{ okCw with ch := 128 }] 0 0, .ldpcCodewordDone [] 128 0, .ldpcCodewordDone [] 0 256, .rxFrameAdmit 16 0,
    .rxFrameAdmit 0 144,
    .rxSummaryAdmit ⟨2, []⟩, .rxSummaryAdmit ⟨0, [(144, 0, 0)]⟩, .rxSummaryAdmit ⟨0, [(0, 2 ^ 16, 0)]⟩, .rxSummaryAdmit ⟨0, [(0, 0, 40_000)]⟩] :
    List Instr).all (fun i => !i.wf) = true := by decide

theorem smoke_rest : ([.timeSourceOutcome 0 0 0 0, .timeSourceOutcome 5 0 0 0, .timeSourceOutcome 1 3 0 0, .slckRatioMeasure (2 ^ 64),
    .ppsEdge true (2 ^ 64), .todMessageRx [] (2 ^ 64), .ptpSyncRx 2 ⟨[], 0⟩, .ptpFollowUpRx 2 ⟨[], 0⟩, .ptpDelayRespRx 2 ⟨[], 0⟩, .ptpAnnounceRx 2 [] 0,
    .ptpDelayReqSend 2 0, .ptpSyncMiss 2, .ethFrameRx 2 [], .ethAdmit 2, .ethLinkChange 2 true none, .ethFrameTx 2,
    .ethPauseExpire 2, .pauseRepeat 2, .watermarkCrossing 60, .qflowHoldExpire 2, .fifoQueueReset 39, .errorDetect { okErr with code := 2 ^ 16 },
    .errorDetect { okErr with unit := 0 }, .errorDetect { okErr with unit := 15 }, .errorDetect { okErr with sub := 256 },
    .errorDetect { okErr with where_ := 2 ^ 32 }, .errorDetect { okErr with detail := 2 ^ 16 }, .watchdogExpire 4, .tamperAlarm ⟨.pin 2 true, 0⟩,
    .tamperAlarm ⟨.pin 0 true, 2 ^ 64⟩, .pairIdentRx { okId with devid := 2 ^ 64 }, .pairIdentRx { okId with rev := 2 ^ 16 },
    .pairIdentRx { okId with key := [] }, .heartbeatRx (2 ^ 40), .timingMarkRx (2 ^ 64), .keyTransferRx true 33 0 true,
    .keyTransferRx true 16 (2 ^ 128) true, .keyTransferRx false (2 ^ 32) 0 true, .keyTransferRx false 0 (2 ^ 256) true, .drillMessageRx (2 ^ 40),
    .coldBoot [] ⟨true, []⟩, .coldBoot (List.replicate 6 true) ⟨true, [128]⟩, .keepWake 0 [], .femHoldExpire 6, .cipherOperationDone 4 ref1,
    .standbyExecuteSlot (2 ^ 64) 0] :
    List Instr).all (fun i => !i.wf) = true := by decide

theorem smoke_well_formed : ([.schedSlotframeSet ref1 okSf, .schedCellsWrite ref1at 0 [⟨3, 0, 0⟩], .herdNodeSet ref1 okHerd, .nodeInsert ref1 okIns,
    .pktSend ref1 pktA, .imgOpen ref1 okImg, .secKeyImport ref1 (zeros 84) 0, .romPatchLoad ref1 patchA, .secCipher ref1 cipA,
    .rxFrameEnd 0 (.fsk 0x4008 [1, 2]) okMeas 0, .rxSummaryAdmit ⟨0, [(0, 0, 0)]⟩, .ethFrameRx 0 ethA, .errorDetect okErr, .journalRecordRx okRec,
    .ptpSyncRx 1 ⟨syncA, 0⟩, .pairIdentRx okId, .coldBoot (List.replicate 6 true) ⟨true, []⟩, .slotBoundary] : List Instr).all Instr.wf = true := by decide

/-! ## Worked examples of the spec: expected values are the spec's own -/

/-- After R85: 19,660,800 SLCK periods of 30,517.2 ns; the estimate 930,506 ns, so DRIFTED. -/
def slept : TimeSt := { ready.time with ratio := 0x7735_3333_3333, slckUnc := 150, keepC0 := 0, keepT0 := 0 }
theorem test_wake_elapsed : wakeElapsed slept 19_660_800 = 599_992_565_760 ∧ (wakeEst slept 19_660_800).floor = 930_506 := by decide +kernel
theorem test_wake_drifted : wakeState { ready with time := slept } (wakeEst slept 19_660_800) = .drifted := by decide +kernel

/-- After R132: sixteen carriers of -6.25 dBm fit +6 dBm, not of -6.00 dBm; two of +4 dBm do not. -/
def carrying (n : Nat) (l : Int) (s : State) : State := port 4 (fun p => { p with carriers := List.replicate n ⟨0, 0, 0, 0, l, none⟩ }) s
theorem test_composite_limit : (powerFits (carrying 15 (-25) ready) 4 (-25), powerFits (carrying 15 (-24) ready) 4 (-24),
    powerFits (carrying 1 16 ready) 4 16) = (true, false, false) := by decide +kernel

/-- The Eland example: PHR, FCS over "123456789", first payload chips. -/
theorem test_eland_phr : (elandPhr 13 3).map BitVec.toNat = [0x0D, 0x18, 0xA1] := by decide +kernel
theorem test_eland_fcs : crc32 [0x31, 0x32, 0x33, 0x34, 0x35, 0x36, 0x37, 0x38, 0x39] = 0xCBF4_3926 := by decide +kernel
theorem test_eland_phr_chips : packBits 8 (scramble (spreadBits 32 [true, false])) =
    [0x00, 0x1E, 0xE2, 0x65, 0xED, 0x85, 0x33, 0x24] := by decide +kernel
/-- Bits 0 and 32 of p[0] and bit 0 of p[1], and the order in which column 0 leaves the interleaver. -/
def testPsdu : List Octet := [0x31, 0x32, 0x33, 0x34, 0x35, 0x36, 0x37, 0x38, 0x39, 0x26, 0x39, 0xF4, 0xCB]
theorem test_eland_code : ([768, 800, 832].map (fun i => (elandEncode (airBits testPsdu)).getD i false)) = [false, true, true] := by decide +kernel
theorem test_eland_interleave : (interleave 104).take 7 = [0, 32, 64, 96, 768, 800, 832] := by decide +kernel
/-- A bulk frame of 250 octets at S = 1 with NPRE 8 lasts 215.68 ms. -/
theorem test_eland_airtime : elandNs 8 1 250 = 215_680_000 := by decide

/-- The water meter after R219: guard 361.036 µs. -/
def meterState : State := ready.setReg 0x90008 0
def meterNode : Node := { newNode State.reset 4 ⟨0x12, 0, 2, 0, false, none⟩ with drift := 250 }
theorem test_guard : guardNs meterState meterNode 12_000 = 361_036 := by decide +kernel

/-- The RSSI column of the Herd example, in 1/16 dB. -/
theorem test_herd_rssi : (List.range 6).foldl (fun l _ => l ++ [smooth (l.getLastD 0) (-1472) 3]) [-1520] =
    [-1520, -1514, -1509, -1505, -1501, -1498, -1495] := by decide

/-- The streetlight image: its source blocks, its PSDU, the partition. -/
theorem test_image_partition : srcSymbols 1_600_000 256 = 6250 ∧ srcBlocks 1_600_000 256 = 4 ∧ partition 6250 4 = (1563, 1562, 2, 2) := by decide
/-- Generation 7 carries key index 8. -/
theorem test_key_index : keyIndexOf 7 = 8 := by decide

/-- The HERD_NODE_SET descriptor: profile pinned, rung 2 forced. -/
def herdDesc : RawDesc := descOf ([0x11, 0x03, 0x00, 0x80, 0x42, 0, 0, 0] ++ List.replicate 8 0 ++
  [0x15, 0x9D, 0x00, 0x11, 0x01, 0x02] ++ List.replicate 8 0)
theorem test_herd_descriptor : dOp herdDesc = 0x0311 ∧ dTag herdDesc = 0x42 ∧ dAsn herdDesc = 0 ∧ argN (dArgs herdDesc) 0 3 = 40_213 ∧
    (formOf 0x0311).bind (ownerCheck herdDesc) = none := by decide +kernel

/-- The PTP example: meanPathDelay 2,760 ns, offset -2,220 ns; times in units of 2^-16 ns. -/
def ptpEx : State := tim (fun t => { t with ptp := setAt t.ptp 0 { PtpSt.reset with
  wait := some (7, 65536 * 4980, 5_000_000_000)
  delayReq := some (9, 65536 * 250_000_120) } }) (ptpUp ready)
def ptpSynced : State := syncDone 0 0 (65536 * 4980) ptpEx
/-- Delay_Resp 9 with correctionField 900 ns and receiveTimestamp 250,001,560 ns. -/
def respEx : List Octet :=
  octetsBE 1 9 ++ zeros 7 ++ octetsBE 8 (900 * 65536) ++ zeros 4 ++ octetsBE 8 1 ++ octetsBE 2 1 ++ octetsBE 2 9 ++ zeros 2 ++
    zeros 6 ++ octetsBE 4 250_001_560 ++ octetsBE 8 (ownEui ready) ++ octetsBE 2 1
theorem test_ptp_delay : (match execPtpDelayRespRx 0 ⟨respEx, 0⟩ ptpSynced with
    | .next t => (ptpAt t 0).mpd
    | _ => none) = some (2760 * 65536) := by decide +kernel

/-- Chapter 19: a staged CTL, its active copy, and a discarded write of a standby. -/
theorem test_staged_write : (match execRegisterWrite 0x61114 4 0x830203E7 ready with
    | .next t => (t.reg 0x61114, t.act 0x61114)
    | _ => (0, 0)) = (0x830203E7, resetAt 0x61114) := by decide +kernel
theorem test_active_copy_read_only : (match execRegisterWrite 0x69114 4 0x830203E7 ready with
    | .next t => decide (t = ready)
    | _ => false) = true := by decide +kernel

/-- The watermark example: HIGH 400 sets the bit, LOW 300 clears it. -/
theorem test_watermark : (match execWatermarkCrossing 54 (wmAt 400 ready) with | .next t => t.que.above | _ => []) = [54] ∧
    (match execWatermarkCrossing 54 (wmAbove (wmAt 300 ready)) with | .next t => t.que.above | _ => [1]) = [] := by decide +kernel

/-- A second error of a unit under recovery is one class higher, with ESC. -/
theorem test_escalation : ((raiseErr 0x0301 1 9 0 0 29 0 { ready with err := { ready.err with
    busy := true
    fifo := [⟨0x0301, 1, false, false, 9, 5, 4, 0, 0, 0, 22, 0x211⟩] } }).err.fifo.map (fun r => (r.cls, r.esc))) = [(1, false), (2, true)] := by decide +kernel

/-- The streetlight frame of 302 octets: SUN FSK with a 4-octet FCS, level 6, ff02::1, ports 0xF0B1 and 0xF0B2, T = 256. -/
def streetlight : ImgOpenArgs := { imgA with
  sym := 256
  sport := 0xF0B1
  dport := 0xF0B2
  dst := 0xFF02_0000_0000_0000_0000_0000_0000_0001 }
theorem test_image_psdu : imgLen (ready.setReg 0x8080C 6) ⟨0x80020000, 0, 8⟩ streetlight = 302 := by decide +kernel

/-- The worked example after R326: the input of the single CMAC block of K_node. -/
theorem test_node_key_input (k : List Octet) : kdf k lblLink (octetsBE 8 0x025D_A000_0001_9C4F) 128 =
    (cmac k [0, 0, 0, 1, 0x4C, 0x49, 0x4E, 0x4B, 0, 2, 0x5D, 0xA0, 0, 0, 1, 0x9C, 0x4F, 0, 0, 0, 0x80]).take 16 := by
  simp [kdf, kdfBlocks, ceilDiv, lblLink, octetsBE, octetsLE]

/-- A standby discards a write of `DEM_PROF[3]` PARAM and takes one of `QUE_WM[54]` CFG. -/
theorem test_standby_writes : (match execRegisterWrite 0x70134 4 5 (paired .standbySynced ready) with
    | .next t => (t.reg 0x70134 == resetAt 0x70134, t.reg 0xC)
    | _ => (false, 0)) = (true, 4) ∧ (match execRegisterWrite 0xD0460 4 0x012C0190 (paired .standbySynced ready) with
    | .next t => t.reg 0xD0460
    | _ => 0) = 0x012C0190 := by decide +kernel

end Sys2Proof.Tests
end

section
/-! SUPPORT. Every command keeps the register words in canonical form: one lemma for each operation of the model that
changes the state, in the order of their definitions. -/
namespace Sys2Proof.Machine

/- These many short proofs are elaborated in their order: side by side with the model's tests they pass the check's memory. -/
set_option Elab.async false

/-- The queue, and the parts of a state that hold register words or counts. -/
def wordFrame (s : State) := (s.pending, s.regs, s.cnt, s.active, s.bank.apply, s.pwr.bank)

/-- What every command keeps: the queue is what it was, and register words that were canonical are canonical. -/
def Kept (s t : State) : Prop := t.pending = s.pending ∧ (s.wordsOk = true → t.wordsOk = true)

section
variable {s₀ s t : State}

theorem wordsOk_of_frame (e : wordFrame t = wordFrame s) : t.wordsOk = s.wordsOk := by
  simp only [wordFrame, Prod.mk.injEq] at e
  obtain ⟨-, hr, hc, ha, hb, hp⟩ := e
  simp only [State.wordsOk, hr, hc, ha, hb, hp]

theorem wordsOk_iff : s.wordsOk = true ↔ cellsWf resetAt s.regs = true ∧ cellsWf (fun _ => 0) s.cnt = true ∧
    cellsWf resetAt s.active = true ∧ (∀ a, s.bank.apply = some a → cellsWf resetAt a.snap = true) ∧
    ∀ b, s.pwr.bank = some b → cellsWf resetAt b.regs = true ∧ cellsWf resetAt b.active = true := by
  simp only [State.wordsOk, Bool.and_eq_true, and_assoc]
  cases s.bank.apply <;> cases s.pwr.bank <;> simp

theorem Kept.refl : Kept s s := ⟨rfl, id⟩

/-- A change of anything but the queue and the words keeps both. -/
theorem Kept.frame (h : Kept s₀ s) (e : wordFrame t = wordFrame s) : Kept s₀ t :=
  ⟨(congrArg Prod.fst e).trans h.1, fun w => (wordsOk_of_frame e).trans (h.2 w)⟩

/-- An update of fields that hold no words, the banks and the power state left alone. -/
theorem kept_upd {rdata fresh latch time rf rx tbl sch tx herd adp sec eth snap win ports captured que hif jrn pair err}
    (h : Kept s₀ s) :
    Kept s₀ ⟨s.pending, rdata, fresh, s.regs, s.cnt, s.active, latch, time, rf, rx, s.bank, tbl, sch, tx, herd, adp, sec, eth,
      snap, win, ports, captured, que, hif, jrn, pair, err, s.pwr⟩ :=
  h.frame rfl

theorem kept_cnt {c : List (Nat × Word)} (hc : cellsWf (fun _ => 0) s.cnt = true → cellsWf (fun _ => 0) c = true)
    (h : Kept s₀ s) : Kept s₀ { s with cnt := c } := by
  refine ⟨h.1, fun w => ?_⟩
  obtain ⟨hr, hn, ha⟩ := wordsOk_iff.mp (h.2 w)
  exact wordsOk_iff.mpr ⟨hr, hc hn, ha⟩

theorem kept_regs {l : List (Nat × Word)} (hl : cellsWf resetAt s.regs = true → cellsWf resetAt l = true)
    (h : Kept s₀ s) : Kept s₀ { s with regs := l } := by
  refine ⟨h.1, fun w => ?_⟩
  obtain ⟨hr, hn⟩ := wordsOk_iff.mp (h.2 w)
  exact wordsOk_iff.mpr ⟨hl hr, hn⟩

/-- Counting. -/
theorem kept_cntBump {a lo w n : Nat} (h : Kept s₀ s) : Kept s₀ { s with cnt := cntBump a lo w n s.cnt } :=
  kept_cnt (cntBump_wf a lo w n s.cnt) h

theorem bumpAll_wf (l : List Nat) (c : List (Nat × Word)) (h : cellsWf (fun _ => 0) c = true) :
    cellsWf (fun _ => 0) (bumpAll l c) = true := by
  induction l generalizing c with
  | nil => exact h
  | cons a l ih => exact ih _ (cntBump_wf a 0 32 1 c h)

/-- An update that also counts. -/
theorem kept_updBump {rdata fresh latch time rf rx tbl sch tx herd adp sec eth snap win ports captured que hif jrn pair err}
    {a lo w n : Nat} (h : Kept s₀ s) :
    Kept s₀ ⟨s.pending, rdata, fresh, s.regs, cntBump a lo w n s.cnt, s.active, latch, time, rf, rx, s.bank, tbl, sch, tx, herd,
      adp, sec, eth, snap, win, ports, captured, que, hif, jrn, pair, err, s.pwr⟩ :=
  (kept_cntBump (a := a) (lo := lo) (w := w) (n := n) h).frame rfl

theorem kept_bumpAll {l : List Nat} (h : Kept s₀ s) : Kept s₀ { s with cnt := bumpAll l s.cnt } :=
  kept_cnt (bumpAll_wf l s.cnt) h

theorem kept_setReg {a : Nat} {v : Word} (h : Kept s₀ s) : Kept s₀ (s.setReg a v) := kept_regs (setReg_wf a v s) h

theorem kept_ite {c : Prop} [Decidable c] (hs : Kept s₀ s) (ht : Kept s₀ t) : Kept s₀ (if c then s else t) := by
  split
  · exact hs
  · exact ht

/-- A conditional change of a state. -/
theorem kept_when {c : Prop} [Decidable c] (ht : Kept s₀ s → Kept s₀ t) (h : Kept s₀ s) : Kept s₀ (if c then t else s) :=
  kept_ite (ht h) h

theorem kept_unless {c : Prop} [Decidable c] (ht : Kept s₀ s → Kept s₀ t) (h : Kept s₀ s) : Kept s₀ (if c then s else t) :=
  kept_ite h (ht h)

theorem kept_foldl {α : Type} {f : State → α → State} {l : List α} (hf : ∀ u x, Kept s₀ u → Kept s₀ (f u x)) (h : Kept s₀ s) :
    Kept s₀ (l.foldl f s) := by
  induction l generalizing s with
  | nil => exact h
  | cons x l ih => exact ih (hf s x h)

theorem kept_bumpN {a n : Nat} (h : Kept s₀ s) : Kept s₀ (bumpN a n s) := kept_cntBump h
theorem kept_bump {a : Nat} (h : Kept s₀ s) : Kept s₀ (bump a s) := kept_bumpN h
theorem kept_bumpIf {c : Bool} {a : Nat} (h : Kept s₀ s) : Kept s₀ (bumpIf c a s) := kept_bumpN h
theorem kept_coreOnly (hs : Kept s₀ s) (ht : Kept s₀ t) : Kept s₀ (coreOnly s t) := kept_ite ht hs
theorem kept_glbFlag {b : Word} (h : Kept s₀ s) : Kept s₀ (glbFlag b s) := kept_setReg h

theorem kept_jwr {f : State → State} (hf : ∀ u, Kept s₀ u → Kept s₀ (f u)) (h : Kept s₀ s) : Kept s₀ (jwr f s) :=
  kept_ite h (kept_ite (kept_glbFlag h) (hf s h))

theorem kept_offerRec {d : Nat} {r : HRec} (h : Kept s₀ s) : Kept s₀ (offerRec d r s) := (kept_bumpAll h).frame rfl
theorem kept_event {k : Nat} {l : List Nat} (h : Kept s₀ s) : Kept s₀ (event k l s) := kept_offerRec h
theorem kept_eventIf {c : Bool} {k : Nat} {l : List Nat} (h : Kept s₀ s) : Kept s₀ (eventIf c k l s) := kept_ite (kept_event h) h

theorem kept_journalMore {m : Bool} {b : JBody} (h : Kept s₀ s) : Kept s₀ (journalMore m b s) := by
  refine (kept_cnt (c := (journalMore m b s).cnt) (fun hc => ?_) h).frame rfl
  unfold journalMore
  dsimp only
  split
  · exact cntBump_wf _ _ _ _ _ hc
  · exact hc

theorem kept_journal {b : JBody} (h : Kept s₀ s) : Kept s₀ (journal b s) := kept_journalMore h

theorem kept_journalData {c : HostCmd} {k a n : Nat} (h : Kept s₀ s) : Kept s₀ (journalData c k a n s) := by
  induction k generalizing a n s with
  | zero => exact h
  | succ k ih => exact kept_ite h (ih (kept_journalMore h))

theorem kept_admitCmd {r : CmdRef} {op need n : Nat} {c : HostCmd} (h : Kept s₀ s) : Kept s₀ (admitCmd r op need n c s) :=
  kept_journalData (kept_journalMore (kept_upd h))

theorem kept_postBy {f : SlotSt → List CplSlot → List CplSlot} {r : CmdRef} {st u x d : Nat} (h : Kept s₀ s) :
    Kept s₀ (postBy f r st u x d s) := (kept_cntBump h).frame rfl
theorem kept_post {r : CmdRef} {st u x d : Nat} (h : Kept s₀ s) : Kept s₀ (post r st u x d s) := kept_postBy h
theorem kept_complete {r : CmdRef} {st u x d : Nat} (h : Kept s₀ s) : Kept s₀ (complete r st u x d s) :=
  kept_upd (kept_postBy h)
theorem kept_done {r : CmdRef} (h : Kept s₀ s) : Kept s₀ (done r s) := kept_complete h
theorem kept_doneWith {r : CmdRef} {n : Nat} (h : Kept s₀ s) : Kept s₀ (doneWith r n s) := kept_complete h
theorem kept_refuse {r : CmdRef} {st u d : Nat} (h : Kept s₀ s) : Kept s₀ (refuse r st u d s) := kept_complete h

theorem kept_runCmd {r : CmdRef} {op need n : Nat} {c : HostCmd} {body : State → State}
    (hb : ∀ u, Kept s₀ u → Kept s₀ (body u)) (h : Kept s₀ s) : Kept s₀ (runCmd r op need n c s body) := by
  rcases runCmd_cases r op need n c s body with ⟨-, e⟩ | ⟨-, st, u, d, -, e⟩ | ⟨-, e⟩
  · rw [e]; exact h
  · rw [e]; exact kept_refuse (kept_admitCmd h)
  · rw [e]; exact hb _ (kept_admitCmd h)

theorem kept_checked {r : CmdRef} {l : List (Bool × Nat × Nat × Nat)} {f : State → State}
    (hf : ∀ u, Kept s₀ u → Kept s₀ (f u)) (h : Kept s₀ s) : Kept s₀ (checked r l f s) := by
  rcases checked_cases r l f s with ⟨-, e⟩ | ⟨x, -, -, e⟩
  · rw [e]; exact hf s h
  · rw [e]; exact kept_refuse h

/-- Without a bank of KEEP no bank needs to be in form. -/
theorem kept_noBank {p : PwrSt} (hp : p.bank = none) (h : Kept s₀ s) : Kept s₀ { s with pwr := p } := by
  refine ⟨h.1, fun w => ?_⟩
  obtain ⟨hr, hc, ha, hb, -⟩ := wordsOk_iff.mp (h.2 w)
  exact wordsOk_iff.mpr ⟨hr, hc, ha, hb, fun b e => nomatch hp.symm.trans e⟩

/-- Without a pending apply no snapshot needs to be in form. -/
theorem kept_noApply {b : BankSt} (hb : b.apply = none) (h : Kept s₀ s) : Kept s₀ { s with bank := b } := by
  refine ⟨h.1, fun w => ?_⟩
  obtain ⟨hr, hc, ha, -, hp⟩ := wordsOk_iff.mp (h.2 w)
  exact wordsOk_iff.mpr ⟨hr, hc, ha, fun a e => (nomatch hb.symm.trans e), hp⟩

theorem putWords_wf (l c : List (Nat × Word)) (h : cellsWf resetAt c = true) : cellsWf resetAt (putWords l c) = true := by
  induction l generalizing c with
  | nil => exact h
  | cons e l ih => exact ih _ (cellsWf_put resetAt e.1 e.2 c h)

/-- A reset that keeps some of the register words and empties every other list of words. -/
theorem kept_reset {q : Nat × Word → Bool} (hq : t.pending = s.pending) (hr : t.regs = s.regs.filter q) (hc : t.cnt = [])
    (ha : t.active = []) (hb : t.bank.apply = none) (hp : t.pwr.bank = none) (h : Kept s₀ s) : Kept s₀ t := by
  refine ⟨hq.trans h.1, fun w => ?_⟩
  rw [wordsOk_iff, hr, hc, ha, hb, hp]
  exact ⟨cellsWf_filter _ _ _ (wordsOk_iff.mp (h.2 w)).1, rfl, rfl, fun _ e => (nomatch e), fun _ e => (nomatch e)⟩

/-- Register words and active copies that a bank of KEEP held. -/
theorem kept_banked {b : KeepBank} (hb : s.pwr.bank = some b) (ht : Kept s₀ t) (h : Kept s₀ s) :
    Kept s₀ { t with regs := b.regs, active := b.active } := by
  refine ⟨ht.1, fun w => ?_⟩
  obtain ⟨-, -, -, -, hk⟩ := wordsOk_iff.mp (h.2 w)
  obtain ⟨-, hc, -, ha, hp⟩ := wordsOk_iff.mp (ht.2 w)
  exact wordsOk_iff.mpr ⟨(hk b hb).1, hc, (hk b hb).2, ha, hp⟩

theorem kept_putApply {l : List (Nat × Word)} {a : Apply} (ha : s₀.wordsOk = true → cellsWf resetAt a.snap = true)
    (h : Kept s₀ s) : Kept s₀ { s with regs := putWords l s.regs, bank := ⟨some a, 0, 0⟩ } := by
  refine ⟨h.1, fun ok => ?_⟩
  obtain ⟨hr, hc, hw, -, hp⟩ := wordsOk_iff.mp (h.2 ok)
  exact wordsOk_iff.mpr ⟨putWords_wf l s.regs hr, hc, hw, fun _ e => Option.some.inj e ▸ ha ok, hp⟩

/-- A command answers a next state that keeps the queue and the words. -/
def Answers (s₀ : State) (r : Res) : Prop := ∃ t, r = .next t ∧ Kept s₀ t

theorem answers_next (h : Kept s₀ t) : Answers s₀ (.next t) := ⟨t, rfl, h⟩

theorem answers_ite {c : Prop} [Decidable c] {a b : Res} (ha : Answers s₀ a) (hb : Answers s₀ b) :
    Answers s₀ (if c then a else b) := by
  split
  · exact ha
  · exact hb

/-! ### Frames and their ends -/

theorem kept_sweepTombs (h : Kept s₀ s) : Kept s₀ (sweepTombs s) := kept_bumpN (kept_upd h)

theorem kept_setParent {i p} (h : Kept s₀ s) : Kept s₀ (setParent i p s) := by
  unfold setParent
  split
  · exact kept_sweepTombs (kept_upd (kept_upd (kept_upd h)))
  · exact h

/-- Linked frames change the packet memory and their node's list. -/
theorem kept_linkNode {i : Nat} {k : FrameKind} {c : Option CmdRef} {os : List (List Octet)} (e : linkNode i k c os s = some t)
    (h : Kept s₀ s) : Kept s₀ t := by
  unfold linkNode at e
  split at e
  · cases e
  · split at e
    · cases e
    · split at e
      · cases e
      · cases e
        exact kept_upd (kept_upd h)

theorem kept_linkBulk {k : FrameKind} {c : Option CmdRef} {i n : Nat} {os : List (List Octet)}
    (e : linkBulk k c i n os s = some t) (h : Kept s₀ s) : Kept s₀ t := by
  unfold linkBulk at e
  split at e
  · cases e
  · cases e
    exact kept_upd h

theorem kept_partDone {r part st} (h : Kept s₀ s) : Kept s₀ (partDone r part st s) := by
  unfold partDone
  dsimp only
  split
  · exact h
  · exact kept_ite (kept_complete (kept_upd h)) (kept_upd h)

theorem kept_endFrame {st f} (h : Kept s₀ s) : Kept s₀ (endFrame st f s) := by
  unfold endFrame
  dsimp only
  split
  · exact kept_partDone (kept_upd (kept_upd h))
  · exact kept_upd (kept_upd h)

theorem kept_frameDone {id st} (h : Kept s₀ s) : Kept s₀ (frameDone id st s) := by
  unfold frameDone
  split
  · exact kept_sweepTombs (kept_foldl (fun _ _ => kept_endFrame) h)
  · exact h

theorem kept_lastTry {id st} (h : Kept s₀ s) : Kept s₀ (lastTry id st s) := by
  unfold lastTry
  split
  · exact kept_ite (kept_frameDone h) h
  · exact h

theorem kept_framesDone {ids st} (h : Kept s₀ s) : Kept s₀ (framesDone ids st s) :=
  kept_foldl (fun _ _ => kept_frameDone) h

theorem kept_cellOut {k asn sfh node} (h : Kept s₀ s) : Kept s₀ (cellOut k asn sfh node s) := kept_eventIf (kept_bump h)

/-! ### Slotframes and cells -/

theorem kept_abortTx {t} (h : Kept s₀ s) : Kept s₀ (abortTx t s) := by
  unfold abortTx
  dsimp only
  split
  · exact kept_frameDone (kept_cellOut (kept_upd (kept_upd h)))
  · exact kept_cellOut (kept_upd (kept_upd h))

theorem kept_withdraw {n hit} (h : Kept s₀ s) : Kept s₀ (withdraw n hit s) := kept_foldl (fun _ _ => kept_abortTx) h

theorem kept_doSlotframeSet {r a} (h : Kept s₀ s) : Kept s₀ (doSlotframeSet r a s) :=
  kept_checked (fun _ hu => kept_unless kept_withdraw (kept_upd hu)) h

theorem kept_sfBegin {k u} (h : Kept s₀ s) : Kept s₀ (sfBegin k u s) := by
  unfold sfBegin
  dsimp only
  split
  · exact kept_done (kept_upd h)
  · exact kept_upd h

theorem kept_sixpClosed {i} (h : Kept s₀ s) : Kept s₀ (sixpClosed i s) := kept_upd (kept_upd (kept_bump (kept_event h)))
theorem kept_closeSixps (h : Kept s₀ s) : Kept s₀ (closeSixps s) := kept_foldl (fun _ _ => kept_sixpClosed) h
theorem kept_dlsfGone (h : Kept s₀ s) : Kept s₀ (dlsfGone s) := kept_upd (kept_upd (kept_closeSixps h))

theorem kept_sfRemove {k u} (h : Kept s₀ s) : Kept s₀ (sfRemove k u s) := by
  unfold sfRemove
  dsimp only
  split
  · exact kept_done (kept_sweepTombs (kept_when kept_dlsfGone (kept_upd (kept_upd (kept_upd h)))))
  · exact kept_sweepTombs (kept_when kept_dlsfGone (kept_upd (kept_upd (kept_upd h))))

theorem kept_sfEffect {k now} (h : Kept s₀ s) : Kept s₀ (sfEffect k now s) := by
  unfold sfEffect
  dsimp only
  refine kept_foldl ?_ h
  intro _ _ hu
  split
  · exact kept_when kept_sfRemove (kept_ite (kept_sfBegin hu) hu)
  · exact kept_ite (kept_sfBegin hu) hu

theorem kept_doCellsWrite {r sfh es} (h : Kept s₀ s) : Kept s₀ (doCellsWrite r sfh es s) :=
  kept_checked (fun _ => kept_upd) h

theorem kept_putCells {u es} (h : Kept s₀ s) : Kept s₀ (putCells u es s) :=
  kept_foldl (fun _ _ hu => kept_upd (kept_upd (kept_upd hu))) h

theorem kept_cellsEffect {q} (h : Kept s₀ s) : Kept s₀ (cellsEffect q s) := by
  unfold cellsEffect
  dsimp only
  split
  · split
    · exact kept_done (kept_sweepTombs (kept_putCells (kept_upd h)))
    · exact kept_sweepTombs (kept_putCells (kept_upd h))
  · split
    · exact kept_refuse (kept_upd h)
    · exact kept_upd h

theorem answers_cellsWriteEffect (h : Kept s₀ s) : Answers s₀ (execCellsWriteEffect s) :=
  answers_next (kept_coreOnly h (kept_foldl (fun _ _ => kept_cellsEffect) h))

/-! ### The node table -/

theorem kept_moveEntry {a b} (h : Kept s₀ s) : Kept s₀ (moveEntry a b s) := by
  unfold moveEntry
  dsimp only
  split
  · exact kept_upd h
  · exact h

theorem kept_movedEvent {e m} (h : Kept s₀ s) : Kept s₀ (movedEvent e m s) := kept_event h
theorem kept_placed {p a} (h : Kept s₀ s) : Kept s₀ (placed s p a) := kept_upd (kept_foldl (fun _ _ => kept_moveEntry) h)

theorem kept_doNodeInsert {r a} (h : Kept s₀ s) : Kept s₀ (doNodeInsert r a s) := by
  unfold doNodeInsert
  dsimp only
  split
  · exact kept_refuse h
  · split
    · exact kept_complete h
    · split
      · exact kept_refuse (kept_bump h)
      · split
        · exact kept_refuse h
        · refine kept_doneWith (kept_bumpIf (kept_bump (kept_bumpN (kept_foldl (fun _ _ => kept_movedEvent) ?_))))
          split
          · exact kept_upd (kept_placed h)
          · exact kept_placed h

theorem kept_unhook {i st} (h : Kept s₀ s) : Kept s₀ (unhook i st s) :=
  kept_setParent (kept_upd (kept_upd (kept_framesDone h)))

theorem kept_removeNode {i} (h : Kept s₀ s) : Kept s₀ (removeNode i s) := by
  unfold removeNode
  extract_lets t
  have ht : Kept s₀ t := kept_bump (kept_unhook h)
  split
  · exact kept_ite (kept_upd ht) (kept_upd ht)
  · exact ht

theorem kept_doNodeRemove {r index eui} (h : Kept s₀ s) : Kept s₀ (doNodeRemove r index eui s) := by
  unfold doNodeRemove
  split
  · exact kept_ite (kept_done (kept_removeNode h)) (kept_refuse h)
  · exact kept_refuse h

theorem kept_doNodeRead {r byEui key outAddr} (h : Kept s₀ s) : Kept s₀ (doNodeRead r byEui key outAddr s) := by
  unfold doNodeRead
  split
  · exact kept_doneWith (kept_upd h)
  · exact kept_refuse h

theorem kept_learn {e a ts fields} (h : Kept s₀ s) : Kept s₀ (learn e a ts fields s) :=
  kept_ite h (kept_ite (kept_bump h) (kept_offerRec (kept_upd h)))

theorem kept_ageEntry {a i} (h : Kept s₀ s) : Kept s₀ (ageEntry a s i) := by
  unfold ageEntry
  dsimp only
  split
  · exact kept_ite (kept_upd h) (kept_when kept_removeNode (kept_bump (kept_offerRec h)))
  · exact h

theorem kept_drainOne {b} (h : Kept s₀ s) : Kept s₀ (drainOne b s) := by
  unfold drainOne
  split
  · exact kept_bump (kept_bump (kept_movedEvent (kept_moveEntry h)))
  · exact h

theorem kept_visit {a p} (h : Kept s₀ s) : Kept s₀ (visit a p s) :=
  kept_when (kept_foldl (fun _ _ => kept_drainOne)) (kept_foldl (fun _ _ => kept_ageEntry) h)

theorem answers_ageingVisit (h : Kept s₀ s) : Answers s₀ (execAgeingVisit s) :=
  answers_next (kept_coreOnly h (kept_ite h (kept_upd (kept_foldl (fun _ _ => kept_visit) h))))

theorem kept_doPrefixInsert {r key len result} (h : Kept s₀ s) : Kept s₀ (doPrefixInsert r key len result s) :=
  kept_checked (fun _ hu => kept_done (kept_upd (kept_upd hu))) h

theorem kept_doPrefixRemove {r key len} (h : Kept s₀ s) : Kept s₀ (doPrefixRemove r key len s) :=
  kept_checked (fun _ hu => kept_done (kept_upd hu)) h

/-! ### The adaptation layer -/

theorem kept_downlink {c : Option CmdRef} {p : List Octet} {n k : Nat} (e : downlink c p s = .linked n k t) (h : Kept s₀ s) :
    Kept s₀ t := by
  unfold downlink at e
  split at e
  · cases e
  · split at e
    · cases e
    · split at e
      · cases e
      · split at e
        · cases e
        · split at e
          · cases e
          · dsimp only at e
            split at e
            · rename_i hl
              cases e
              exact kept_unless kept_upd (kept_linkNode hl h)
            · cases e

theorem kept_downDrop {p : List Octet} (h : Kept s₀ s) : Kept s₀ (downDrop p s) := by
  unfold downDrop
  split
  · rename_i e
    split at e
    · cases e
    · exact kept_downlink e h
  · exact kept_bumpIf (kept_bump h)
  · exact h

theorem kept_egress {q : Nat} {p : List Octet} (h : Kept s₀ s) : Kept s₀ (egress q p s) := (kept_bumpAll h).frame rfl

theorem kept_route {o p} (h : Kept s₀ s) : Kept s₀ (route o p s) :=
  kept_ite (kept_bump h) (kept_ite (kept_offerRec h) (kept_ite (kept_bump h) (kept_ite (kept_downDrop h)
    (kept_egress h))))

theorem kept_daoTarget {asn t} (h : Kept s₀ s) : Kept s₀ (daoTarget asn t s) := by
  unfold daoTarget
  dsimp only
  split
  · exact h
  · exact kept_bumpIf (kept_upd (kept_setParent h))

theorem kept_learnParents {asn p} (h : Kept s₀ s) : Kept s₀ (learnParents asn p s) :=
  kept_ite (kept_foldl (fun _ _ => kept_daoTarget) h) h

theorem kept_uplink {o p} (h : Kept s₀ s) : Kept s₀ (uplink o p s) :=
  kept_ite h (kept_ite (kept_bump h) (kept_route (kept_learnParents h)))

theorem kept_addFrag {o c off p} (h : Kept s₀ s) : Kept s₀ (addFrag o c off p s) := by
  unfold addFrag
  dsimp only
  split
  · exact kept_uplink (kept_sweepTombs (kept_upd h))
  · split
    · exact kept_bump (kept_bump h)
    · exact kept_upd h

theorem kept_fragment {o tag size off p} (h : Kept s₀ s) : Kept s₀ (fragment o tag size off p s) := by
  unfold fragment
  split
  · exact h
  · split
    · exact kept_bump h
    · split
      · exact kept_ite (kept_bump h) (kept_ite (kept_bump (kept_sweepTombs (kept_upd h))) (kept_addFrag h))
      · exact kept_ite (kept_bump h) (kept_ite (kept_bump h) (kept_addFrag h))

theorem kept_payloadIn {o bcast pl} (h : Kept s₀ s) : Kept s₀ (payloadIn o bcast pl s) := by
  unfold payloadIn
  split
  · exact h
  · split
    · exact kept_uplink h
    · exact kept_fragment h
    · exact kept_bump h

theorem answers_reasmExpire (h : Kept s₀ s) : Answers s₀ (execReasmExpire s) :=
  answers_next (kept_coreOnly h (kept_sweepTombs (kept_bumpN (kept_foldl (fun _ _ => kept_upd) h))))

theorem answers_parentExpire {node} (h : Kept s₀ s) : Answers s₀ (execParentExpire node s) := by
  unfold execParentExpire
  refine answers_next (kept_coreOnly h ?_)
  split
  · exact kept_ite (kept_setParent h) h
  · exact h

/-! ### Rings and doorbells -/

theorem answers_dbCmdPi {page value descs} (h : Kept s₀ s) : Answers s₀ (execDbCmdPi page value descs s) := by
  unfold execDbCmdPi
  dsimp only
  refine answers_next ?_
  split
  · exact h
  · exact kept_updBump h

theorem answers_dbCplCi {page value} (h : Kept s₀ s) : Answers s₀ (execDbCplCi page value s) := by
  unfold execDbCplCi
  dsimp only
  refine answers_next ?_
  split
  · exact h
  · exact kept_updBump h

theorem answers_dbDlvCi {page value} (h : Kept s₀ s) : Answers s₀ (execDbDlvCi page value s) := by
  unfold execDbDlvCi
  dsimp only
  refine answers_next ?_
  split
  · exact h
  · exact kept_updBump h

theorem kept_deliverHead {d x items} (h : Kept s₀ s) : Kept s₀ (deliverHead d x items s) := by
  unfold deliverHead
  dsimp only
  split
  · exact kept_ite (kept_upd h) h
  · exact kept_upd h
  · exact kept_upd h
  · exact h

theorem kept_dumpDone (h : Kept s₀ s) : Kept s₀ (dumpDone s) := by
  unfold dumpDone
  dsimp only
  split
  · exact kept_ite (kept_done (kept_upd h)) h
  · exact h

theorem answers_recordDeliver {ring} (h : Kept s₀ s) : Answers s₀ (execRecordDeliver ring s) := by
  unfold execRecordDeliver
  refine answers_next ?_
  split
  · exact kept_upd h
  · split
    · exact kept_ite (kept_dumpDone (kept_deliverHead h)) h
    · exact h
  · exact h

theorem answers_interruptSend {ring} (h : Kept s₀ s) : Answers s₀ (execInterruptSend ring s) := by
  unfold execInterruptSend
  dsimp only
  refine answers_next ?_
  split
  · split
    · split
      · exact kept_ite (kept_upd (kept_upd (kept_upd h))) h
      · exact h
    · exact h
  · split
    · split
      · exact kept_ite (kept_upd (kept_upd (kept_upd h))) h
      · exact h
    · exact h
  · exact h

theorem kept_cfgErr (h : Kept s₀ s) : Kept s₀ (cfgErr s) := kept_setReg h
theorem kept_dropWaiting {d} (h : Kept s₀ s) : Kept s₀ (dropWaiting d s) := kept_updBump h

theorem kept_ringStart {ring} (h : Kept s₀ s) : Kept s₀ (ringStart ring s) := by
  unfold ringStart
  dsimp only
  split
  · exact kept_upd h
  · exact kept_upd h
  · split
    · exact kept_upd (kept_event (kept_upd h))
    · exact kept_upd h

theorem kept_ringStop {ring} (h : Kept s₀ s) : Kept s₀ (ringStop ring s) := by
  unfold ringStop
  dsimp only
  split
  · exact kept_upd h
  · exact h
  · exact kept_dropWaiting h

theorem kept_journalCfg {a v} (h : Kept s₀ s) : Kept s₀ (journalCfg a v s) := kept_journal h

theorem kept_ringCtlWrite {ring value} (h : Kept s₀ s) : Kept s₀ (ringCtlWrite ring value s) :=
  kept_ite h (kept_ite (kept_cfgErr h) (kept_ite (kept_cfgErr h) (kept_ite (kept_ringStop (kept_setReg (kept_ite
    (kept_journalCfg h) h))) (kept_when kept_ringStart (kept_setReg (kept_ite (kept_journalCfg h) h))))))

theorem answers_ringCtlWrite {ring value} (h : Kept s₀ s) : Answers s₀ (execRingCtlWrite ring value s) :=
  answers_next (kept_ite (kept_jwr (fun _ => kept_ringCtlWrite) h) (kept_ite (kept_ringCtlWrite h) h))

theorem kept_ringDown {ring} (h : Kept s₀ s) : Kept s₀ (ringDown s ring) :=
  kept_ite (kept_ringStop (kept_setReg (kept_ite (kept_journalCfg h) h))) h

theorem kept_linkDown (h : Kept s₀ s) : Kept s₀ (linkDown s) := by
  unfold linkDown
  extract_lets _ _ s1 s2 s3
  have h1 : Kept s₀ s1 := kept_updBump h
  have h2 : Kept s₀ s2 := kept_foldl (fun _ _ => kept_ringDown) h1
  have h3 : Kept s₀ s3 := kept_unless (fun h => kept_setReg (kept_journalCfg h)) h2
  have h4 := kept_regs (cellsWf_filter resetAt (fun p => !(0xE8000 ≤ p.1 && p.1 < 0xE8400)) s3.regs) h3
  exact h4.frame rfl

/-! ### Keys and the frame counter -/

theorem kept_useKey {k} (h : Kept s₀ s) : Kept s₀ (useKey k s) := kept_updBump h
theorem kept_fcStallCheck (h : Kept s₀ s) : Kept s₀ (fcStallCheck s) := kept_eventIf (kept_upd h)
theorem kept_fcLowCheck (h : Kept s₀ s) : Kept s₀ (fcLowCheck s) := kept_eventIf (kept_upd h)
theorem kept_fcReserveCheck (h : Kept s₀ s) : Kept s₀ (fcReserveCheck s) := kept_eventIf (kept_upd h)
theorem kept_drawFc (h : Kept s₀ s) : Kept s₀ (drawFc s) := kept_fcLowCheck (kept_fcReserveCheck (kept_upd h))

theorem kept_takeSwitch (h : Kept s₀ s) : Kept s₀ (takeSwitch s) := by
  unfold takeSwitch
  dsimp only
  split
  · exact kept_done (kept_upd h)
  · exact kept_upd h

theorem kept_switchIfDue {now} (h : Kept s₀ s) : Kept s₀ (switchIfDue now s) := by
  unfold switchIfDue
  split
  · exact kept_ite (kept_takeSwitch h) h
  · exact h

theorem kept_openJournal {reason} (h : Kept s₀ s) : Kept s₀ (openJournal reason s) :=
  kept_journal (kept_journal (kept_upd h))

theorem kept_closeJournal {reason} (h : Kept s₀ s) : Kept s₀ (closeJournal reason s) := kept_upd (kept_journal h)

/-! ### Packets, broadcasts and images -/

theorem kept_poolDrop {c k} (h : Kept s₀ s) : Kept s₀ (poolDrop c k s) := kept_bumpIf h

theorem kept_sendPacket {r : CmdRef} {p : List Octet} (h : Kept s₀ s) : Kept s₀ (sendPacket r p s) := by
  unfold sendPacket
  split
  · exact kept_refuse h
  · exact kept_refuse h
  · exact kept_refuse h
  · exact kept_refuse (kept_poolDrop h)
  · rename_i e
    exact kept_upd (kept_downlink e h)

theorem kept_doPktSend {r p} (h : Kept s₀ s) : Kept s₀ (doPktSend r p s) := kept_checked (fun _ => kept_sendPacket) h

theorem kept_doBcastSend {r : CmdRef} {p : List Octet} {n k : Nat} (h : Kept s₀ s) : Kept s₀ (doBcastSend r p n k s) := by
  refine kept_checked (fun u hu => ?_) h
  split
  · rename_i e
    exact kept_upd (kept_linkBulk e hu)
  · exact kept_refuse (kept_poolDrop hu)

theorem kept_imgOpened {r a cs q} (h : Kept s₀ s) : Kept s₀ (imgOpened r a cs q s) :=
  kept_doneWith (kept_upd (kept_upd (kept_upd h)))

theorem kept_doImgOpen {r a} (h : Kept s₀ s) : Kept s₀ (doImgOpen r a s) := by
  unfold doImgOpen
  dsimp only
  refine kept_checked ?_ h
  intro _ hu
  split
  · exact kept_imgOpened hu
  · exact kept_refuse (kept_poolDrop hu)

theorem kept_doImgLoad {r session offset data} (h : Kept s₀ s) : Kept s₀ (doImgLoad r session offset data s) := by
  unfold doImgLoad
  split
  · exact kept_refuse h
  · split
    · exact kept_refuse h
    · exact kept_ite (kept_refuse h) (kept_done (kept_upd h))

theorem kept_doImgSend {r session sbn esi count} (h : Kept s₀ s) : Kept s₀ (doImgSend r session sbn esi count s) := by
  unfold doImgSend
  dsimp only
  split
  · exact kept_refuse h
  · split
    · exact kept_refuse h
    · exact kept_checked (fun _ => kept_upd) h

theorem kept_linkSymbols {q : RqReq} {x : ImgSess} {i n : Nat} (h : Kept s₀ s) : Kept s₀ (linkSymbols q x i n s) := by
  induction n generalizing i s with
  | zero => exact h
  | succ n ih =>
    refine ih ?_
    split
    · rename_i e
      exact kept_linkBulk e h
    · exact kept_partDone (kept_poolDrop h)

theorem kept_linkDue {q} (h : Kept s₀ s) : Kept s₀ (linkDue q s) := by
  unfold linkDue
  dsimp only
  split
  · exact kept_linkSymbols (kept_upd (kept_upd h))
  · exact kept_upd (kept_upd h)

theorem answers_imgSendLink (h : Kept s₀ s) : Answers s₀ (execImgSendLink s) :=
  answers_next (kept_coreOnly h (kept_ite (kept_foldl (fun _ _ => kept_linkDue) h) h))

theorem kept_doImgClose {r session} (h : Kept s₀ s) : Kept s₀ (doImgClose r session s) := by
  unfold doImgClose
  split
  · exact kept_refuse h
  · split
    · exact kept_refuse h
    · exact kept_ite (kept_refuse h) (kept_done (kept_upd (kept_upd h)))

/-! ### The timebase -/

theorem kept_setTimeState {n} (h : Kept s₀ s) : Kept s₀ (setTimeState n s) := kept_eventIf (kept_upd h)
theorem kept_setSource {c} (h : Kept s₀ s) : Kept s₀ (setSource c s) := kept_eventIf (kept_upd h)
theorem kept_reselect (h : Kept s₀ s) : Kept s₀ (reselect s) := kept_setSource h

theorem kept_revertTo {l : List Nat} (h : Kept s₀ s) : Kept s₀ (revertTo l s) := by
  induction l generalizing s with
  | nil => exact h
  | cons c l ih => exact kept_ite (kept_setSource h) (kept_ite (ih h) (ih (kept_event (kept_upd h))))

theorem kept_revert (h : Kept s₀ s) : Kept s₀ (revert s) := kept_ite h (kept_revertTo h)

theorem kept_loadTime {value} (h : Kept s₀ s) : Kept s₀ (loadTime value s) :=
  kept_switchIfDue (kept_unless kept_openJournal (kept_upd (kept_upd h)))

theorem kept_slewEvent {off} (h : Kept s₀ s) : Kept s₀ (slewEvent off s) := kept_event h
theorem kept_slewOr {off} (h : Kept s₀ s) : Kept s₀ (slewOr off s) := kept_ite (kept_slewEvent h) (kept_upd h)

theorem kept_followRef {off} (h : Kept s₀ s) : Kept s₀ (followRef off s) :=
  kept_ite (kept_setTimeState (kept_slewOr h)) (kept_ite (kept_slewEvent (kept_upd h)) (kept_upd h))

theorem kept_timeTable {c acc changed lost off} (h : Kept s₀ s) : Kept s₀ (timeTable c acc changed lost off s) := by
  unfold timeTable
  dsimp only
  split
  · exact kept_when (fun hy => kept_ite (kept_followRef hy) (kept_ite (kept_loadTime hy) hy)) (kept_ite
    (kept_reselect h) h)
  · exact kept_ite (kept_reselect (kept_setTimeState (kept_upd h))) (kept_revert (kept_ite (kept_slewOr h) h))
  · exact kept_when kept_followRef (kept_ite (kept_reselect h) h)

theorem kept_sourceOutcome {c p outcome off} (h : Kept s₀ s) : Kept s₀ (sourceOutcome c p outcome off s) :=
  kept_ite h (kept_timeTable (kept_upd h))

theorem kept_reference {c p kind off pps mpd} (h : Kept s₀ s) : Kept s₀ (reference c p kind off pps mpd s) :=
  kept_ite (kept_upd h) (kept_sourceOutcome (kept_journal (kept_upd h)))

theorem kept_timeBoundary (h : Kept s₀ s) : Kept s₀ (timeBoundary s) := by
  unfold timeBoundary
  split
  · exact kept_ite (kept_setTimeState h) h
  · exact kept_ite (kept_setTimeState h) h
  · exact kept_revert h
  · exact h

/-! ### Preparation of cells -/

theorem kept_countSteer {x} (h : Kept s₀ s) : Kept s₀ (countSteer x s) := kept_bumpIf (kept_bumpIf (kept_bumpIf h))

theorem kept_useKeyOpt {k} (h : Kept s₀ s) : Kept s₀ (useKeyOpt k s) := by
  unfold useKeyOpt
  split
  · exact kept_useKey h
  · exact h

theorem kept_drawFor {n} (h : Kept s₀ s) : Kept s₀ (drawFor n s) := kept_ite (kept_upd h) (kept_drawFc h)

theorem kept_stageTx {t sub x mk level p} (h : Kept s₀ s) : Kept s₀ (stageTx t sub x mk level p s) := by
  unfold stageTx
  dsimp only
  refine kept_upd (kept_upd ?_)
  split
  · exact kept_upd (kept_countSteer (kept_useKeyOpt (kept_drawFor h)))
  · exact kept_countSteer (kept_useKeyOpt (kept_drawFor h))

theorem kept_countFail {k} (h : Kept s₀ s) : Kept s₀ (countFail k s) :=
  kept_ite (kept_bump h) (kept_ite (kept_updBump h) (kept_ite (kept_updBump h) h))

theorem kept_prepCell {n sfh r named used a w} (h : Kept s₀ s) : Kept s₀ (prepCell n sfh r named used a w s) := by
  unfold prepCell
  dsimp only
  split
  · exact kept_upd (kept_cellOut h)
  · split
    · split
      · exact kept_frameDone (kept_upd (kept_cellOut (kept_countFail h)))
      · exact kept_upd (kept_cellOut (kept_countFail h))
    · exact kept_upd (kept_stageTx h)

theorem kept_prepCells {n : Nat} {named used : List Nat} {l : List (Nat × SfRec × Nat × Word)} (h : Kept s₀ s) :
    Kept s₀ (prepCells n named used l s) := by
  induction l generalizing used s with
  | nil => exact h
  | cons x l ih => exact ih (kept_prepCell h)

theorem kept_prepSlot {n} (h : Kept s₀ s) : Kept s₀ (prepSlot n s) := kept_ite h (kept_prepCells h)

/-! ### Reports of the radio -/

theorem kept_portReached {p} (h : Kept s₀ s) : Kept s₀ (portReached p s) :=
  kept_ite (kept_foldl (fun _ _ => kept_done) (kept_upd h)) h

theorem kept_portIdle {p now} (h : Kept s₀ s) : Kept s₀ (portIdle p now s) :=
  kept_ite h (kept_ite (kept_upd h) (kept_upd h))

theorem kept_spllStop (h : Kept s₀ s) : Kept s₀ (spllStop s) :=
  kept_upd (kept_upd (kept_portReached (kept_portReached (kept_upd h))))

theorem kept_returnPorts (h : Kept s₀ s) : Kept s₀ (returnPorts s) :=
  kept_foldl (fun _ _ hu => kept_ite hu (kept_portReached (kept_upd hu))) h

theorem kept_deafClose {gone} (h : Kept s₀ s) : Kept s₀ (deafClose gone s) :=
  kept_foldl (fun _ _ hu => kept_ite (kept_upd hu) (kept_upd hu)) (kept_upd h)

/-! ### Error records -/

theorem kept_setPair {n trig} (h : Kept s₀ s) : Kept s₀ (setPair n trig s) := kept_eventIf (kept_upd h)

theorem kept_clearCore (h : Kept s₀ s) : Kept s₀ (clearCore s) :=
  kept_upd (s := { s with bank := ⟨none, s.bank.applyErr, s.bank.applyDet⟩ }) (kept_noApply rfl h)

theorem kept_enterDiverged {trig mismatch} (h : Kept s₀ s) : Kept s₀ (enterDiverged trig mismatch s) :=
  kept_setPair (kept_updBump (kept_closeJournal (kept_upd h)))

theorem kept_freezeFor {c} (h : Kept s₀ s) : Kept s₀ (freezeFor c s) := kept_eventIf (kept_upd h)
theorem kept_postErr {r} (h : Kept s₀ s) : Kept s₀ (postErr r s) := kept_offerRec h

theorem kept_gapOut {d} (h : Kept s₀ s) : Kept s₀ (gapOut s d) := by
  unfold gapOut
  dsimp only
  split
  · exact kept_ite (kept_upd h) h
  · exact h

theorem kept_gapRings (h : Kept s₀ s) : Kept s₀ (gapRings s) :=
  kept_foldl (fun _ _ => kept_gapOut) (kept_foldl (fun _ _ => kept_upd) h)

theorem kept_fatalReport {r} (h : Kept s₀ s) : Kept s₀ (fatalReport r s) :=
  kept_upd (kept_postErr (kept_gapRings (kept_foldl (fun _ _ => kept_refuse) h)))

theorem kept_deviceFatal {r} (h : Kept s₀ s) : Kept s₀ (deviceFatal r s) :=
  kept_when (fun hy => kept_event (kept_enterDiverged hy)) (kept_when kept_fatalReport (kept_freezeFor (kept_upd
    (kept_upd (kept_upd h)))))

theorem kept_raiseErr {a b c d e f g : Nat} (h : Kept s₀ s) : Kept s₀ (raiseErr a b c d e f g s) := by
  refine kept_ite (kept_bump h) ?_
  extract_lets _ c' _ r _ t
  have ht : Kept s₀ t := (kept_cnt (fun w => cntBump_wf (0x120020 + 4 * c') 0 32 1 _ (cntBump_wf _ _ _ _ _ w)) h).frame rfl
  exact kept_ite (kept_ite (kept_bump ht) (kept_when kept_postErr ht))
    (kept_ite (kept_bump (kept_upd ht)) (kept_ite (kept_deviceFatal ht) (kept_upd ht)))

/-! ### Ports and calibration -/

theorem kept_portGo {p} (h : Kept s₀ s) : Kept s₀ (portGo p s) :=
  kept_ite (kept_portIdle h) (kept_upd (kept_portReached (kept_upd h)))

theorem kept_portEffect {p now} (h : Kept s₀ s) : Kept s₀ (portEffect p now s) :=
  kept_foldl (fun _ _ hu => kept_portGo (kept_upd hu)) h

theorem kept_doRfPortSet {r port target} (h : Kept s₀ s) : Kept s₀ (doRfPortSet r port target s) :=
  kept_checked (fun _ hu => kept_when kept_portEffect (kept_when kept_withdraw (kept_upd hu))) h

theorem kept_transDone {p n at_} (h : Kept s₀ s) : Kept s₀ (transDone p n at_ s) :=
  kept_upd (kept_portReached (kept_unless kept_upd (kept_upd (kept_upd h))))

theorem answers_portTransitionDone {port} (h : Kept s₀ s) : Answers s₀ (execPortTransitionDone port s) := by
  unfold execPortTransitionDone
  refine answers_next ?_
  split
  · exact kept_transDone h
  · exact h

theorem kept_calResult {port kind ok t0} (h : Kept s₀ s) : Kept s₀ (calResult port kind ok t0 s) :=
  kept_event (kept_journal h)

theorem kept_spllLeave {n : SpllState} (h : Kept s₀ s) : Kept s₀ (spllLeave n s) :=
  kept_updBump (kept_event (kept_journal (kept_spllStop h)))

theorem kept_spllLocked (h : Kept s₀ s) : Kept s₀ (spllLocked s) :=
  kept_returnPorts (kept_event (kept_journal (kept_upd h)))

theorem kept_calStart {p now} (h : Kept s₀ s) : Kept s₀ (calStart p now s) := by
  unfold calStart
  dsimp only
  split
  · split
    · exact kept_ite h (kept_upd (kept_ite (kept_spllLeave h) h))
    · exact h
  · split
    · exact kept_ite h (kept_ite (kept_refuse (kept_upd h)) (kept_ite (kept_refuse (kept_upd h)) (kept_ite h (kept_upd
      (kept_upd (kept_upd (kept_upd h)))))))
    · exact h

theorem kept_doRfCalibrate {r port} (h : Kept s₀ s) : Kept s₀ (doRfCalibrate r port s) :=
  kept_checked (fun _ hu => kept_when kept_calStart (kept_ite (kept_upd hu) (kept_upd hu))) h

theorem answers_calRunDone {port ok} (h : Kept s₀ s) : Answers s₀ (execCalRunDone port ok s) := by
  unfold execCalRunDone
  dsimp only
  refine answers_next ?_
  split
  · split
    · exact kept_ite (kept_done (kept_calResult (kept_ite (kept_spllLocked (kept_upd (kept_upd h))) (kept_upd (kept_upd
      (kept_upd h)))))) (kept_complete (kept_calResult (kept_ite (kept_spllLocked (kept_upd (kept_upd h))) (kept_upd
      (kept_upd (kept_upd h))))))
    · exact h
  · split
    · split
      · exact kept_ite (kept_done (kept_portGo (kept_calResult (kept_upd (kept_upd h))))) (kept_complete (kept_portGo
        (kept_calResult (kept_upd (kept_upd h)))))
      · exact kept_portGo (kept_calResult (kept_upd (kept_upd h)))
    · exact h

theorem answers_refLost (h : Kept s₀ s) : Answers s₀ (execRefLost s) :=
  answers_next (kept_ite h (kept_ite (kept_spllLeave (kept_raiseErr (kept_event (kept_journal (kept_updBump h)))))
    (kept_upd (kept_raiseErr (kept_event (kept_journal (kept_updBump h)))))))

theorem answers_refRecoveryTimeout (h : Kept s₀ s) : Answers s₀ (execRefRecoveryTimeout s) := by
  unfold execRefRecoveryTimeout
  refine answers_next ?_
  split
  · exact kept_ite (kept_raiseErr (kept_upd (kept_upd h))) h
  · exact h

theorem kept_spllGiveUp (h : Kept s₀ s) : Kept s₀ (spllGiveUp s) :=
  kept_raiseErr (kept_foldl (fun _ _ hu => kept_foldl (fun _ _ => kept_refuse) (kept_upd hu)) (kept_calResult
    (kept_upd h)))

theorem answers_channelDeafStart {ch id} (h : Kept s₀ s) : Answers s₀ (execChannelDeafStart ch id s) := by
  unfold execChannelDeafStart
  dsimp only
  refine answers_next ?_
  split
  · exact kept_ite h (kept_upd (kept_upd (kept_upd h)))
  · exact h

theorem answers_channelDeafEnd {ch id} (h : Kept s₀ s) : Answers s₀ (execChannelDeafEnd ch id s) := by
  unfold execChannelDeafEnd
  dsimp only
  refine answers_next ?_
  split
  · split
    · exact kept_deafClose (kept_upd h)
    · exact kept_ite h (kept_deafClose h)
  · exact h

theorem answers_coexClear (h : Kept s₀ s) : Answers s₀ (execCoexClear s) := by
  unfold execCoexClear
  refine answers_next ?_
  split
  · exact kept_ite (kept_event (kept_upd h)) h
  · exact h

/-! ### Transmission -/

theorem answers_txPortWake {port} (h : Kept s₀ s) : Answers s₀ (execTxPortWake port s) := by
  unfold execTxPortWake
  dsimp only
  refine answers_next (kept_coreOnly h ?_)
  split
  · exact h
  · exact kept_ite h (kept_upd (kept_upd h))

theorem answers_coexRequestAssert {id} (h : Kept s₀ s) : Answers s₀ (execCoexRequestAssert id s) := by
  unfold execCoexRequestAssert
  dsimp only
  refine answers_next (kept_coreOnly h ?_)
  split
  · exact kept_ite h (kept_upd (kept_upd (kept_upd h)))
  · exact h

theorem answers_txRampStart {id} (h : Kept s₀ s) : Answers s₀ (execTxRampStart id s) := by
  unfold execTxRampStart
  dsimp only
  refine answers_next (kept_coreOnly h ?_)
  split
  · exact kept_ite h (kept_ite (kept_upd (kept_upd (kept_upd h))) (kept_ite (kept_upd (kept_upd h)) (kept_upd
    (kept_upd h))))
  · exact h

theorem answers_femLeadSwitch {id} (h : Kept s₀ s) : Answers s₀ (execFemLeadSwitch id s) := by
  unfold execFemLeadSwitch
  refine answers_next (kept_coreOnly h ?_)
  split
  · exact kept_ite (kept_upd (kept_upd h)) h
  · exact h

theorem kept_yieldOut {id outcome t} (h : Kept s₀ s) : Kept s₀ (yieldOut id outcome t s) :=
  kept_upd (kept_unless kept_portGo (kept_portIdle (kept_upd h)))

theorem kept_sampleGrant {granted} (h : Kept s₀ s) : Kept s₀ (sampleGrant granted s) :=
  kept_ite h (kept_eventIf (kept_upd h))

theorem answers_txInstant {id granted lbtBusy} (h : Kept s₀ s) : Answers s₀ (execTxInstant id granted lbtBusy s) := by
  unfold execTxInstant
  dsimp only
  refine answers_next (kept_coreOnly h ?_)
  split
  · split
    · exact h
    · split
      · exact kept_upd (kept_upd h)
      · split
        · exact kept_upd h
        · exact kept_ite (kept_yieldOut (kept_upd h)) (kept_ite (kept_upd (kept_upd (kept_yieldOut (kept_bumpIf
          (kept_sampleGrant (kept_upd h)))))) (kept_upd (kept_upd (kept_bumpIf (kept_sampleGrant (kept_upd h))))))
  · exact h

theorem answers_txHoldExpire {id} (h : Kept s₀ s) : Answers s₀ (execTxHoldExpire id s) := by
  unfold execTxHoldExpire
  refine answers_next (kept_coreOnly h ?_)
  split
  · exact kept_ite (kept_bump (kept_yieldOut (kept_upd h))) h
  · exact h

theorem kept_retryFrame {id} (h : Kept s₀ s) : Kept s₀ (retryFrame id s) := by
  unfold retryFrame
  dsimp only
  split
  · exact kept_ite (kept_lastTry (kept_upd h)) (kept_frameDone h)
  · exact h

theorem kept_noAck {interrupted t} (h : Kept s₀ s) : Kept s₀ (noAck interrupted t s) := by
  unfold noAck
  dsimp only
  refine kept_sweepTombs ?_
  split
  · exact kept_retryFrame (kept_upd (kept_cellOut (kept_upd h)))
  · exact kept_upd (kept_cellOut (kept_upd h))

theorem kept_ackSync {t} (h : Kept s₀ s) : Kept s₀ (ackSync t s) := by
  unfold ackSync
  split
  · split
    · exact kept_upd h
    · exact h
  · exact h

theorem kept_outcomeIn {t : Tx} {o n : Nat} (h : Kept s₀ s) : Kept s₀ (outcomeIn t o n s) := by
  refine kept_ite (kept_ite (kept_upd h) (kept_noAck (kept_upd h)))
    (kept_ite h (kept_ite (kept_ackSync (kept_upd (kept_upd (kept_upd h)))) (kept_sweepTombs ?_)))
  split
  · exact kept_lastTry (kept_cellOut (kept_upd (kept_upd h)))
  · exact kept_cellOut (kept_upd (kept_upd h))

theorem answers_txOutcome {id outcome hold} (h : Kept s₀ s) : Answers s₀ (execTxOutcome id outcome hold s) := by
  unfold execTxOutcome
  dsimp only
  refine answers_next (kept_coreOnly h ?_)
  split
  · exact kept_outcomeIn (kept_journal h)
  · exact h

theorem answers_txFrameEnd {id} (h : Kept s₀ s) : Answers s₀ (execTxFrameEnd id s) := by
  unfold execTxFrameEnd
  dsimp only
  refine answers_next (kept_coreOnly h ?_)
  split
  · split
    · exact h
    · split
      · exact kept_upd (kept_portIdle (kept_upd (kept_upd (kept_upd h))))
      · refine kept_sweepTombs ?_
        split
        · exact kept_frameDone (kept_cellOut (kept_upd (kept_portIdle (kept_upd (kept_upd (kept_upd h))))))
        · exact kept_cellOut (kept_upd (kept_portIdle (kept_upd (kept_upd (kept_upd h)))))
      · refine kept_sweepTombs ?_
        split
        · exact kept_frameDone (kept_cellOut (kept_upd (kept_portIdle (kept_upd (kept_upd (kept_upd h))))))
        · exact kept_cellOut (kept_upd (kept_portIdle (kept_upd (kept_upd (kept_upd h)))))
      · split
        · exact kept_upd (kept_portIdle (kept_upd (kept_upd (kept_upd h))))
        · refine kept_sweepTombs ?_
          split
          · exact kept_frameDone (kept_cellOut (kept_upd (kept_portIdle (kept_upd (kept_upd (kept_upd h))))))
          · exact kept_cellOut (kept_upd (kept_portIdle (kept_upd (kept_upd (kept_upd h)))))
      · split
        · exact kept_upd (kept_portIdle (kept_upd (kept_upd (kept_upd h))))
        · refine kept_sweepTombs ?_
          split
          · exact kept_frameDone (kept_cellOut (kept_upd (kept_portIdle (kept_upd (kept_upd (kept_upd h))))))
          · exact kept_cellOut (kept_upd (kept_portIdle (kept_upd (kept_upd (kept_upd h)))))
  · exact h

theorem answers_txLingerExpire {port} (h : Kept s₀ s) : Answers s₀ (execTxLingerExpire port s) := by
  unfold execTxLingerExpire
  dsimp only
  refine answers_next ?_
  split
  · exact kept_ite (kept_upd h) (kept_upd (kept_upd h))
  · exact h

theorem answers_femHoldExpire {port} (h : Kept s₀ s) : Answers s₀ (execFemHoldExpire port s) := by
  unfold execFemHoldExpire
  dsimp only
  refine answers_next ?_
  split
  · exact kept_upd (kept_upd (kept_upd h))
  · exact h

theorem answers_ackWindowClose {id} (h : Kept s₀ s) : Answers s₀ (execAckWindowClose id s) := by
  unfold execAckWindowClose
  refine answers_next (kept_coreOnly h ?_)
  split
  · exact kept_ite (kept_noAck (kept_upd h)) h
  · exact h

/-! ### The herd engine -/

theorem kept_hcnt {k} (h : Kept s₀ s) : Kept s₀ (hcnt k s) := kept_bump h

theorem kept_notice {i : Nat} (h : Kept s₀ s) : Kept s₀ (notice i s) := by
  unfold notice
  split
  · split
    · exact h
    · split
      · rename_i e
        exact kept_hcnt (kept_linkNode e h)
      · exact h
  · exact h

theorem kept_announce {i k v} (h : Kept s₀ s) : Kept s₀ (announce i k v s) :=
  kept_notice (kept_upd (kept_when kept_upd (kept_upd h)))

theorem kept_annsAcked {i carried} (h : Kept s₀ s) : Kept s₀ (annsAcked i carried s) :=
  kept_upd (kept_upd (kept_foldl (fun _ _ => kept_upd) h))

theorem kept_announceMap {n nd} (h : Kept s₀ s) : Kept s₀ (announceMap n nd s) := kept_ite h (kept_hcnt (kept_upd h))
theorem kept_adviseMap {n i old new} (h : Kept s₀ s) : Kept s₀ (adviseMap n i old new s) := kept_ite (kept_upd h) h

theorem kept_setDrop {n nd d} (h : Kept s₀ s) : Kept s₀ (setDrop n nd d s) := by
  unfold setDrop
  dsimp only
  split
  · exact kept_announceMap (kept_adviseMap (kept_upd h))
  · exact kept_adviseMap (kept_upd h)

theorem kept_recheckMap {n was nd} (h : Kept s₀ s) : Kept s₀ (recheckMap n was s nd) := by
  unfold recheckMap
  dsimp only
  split
  · exact kept_announceMap (kept_adviseMap (kept_ite h (kept_upd h)))
  · exact kept_adviseMap (kept_ite h (kept_upd h))

theorem kept_readmit {n i} (h : Kept s₀ s) : Kept s₀ (readmit n i s) := by
  unfold readmit
  dsimp only
  split
  · exact h
  · exact kept_ite (kept_setDrop (kept_upd h)) (kept_announceMap h)

theorem kept_afterPsrg {n i g} (h : Kept s₀ s) : Kept s₀ (afterPsrg n i g s) := by
  unfold afterPsrg
  dsimp only
  split
  · exact kept_when kept_setDrop (kept_readmit h)
  · exact kept_readmit h

theorem kept_adapt {n i : Nat} (h : Kept s₀ s) : Kept s₀ (adapt n i s) := by
  unfold adapt
  split
  · exact h
  · extract_lets _ _ step t
    clear_value step
    have ht : Kept s₀ t := by
      dsimp only [t]
      split
      · exact kept_when kept_hcnt (kept_upd (kept_upd h))
      · exact h
    refine kept_ite ht ?_
    split
    · exact kept_upd ht
    · exact ht

theorem kept_hintTo {n i v} (h : Kept s₀ s) : Kept s₀ (hintTo n i v s) := by
  unfold hintTo
  split
  · exact kept_ite h (kept_upd h)
  · exact h

theorem kept_rootHint {n i} (h : Kept s₀ s) : Kept s₀ (rootHint n i s) := by
  unfold rootHint
  split
  · exact kept_ite (kept_hintTo h) h
  · exact h

theorem kept_avoidHint {n nd} (h : Kept s₀ s) : Kept s₀ (avoidHint n s nd) := kept_ite (kept_hintTo h) h

theorem kept_linkAsk {i c : Nat} {l : List (Nat × Nat)} (h : Kept s₀ s) : Kept s₀ (linkAsk i c l s) := by
  unfold linkAsk
  dsimp only
  split
  · rename_i e
    exact kept_linkNode e h
  · exact kept_sweepTombs (kept_upd (kept_when kept_upd h))

theorem kept_putDl {n es} (h : Kept s₀ s) : Kept s₀ (putDl n es s) := by
  unfold putDl
  dsimp only
  split
  · exact kept_ite h (kept_upd h)
  · exact h

theorem kept_dropDl {n i only} (h : Kept s₀ s) : Kept s₀ (dropDl n i only s).1 := by
  unfold dropDl
  dsimp only
  split
  · exact kept_putDl h
  · exact h

theorem kept_failAsk {n i code} (h : Kept s₀ s) : Kept s₀ (failAsk n i code s) := kept_upd (kept_dropDl (kept_upd h))

theorem kept_sixpFail {i code} (h : Kept s₀ s) : Kept s₀ (sixpFail i code s) :=
  kept_linkAsk (kept_upd (kept_upd (kept_hcnt (kept_event h))))

theorem kept_writeDl {n i code c} (h : Kept s₀ s) : Kept s₀ (writeDl n i code c s) := by
  unfold writeDl
  split
  · exact kept_ite (kept_failAsk h) (kept_upd (kept_putDl (kept_upd h)))
  · exact kept_failAsk h

theorem kept_sixpResponse {n i seq code cells} (h : Kept s₀ s) : Kept s₀ (sixpResponse n i seq code cells s) := by
  unfold sixpResponse
  dsimp only
  split
  · split
    · exact h
    · split
      · exact kept_failAsk h
      · split
        · split
          · exact kept_ite (kept_writeDl h) (kept_failAsk h)
          · exact kept_failAsk h
        · exact kept_upd (kept_dropDl (kept_upd h))
  · exact h

theorem kept_sixpIn {n i : Nat} {m : SixpMsg} (h : Kept s₀ s) : Kept s₀ (sixpIn n i m s) := by
  cases m with
  | response => exact kept_sixpResponse h
  | request =>
    unfold sixpIn
    dsimp only
    split
    · refine kept_upd (kept_when kept_upd ?_)
      split
      · exact kept_upd (kept_dropDl h)
      · exact h
    · exact h

theorem kept_addAgreed {i} (h : Kept s₀ s) : Kept s₀ (addAgreed i s) := by
  unfold addAgreed
  split
  · exact kept_ite (kept_hcnt (kept_upd h)) h
  · exact h

theorem kept_applyOut {o : HOut} (h : Kept s₀ s) : Kept s₀ (applyOut o s) := by
  cases o with
  | announce => exact kept_when kept_announce h
  | advise => exact kept_event h
  | ask => exact kept_when kept_linkAsk h
  | write => exact kept_addAgreed h
  | drop => exact kept_upd h
  | dropAll => exact kept_sweepTombs (kept_upd (kept_upd h))
  | reply i code seq body =>
    unfold applyOut
    dsimp only
    cases e : linkNode i (.sixp i false) none [sixpAnswer (sfid s) seq code body] s with
    | none => exact h
    | some t => exact kept_linkNode e h
  | noCell => exact kept_hcnt (kept_event h)
  | fail => exact kept_sixpFail h

theorem kept_applyDecs {n} (h : Kept s₀ s) : Kept s₀ (applyDecs n s) := kept_foldl (fun _ _ => kept_applyOut) (kept_upd h)
theorem kept_meter {n i rssi snr} (h : Kept s₀ s) : Kept s₀ (meter n i rssi snr s) := kept_when kept_adapt (kept_upd h)

theorem kept_setGd {n gd} (h : Kept s₀ s) : Kept s₀ (setGd n gd s) :=
  kept_ite h (kept_foldl (fun _ _ hu => kept_announceMap (kept_adviseMap hu)) (kept_upd h))

theorem kept_census {n asn es} (h : Kept s₀ s) : Kept s₀ (census n asn es s) :=
  kept_when kept_setGd (kept_bumpN (kept_upd h))

theorem kept_herdItemIn {n i} (h : Kept s₀ s) : Kept s₀ (herdItemIn n s i) := by
  unfold herdItemIn
  dsimp only
  split
  · split
    · exact h
    · exact kept_upd (kept_foldl (fun _ _ => kept_upd) (kept_meter h))
  · exact kept_ite (kept_meter h) h
  · exact kept_when kept_rootHint (kept_ite (kept_meter h) h)
  · exact kept_ite h (kept_when kept_afterPsrg (kept_upd (kept_upd h)))
  · exact kept_census h
  · exact kept_sixpIn h
  · exact kept_upd (kept_dropDl (kept_upd (kept_upd h)))
  · exact kept_ite (kept_foldl (fun _ _ => kept_recheckMap) h) h

theorem kept_sixpWork {n nd} (h : Kept s₀ s) : Kept s₀ (sixpWork n s nd) := by
  unfold sixpWork
  split
  · exact h
  · split
    · exact kept_upd (kept_upd (kept_upd (kept_upd h)))
    · split
      · exact kept_upd (kept_upd (kept_upd h))
      · split
        · split
          · exact kept_upd h
          · exact kept_upd (kept_upd (kept_upd h))
        · exact h

theorem kept_adviseCell {n nd} (h : Kept s₀ s) : Kept s₀ (adviseCell n s nd) := by
  unfold adviseCell
  split
  · exact h
  · split
    · exact kept_upd h
    · split
      · split
        · exact h
        · exact kept_upd h
      · exact h

theorem kept_herdBoundary {n : Nat} (h : Kept s₀ s) : Kept s₀ (herdBoundary n s) := by
  unfold herdBoundary
  extract_lets t u v w x y
  have hu : Kept s₀ u := kept_foldl (fun _ _ => kept_herdItemIn) (kept_upd (kept_applyDecs h))
  have hv : Kept s₀ v := kept_foldl (fun _ _ => kept_failAsk) hu
  have hw : Kept s₀ w := kept_foldl (fun _ _ => kept_unless kept_notice) hv
  have hx : Kept s₀ x := kept_foldl (fun _ _ => kept_when kept_readmit) hw
  have hy : Kept s₀ y := kept_foldl (fun _ _ => kept_avoidHint) hx
  exact kept_ite hw (kept_ite (kept_foldl (fun _ _ => kept_sixpWork) hy) (kept_foldl (fun _ _ => kept_adviseCell) hy))

theorem kept_dropDecs {b} (h : Kept s₀ s) : Kept s₀ (dropDecs b s) :=
  kept_foldl (fun _ _ hu => kept_upd (kept_upd hu)) (kept_upd (kept_upd h))

theorem answers_sixpTimeout {node} (h : Kept s₀ s) : Answers s₀ (execSixpTimeout node s) := by
  unfold execSixpTimeout
  dsimp only
  refine answers_next (kept_coreOnly h ?_)
  split
  · split
    · exact kept_ite (kept_failAsk (kept_upd h)) h
    · exact h
  · exact h

theorem answers_dropReadmitCheck {node} (h : Kept s₀ s) : Answers s₀ (execDropReadmitCheck node s) :=
  answers_next (kept_coreOnly h (kept_ite (kept_readmit h) h))

theorem kept_setHctl {v} (h : Kept s₀ s) : Kept s₀ (setHctl v s) := kept_upd (kept_setReg h)

theorem kept_doHerdModeSet {r mode autosf dlsf lag} (h : Kept s₀ s) : Kept s₀ (doHerdModeSet r mode autosf dlsf lag s) :=
  kept_checked (fun _ hu => kept_done (kept_setHctl hu)) h

theorem answers_schHctlWrite {value} (h : Kept s₀ s) : Answers s₀ (execSchHctlWrite value s) :=
  answers_next (kept_jwr (fun _ hu => kept_setHctl (kept_journalCfg hu)) h)

theorem kept_announceForced {i k v} (h : Kept s₀ s) : Kept s₀ (announceForced i k v s) := kept_announce (kept_upd h)

theorem kept_doHerdNodeSet {r a} (h : Kept s₀ s) : Kept s₀ (doHerdNodeSet r a s) := by
  unfold doHerdNodeSet
  dsimp only
  split
  · exact kept_refuse h
  · exact kept_checked (fun _ hu => kept_done (kept_when kept_announceForced (kept_when kept_announceForced
    (kept_when kept_announceForced (kept_when kept_announceForced (kept_upd hu)))))) h

theorem kept_doHerdNodeRead {r index outAddr} (h : Kept s₀ s) : Kept s₀ (doHerdNodeRead r index outAddr s) := by
  unfold doHerdNodeRead
  split
  · exact kept_done (kept_upd h)
  · exact kept_refuse h

/-! ### Queues and watermarks -/

theorem kept_fifoPut {f n : Nat} {put : State → State} (hp : ∀ u, Kept s₀ u → Kept s₀ (put u)) (h : Kept s₀ s) :
    Kept s₀ (fifoPut f n put s) := by
  unfold fifoPut
  split
  · exact hp s h
  · exact kept_bump h
  · exact kept_bump h
  · exact h

theorem kept_dropFrame {c f} (h : Kept s₀ s) : Kept s₀ (dropFrame c f s) := kept_bumpIf h
theorem kept_wmRise {w} (h : Kept s₀ s) : Kept s₀ (wmRise w s) := kept_eventIf (kept_setReg (kept_updBump h))

theorem kept_wmFall {w : Nat} (h : Kept s₀ s) : Kept s₀ (wmFall w s) :=
  kept_upd (kept_setReg (a := 0xD0104 + 16 * w) (v := s.reg (0xD0104 + 16 * w) ||| 2) h)

theorem answers_qflowHoldExpire {pin} (h : Kept s₀ s) : Answers s₀ (execQflowHoldExpire pin s) := by
  unfold execQflowHoldExpire
  dsimp only
  refine answers_next ?_
  split
  · exact kept_ite (kept_upd (kept_upd h)) h
  · exact h

theorem answers_quePoolWrite {k value} (h : Kept s₀ s) : Answers s₀ (execQuePoolWrite k value s) :=
  answers_next (kept_jwr (fun _ hu => kept_ite hu (kept_ite (kept_upd hu) (kept_upd (kept_setReg hu)))) h)

/-! ### Demodulation -/

theorem kept_demDisc {k} (h : Kept s₀ s) : Kept s₀ (demDisc k s) := kept_bump h

theorem answers_preambleDetect {ch profile rssiQ} (h : Kept s₀ s) :
    Answers s₀ (execPreambleDetect ch profile rssiQ s) := by
  unfold execPreambleDetect
  refine answers_next ?_
  split
  · exact h
  · split
    · split
      · exact kept_upd h
      · exact h
    · split
      · exact kept_ite (kept_upd h) h
      · exact h

theorem answers_secondPreambleDetect {ch profile lv} (h : Kept s₀ s) :
    Answers s₀ (execSecondPreambleDetect ch profile lv s) := by
  unfold execSecondPreambleDetect
  dsimp only
  refine answers_next ?_
  split
  · exact h
  · split
    · exact kept_upd h
    · exact kept_ite (kept_ite (kept_upd (kept_demDisc (kept_upd h))) h) (kept_ite (kept_upd (kept_demDisc
      (kept_upd h))) h)

theorem answers_sfdDetect {ch snr1 snr2 x} (h : Kept s₀ s) : Answers s₀ (execSfdDetect ch snr1 snr2 x s) := by
  unfold execSfdDetect
  dsimp only
  refine answers_next ?_
  split
  · exact h
  · exact kept_ite h (kept_upd (kept_upd (kept_upd h)))

theorem answers_falseDetRelease {ch} (h : Kept s₀ s) : Answers s₀ (execFalseDetRelease ch s) := by
  unfold execFalseDetRelease
  refine answers_next ?_
  split
  · exact h
  · exact kept_ite h (kept_upd (kept_demDisc (kept_upd (kept_upd h))))

theorem kept_msPhr {ch l phr} (h : Kept s₀ s) : Kept s₀ (msPhr ch l phr s) := by
  unfold msPhr
  dsimp only
  split
  · exact kept_demDisc (kept_upd h)
  · split
    · exact kept_demDisc (kept_upd h)
    · split
      · exact kept_upd h
      · split
        · split
          · exact kept_unless kept_upd (kept_upd h)
          · exact kept_demDisc (kept_upd h)
        · exact kept_demDisc (kept_upd h)

theorem answers_msPhrRx {ch msg check} (h : Kept s₀ s) : Answers s₀ (execMsPhrRx ch msg check s) := by
  unfold execMsPhrRx
  refine answers_next ?_
  split
  · exact kept_ite (kept_msPhr h) h
  · exact h

theorem answers_msTimeout {ch} (h : Kept s₀ s) : Answers s₀ (execMsTimeout ch s) := by
  unfold execMsTimeout
  refine answers_next ?_
  split
  · exact kept_upd (kept_demDisc (kept_upd h))
  · exact h

theorem kept_handOver {m psdu} (h : Kept s₀ s) : Kept s₀ (handOver m psdu s) :=
  kept_ite (kept_upd h) (kept_upd (kept_fifoPut (fun _ => kept_upd) h))

theorem kept_rxEnd {m psdu} (h : Kept s₀ s) : Kept s₀ (rxEnd m psdu s) :=
  kept_ite (kept_handOver h) (kept_upd (kept_upd h))

theorem kept_elandEnd {w} (h : Kept s₀ s) : Kept s₀ (elandEnd w s) :=
  kept_ite h (kept_ite (kept_rxEnd (kept_upd h)) (kept_upd (kept_upd (kept_upd h))))

theorem kept_decodeNext (h : Kept s₀ s) : Kept s₀ (decodeNext s) := by
  unfold decodeNext
  dsimp only
  split
  · exact h
  · split
    · exact kept_elandEnd (kept_bumpN (kept_bumpIf (kept_bump (kept_upd h))))
    · exact kept_bumpN (kept_bumpIf (kept_bump (kept_upd h)))

theorem answers_rxFrameEnd {ch x m fec} (h : Kept s₀ s) : Answers s₀ (execRxFrameEnd ch x m fec s) := by
  unfold execRxFrameEnd
  dsimp only
  refine answers_next ?_
  split
  · exact h
  · split
    · exact kept_msPhr h
    · exact kept_demDisc (kept_upd h)
    · exact kept_rxEnd (kept_upd h)
    · exact kept_elandEnd (kept_upd (kept_upd h))

/-! ### References of time -/

theorem kept_doTimeSetEpoch {r e l} (h : Kept s₀ s) : Kept s₀ (doTimeSetEpoch r e l s) :=
  kept_checked (fun _ hu => kept_done (kept_upd hu)) h

theorem kept_doTimeStep {r step sfh} (h : Kept s₀ s) : Kept s₀ (doTimeStep r step sfh s) :=
  kept_checked (fun _ => kept_upd) h

theorem kept_takeStep {q} (h : Kept s₀ s) : Kept s₀ (takeStep q s) :=
  kept_done (kept_event (kept_sweepTombs (kept_foldl (fun _ _ => kept_lastTry) (kept_upd (kept_upd h)))))

theorem answers_timeStepExecute (h : Kept s₀ s) : Answers s₀ (execTimeStepExecute s) := by
  unfold execTimeStepExecute
  refine answers_next (kept_coreOnly h ?_)
  split
  · exact kept_ite (kept_takeStep h) h
  · exact h

theorem kept_doTimeForce {r} (h : Kept s₀ s) : Kept s₀ (doTimeForce r s) :=
  kept_checked (fun _ hu => kept_done (kept_setTimeState (kept_unless kept_openJournal (kept_upd hu)))) h

theorem answers_servoSecondSample (h : Kept s₀ s) : Answers s₀ (execServoSecondSample s) := by
  unfold execServoSecondSample
  dsimp only
  refine answers_next (kept_coreOnly h ?_)
  split
  · exact h
  · refine kept_upd ?_
    split
    · exact kept_upd h
    · exact h

theorem kept_todMessage {m at_} (h : Kept s₀ s) : Kept s₀ (todMessage m at_ s) := by
  unfold todMessage
  dsimp only
  split
  · exact kept_ite h (kept_unless (fun hy => kept_ite (kept_reference (kept_event hy)) (kept_reference hy)) (kept_upd h))
  · exact h

theorem kept_nameable {p owed} (h : Kept s₀ s) : Kept s₀ (nameable p owed s) := by
  unfold nameable
  dsimp only
  refine kept_upd ?_
  split
  · exact kept_reference h
  · exact h

theorem kept_decidePulse {p w} (h : Kept s₀ s) : Kept s₀ (decidePulse p w s) := by
  unfold decidePulse
  dsimp only
  split
  · exact kept_when kept_todMessage (kept_unless kept_reference (kept_when kept_nameable (kept_bump (kept_upd h))))
  · exact kept_unless kept_reference (kept_when kept_nameable (kept_bump (kept_upd h)))

theorem kept_settle {force} (h : Kept s₀ s) : Kept s₀ (settle force s) := by
  unfold settle
  split
  · split <;> exact kept_ite (kept_decidePulse h) h
  · exact h

theorem kept_goNoisy {edge} (h : Kept s₀ s) : Kept s₀ (goNoisy edge s) := kept_event (kept_upd h)

theorem kept_activeEdge {edge} (h : Kept s₀ s) : Kept s₀ (activeEdge edge s) :=
  kept_ite (kept_goNoisy h) (kept_ite (kept_bump (kept_upd h)) (kept_upd (kept_upd (kept_ite (kept_bump h)
    (kept_settle h)))))

theorem answers_ppsEdge {rising at_} (h : Kept s₀ s) : Answers s₀ (execPpsEdge rising at_ s) :=
  answers_next (kept_coreOnly h (kept_ite h (kept_ite (kept_upd (kept_upd h)) (kept_ite (kept_activeEdge (kept_upd h))
    (kept_settle (kept_upd (kept_upd h)))))))

theorem answers_ppsWidthTimeout (h : Kept s₀ s) : Answers s₀ (execPpsWidthTimeout s) := by
  unfold execPpsWidthTimeout
  refine answers_next (kept_coreOnly h ?_)
  split
  · exact kept_ite (kept_settle (kept_upd h)) (kept_settle h)
  · exact h

theorem answers_ppsMissingSecond (h : Kept s₀ s) : Answers s₀ (execPpsMissingSecond s) :=
  answers_next (kept_coreOnly h (kept_ite h (kept_ite (kept_reference (kept_upd (kept_upd h))) (kept_reference (kept_bump
    (kept_upd (kept_settle (kept_upd h))))))))

theorem kept_todArrive {m at_} (h : Kept s₀ s) : Kept s₀ (todArrive m at_ s) := by
  unfold todArrive
  split
  · exact kept_ite (kept_upd h) (kept_todMessage h)
  · exact kept_todMessage h

theorem answers_todMessageRx {octets at_} (h : Kept s₀ s) : Answers s₀ (execTodMessageRx octets at_ s) :=
  answers_next (kept_coreOnly h (kept_ite h (kept_when kept_todArrive (kept_upd (kept_settle (kept_upd h))))))

theorem answers_todWaitTimeout (h : Kept s₀ s) : Answers s₀ (execTodWaitTimeout s) := by
  unfold execTodWaitTimeout
  refine answers_next (kept_coreOnly h ?_)
  split
  · exact kept_ite (kept_reference (kept_upd (kept_upd h))) h
  · exact h

theorem kept_ptpFrom {p ty n : Nat} {m : List Octet} {f : State → State} (hf : ∀ u, Kept s₀ u → Kept s₀ (f u))
    (h : Kept s₀ s) : Kept s₀ (ptpFrom p ty n m f s) :=
  kept_ite h (kept_ite (hf s h) (kept_bump h))

theorem kept_syncDone {p t1 t2} (h : Kept s₀ s) : Kept s₀ (syncDone p t1 t2 s) := by
  unfold syncDone
  dsimp only
  split
  · exact kept_reference (kept_upd h)
  · exact kept_upd h

theorem answers_ptpSyncRx {port x} (h : Kept s₀ s) : Answers s₀ (execPtpSyncRx port x s) :=
  answers_next (kept_coreOnly h (kept_ptpFrom (fun _ hu => kept_ite (kept_upd (kept_upd hu)) (kept_syncDone
    (kept_upd hu))) h))

theorem answers_ptpFollowUpRx {port x} (h : Kept s₀ s) : Answers s₀ (execPtpFollowUpRx port x s) := by
  unfold execPtpFollowUpRx
  dsimp only
  refine answers_next (kept_coreOnly h (kept_ptpFrom ?_ h))
  intro _ hu
  split
  · exact kept_ite (kept_syncDone hu) hu
  · exact hu

theorem answers_ptpDelayRespRx {port x} (h : Kept s₀ s) : Answers s₀ (execPtpDelayRespRx port x s) := by
  unfold execPtpDelayRespRx
  dsimp only
  refine answers_next (kept_coreOnly h (kept_ptpFrom ?_ h))
  intro _ hu
  split
  · exact kept_ite (kept_upd hu) hu
  · exact hu

theorem answers_airBeaconMiss (h : Kept s₀ s) : Answers s₀ (execAirBeaconMiss s) := by
  unfold execAirBeaconMiss
  dsimp only
  refine answers_next (kept_coreOnly h ?_)
  split
  · split
    · exact kept_ite h (kept_reference (kept_upd (kept_upd h)))
    · exact h
  · exact h

/-! ### Reception -/

theorem kept_rxDisc {k} (h : Kept s₀ s) : Kept s₀ (rxDisc k s) := kept_bump h
theorem kept_heard {m f a0 n} (h : Kept s₀ s) : Kept s₀ (heard m f a0 n s) := kept_eventIf (kept_upd h)

theorem kept_sendAck {nd m f end_ v o} (h : Kept s₀ s) : Kept s₀ (sendAck nd m f end_ v o s) := by
  unfold sendAck
  dsimp only
  split
  · exact kept_stageTx (kept_upd h)
  · exact kept_cellOut (kept_countFail (kept_upd h))

theorem kept_airBeacon {p m sync} (h : Kept s₀ s) : Kept s₀ (airBeacon p m sync s) := by
  unfold airBeacon
  dsimp only
  split
  · exact h
  · exact kept_ite h (kept_reference (kept_upd h))

theorem kept_ackIn {t m corr} (h : Kept s₀ s) : Kept s₀ (ackIn t m corr s) := by
  unfold ackIn
  extract_lets u v _ _ w
  have hu : Kept s₀ u := kept_cellOut (kept_upd h)
  have hv : Kept s₀ v := by
    dsimp only [v]
    split
    · exact kept_frameDone hu
    · exact hu
  have hw : Kept s₀ w := kept_upd hv
  refine kept_sweepTombs (kept_annsAcked ?_)
  split
  · exact kept_upd hw
  · exact hw

theorem kept_dataIn {nd m f end_ a0 v b} (h : Kept s₀ s) : Kept s₀ (dataIn nd m f end_ a0 v b s) := by
  unfold dataIn
  dsimp only
  refine kept_payloadIn ?_
  split
  · refine kept_sendAck ?_
    split
    · exact kept_when kept_upd (kept_upd h)
    · exact kept_upd h
  · split
    · exact kept_when kept_upd (kept_upd h)
    · exact kept_upd h

theorem kept_nodeIn {nd ack m f end_ a0 v b} (h : Kept s₀ s) : Kept s₀ (nodeIn nd ack m f end_ a0 v b s) := by
  unfold nodeIn
  dsimp only
  split
  · exact kept_rxDisc (kept_upd h)
  · split
    · exact kept_ackIn (kept_heard h)
    · split
      · exact kept_dataIn (kept_heard h)
      · split
        · exact kept_airBeacon (kept_upd (kept_heard h))
        · exact kept_upd (kept_heard h)

theorem kept_peerIn {p m f a0 b} (h : Kept s₀ s) : Kept s₀ (peerIn p m f a0 b s) :=
  kept_ite (kept_rxDisc h) (kept_ite (kept_airBeacon h) (kept_payloadIn h))

theorem kept_rxTake {r : RxRes} {f : Nat → MacBody → State → State} (hf : ∀ v b u, Kept s₀ u → Kept s₀ (f v b u))
    (h : Kept s₀ s) : Kept s₀ (rxTake r f s) := by
  unfold rxTake
  dsimp only
  split
  · exact kept_rxDisc (kept_useKeyOpt h)
  · exact hf _ _ _ (kept_bumpN (kept_useKeyOpt h))

theorem kept_rxAck {l m f end_ a0} (h : Kept s₀ s) : Kept s₀ (rxAck l m f end_ a0 s) := by
  unfold rxAck
  dsimp only
  split
  · exact kept_rxTake (fun _ _ _ => kept_nodeIn) h
  · exact h

theorem kept_rxFrame {m psdu} (h : Kept s₀ s) : Kept s₀ (rxFrame m psdu s) := by
  unfold rxFrame
  dsimp only
  split
  · exact kept_rxDisc h
  · split
    · exact kept_rxDisc h
    · split
      · exact kept_rxTake (fun _ _ _ => kept_peerIn) h
      · exact kept_rxTake (fun _ _ _ => kept_nodeIn) h
      · exact kept_rxAck h
      · exact kept_learn h

theorem kept_admitFrame {m psdu} (h : Kept s₀ s) : Kept s₀ (admitFrame m psdu s) :=
  kept_sweepTombs (kept_rxFrame (kept_fcStallCheck h))

theorem answers_rxFrameAdmit {fifo ch} (h : Kept s₀ s) : Answers s₀ (execRxFrameAdmit fifo ch s) := by
  unfold execRxFrameAdmit
  dsimp only
  refine answers_next ?_
  split
  · exact h
  · split
    · exact h
    · exact kept_ite h (kept_ite (kept_upd (kept_upd h)) (kept_admitFrame (kept_journal (kept_dropFrame (kept_upd h)))))

/-! ### The slot boundary -/

theorem kept_restartDone (h : Kept s₀ s) : Kept s₀ (restartDone s) :=
  kept_when kept_returnPorts (kept_foldl (fun _ _ => kept_event) (kept_upd h))

theorem kept_runPorts {n} (h : Kept s₀ s) : Kept s₀ (runPorts n s) := by
  unfold runPorts
  split
  · exact kept_ite (kept_returnPorts h) h
  · exact h

theorem kept_pairCount (h : Kept s₀ s) : Kept s₀ (pairCount s) := kept_updBump h
theorem kept_slotWrite (h : Kept s₀ s) : Kept s₀ (slotWrite s) := kept_ite (kept_journal (kept_upd (kept_upd h))) h

theorem kept_boundaryWork {n : Nat} (h : Kept s₀ s) : Kept s₀ (boundaryWork n s) := by
  unfold boundaryWork
  extract_lets t u _ c v w
  have ht : Kept s₀ t := kept_timeBoundary (kept_upd (kept_slotWrite h))
  have hu : Kept s₀ u := kept_runPorts (kept_restartDone ht)
  have hc : Kept s₀ c := kept_when (kept_noBank rfl) hu
  have hv : Kept s₀ v := kept_unless kept_herdBoundary hc
  have hw : Kept s₀ w := kept_fcStallCheck (kept_unless kept_prepSlot hv)
  exact kept_sweepTombs (kept_when (fun hw => kept_upd (kept_upd hw)) hw)

theorem kept_loseNode {i n} (h : Kept s₀ s) : Kept s₀ (loseNode i n s) :=
  kept_upd (kept_framesDone (kept_event (kept_upd h)))

theorem answers_nodeSupervisionTimeout {node} (h : Kept s₀ s) : Answers s₀ (execNodeSupervisionTimeout node s) :=
  answers_next (kept_ite (kept_foldl (fun _ _ => kept_loseNode) h) h)

/-! ### Banks -/

/-- The snapshot of an apply becomes the active copies. -/
theorem kept_activate {a : Apply} (ha : s₀.wordsOk = true → cellsWf resetAt a.snap = true) (h : Kept s₀ s) :
    Kept s₀ (activate a s) := by
  refine kept_done (kept_upd ⟨h.1, fun w => ?_⟩)
  obtain ⟨hr, hc, -, -, hp⟩ := wordsOk_iff.mp (h.2 w)
  exact wordsOk_iff.mpr ⟨hr, hc, ha w, nofun, hp⟩

theorem kept_pendApply {r : CmdRef} {n : Nat} (h : Kept s₀ s) : Kept s₀ (pendApply r n s) := by
  unfold pendApply
  extract_lets w a t
  clear_value w
  have hs : s₀.wordsOk = true → cellsWf resetAt a.snap = true := fun ok =>
    putWords_wf w _ (cellsWf_filter _ _ _ (wordsOk_iff.mp (h.2 ok)).1)
  exact kept_unless (kept_activate hs) (kept_withdraw (kept_putApply hs h))

theorem kept_doBankApply {r} (h : Kept s₀ s) : Kept s₀ (doBankApply r s) := by
  unfold doBankApply
  dsimp only
  refine kept_checked ?_ h
  intro _ hu
  split
  · exact kept_complete (kept_upd hu)
  · exact kept_pendApply hu

theorem answers_bankApplyActivate (h : Kept s₀ s) : Answers s₀ (execBankApplyActivate s) := by
  refine answers_next (kept_coreOnly h ?_)
  split
  · rename_i a e
    exact kept_ite (kept_activate (fun w => (wordsOk_iff.mp (h.2 w)).2.2.2.1 a e) h) h
  · exact h

/-! ### Ethernet -/

theorem kept_drainEth {p} (h : Kept s₀ s) : Kept s₀ (drainEth p s) := kept_bumpN (kept_upd (kept_upd h))
theorem kept_ethDown {p} (h : Kept s₀ s) : Kept s₀ (ethDown p s) := kept_upd (kept_drainEth (kept_upd h))

theorem kept_ethEval {p} (h : Kept s₀ s) : Kept s₀ (ethEval p s) :=
  kept_ite h (kept_event (kept_journal (kept_upd (kept_ite (kept_upd h) (kept_ethDown h)))))

theorem kept_ethPause {p n} (h : Kept s₀ s) : Kept s₀ (ethPause p n s) := kept_ite (kept_upd h) h
theorem kept_ethPtp {p} (h : Kept s₀ s) : Kept s₀ (ethPtp p s) := kept_bump (kept_upd h)
theorem kept_ethStore {p mgmt f} (h : Kept s₀ s) : Kept s₀ (ethStore p mgmt f s) := kept_fifoPut (fun _ => kept_upd) h
theorem kept_ethMgmt {p on f} (h : Kept s₀ s) : Kept s₀ (ethMgmt p on f s) := kept_ite (kept_ethStore h) (kept_bump h)

theorem kept_ethData {p f} (h : Kept s₀ s) : Kept s₀ (ethData p f s) :=
  kept_ite (kept_ite (kept_ethMgmt h) (kept_ethStore h)) (kept_ite (kept_ethMgmt h) (kept_bump h))

theorem kept_ethClass {p f} (h : Kept s₀ s) : Kept s₀ (ethClass p f s) :=
  kept_ite (kept_when kept_ethPause (kept_bump h)) (kept_ite (kept_ethPtp h) (kept_ethData h))

theorem kept_ethRx {p f} (h : Kept s₀ s) : Kept s₀ (ethRx p f s) :=
  kept_ite (kept_bump (kept_bump h)) (kept_ite (kept_bump (kept_bump h)) (kept_ite (kept_bump (kept_bump h)) (kept_ite
    (kept_bump (kept_bump h)) (kept_ethClass (kept_bump h)))))

theorem kept_ethItem {p mgmt f} (h : Kept s₀ s) : Kept s₀ (ethItem p mgmt f s) :=
  kept_ite (kept_offerRec h) (kept_route h)

theorem kept_ethTaken {p x} (h : Kept s₀ s) : Kept s₀ (ethTaken p x s) := kept_ethItem (kept_bump (kept_journal h))

theorem kept_ethAdmit {p x} (h : Kept s₀ s) : Kept s₀ (ethAdmit p x s) :=
  kept_ite (kept_ethTaken (kept_upd (kept_dropFrame h))) (kept_bump (kept_upd (kept_dropFrame h)))

theorem answers_ethAdmit {port} (h : Kept s₀ s) : Answers s₀ (execEthAdmit port s) := by
  unfold execEthAdmit
  refine answers_next ?_
  split
  · exact kept_ite (kept_ethAdmit h) h
  · exact h

theorem kept_fillFrom {p q : Nat} {l : List EgItem} (h : Kept s₀ s) : Kept s₀ (fillFrom p q l s) := by
  induction l generalizing s with
  | nil => exact h
  | cons i l ih =>
    unfold fillFrom
    split
    · exact kept_ite (ih (kept_upd (kept_upd h))) h
    · exact h

theorem kept_fillEth {p} (h : Kept s₀ s) : Kept s₀ (fillEth p s) := kept_when kept_fillFrom (kept_fillFrom h)
theorem kept_ethSend {p f} (h : Kept s₀ s) : Kept s₀ (ethSend p f s) := kept_bump (kept_upd h)
theorem kept_sendPause {p n} (h : Kept s₀ s) : Kept s₀ (sendPause p n s) := kept_updBump (kept_ethSend h)

theorem kept_sendEgress {p} (h : Kept s₀ s) : Kept s₀ (sendEgress p s) := by
  unfold sendEgress
  split
  · exact kept_ethSend (kept_upd h)
  · exact h

theorem kept_ethTx {p} (h : Kept s₀ s) : Kept s₀ (ethTx p s) := by
  unfold ethTx
  split
  · exact kept_drainEth h
  · split
    · exact kept_sendPause h
    · exact kept_unless kept_sendEgress (kept_fillEth h)

theorem answers_ethPauseExpire {port} (h : Kept s₀ s) : Answers s₀ (execEthPauseExpire port s) := by
  unfold execEthPauseExpire
  refine answers_next ?_
  split
  · exact kept_upd (kept_upd h)
  · exact h

theorem answers_pauseRepeat {port} (h : Kept s₀ s) : Answers s₀ (execPauseRepeat port s) := by
  unfold execPauseRepeat
  dsimp only
  refine answers_next ?_
  split
  · exact kept_ite (kept_upd (kept_upd h)) h
  · exact h

theorem answers_ptpDelayReqSend {port egress} (h : Kept s₀ s) : Answers s₀ (execPtpDelayReqSend port egress s) := by
  unfold execPtpDelayReqSend
  dsimp only
  refine answers_next (kept_coreOnly h ?_)
  split
  · exact h
  · refine kept_ethSend (kept_upd ?_)
    split
    · exact kept_upd h
    · exact h

/-! ### Security -/

theorem kept_doSecIdentity {r outAddr} (h : Kept s₀ s) : Kept s₀ (doSecIdentity r outAddr s) := kept_done (kept_upd h)

theorem kept_doSecAttest {r kind outAddr challenge} (h : Kept s₀ s) : Kept s₀ (doSecAttest r kind outAddr challenge s) :=
  kept_checked (fun _ hu => kept_done (kept_upd hu)) h

theorem kept_blobOut {b outAddr} (h : Kept s₀ s) : Kept s₀ (blobOut b outAddr s) := kept_ite (kept_upd (kept_upd h)) h
theorem kept_keyres {st pl g a} (h : Kept s₀ s) : Kept s₀ (keyres st pl g a s) := kept_journal h

theorem kept_importReplay {r b outAddr} (h : Kept s₀ s) : Kept s₀ (importReplay r b outAddr s) :=
  kept_ite (kept_refuse h) (kept_doneWith (kept_blobOut (kept_upd h)))

theorem kept_importPlace {r b a outAddr} (h : Kept s₀ s) : Kept s₀ (importPlace r b a outAddr s) :=
  kept_ite (kept_refuse (kept_keyres h)) (kept_fcStallCheck (kept_doneWith (kept_blobOut (kept_upd (kept_keyres
    (kept_upd h))))))

theorem kept_importRefused {r : CmdRef} {b : List Octet} {a : Nat} {l : List (Bool × Nat × Nat × Nat)} {f : State → State}
    (hf : ∀ u, Kept s₀ u → Kept s₀ (f u)) (h : Kept s₀ s) : Kept s₀ (importRefused r b a l f s) := by
  induction l with
  | nil => exact hf s h
  | cons x l ih => exact kept_ite (kept_refuse (kept_keyres h)) ih

theorem kept_doSecKeyImport {r b outAddr} (h : Kept s₀ s) : Kept s₀ (doSecKeyImport r b outAddr s) :=
  kept_importRefused (fun _ hu => kept_ite (kept_importReplay hu) (kept_importPlace hu)) h

theorem kept_doSecKeygenSwitch {r} (h : Kept s₀ s) : Kept s₀ (doSecKeygenSwitch r s) := kept_checked (fun _ => kept_upd) h

theorem answers_keygenSwitchTake (h : Kept s₀ s) : Answers s₀ (execKeygenSwitchTake s) :=
  answers_next (kept_coreOnly h (kept_fcStallCheck (kept_switchIfDue h)))

theorem kept_doSecKeyClear {r} (h : Kept s₀ s) : Kept s₀ (doSecKeyClear r s) :=
  kept_checked (fun _ hu => kept_done (kept_upd hu)) h

theorem kept_doSecFcAck {r gen block} (h : Kept s₀ s) : Kept s₀ (doSecFcAck r gen block s) :=
  kept_checked (fun _ hu => kept_done (kept_fcStallCheck (kept_upd hu))) h

theorem kept_doSecFcRestore {r gen block} (h : Kept s₀ s) : Kept s₀ (doSecFcRestore r gen block s) :=
  kept_checked (fun _ hu => kept_done (kept_fcStallCheck (kept_fcLowCheck (kept_upd hu)))) h

theorem kept_advance {target second} (h : Kept s₀ s) : Kept s₀ (advance target second s) := by
  unfold advance
  dsimp only
  refine kept_upd ?_
  split
  · exact kept_refuse h
  · exact h

theorem kept_doSecLcAdvance {r target token secondOk} (h : Kept s₀ s) :
    Kept s₀ (doSecLcAdvance r target token secondOk s) :=
  kept_checked (fun _ hu => kept_done (kept_fcStallCheck (kept_advance hu))) h

theorem kept_doSecTamperAck {r} (h : Kept s₀ s) : Kept s₀ (doSecTamperAck r s) :=
  kept_ite (kept_refuse h) (kept_done (kept_upd h))

theorem kept_doSecFuseWrite {r field value readBackOk} (h : Kept s₀ s) :
    Kept s₀ (doSecFuseWrite r field value readBackOk s) :=
  kept_checked (fun _ hu => kept_ite (kept_done (kept_upd (kept_upd hu))) (kept_refuse (kept_upd (kept_upd hu)))) h

theorem kept_doRomPatchLoad {r p} (h : Kept s₀ s) : Kept s₀ (doRomPatchLoad r p s) :=
  kept_checked (fun _ hu => kept_done (kept_upd hu)) h

theorem kept_hostKey {a} (h : Kept s₀ s) : Kept s₀ (hostKey a s) := kept_ite h (kept_ite (kept_upd h) (kept_upd h))

theorem kept_startCipher {r : CmdRef} {a : CipherArgs} (h : Kept s₀ s) : Kept s₀ (startCipher r a s) := by
  refine kept_upd (kept_hostKey ?_)
  split
  · exact kept_useKey h
  · exact h

theorem kept_doSecCipher {r a} (h : Kept s₀ s) : Kept s₀ (doSecCipher r a s) := kept_checked (fun _ => kept_startCipher) h
theorem kept_tagOut {q} (h : Kept s₀ s) : Kept s₀ (tagOut q s) := kept_ite (kept_upd h) h

theorem kept_cipherWrites {q} (h : Kept s₀ s) : Kept s₀ (cipherWrites q s) :=
  kept_ite h (kept_ite (kept_tagOut (kept_upd h)) (kept_ite (kept_tagOut (kept_upd h)) (kept_ite (kept_upd h) h)))

theorem kept_endCipher {q} (h : Kept s₀ s) : Kept s₀ (endCipher q s) := by
  unfold endCipher
  extract_lets t u v
  have ht : Kept s₀ t := kept_ite (kept_post h) h
  have hu : Kept s₀ u := kept_ite (kept_cipherWrites ht) ht
  have hv : Kept s₀ v := kept_upd hu
  exact kept_ite (kept_refuse hv) (kept_ite (kept_done hv) (kept_refuse hv))

theorem answers_cipherOperationDone {engine r} (h : Kept s₀ s) : Answers s₀ (execCipherOperationDone engine r s) := by
  unfold execCipherOperationDone
  refine answers_next ?_
  split
  · exact kept_ite (kept_endCipher h) h
  · exact h

/-! ### What a register write sets off -/

theorem kept_srcPriHook (h : Kept s₀ s) : Kept s₀ (srcPriHook s) := kept_unless kept_reselect (kept_upd h)
theorem kept_ppsHook {rise} (h : Kept s₀ s) : Kept s₀ (ppsHook rise s) := kept_ite (kept_upd h) h
theorem kept_ptpEnHook {i rise} (h : Kept s₀ s) : Kept s₀ (ptpEnHook i rise s) := kept_ite (kept_upd h) h
theorem kept_peerEnHook {i rise} (h : Kept s₀ s) : Kept s₀ (peerEnHook i rise s) := kept_ite (kept_upd h) h

theorem kept_ethHook {p old v} (h : Kept s₀ s) : Kept s₀ (ethHook p old v s) :=
  kept_ethEval (kept_ite (kept_ethEval (kept_upd h)) h)

theorem kept_msixHook {v} (h : Kept s₀ s) : Kept s₀ (msixHook v s) := kept_ite (kept_upd (kept_upd h)) h

theorem kept_regHook {a old v} (h : Kept s₀ s) : Kept s₀ (regHook a old v s) :=
  kept_ite (kept_srcPriHook h) (kept_ite (kept_ppsHook h) (kept_ite (kept_ptpEnHook h) (kept_ite (kept_peerEnHook h)
    (kept_ite (kept_upd (kept_upd h)) (kept_ite (kept_upd h) (kept_ite (kept_ethHook h) (kept_ite (kept_ethHook h)
    (kept_ite (kept_msixHook h) h))))))))

theorem kept_storeReg {r a v} (h : Kept s₀ s) : Kept s₀ (storeReg r a v s) := kept_regHook (kept_setReg h)

theorem kept_writeRow {r a v} (h : Kept s₀ s) : Kept s₀ (writeRow r a v s) :=
  kept_ite (kept_upd h) (kept_ite (kept_upd h) (kept_ite (kept_cfgErr h) (kept_ite h (kept_storeReg h))))

theorem kept_restartUnits {v} (h : Kept s₀ s) : Kept s₀ (restartUnits v s) := kept_when kept_closeSixps (kept_upd h)

theorem answers_errRestartWrite {value} (h : Kept s₀ s) : Answers s₀ (execErrRestartWrite value s) :=
  answers_next (kept_jwr (fun _ hu => kept_restartUnits (kept_journalCfg hu)) h)

/-! ### Commands and records shared by the pair -/

theorem kept_outOf {r : Res} (hr : Answers s₀ r) : Kept s₀ (outOf s r) := by
  obtain ⟨t, rfl, ht⟩ := hr
  exact ht

theorem kept_doCfgSnapshotRead {r outAddr outLen} (h : Kept s₀ s) : Kept s₀ (doCfgSnapshotRead r outAddr outLen s) :=
  kept_ite (kept_complete (kept_upd h)) (kept_doneWith (kept_upd (kept_upd h)))

theorem kept_doDiagNop {r} (h : Kept s₀ s) : Kept s₀ (doDiagNop r s) := kept_doneWith (kept_upd h)

theorem kept_doJournalCtl {r stream} (h : Kept s₀ s) : Kept s₀ (doJournalCtl r stream s) :=
  kept_ite (kept_refuse h) (kept_done (kept_upd h))

theorem kept_doShared {r c} (h : Kept s₀ s) : Kept s₀ (doShared r c s) := by
  unfold doShared
  split
  · exact kept_refuse h
  · exact kept_doCfgSnapshotRead h
  · exact kept_doTimeSetEpoch h
  · exact kept_doTimeStep h
  · exact kept_doTimeForce h
  · exact kept_doRfPortSet h
  · exact kept_doRfCalibrate h
  · exact kept_doBankApply h
  · exact kept_doSlotframeSet h
  · exact kept_doCellsWrite h
  · exact kept_doHerdModeSet h
  · exact kept_doHerdNodeSet h
  · exact kept_doHerdNodeRead h
  · exact kept_doNodeInsert h
  · exact kept_doNodeRemove h
  · exact kept_doNodeRead h
  · exact kept_doPrefixInsert h
  · exact kept_doPrefixRemove h
  · exact kept_doPktSend h
  · exact kept_doBcastSend h
  · exact kept_doImgOpen h
  · exact kept_doImgLoad h
  · exact kept_doImgSend h
  · exact kept_doImgClose h
  · exact kept_doSecIdentity h
  · exact kept_doSecAttest h
  · exact kept_doSecKeyImport h
  · exact kept_doSecKeygenSwitch h
  · exact kept_doSecKeyClear h
  · exact kept_doSecFcAck h
  · exact kept_doSecFcRestore h
  · exact kept_doSecLcAdvance h
  · exact kept_doSecTamperAck h
  · exact kept_doSecFuseWrite h
  · exact kept_doRomPatchLoad h
  · exact kept_doSecCipher h
  · exact kept_doJournalCtl h
  · exact kept_doDiagNop h
  · exact h

theorem kept_takePart {replay : Bool} {p : CorePart} (h : Kept s₀ s) : Kept s₀ (takePart replay s p) := by
  cases p with
  | regs l act =>
    refine ⟨h.1, fun w => ?_⟩
    obtain ⟨hr, hc, -, hb⟩ := wordsOk_iff.mp (h.2 w)
    exact wordsOk_iff.mpr ⟨putWords_wf _ _ (cellsWf_filter _ _ _ hr), hc, putWords_wf act [] rfl, hb⟩
  | _ => exact kept_upd h

theorem kept_mirrorAdmit {seq r op need} (h : Kept s₀ s) : Kept s₀ (mirrorAdmit seq r op need s) :=
  kept_ite (kept_upd h) (kept_upd (kept_upd (kept_upd h)))

theorem kept_mirrorPortSet {r port target} (h : Kept s₀ s) : Kept s₀ (mirrorPortSet r port target s) :=
  kept_checked (fun _ => kept_upd) h

theorem kept_mirrorPorts {now} (h : Kept s₀ s) : Kept s₀ (mirrorPorts now s) :=
  kept_foldl (fun _ _ => kept_foldl (fun _ _ hv => kept_done (kept_upd hv))) h

theorem kept_mirrorCalibrate {r port} (h : Kept s₀ s) : Kept s₀ (mirrorCalibrate r port s) :=
  kept_checked (fun _ hu => kept_ite (kept_upd hu) (kept_upd hu)) h

theorem kept_mirrorDrill {r sfh} (h : Kept s₀ s) : Kept s₀ (mirrorDrill r sfh s) := kept_checked (fun _ => kept_upd) h

theorem kept_runHost {replay r c} (h : Kept s₀ s) : Kept s₀ (runHost replay r c s) := by
  unfold runHost
  split
  · exact kept_mirrorPortSet h
  · exact kept_mirrorCalibrate h
  · exact h
  · exact kept_done h
  · exact kept_done h
  · exact kept_ite (kept_refuse h) (kept_ite h (kept_refuse h))
  · exact kept_refuse h
  · exact kept_mirrorDrill h
  · exact kept_refuse h
  · exact kept_done h
  · exact kept_refuse h
  · exact kept_refuse h
  · exact kept_done h
  · exact kept_doShared h

theorem kept_calRecord {port ok ratio unc} (h : Kept s₀ s) : Kept s₀ (calRecord port ok ratio unc s) := by
  unfold calRecord
  dsimp only
  split
  · exact kept_upd h
  · split
    · split
      · exact kept_complete (kept_upd h)
      · exact h
    · split
      · exact kept_complete (kept_upd h)
      · exact h

theorem kept_keyRecord {masters st pl gen act} (h : Kept s₀ s) : Kept s₀ (keyRecord masters st pl gen act s) := by
  unfold keyRecord
  extract_lets _ _ t
  have ht : Kept s₀ t := kept_ite (kept_fcStallCheck (kept_upd (kept_upd h))) h
  split
  · exact kept_complete ht
  · exact ht

theorem kept_cfgRecord {a v} (h : Kept s₀ s) : Kept s₀ (cfgRecord a v s) := by
  unfold cfgRecord
  split
  · exact kept_setHctl h
  · split
    · exact kept_restartUnits h
    · split
      · exact kept_ite (kept_ringCtlWrite h) (kept_ite (kept_ringCtlWrite h) (kept_ite (kept_ringCtlWrite h)
        (kept_writeRow h)))
      · exact h

theorem kept_endCarriers (h : Kept s₀ s) : Kept s₀ (endCarriers s) :=
  kept_foldl (fun _ _ hu => kept_outOf (answers_ackWindowClose hu)) (kept_foldl (fun _ _ hu => kept_outOf
    (answers_txFrameEnd hu)) h)

theorem kept_dueBefore {n : Nat} (h : Kept s₀ s) : Kept s₀ (dueBefore n s) := by
  unfold dueBefore
  extract_lets t u v w
  have ht : Kept s₀ t := kept_foldl (fun _ _ => kept_sfEffect) (kept_endCarriers h)
  have hu : Kept s₀ u := kept_outOf (answers_timeStepExecute ht)
  have hv : Kept s₀ v := kept_mirrorPorts (kept_outOf (answers_cellsWriteEffect hu))
  have hw : Kept s₀ w := kept_outOf (answers_bankApplyActivate hv)
  exact kept_outOf (answers_keygenSwitchTake hw)

theorem kept_dueAfter (h : Kept s₀ s) : Kept s₀ (dueAfter s) := by
  unfold dueAfter
  extract_lets t u idx v w y
  have ht : Kept s₀ t := kept_outOf (answers_imgSendLink h)
  have hu : Kept s₀ u := kept_outOf (answers_reasmExpire ht)
  have hv : Kept s₀ v := kept_foldl (fun _ _ hx => kept_outOf (answers_nodeSupervisionTimeout
    (kept_outOf (answers_parentExpire hx)))) hu
  have hw : Kept s₀ w := kept_foldl (fun _ _ hx => kept_outOf (answers_dropReadmitCheck hx)) hv
  have hy : Kept s₀ y := kept_foldl (fun _ _ hx => kept_outOf (answers_sixpTimeout hx)) hw
  exact kept_outOf (answers_ageingVisit hy)

theorem kept_drillServed {n} (h : Kept s₀ s) : Kept s₀ (drillServed n s) := by
  unfold drillServed
  dsimp only
  split
  · exact kept_ite (kept_done (kept_upd h)) h
  · exact h

theorem kept_slotRecord {j keyed} (h : Kept s₀ s) : Kept s₀ (slotRecord j keyed s) :=
  kept_dueAfter (kept_boundaryWork (kept_dueBefore (kept_drillServed (kept_upd (kept_upd (kept_upd (kept_upd h)))))))

theorem kept_atStamp {j} (h : Kept s₀ s) : Kept s₀ (atStamp j s) := kept_ite (kept_upd h) h

theorem kept_recordBody {replay j} (h : Kept s₀ s) : Kept s₀ (recordBody replay j s) := by
  unfold recordBody
  dsimp only
  split
  · exact kept_upd h
  · exact kept_slotRecord h
  · exact h
  · exact kept_ite h (kept_sourceOutcome h)
  · split
    · exact kept_outcomeIn h
    · exact h
  · exact h
  · exact kept_calRecord h
  · exact kept_upd h
  · exact h
  · exact kept_upd h
  · exact kept_admitFrame h
  · exact kept_upd h
  · exact kept_ite (kept_event h) (kept_ethItem h)
  · exact kept_runHost (kept_mirrorAdmit h)
  · exact h
  · exact kept_cfgRecord h
  · exact kept_keyRecord h
  · exact h
  · exact h

theorem kept_runRecord {replay j} (h : Kept s₀ s) : Kept s₀ (runRecord replay j s) :=
  kept_recordBody (kept_ite h (kept_upd h))

theorem kept_runRecords {l} (h : Kept s₀ s) : Kept s₀ (runRecords l s) :=
  kept_upd (kept_upd (kept_foldl (fun _ _ hu => kept_runRecord (kept_atStamp hu)) (kept_upd h)))

theorem kept_replayRecord {j} (h : Kept s₀ s) : Kept s₀ (replayRecord j s) :=
  kept_upd (kept_runRecord (kept_atStamp (kept_upd h)))

/-! ### Diagnosis -/

theorem kept_doDiagIqSnapshot {r win ports samples ofs} (h : Kept s₀ s) :
    Kept s₀ (doDiagIqSnapshot r win ports samples ofs s) :=
  kept_checked (fun _ => kept_upd) h

theorem kept_iqPort {x : Snap} {p k i n : Nat} (h : Kept s₀ s) : Kept s₀ (iqPort x p k i n s) := by
  induction k generalizing i n s with
  | zero => exact h
  | succ k ih => exact kept_ite h (ih (kept_upd (kept_offerRec h)))

theorem kept_iqRun {x} (h : Kept s₀ s) : Kept s₀ (iqRun x s) :=
  kept_done (kept_bump (kept_upd (kept_foldl (fun _ _ => kept_iqPort) (kept_upd h))))

theorem answers_iqCapture (h : Kept s₀ s) : Answers s₀ (execIqCapture s) := by
  unfold execIqCapture
  refine answers_next ?_
  split
  · exact kept_ite (kept_iqRun h) h
  · exact h

/-! ### The pair -/

theorem kept_endJoin {st detail} (h : Kept s₀ s) : Kept s₀ (endJoin st detail s) := by
  unfold endJoin
  split
  · exact kept_refuse (kept_upd h)
  · exact h

theorem kept_joinFailed {st detail} (h : Kept s₀ s) : Kept s₀ (joinFailed st detail s) := kept_endJoin (kept_bump h)
theorem kept_sendMasters (h : Kept s₀ s) : Kept s₀ (sendMasters s) := kept_foldl (fun _ _ => kept_upd) h
theorem kept_seedNew (h : Kept s₀ s) : Kept s₀ (seedNew s) := kept_journal (kept_upd (kept_upd h))

theorem kept_startJoin {role i} (h : Kept s₀ s) : Kept s₀ (startJoin role i s) :=
  kept_ite (kept_setPair (kept_seedNew (kept_sendMasters (kept_upd (kept_journal (kept_upd h)))))) (kept_setPair
    (kept_upd (kept_clearCore (kept_upd h))))

theorem kept_tryJoin (h : Kept s₀ s) : Kept s₀ (tryJoin s) := by
  unfold tryJoin
  split
  · split
    · split
      · exact kept_joinFailed h
      · exact kept_startJoin h
    · exact h
  · exact h

theorem kept_doPairJoin {r role} (h : Kept s₀ s) : Kept s₀ (doPairJoin r role s) :=
  kept_checked (fun _ hu => kept_tryJoin (kept_upd (kept_upd (kept_upd (kept_upd hu))))) h

theorem kept_rejoinIdent {i} (h : Kept s₀ s) : Kept s₀ (rejoinIdent i s) :=
  kept_ite (kept_ite (kept_bump h) (kept_startJoin (kept_upd (kept_upd (kept_upd h))))) (kept_ite (kept_upd h) h)

theorem kept_activeLost (h : Kept s₀ s) : Kept s₀ (activeLost s) := kept_joinFailed (kept_upd (kept_clearCore h))

theorem kept_joinBroken {trig mismatch} (h : Kept s₀ s) : Kept s₀ (joinBroken trig mismatch s) :=
  kept_enterDiverged (kept_joinFailed (kept_upd (kept_clearCore h)))

theorem answers_joinTimeout (h : Kept s₀ s) : Answers s₀ (execJoinTimeout s) :=
  answers_next (kept_ite h (kept_ite (kept_joinBroken (kept_upd h)) (kept_ite (kept_joinFailed (kept_upd
    (kept_upd h))) h)))

theorem answers_autorejoinTimer (h : Kept s₀ s) : Answers s₀ (execAutorejoinTimer s) := by
  unfold execAutorejoinTimer
  dsimp only
  refine answers_next ?_
  split
  · exact kept_ite (kept_setPair (kept_upd (kept_upd (kept_upd (kept_upd (kept_clearCore (kept_upd h))))))) h
  · exact h

theorem kept_standbyLost (h : Kept s₀ s) : Kept s₀ (standbyLost s) := kept_upd (kept_event (kept_upd h))

theorem kept_linkLost (h : Kept s₀ s) : Kept s₀ (linkLost s) :=
  kept_when kept_activeLost (kept_when kept_standbyLost (kept_event (kept_bump (kept_upd h))))

theorem answers_keyTransferRx {host gen master tagOk} (h : Kept s₀ s) :
    Answers s₀ (execKeyTransferRx host gen master tagOk s) :=
  answers_next (kept_ite h (kept_ite (kept_upd h) (kept_when kept_linkLost (kept_bump (kept_upd h)))))

theorem kept_synced (h : Kept s₀ s) : Kept s₀ (synced s) := by
  unfold synced
  extract_lets t u
  have ht : Kept s₀ t := by
    dsimp only [t]
    split
    · exact kept_done h
    · exact h
  have hu : Kept s₀ u := by
    dsimp only [u]
    split
    · exact kept_done (kept_upd ht)
    · exact ht
  exact kept_upd (kept_setPair (kept_bump (kept_upd hu)))

theorem kept_compared {l} (h : Kept s₀ s) : Kept s₀ (compared l s) := by
  unfold compared
  dsimp only
  split
  · exact kept_ite (kept_joinBroken h) (kept_enterDiverged (kept_upd (kept_event (kept_clearCore h))))
  · exact kept_when kept_synced (kept_upd h)

theorem answers_standbyExecuteSlot {first count} (h : Kept s₀ s) : Answers s₀ (execStandbyExecuteSlot first count s) := by
  unfold execStandbyExecuteSlot
  refine answers_next ?_
  split
  · exact h
  · split
    · exact kept_ite (kept_compared (kept_runRecords (kept_upd h))) h
    · exact h

theorem answers_digestWrite (h : Kept s₀ s) : Answers s₀ (execDigestWrite s) := by
  unfold execDigestWrite
  dsimp only
  refine answers_next ?_
  split
  · exact kept_ite (kept_journal (kept_upd h)) h
  · exact h

theorem kept_enterTakeover {trig} (h : Kept s₀ s) : Kept s₀ (enterTakeover trig s) := kept_setPair (kept_upd h)

theorem answers_pairAckRx {seq} (h : Kept s₀ s) : Answers s₀ (execPairAckRx seq s) := by
  unfold execPairAckRx
  dsimp only
  refine answers_next ?_
  split
  · exact h
  · refine kept_upd ?_
    split
    · exact kept_done (kept_bump (kept_upd (kept_upd h)))
    · exact kept_upd (kept_upd h)

theorem kept_triggered {trig} (h : Kept s₀ s) : Kept s₀ (triggered trig s) :=
  kept_ite (kept_enterTakeover h) (kept_ite (kept_activeLost h) h)

theorem kept_yieldActive {trig} (h : Kept s₀ s) : Kept s₀ (yieldActive trig s) := kept_enterDiverged (kept_upd h)

theorem answers_pairFailAssert (h : Kept s₀ s) : Answers s₀ (execPairFailAssert s) :=
  answers_next (kept_ite h (kept_ite (kept_enterTakeover (kept_upd h)) (kept_when kept_yieldActive (kept_upd h))))

theorem kept_doPairTakeover {r} (h : Kept s₀ s) : Kept s₀ (doPairTakeover r s) :=
  kept_ite (kept_refuse h) (kept_enterTakeover (kept_upd h))

theorem kept_abortWaiting {ring n : Nat} (h : Kept s₀ s) : Kept s₀ (abortWaiting ring n s) := by
  induction n generalizing s with
  | zero => exact h
  | succ n ih =>
    unfold abortWaiting
    split
    · exact ih (kept_bump (kept_refuse (kept_upd (kept_admitCmd (kept_when kept_upd (kept_upd h))))))
    · exact h

theorem kept_abortRings (h : Kept s₀ s) : Kept s₀ (abortRings s) := by
  unfold abortRings
  refine kept_foldl ?_ h
  intro _ _ hu
  split
  · exact kept_ite (kept_abortWaiting hu) hu
  · exact hu

theorem kept_skipFc {n} (h : Kept s₀ s) : Kept s₀ (skipFc n s) :=
  kept_fcStallCheck (kept_fcLowCheck (kept_eventIf (kept_upd h)))

theorem kept_takeoverCore {b} (h : Kept s₀ s) : Kept s₀ (takeoverCore b s) :=
  kept_skipFc (kept_framesDone (kept_upd (kept_journal h)))

theorem kept_becomeActive {trig} (h : Kept s₀ s) : Kept s₀ (becomeActive trig s) := kept_returnPorts (kept_setPair h)

theorem kept_takeoverAt {b} (h : Kept s₀ s) : Kept s₀ (takeoverAt b s) := by
  unfold takeoverAt
  dsimp only
  refine kept_boundaryWork (kept_dueBefore ?_)
  split
  · exact kept_done (kept_upd (kept_bump (kept_becomeActive (kept_upd (kept_upd (kept_abortRings (kept_takeoverCore
    (kept_upd (kept_upd h)))))))))
  · exact kept_upd (kept_bump (kept_becomeActive (kept_upd (kept_upd (kept_abortRings (kept_takeoverCore (kept_upd
    (kept_upd h))))))))

theorem kept_doSwapDrill {r sfh} (h : Kept s₀ s) : Kept s₀ (doSwapDrill r sfh s) := kept_checked (fun _ => kept_upd) h

theorem answers_swapDrillBoundary (h : Kept s₀ s) : Answers s₀ (execSwapDrillBoundary s) := by
  unfold execSwapDrillBoundary
  dsimp only
  refine answers_next ?_
  split
  · exact kept_ite (kept_setPair (kept_upd (kept_upd (kept_journal h)))) h
  · exact h

theorem answers_drillActivate (h : Kept s₀ s) : Answers s₀ (execDrillActivate s) := by
  unfold execDrillActivate
  dsimp only
  refine answers_next ?_
  split
  · split
    · refine kept_boundaryWork ?_
      split
      · exact kept_done (kept_becomeActive (kept_upd (kept_upd (kept_upd (kept_upd h)))))
      · exact kept_becomeActive (kept_upd (kept_upd (kept_upd (kept_upd h))))
    · exact h
  · exact h

theorem kept_doPairSolo {r} (h : Kept s₀ s) : Kept s₀ (doPairSolo r s) :=
  kept_ite (kept_refuse h) (kept_done (kept_setPair (kept_upd (kept_clearCore h))))

theorem kept_doJournalDump {r} (h : Kept s₀ s) : Kept s₀ (doJournalDump r s) :=
  kept_ite (kept_refuse h) (kept_dumpDone (kept_upd h))

theorem kept_doReplayEnter {r} (h : Kept s₀ s) : Kept s₀ (doReplayEnter r s) :=
  kept_ite (kept_refuse h) (kept_done (kept_setPair (kept_upd h)))

theorem kept_replayStop {reason unit j expd got} (h : Kept s₀ s) : Kept s₀ (replayStop reason unit j expd got s) :=
  kept_enterDiverged (kept_event (kept_upd h))

theorem kept_replaySnap {x j} (h : Kept s₀ s) : Kept s₀ (replaySnap x j s) :=
  kept_ite (kept_replayStop h) (kept_upd (kept_upd (kept_foldl (fun _ _ => kept_takePart) h)))

theorem kept_feedOne {raw j} (h : Kept s₀ s) : Kept s₀ (feedOne raw j s) := by
  unfold feedOne
  dsimp only
  split
  · exact kept_ite (kept_replaySnap h) (kept_upd h)
  · split
    · exact kept_replayStop (kept_upd h)
    · exact kept_replayRecord (kept_upd h)

theorem kept_feed {l : List (Option (List Octet × JRec))} (h : Kept s₀ s) : Kept s₀ (feed l s).2 := by
  induction l generalizing s with
  | nil => exact h
  | cons x l ih =>
    cases x with
    | none => exact h
    | some x =>
      unfold feed
      split
      · exact h
      · split
        · exact h
        · exact ih (kept_feedOne h)

theorem kept_doReplayFeed {r octets} (h : Kept s₀ s) : Kept s₀ (doReplayFeed r octets s) :=
  kept_checked (fun _ hu => kept_ite (kept_refuse (kept_feed hu)) (kept_done (kept_feed hu))) h

/-! ### Errors and tamper -/

theorem kept_fifoLoss {f} (h : Kept s₀ s) : Kept s₀ (fifoLoss f s) :=
  kept_ite (kept_upd h) (kept_ite (kept_upd h) (kept_ite (kept_upd h) (kept_ite (kept_upd h) (kept_ite (kept_upd h) h))))

theorem kept_queueReset {f code} (h : Kept s₀ s) : Kept s₀ (queueReset f code s) :=
  kept_raiseErr (kept_upd (kept_fifoLoss (kept_bumpN h)))

theorem answers_errorDetect {e} (h : Kept s₀ s) : Answers s₀ (execErrorDetect e s) := by
  unfold execErrorDetect
  dsimp only
  refine answers_next ?_
  split
  · exact h
  · split
    · exact kept_ite (kept_queueReset (kept_ite (kept_setReg h) h)) h
    · split
      · exact kept_raiseErr (kept_upd h)
      · exact h

theorem answers_rqOverrun (h : Kept s₀ s) : Answers s₀ (execRqOverrun s) := by
  unfold execRqOverrun
  dsimp only
  refine answers_next (kept_coreOnly h ?_)
  split
  · exact kept_refuse (kept_raiseErr (kept_upd h))
  · exact h

theorem kept_abortCmds {u hit} (h : Kept s₀ s) : Kept s₀ (abortCmds u hit s).2 := kept_foldl (fun _ _ => kept_refuse) h
theorem kept_loseOps (h : Kept s₀ s) : Kept s₀ (loseOps s).2 := kept_upd (kept_abortCmds h)
theorem kept_loseRq (h : Kept s₀ s) : Kept s₀ (loseRq s).2 := kept_upd (kept_abortCmds h)
theorem kept_loseCtxs (h : Kept s₀ s) : Kept s₀ (loseCtxs s).2 := kept_sweepTombs (kept_foldl (fun _ _ => kept_upd) h)

theorem kept_resetTx {t} (h : Kept s₀ s) : Kept s₀ (resetTx t s) := by
  unfold resetTx
  dsimp only
  split
  · exact kept_frameDone (kept_cellOut (kept_upd (kept_upd h)))
  · exact kept_cellOut (kept_upd (kept_upd h))

theorem kept_loseTxs {hit} (h : Kept s₀ s) : Kept s₀ (loseTxs hit s).2 := kept_foldl (fun _ _ => kept_resetTx) h
theorem kept_loseLink (h : Kept s₀ s) : Kept s₀ (loseLink s).2 := kept_ite (kept_linkLost h) h

theorem kept_resetSub {unit sub} (h : Kept s₀ s) : Kept s₀ (resetSub unit sub s).2 := by
  unfold resetSub
  split
  · exact kept_loseTxs h
  · exact kept_loseRq h
  · exact kept_loseOps h
  · split
    · exact kept_upd h
    · exact h
  · exact kept_loseLink h
  · exact kept_upd h
  · exact h

theorem kept_loseEntry {i word} (h : Kept s₀ s) : Kept s₀ (loseEntry i word s).2 := by
  unfold loseEntry
  dsimp only
  split
  · exact h
  · exact kept_sweepTombs (kept_upd (kept_upd (kept_ite (kept_upd h) (kept_framesDone h))))

theorem kept_loseSession {w} (h : Kept s₀ s) : Kept s₀ (loseSession w s).2 := by
  unfold loseSession
  dsimp only
  split
  · exact h
  · exact kept_upd (kept_abortCmds h)

theorem kept_loseCell {w : Nat} {link : Bool} (h : Kept s₀ s) : Kept s₀ (loseCell w link s).2 := by
  unfold loseCell
  extract_lets t _ u _ v a b
  have ht : Kept s₀ t := kept_when kept_upd h
  have hu : Kept s₀ u := kept_framesDone ht
  have hv : Kept s₀ v := kept_foldl (fun _ _ => kept_upd) hu
  have ha : Kept s₀ a.2 := kept_upd hv
  have hb : Kept s₀ b.2 := kept_loseSession ha
  exact kept_sweepTombs hb

theorem kept_loseSched {w} (h : Kept s₀ s) : Kept s₀ (loseSched w s).2 := by
  unfold loseSched
  dsimp only
  split
  · exact kept_upd h
  · exact kept_loseTxs (kept_upd h)

theorem kept_loseQueue {q} (h : Kept s₀ s) : Kept s₀ (loseQueue q s).2 := kept_ite (kept_upd h) (kept_ite (kept_upd h) h)

theorem kept_damage {r} (h : Kept s₀ s) : Kept s₀ (damage r s).2 := by
  unfold damage
  dsimp only
  split
  · exact kept_loseEntry h
  · exact kept_loseCell h
  · exact kept_loseSched h
  · exact kept_upd h
  · exact kept_upd h
  · split
    · exact kept_sweepTombs (kept_upd h)
    · exact h
  · exact kept_loseQueue h
  · exact kept_upd h
  · exact kept_ite h (kept_linkDown h)
  · exact h

theorem kept_fifoAction {f} (h : Kept s₀ s) : Kept s₀ (fifoAction f s).2 := by
  unfold fifoAction
  split
  · exact kept_loseOps h
  · split
    · exact kept_loseOps h
    · split
      · exact kept_loseLink h
      · exact h

theorem kept_contain {r} (h : Kept s₀ s) : Kept s₀ (contain r s).2 := by
  unfold contain
  split
  · exact kept_resetSub h
  · split
    · exact kept_fifoAction h
    · exact kept_damage h

theorem kept_loseRuns (h : Kept s₀ s) : Kept s₀ (loseRuns s).2 := kept_upd (kept_abortCmds (kept_upd h))

theorem kept_loseUnit {u} (h : Kept s₀ s) : Kept s₀ (loseUnit u s).2 := by
  unfold loseUnit
  dsimp only
  split
  · exact kept_loseRuns h
  · exact kept_upd h
  · exact kept_upd h
  · exact kept_upd h
  · exact kept_loseCtxs (kept_loseRq h)
  · exact kept_upd (kept_loseOps h)
  · exact kept_ite h (kept_linkDown h)
  · exact kept_loseLink h
  · exact h

theorem kept_unitPorts {u} (h : Kept s₀ s) : Kept s₀ (unitPorts u s) :=
  kept_ite (kept_upd h) (kept_ite (kept_ethEval (kept_ethEval h)) h)

theorem kept_unitFatal {r : ErrRec} (h : Kept s₀ s) : Kept s₀ (unitFatal r s).2 := by
  unfold unitFatal
  extract_lets d a b _ _ t v
  have hd : Kept s₀ d.2 := kept_damage h
  have ha : Kept s₀ a.2 := kept_loseUnit hd
  have hb : Kept s₀ b.2 := kept_abortCmds ha
  have ht : Kept s₀ t := kept_unitPorts (kept_upd hb)
  exact kept_when (fun hv => kept_event (kept_enterDiverged hv)) (kept_freezeFor (kept_upd ht))

theorem kept_pwrRefuse {r unit detail} (h : Kept s₀ s) : Kept s₀ (pwrRefuse r unit detail s) :=
  kept_event (kept_refuse (kept_upd h))

theorem kept_pwrWithdraw {unit} (h : Kept s₀ s) : Kept s₀ (pwrWithdraw unit s) := by
  unfold pwrWithdraw
  split
  · exact kept_ite (kept_pwrRefuse h) h
  · exact h

theorem kept_fatalStop {r} (h : Kept s₀ s) : Kept s₀ (fatalStop r s) :=
  kept_upd (kept_deviceFatal (kept_damage (kept_eventIf (kept_upd h))))

theorem answers_errorRecordHandle (h : Kept s₀ s) : Answers s₀ (execErrorRecordHandle s) := by
  unfold execErrorRecordHandle
  dsimp only
  refine answers_next ?_
  split
  · split
    · exact h
    · split
      · exact kept_fatalStop h
      · refine kept_upd ?_
        split
        · exact kept_unitFatal (kept_pwrWithdraw h)
        · exact kept_contain (kept_pwrWithdraw h)
  · exact h

theorem answers_errorRecoveryDone (h : Kept s₀ s) : Answers s₀ (execErrorRecoveryDone s) := by
  unfold execErrorRecoveryDone
  dsimp only
  refine answers_next ?_
  split
  · exact kept_ite h (kept_when (fun hy => kept_foldl (fun _ _ => kept_resetSub) (kept_upd hy)) (kept_postErr
    (kept_upd h)))
  · exact h

theorem kept_startWake {cause} (h : Kept s₀ s) : Kept s₀ (startWake cause s) := kept_ite h (kept_upd h)
theorem kept_tamperKeys {bit} (h : Kept s₀ s) : Kept s₀ (tamperKeys bit s) := kept_bump (kept_upd h)

theorem kept_tamperOp {q} (h : Kept s₀ s) : Kept s₀ (tamperOp s q) :=
  kept_ite (kept_refuse (kept_when kept_upd (kept_post h))) (kept_refuse h)

theorem kept_tamperRun {bit} (h : Kept s₀ s) : Kept s₀ (tamperRun bit s) := by
  unfold tamperRun
  dsimp only
  refine kept_raiseErr (kept_event (kept_tamperKeys (kept_upd ?_)))
  split
  · exact kept_refuse (kept_foldl (fun _ _ => kept_tamperOp) h)
  · exact kept_foldl (fun _ _ => kept_tamperOp) h

theorem kept_tampRespond {bit} (h : Kept s₀ s) : Kept s₀ (tampRespond bit s) := by
  unfold tampRespond
  split
  · exact h
  · exact kept_startWake (kept_tamperKeys h)
  · exact kept_ite (kept_tamperRun h) (kept_tamperKeys h)

/-! ### Power states -/

theorem kept_pwrEvent {old new cause} (h : Kept s₀ s) : Kept s₀ (pwrEvent old new cause s) := kept_event h

theorem kept_pwrWithdrawTx {t n} (h : Kept s₀ s) : Kept s₀ (pwrWithdrawTx t n s) :=
  kept_ite (kept_withdraw h) (kept_withdraw h)

theorem kept_enterWatch (h : Kept s₀ s) : Kept s₀ (enterWatch s) :=
  kept_ethEval (kept_ethEval (kept_returnPorts (kept_upd (kept_upd h))))

theorem kept_enterRun (h : Kept s₀ s) : Kept s₀ (enterRun s) :=
  kept_ethEval (kept_ethEval (kept_returnPorts (kept_upd h)))

theorem kept_keepDrop (h : Kept s₀ s) : Kept s₀ (keepDrop s) :=
  kept_foldl (fun _ _ hu => kept_bumpN (kept_upd hu)) (kept_foldl (fun _ _ => kept_upd) (kept_framesDone (kept_upd h)))

theorem kept_flushCpl (h : Kept s₀ s) : Kept s₀ (flushCpl s) := kept_ite h (kept_upd h)

theorem kept_flushRing {d n : Nat} (h : Kept s₀ s) : Kept s₀ (flushRing d n s) := by
  induction n generalizing s with
  | zero => exact h
  | succ n ih =>
    unfold flushRing
    split
    · exact kept_ite (ih (kept_deliverHead h)) h
    · exact h

theorem kept_flushAll (h : Kept s₀ s) : Kept s₀ (flushAll s) :=
  kept_foldl (fun _ _ hu => kept_dropWaiting (kept_flushRing hu)) h

theorem kept_enterKeep {c : PwrCommit} (h : Kept s₀ s) : Kept s₀ (enterKeep c s) := by
  unfold enterKeep
  extract_lets t v _ u
  have ht : Kept s₀ t := kept_closeJournal (kept_keepDrop (kept_pwrEvent h))
  clear_value t
  have hu : Kept s₀ u := kept_upd (kept_flushCpl (kept_done (kept_flushAll ht)))
  clear_value u
  exact (kept_noBank (p := { u.pwr with bank := none }) rfl hu).frame rfl

theorem kept_pwrCommit {c} (h : Kept s₀ s) : Kept s₀ (pwrCommit c s) := by
  unfold pwrCommit
  split
  · exact kept_enterKeep h
  · exact kept_done (kept_pwrEvent (kept_enterWatch h))
  · exact kept_done (kept_pwrEvent (kept_enterRun h))

theorem answers_pwrCommit (h : Kept s₀ s) : Answers s₀ (execPwrCommit s) := by
  unfold execPwrCommit
  refine answers_next ?_
  split
  · exact h
  · split
    · exact kept_ite (kept_pwrCommit h) h
    · exact kept_foldl (fun _ _ => kept_done) (kept_upd h)

theorem kept_pwrAccept {r t wakeAfter} (h : Kept s₀ s) : Kept s₀ (pwrAccept r t wakeAfter s) :=
  kept_ite (kept_pwrCommit h) (kept_ite (kept_upd h) (kept_ite (kept_upd h) (kept_upd (kept_pwrWithdrawTx h))))

theorem kept_doPwrEnter {r target wakeAfter} (h : Kept s₀ s) : Kept s₀ (doPwrEnter r target wakeAfter s) := by
  unfold doPwrEnter
  dsimp only
  refine kept_checked ?_ h
  intro _ hu
  split
  · exact kept_pwrRefuse hu
  · exact kept_pwrAccept hu

theorem kept_mainReset {c : Nat} (h : Kept s₀ s) : Kept s₀ (mainReset c s) :=
  kept_reset (s := s) (q := fun p => alwaysOn p.1) rfl rfl rfl rfl rfl rfl h

theorem kept_enterOff {cause : Nat} (h : Kept s₀ s) : Kept s₀ (enterOff cause s) :=
  (kept_mainReset (c := cause) h).frame rfl

theorem kept_powerOn {c : Nat} (h : Kept s₀ s) : Kept s₀ (powerOn c s) :=
  kept_reset (s := s) (q := fun p => p.1 == 0x10020) rfl rfl rfl rfl rfl rfl h

theorem answers_perstAssert (h : Kept s₀ s) : Answers s₀ (execPerstAssert s) := by
  unfold execPerstAssert
  refine answers_next ?_
  split
  · exact h
  · exact kept_upd h
  · exact (kept_mainReset (c := 6) h).frame rfl

theorem kept_returnKeep {b : KeepBank} (hb : s.pwr.bank = some b) (h : Kept s₀ s) : Kept s₀ (returnKeep b s) := by
  unfold returnKeep
  extract_lets t
  have ht : Kept s₀ t := kept_mainReset h
  exact (kept_banked hb ht h).frame rfl

theorem answers_pwrOkFall (h : Kept s₀ s) : Answers s₀ (execPwrOkFall s) := by
  refine answers_next ?_
  split
  · exact kept_upd h
  · exact kept_upd h
  · split
    · rename_i e
      exact kept_returnKeep e h
    · exact kept_enterOff h

theorem kept_bootKeys (h : Kept s₀ s) : Kept s₀ (bootKeys s) := kept_upd (kept_foldl (fun _ _ => kept_tamperKeys) h)

theorem kept_calReports {kind oks} (h : Kept s₀ s) : Kept s₀ (calReports kind oks s) :=
  kept_foldl (fun _ _ => kept_calResult) h

theorem kept_boot {oks bistOk bad} (h : Kept s₀ s) : Kept s₀ (boot oks bistOk bad s) :=
  kept_unless (fun hy => kept_calReports (kept_upd hy)) (kept_bootKeys (kept_upd (kept_upd h)))

theorem kept_softStop (h : Kept s₀ s) : Kept s₀ (softStop s) :=
  kept_ite (kept_upd (kept_closeJournal (kept_upd h))) (kept_upd (kept_gapRings (kept_foldl (fun _ _ => kept_refuse)
    (kept_closeJournal (kept_upd h)))))

theorem kept_softReset (h : Kept s₀ s) : Kept s₀ (softReset s) := kept_upd (kept_mainReset (kept_softStop h))

theorem answers_glbResetWrite {value} (h : Kept s₀ s) : Answers s₀ (execGlbResetWrite value s) :=
  answers_next (kept_ite (kept_boot (kept_softReset (kept_upd h))) h)

/-- The state bank put back: retained register words, the active copies, and the banks as they stood. -/
theorem kept_restoreBank {c : Nat} {n : TimeState} (hs : Kept s₀ s) (h : Kept s₀ t) : Kept s₀ (restoreBank c n s t) := by
  refine ⟨h.1, fun w => ?_⟩
  obtain ⟨hr, -, ha, -, -⟩ := wordsOk_iff.mp (hs.2 w)
  obtain ⟨-, hc, -, hb, -⟩ := wordsOk_iff.mp (h.2 w)
  refine wordsOk_iff.mpr ⟨cellsWf_filter _ _ _ hr, hc, ha, hb, fun b e => ?_⟩
  cases e
  exact ⟨hr, ha⟩

theorem kept_wakeCals {oks again} (h : Kept s₀ s) : Kept s₀ (wakeCals oks again s) :=
  kept_foldl (fun _ _ => kept_calResult) h

theorem kept_wakeKeys {c1} (h : Kept s₀ s) : Kept s₀ (wakeKeys c1 s) := kept_bootKeys (kept_upd h)

theorem kept_wakeServe {cause c : Nat} {n : TimeState} {est : Rat} {oks : List Bool} (h : Kept s₀ t) :
    Kept s₀ (wakeServe cause c n est oks s t) :=
  kept_upd (kept_wakeCals (kept_upd (kept_pwrEvent (kept_setTimeState (kept_closeSixps (kept_upd (kept_event
    (kept_switchIfDue (kept_unless kept_openJournal (kept_wakeKeys h))))))))))

theorem kept_wake {cause c1 oks} (h : Kept s₀ s) : Kept s₀ (wake cause c1 oks s) :=
  kept_wakeServe (kept_restoreBank h (kept_mainReset (kept_upd h)))

theorem answers_keepWake {c1 verifyOk} (h : Kept s₀ s) : Answers s₀ (execKeepWake c1 verifyOk s) := by
  unfold execKeepWake
  refine answers_next ?_
  split
  · exact kept_wake h
  · exact h

/-! ### Commands of descriptors -/

theorem kept_doHost {r c} (h : Kept s₀ s) : Kept s₀ (doHost r c s) := by
  unfold doHost
  split
  · exact kept_doPwrEnter h
  · exact kept_doPairJoin h
  · exact kept_doPairTakeover h
  · exact kept_doSwapDrill h
  · exact kept_doPairSolo h
  · exact kept_doJournalDump h
  · exact kept_doReplayEnter h
  · exact kept_doReplayFeed h
  · exact kept_doDiagIqSnapshot h
  · exact kept_doShared h

theorem kept_enterDesc {r ref d n c} (h : Kept s₀ s) : Kept s₀ (enterDesc r ref d n c s) :=
  kept_upd (kept_admitCmd (kept_upd h))

theorem kept_endDesc {r ref d st un de} (h : Kept s₀ s) : Kept s₀ (endDesc r ref d st un de s) :=
  kept_refuse (kept_enterDesc h)

theorem kept_runDesc {ref d} (h : Kept s₀ s) : Kept s₀ (runDesc ref d s) := kept_when kept_upd (kept_doHost h)

theorem kept_admitNext {r d x} (h : Kept s₀ s) : Kept s₀ (admitNext r d x s) := by
  unfold admitNext
  dsimp only
  split
  · exact h
  · split
    · exact kept_endDesc (kept_bumpIf h)
    · exact kept_endDesc h
    · exact kept_endDesc h
    · exact kept_runDesc (kept_enterDesc h)

theorem answers_commandAdmit {ring} (h : Kept s₀ s) : Answers s₀ (execCommandAdmit ring s) := by
  unfold execCommandAdmit
  refine answers_next ?_
  split
  · split
    · exact kept_ite (kept_admitNext h) h
    · exact h
  · exact h

/-! ### Registers over BAR0 -/

theorem kept_writeMapped {r a v} (h : Kept s₀ s) : Kept s₀ (writeMapped r a v s) := by
  unfold writeMapped
  split
  · exact kept_ite (kept_jwr (fun _ hu => kept_writeRow (kept_journalCfg hu)) h) (kept_writeRow h)
  · exact h

theorem kept_writeWord {a v} (h : Kept s₀ s) : Kept s₀ (writeWord a v s) := by
  unfold writeWord
  split
  · exact kept_writeMapped h
  · exact kept_ite h (kept_glbFlag h)

theorem answers_registerWrite {addr width : Nat} {value : Word} (h : Kept s₀ s) :
    Answers s₀ (execRegisterWrite addr width value s) := by
  refine answers_ite (answers_next h) (answers_ite (answers_next (kept_glbFlag h)) (answers_ite (answers_glbResetWrite h)
    (answers_ite (answers_errRestartWrite h) (answers_ite (answers_schHctlWrite h) (answers_ite (answers_quePoolWrite h) ?_)))))
  split
  · exact answers_ringCtlWrite h
  · exact answers_next (kept_writeWord h)

theorem kept_readEffect {a : Nat} (h : Kept s₀ s) : Kept s₀ (readEffect a s) := by
  refine (kept_cnt (c := (readEffect a s).cnt) (fun hc => ?_) h).frame rfl
  unfold readEffect
  dsimp only
  split
  · split
    · exact cellsWf_put (fun _ => 0) a 0 s.cnt hc
    · exact hc
  · exact hc

theorem kept_readAt {a ofs width} (h : Kept s₀ s) : Kept s₀ (readAt a ofs width s) :=
  kept_ite (kept_upd (kept_readEffect h)) (kept_upd h)

/-! ### The operation table -/

/-- Every command of the operation table answers a next state that keeps the queue and the words. -/
theorem exec_answers (c : Instr) (h : Kept s₀ s) : Answers s₀ (exec c s) := by
  cases c with
  | cfgSnapshotRead => exact answers_next (kept_runCmd (fun _ => kept_doCfgSnapshotRead) h)
  | timeSetEpoch => exact answers_next (kept_runCmd (fun _ => kept_doTimeSetEpoch) h)
  | timeStep => exact answers_next (kept_runCmd (fun _ => kept_doTimeStep) h)
  | timeStepExecute => exact answers_timeStepExecute h
  | timeForce => exact answers_next (kept_runCmd (fun _ => kept_doTimeForce) h)
  | rfPortSet => exact answers_next (kept_runCmd (fun _ => kept_doRfPortSet) h)
  | portSetEffect => exact answers_next (kept_coreOnly h (kept_portEffect h))
  | portTransitionDone => exact answers_portTransitionDone h
  | rfCalibrate => exact answers_next (kept_runCmd (fun _ => kept_doRfCalibrate) h)
  | calibrateStart => exact answers_next (kept_coreOnly h (kept_calStart h))
  | calRunDone => exact answers_calRunDone h
  | bgtrimStep => exact answers_next (kept_ite h (kept_eventIf (kept_upd h)))
  | rfBankApply => exact answers_next (kept_runCmd (fun _ => kept_doBankApply) h)
  | bankApplyActivate => exact answers_bankApplyActivate h
  | schedSlotframeSet => exact answers_next (kept_runCmd (fun _ => kept_doSlotframeSet) h)
  | slotframeSetEffect => exact answers_next (kept_coreOnly h (kept_sfEffect h))
  | schedCellsWrite => exact answers_next (kept_runCmd (fun _ => kept_doCellsWrite) h)
  | cellsWriteEffect => exact answers_cellsWriteEffect h
  | herdModeSet => exact answers_next (kept_runCmd (fun _ => kept_doHerdModeSet) h)
  | herdNodeSet => exact answers_next (kept_runCmd (fun _ => kept_doHerdNodeSet) h)
  | herdNodeRead => exact answers_next (kept_runCmd (fun _ => kept_doHerdNodeRead) h)
  | nodeInsert => exact answers_next (kept_runCmd (fun _ => kept_doNodeInsert) h)
  | nodeRemove => exact answers_next (kept_runCmd (fun _ => kept_doNodeRemove) h)
  | nodeRead => exact answers_next (kept_runCmd (fun _ => kept_doNodeRead) h)
  | prefixInsert => exact answers_next (kept_runCmd (fun _ => kept_doPrefixInsert) h)
  | prefixRemove => exact answers_next (kept_runCmd (fun _ => kept_doPrefixRemove) h)
  | pktSend => exact answers_next (kept_runCmd (fun _ => kept_doPktSend) h)
  | bcastSend => exact answers_next (kept_runCmd (fun _ => kept_doBcastSend) h)
  | imgOpen => exact answers_next (kept_runCmd (fun _ => kept_doImgOpen) h)
  | imgLoad => exact answers_next (kept_runCmd (fun _ => kept_doImgLoad) h)
  | imgSend => exact answers_next (kept_runCmd (fun _ => kept_doImgSend) h)
  | imgSendLink => exact answers_imgSendLink h
  | rqOverrun => exact answers_rqOverrun h
  | imgClose => exact answers_next (kept_runCmd (fun _ => kept_doImgClose) h)
  | secIdentity => exact answers_next (kept_runCmd (fun _ => kept_doSecIdentity) h)
  | secAttest => exact answers_next (kept_runCmd (fun _ => kept_doSecAttest) h)
  | secKeyImport => exact answers_next (kept_runCmd (fun _ => kept_doSecKeyImport) h)
  | secKeygenSwitch => exact answers_next (kept_runCmd (fun _ => kept_doSecKeygenSwitch) h)
  | keygenSwitchTake => exact answers_keygenSwitchTake h
  | secKeyClear => exact answers_next (kept_runCmd (fun _ => kept_doSecKeyClear) h)
  | secFcAck => exact answers_next (kept_runCmd (fun _ => kept_doSecFcAck) h)
  | secFcRestore => exact answers_next (kept_runCmd (fun _ => kept_doSecFcRestore) h)
  | secLcAdvance => exact answers_next (kept_runCmd (fun _ => kept_doSecLcAdvance) h)
  | secTamperAck => exact answers_next (kept_runCmd (fun _ => kept_doSecTamperAck) h)
  | secFuseWrite => exact answers_next (kept_runCmd (fun _ => kept_doSecFuseWrite) h)
  | romPatchLoad => exact answers_next (kept_runCmd (fun _ => kept_doRomPatchLoad) h)
  | secCipher => exact answers_next (kept_runCmd (fun _ => kept_doSecCipher) h)
  | pwrEnter => exact answers_next (kept_runCmd (fun _ => kept_doPwrEnter) h)
  | pwrCommit => exact answers_pwrCommit h
  | pairJoin => exact answers_next (kept_runCmd (fun _ => kept_doPairJoin) h)
  | pairTakeover => exact answers_next (kept_runCmd (fun _ => kept_doPairTakeover) h)
  | swapDrill => exact answers_next (kept_runCmd (fun _ => kept_doSwapDrill) h)
  | swapDrillBoundary => exact answers_swapDrillBoundary h
  | pairSolo => exact answers_next (kept_runCmd (fun _ => kept_doPairSolo) h)
  | journalCtl => exact answers_next (kept_runCmd (fun _ => kept_doJournalCtl) h)
  | journalDump => exact answers_next (kept_runCmd (fun _ => kept_doJournalDump) h)
  | replayEnter => exact answers_next (kept_runCmd (fun _ => kept_doReplayEnter) h)
  | replayFeed => exact answers_next (kept_runCmd (fun _ => kept_doReplayFeed) h)
  | diagNop => exact answers_next (kept_runCmd (fun _ => kept_doDiagNop) h)
  | diagIqSnapshot => exact answers_next (kept_runCmd (fun _ => kept_doDiagIqSnapshot) h)
  | iqCapture => exact answers_iqCapture h
  | glbResetWrite => exact answers_glbResetWrite h
  | errRestartWrite => exact answers_errRestartWrite h
  | quePoolWrite => exact answers_quePoolWrite h
  | ringCtlWrite => exact answers_ringCtlWrite h
  | schHctlWrite => exact answers_schHctlWrite h
  | registerWrite => exact answers_registerWrite h
  | timeNowLoRead => exact answers_next (kept_readAt h)
  | loHiLatchRead => exact answers_next (kept_readAt h)
  | rcCounterRead => exact answers_next (kept_readAt h)
  | dbCmdPi => exact answers_dbCmdPi h
  | dbCplCi => exact answers_dbCplCi h
  | dbDlvCi => exact answers_dbDlvCi h
  | commandAdmit => exact answers_commandAdmit h
  | recordDeliver => exact answers_recordDeliver h
  | interruptSend => exact answers_interruptSend h
  | hifLinkReset => exact answers_next (kept_ite h (kept_linkDown h))
  | slotBoundary => exact answers_next (kept_ite h (kept_when kept_boundaryWork (kept_pairCount (kept_upd (kept_upd h)))))
  | herdOverrun => exact answers_next (kept_coreOnly h (kept_ite h (kept_raiseErr (kept_dropDecs h))))
  | sixpTimeout => exact answers_sixpTimeout h
  | dropReadmitCheck => exact answers_dropReadmitCheck h
  | nodeSupervisionTimeout => exact answers_nodeSupervisionTimeout h
  | reasmExpire => exact answers_reasmExpire h
  | parentExpire => exact answers_parentExpire h
  | ageingVisit => exact answers_ageingVisit h
  | txInstant => exact answers_txInstant h
  | txPortWake => exact answers_txPortWake h
  | coexRequestAssert => exact answers_coexRequestAssert h
  | txOutcome => exact answers_txOutcome h
  | txFrameEnd => exact answers_txFrameEnd h
  | txLingerExpire => exact answers_txLingerExpire h
  | ackWindowClose => exact answers_ackWindowClose h
  | channelDeafStart => exact answers_channelDeafStart h
  | channelDeafEnd => exact answers_channelDeafEnd h
  | clipDetect => exact answers_next (kept_ite h (kept_bumpN (kept_bumpIf (kept_upd (kept_upd h)))))
  | clipHangExpire => exact answers_next (kept_ite (kept_upd (kept_upd h)) h)
  | coexFault => exact answers_next (kept_ite h (kept_event (kept_setReg (kept_upd (kept_upd h)))))
  | coexClear => exact answers_coexClear h
  | refLost => exact answers_refLost h
  | refGood => exact answers_next (kept_ite h (kept_journal (kept_upd h)))
  | refRecoveryTimeout => exact answers_refRecoveryTimeout h
  | spllUnlock => exact answers_next (kept_ite h (kept_ite (kept_raiseErr (kept_spllLeave h)) (kept_spllLeave h)))
  | spllLock => exact answers_next (kept_ite (kept_spllLocked h) h)
  | spllLockTimeout => exact answers_next (kept_ite h (kept_ite (kept_spllGiveUp (kept_upd h)) (kept_upd (kept_upd h))))
  | preambleDetect => exact answers_preambleDetect h
  | secondPreambleDetect => exact answers_secondPreambleDetect h
  | sfdDetect => exact answers_sfdDetect h
  | falseDetRelease => exact answers_falseDetRelease h
  | msPhrRx => exact answers_msPhrRx h
  | msTimeout => exact answers_msTimeout h
  | rxFrameEnd => exact answers_rxFrameEnd h
  | ldpcCodewordDone => exact answers_next (kept_when kept_decodeNext (kept_upd h))
  | rxFrameAdmit => exact answers_rxFrameAdmit h
  | rxSummaryAdmit => exact answers_next (kept_ite h (kept_upd (kept_journal (kept_upd h))))
  | timeSourceOutcome => exact answers_next (kept_coreOnly h (kept_ite h (kept_sourceOutcome (kept_journal h))))
  | servoSecondSample => exact answers_servoSecondSample h
  | slckRatioMeasure => exact answers_next (kept_coreOnly h (kept_ite h (kept_journal (kept_upd (kept_upd h)))))
  | ppsEdge => exact answers_ppsEdge h
  | ppsWidthTimeout => exact answers_ppsWidthTimeout h
  | ppsMissingSecond => exact answers_ppsMissingSecond h
  | ppsQuiet => exact answers_next (kept_coreOnly h (kept_ite h (kept_event (kept_upd (kept_upd h)))))
  | todMessageRx => exact answers_todMessageRx h
  | todWaitTimeout => exact answers_todWaitTimeout h
  | todByteGap => exact answers_next (kept_coreOnly h (kept_ite (kept_upd h) h))
  | ptpSyncRx => exact answers_ptpSyncRx h
  | ptpFollowUpRx => exact answers_ptpFollowUpRx h
  | ptpDelayRespRx => exact answers_ptpDelayRespRx h
  | ptpAnnounceRx => exact answers_next (kept_coreOnly h (kept_ptpFrom (fun _ => kept_upd) h))
  | ptpDelayReqSend => exact answers_ptpDelayReqSend h
  | ptpSyncMiss => exact answers_next (kept_coreOnly h (kept_ite h (kept_reference (kept_upd (kept_upd h)))))
  | airBeaconMiss => exact answers_airBeaconMiss h
  | ethFrameRx => exact answers_next (kept_ite (kept_ethRx h) h)
  | ethAdmit => exact answers_ethAdmit h
  | ethLinkChange => exact answers_next (kept_ite (kept_ethEval (kept_upd h)) h)
  | ethFrameTx => exact answers_next (kept_ite (kept_ethTx h) h)
  | ethPauseExpire => exact answers_ethPauseExpire h
  | pauseRepeat => exact answers_pauseRepeat h
  | watermarkCrossing => exact answers_next (kept_ite h (kept_ite (kept_ite (kept_wmFall h) h) (kept_ite
    (kept_wmRise h) h)))
  | qflowHoldExpire => exact answers_qflowHoldExpire h
  | fifoQueueReset => exact answers_next (kept_ite (kept_queueReset h) h)
  | errorDetect => exact answers_errorDetect h
  | errorRecordHandle => exact answers_errorRecordHandle h
  | scrubVisit => exact answers_next (kept_ite h (kept_when (fun hy => kept_raiseErr (kept_upd hy)) (kept_upd h)))
  | watchdogExpire => exact answers_next (kept_ite (kept_raiseErr h) h)
  | tamperAlarm => exact answers_next (kept_ite h (kept_when kept_tampRespond (kept_upd h)))
  | pairLinkChange => exact answers_next (kept_ite h (kept_ite (kept_event (kept_upd h)) (kept_linkLost h)))
  | pairIdentRx => exact answers_next (kept_ite h (kept_ite (kept_tryJoin (kept_upd h)) (kept_rejoinIdent (kept_upd h))))
  | joinCopyDone => exact answers_next (kept_ite (kept_setPair (kept_upd (kept_foldl (fun _ _ => kept_takePart) h))) h)
  | journalRecordRx => exact answers_next (kept_ite h (kept_when kept_upd (kept_upd h)))
  | standbyExecuteSlot => exact answers_standbyExecuteSlot h
  | digestWrite => exact answers_digestWrite h
  | heartbeatRx => exact answers_next (kept_ite (kept_upd h) h)
  | heartbeatLoss => exact answers_next (kept_ite h (kept_ite (kept_enterTakeover h) (kept_ite (kept_activeLost h) h)))
  | pairAckRx => exact answers_pairAckRx h
  | standbyLostTimeout => exact answers_next (kept_ite (kept_standbyLost h) h)
  | timingMarkRx => exact answers_next (kept_ite (kept_upd h) h)
  | keyTransferRx => exact answers_keyTransferRx h
  | failMessageRx => exact answers_next (kept_ite (kept_triggered (kept_upd h)) h)
  | takeoverMessageRx => exact answers_next (kept_ite (kept_yieldActive h) h)
  | drillMessageRx => exact answers_next (kept_ite (kept_upd h) h)
  | pairFailAssert => exact answers_pairFailAssert h
  | takeoverActivate => exact answers_next (kept_ite h (kept_takeoverAt (kept_upd (kept_upd h))))
  | drillActivate => exact answers_drillActivate h
  | joinTimeout => exact answers_joinTimeout h
  | autorejoinTimer => exact answers_autorejoinTimer h
  | powerOnReset => exact answers_next (kept_powerOn h)
  | coldBoot => exact answers_next (kept_ite (kept_boot h) h)
  | perstAssert => exact answers_perstAssert h
  | pwrOkFall => exact answers_pwrOkFall h
  | brownOut => exact answers_next (kept_setReg (kept_powerOn h))
  | wakeTimer => exact answers_next (kept_ite (kept_startWake (kept_upd h)) h)
  | wakePin => exact answers_next (kept_ite (kept_startWake h) h)
  | keepWake => exact answers_keepWake h
  | txHoldExpire => exact answers_txHoldExpire h
  | txRampStart => exact answers_txRampStart h
  | femLeadSwitch => exact answers_femLeadSwitch h
  | femHoldExpire => exact answers_femHoldExpire h
  | utcDayEnd => exact answers_next (kept_coreOnly h (kept_upd h))
  | pcieConfigWrite => exact answers_next (kept_upd h)
  | cipherOperationDone => exact answers_cipherOperationDone h
  | errorRecoveryDone => exact answers_errorRecoveryDone h

end

end Sys2Proof.Machine
end

section
/-! SUPPORT. Register words and counters read back what was stored. -/
namespace Sys2Proof.Machine

theorem reg_setReg_same {s : State} (a : Nat) (v : Word) (h : cellsWf resetAt s.regs = true) : (s.setReg a v).reg a = v :=
  cellsGet_put resetAt a v s.regs h

theorem reg_setReg_ne {s : State} {a b : Nat} (v : Word) (h : b ≠ a) : (s.setReg a v).reg b = s.reg b :=
  cellsGet_put_ne a b v _ _ _ h

/-- Exchanging the middle digit f of the number q·2^(lo+w) + f·2^lo + r for m is exchanging it in its digits. -/
theorem exchange_field (x m lo w : Nat) :
    x - x / 2 ^ lo % 2 ^ w * 2 ^ lo + m * 2 ^ lo = x % 2 ^ lo + 2 ^ lo * (m + 2 ^ w * (x / 2 ^ (lo + w))) := by
  have hx : x = x % 2 ^ lo + 2 ^ lo * (x / 2 ^ lo % 2 ^ w + 2 ^ w * (x / 2 ^ (lo + w))) := by
    rw [Nat.pow_add, ← Nat.div_div_eq_div_mul, Nat.mod_add_div, Nat.mod_add_div]
  generalize x / 2 ^ lo % 2 ^ w = f at hx ⊢
  generalize x / 2 ^ (lo + w) = q at hx ⊢
  generalize x % 2 ^ lo = r at hx ⊢
  subst hx
  rw [Nat.mul_add, Nat.mul_add, Nat.mul_comm f, Nat.mul_comm m]
  omega

section
variable {r m q lo w : Nat} (hr : r < 2 ^ lo) (hm : m < 2 ^ w)
include hr

theorem low_of_digits : (r + 2 ^ lo * (m + 2 ^ w * q)) % 2 ^ lo = r := by
  rw [Nat.add_mul_mod_self_left, Nat.mod_eq_of_lt hr]

theorem field_up_of_digits : (r + 2 ^ lo * (m + 2 ^ w * q)) / 2 ^ lo = m + 2 ^ w * q := by
  rw [Nat.add_mul_div_left _ _ (Nat.two_pow_pos lo), Nat.div_eq_of_lt hr, Nat.zero_add]

include hm

theorem field_of_digits : (r + 2 ^ lo * (m + 2 ^ w * q)) / 2 ^ lo % 2 ^ w = m := by
  rw [field_up_of_digits hr, Nat.add_mul_mod_self_left, Nat.mod_eq_of_lt hm]

theorem top_of_digits : (r + 2 ^ lo * (m + 2 ^ w * q)) / 2 ^ (lo + w) = q := by
  rw [Nat.pow_add, ← Nat.div_div_eq_div_mul, field_up_of_digits hr, Nat.add_mul_div_left _ _ (Nat.two_pow_pos w),
    Nat.div_eq_of_lt hm, Nat.zero_add]

theorem digits_lt {k : Nat} (hq : q < 2 ^ k) : r + 2 ^ lo * (m + 2 ^ w * q) < 2 ^ (lo + w + k) := by
  rw [Nat.pow_add, Nat.mul_comm (2 ^ (lo + w))]
  exact (Nat.div_lt_iff_lt_mul (Nat.two_pow_pos _)).mp (by rw [top_of_digits hr hm]; exact hq)

end

/-- The count after a bump, by its digits: those below and above the field stay. -/
theorem cntBump_toNat {c : List (Nat × Word)} (a n : Nat) {lo w : Nat} (hc : cellsWf (fun _ => 0) c = true) (hw : 0 < w)
    (h32 : lo + w ≤ 32) :
    let x := (cellsGet a 0 c).toNat
    (cellsGet a 0 (cntBump a lo w n c)).toNat =
      x % 2 ^ lo + 2 ^ lo * (min (x / 2 ^ lo % 2 ^ w + n) (2 ^ w - 1) + 2 ^ w * (x / 2 ^ (lo + w))) := by
  intro x
  have hf : bitsOf x (lo + w - 1) lo = x / 2 ^ lo % 2 ^ w := by rw [bitsOf]; congr 2; omega
  have hm : min (x / 2 ^ lo % 2 ^ w + n) (2 ^ w - 1) < 2 ^ w := by have := Nat.two_pow_pos w; omega
  have hq : x / 2 ^ (lo + w) < 2 ^ (32 - (lo + w)) := by
    refine Nat.div_lt_of_lt_mul ?_
    rw [← Nat.pow_add, Nat.add_sub_cancel' h32]
    exact (cellsGet a 0 c).isLt
  have hy := digits_lt (Nat.mod_lt x (Nat.two_pow_pos lo)) hm hq
  rw [Nat.add_sub_cancel' h32] at hy
  rw [cntBump, cellsGet_put (fun _ => 0) a _ c hc, BitVec.toNat_ofNat]
  change (x - bitsOf x (lo + w - 1) lo * 2 ^ lo + min (bitsOf x (lo + w - 1) lo + n) (2 ^ w - 1) * 2 ^ lo) % 2 ^ 32 = _
  rw [hf, exchange_field, Nat.mod_eq_of_lt hy]

end Sys2Proof.Machine
end

section
/-! THEOREMS. Register words and counters. -/
namespace Sys2Proof.Machine

/-- Settles O6, by the laws of a canonical list of words. -/
theorem registerReadsBack : Obligations.RegisterReadsBack := by
  intro s a b v h
  exact ⟨reg_setReg_same a v (wordsOk_iff.mp h).1, reg_setReg_ne v, rfl, rfl, rfl⟩

/-- Settles O7: the word is three digits, and counting exchanges the middle one. -/
theorem countersSaturate : Obligations.CountersSaturate := by
  intro c a b lo w n hc hw h32 x y
  have hy : y = _ := cntBump_toNat a n hc hw h32
  have hr : x % 2 ^ lo < 2 ^ lo := Nat.mod_lt x (Nat.two_pow_pos lo)
  have hm : min (x / 2 ^ lo % 2 ^ w + n) (2 ^ w - 1) < 2 ^ w := by have := Nat.two_pow_pos w; omega
  rw [hy]
  exact ⟨field_of_digits hr hm, low_of_digits hr, top_of_digits hr hm, cellsGet_put_ne a b _ _ _ _⟩

end Sys2Proof.Machine
end

section
/-! THEOREMS. Every step keeps the register words canonical. -/
namespace Sys2Proof.Machine

/-- Every step keeps canonical words: the queue is no part of them, and each command keeps them. -/
theorem step_wordsOk {s : State} (h : s.wordsOk = true) : ∃ t, step s = .next t ∧ t.wordsOk = true := by
  unfold step
  split
  · exact ⟨idleTick s, rfl, h⟩
  · rename_i i rest _
    obtain ⟨t, ht, -, hw⟩ := exec_answers i (Kept.refl (s := { s with pending := rest }))
    exact ⟨t, ht, hw h⟩

/-- Settles O3, by one lemma for each operation of the model. -/
theorem wordsOkKept : Obligations.WordsOkKept := by
  intro s s' h e
  obtain ⟨t, ht, hw⟩ := step_wordsOk h
  cases e.symm.trans ht
  exact hw

end Sys2Proof.Machine
end

section
/-! SUPPORT. Writes and reads of registers over BAR0, case by case (R15 to R17, R525 to R529). -/
namespace Sys2Proof.Machine

/-! ### The row that serves a write -/

/-- An aligned address of none of the registers that have a row of their own in the operation table. -/
def RowlessAddr (a : Nat) : Prop :=
  a % 4 = 0 ∧ a ≠ 0x10 ∧ a ≠ 0x12000C ∧ a ≠ 0x92000 ∧ ¬ (0xD0010 ≤ a ∧ a < 0xD0038 ∧ a % 8 = 0) ∧ ringAtCtl a = none

section
variable {s : State} {a w : Nat} {v : Word}

theorem registerWrite_of_not_bar0 (hb : bar0 s = false) : exec (.registerWrite a w v) s = .next s := by
  change execRegisterWrite a w v s = _
  rw [execRegisterWrite, hb]
  rfl

theorem registerWrite_of_badWidth (hb : bar0 s = true) (hw : w ≠ 4 ∨ a % 4 ≠ 0) :
    exec (.registerWrite a w v) s = .next (glbFlag 2 s) := by
  change execRegisterWrite a w v s = _
  rw [execRegisterWrite, hb, if_pos hw]
  rfl

theorem registerWrite_of_quePool {k : Nat} (hb : bar0 s = true) (hk : k < 5) :
    exec (.registerWrite (0xD0010 + 8 * k) 4 v) s = exec (.quePoolWrite k v) s := by
  change execRegisterWrite (0xD0010 + 8 * k) 4 v s = execQuePoolWrite k v s
  have hi : (0xD0010 + 8 * k - 0xD0010) / 8 = k := by omega
  rw [execRegisterWrite, hb, if_neg (by decide), if_neg (by omega), if_neg (by omega), if_neg (by omega), if_neg (by omega),
    if_pos (by omega), hi]

theorem registerWrite_of_ringCtl {ring : RingSel} (hb : bar0 s = true) (h4 : a % 4 = 0) (ha : 0xE0000 ≤ a ∧ a < 0xE1000)
    (hr : ringAtCtl a = some ring) : exec (.registerWrite a 4 v) s = exec (.ringCtlWrite ring v) s := by
  change execRegisterWrite a 4 v s = execRingCtlWrite ring v s
  rw [execRegisterWrite, hb, if_neg (by decide), if_neg (by omega), if_neg (by omega), if_neg (by omega), if_neg (by omega),
    if_neg (by omega), hr]

/-- Every other aligned write of 4 octets reaches a register word. -/
theorem registerWrite_of_rowless (hb : bar0 s = true) (ha : RowlessAddr a) :
    exec (.registerWrite a 4 v) s = .next (writeWord a v s) := by
  obtain ⟨h4, h10, hErr, hHctl, hPool, hRing⟩ := ha
  change execRegisterWrite a 4 v s = _
  rw [execRegisterWrite, hb, if_neg (by decide), if_neg (by omega), if_neg h10, if_neg hErr, if_neg hHctl, if_neg hPool, hRing]

end

theorem ctl_bounds {ring : RingSel} (h : ringExists ring = true) :
    RingSel.ctl ring % 4 = 0 ∧ 0xE0000 ≤ RingSel.ctl ring ∧ RingSel.ctl ring < 0xE1000 := by
  cases ring <;> simp only [ringExists, decide_eq_true_eq, RingSel.ctl, cringCtl, cplCtl, dlvCtl] at h ⊢ <;> omega

/-- The address of a ring's CTL names that ring. -/
theorem ringAtCtl_ctl {ring : RingSel} (h : ringExists ring = true) : ringAtCtl (RingSel.ctl ring) = some ring := by
  cases ring with
  | cmd r =>
    simp only [ringExists, decide_eq_true_eq] at h
    have hi : (0xE0110 + 32 * r - 0xE0100) / 32 = r := by omega
    rw [RingSel.ctl, cringCtl, ringAtCtl, if_pos (by omega), hi]
  | cpl c =>
    simp only [ringExists, decide_eq_true_eq] at h
    have hi : (0xE0408 + 32 * c - 0xE0400) / 32 = c := by omega
    rw [RingSel.ctl, cplCtl, ringAtCtl, if_neg (by omega), if_pos (by omega), hi]
  | dlv d =>
    simp only [ringExists, decide_eq_true_eq] at h
    have hi : (0xE0610 + 32 * d - 0xE0600) / 32 = d := by omega
    rw [RingSel.ctl, dlvCtl, ringAtCtl, if_neg (by omega), if_neg (by omega), if_pos (by omega), hi]

/-! ### A write of a register word -/

section
variable {s : State} {a : Nat} {v : Word} {r : RegRow}

theorem writeWord_unmapped (hr : regRow a = none) (ha : activeOf a = none) : writeWord a v s = glbFlag 1 s := by
  rw [writeWord, hr, ha]
  rfl

theorem writeWord_activeCopy (hr : regRow a = none) (ha : (activeOf a).isSome = true) : writeWord a v s = s := by
  rw [writeWord, hr]
  exact if_pos ha

theorem writeWord_readOnly (hr : regRow a = some r) (h : r.acc ≠ .rw) : writeWord a v s = s := by
  rw [writeWord, hr]
  change writeMapped r a v s = s
  unfold writeMapped
  split
  · next e => exact absurd e h
  · rfl

theorem writeWord_plain (hr : regRow a = some r) (h : r.acc = .rw) (hj : r.jrn = false) :
    writeWord a v s = writeRow r a v s := by
  rw [writeWord, hr]
  change writeMapped r a v s = _
  rw [writeMapped, h, hj]
  rfl

theorem writeWord_journaled (hr : regRow a = some r) (h : r.acc = .rw) (hj : r.jrn = true) :
    writeWord a v s = jwr (fun s => writeRow r a v (journalCfg a v s)) s := by
  rw [writeWord, hr]
  change writeMapped r a v s = _
  rw [writeMapped, h, hj]
  rfl

theorem jwr_preparing {f : State → State} (hp : s.pwr.preparing = true) : jwr f s = s := by rw [jwr, hp, Bool.or_true]; rfl

theorem jwr_drops {f : State → State} (hb : bar0 s = true) (hp : s.pwr.preparing = false) (hd : jwrDrops s = true) :
    jwr f s = glbFlag 4 s := by rw [jwr, hb, hp, hd]; rfl

theorem jwr_takes {f : State → State} (hb : bar0 s = true) (hp : s.pwr.preparing = false) (hd : jwrDrops s = false) :
    jwr f s = f s := by rw [jwr, hb, hp, hd]; rfl

theorem writeRow_of_free (ht : (isTemplate a && !allInactive s) = false) (hg : (isHgroup a && groupHeld s) = false)
    (hr : ringHeld s a = false) (hh : tampHeld s a v = false) : writeRow r a v s = storeReg r a v s := by
  rw [writeRow, ht, hg, hr, hh]
  rfl

theorem ringHeld_of_no_ring (h : ringOfReg a = none) : ringHeld s a = false := by rw [ringHeld, h]

theorem tampHeld_of_ne (h : a ≠ 0xC0040) : tampHeld s a v = false := by
  rw [tampHeld, beq_eq_false_iff_ne.mpr h, Bool.false_and, Bool.false_and]

/-- A write of a register that no rule holds back and that sets nothing off stores its word. -/
theorem writeRow_stores (ht : (isTemplate a && !allInactive s) = false) (hg : isHgroup a = false) (hr : ringOfReg a = none)
    (hh : a ≠ 0xC0040) (hk : ∀ old w x, regHook a old w x = x) :
    writeRow r a v s = s.setReg a (written r (s.reg a) v) := by
  rw [writeRow_of_free ht (by rw [hg, Bool.false_and]) (ringHeld_of_no_ring hr) (tampHeld_of_ne hh)]
  exact hk _ _ _

end

/-! ### Reads -/

section
variable {s : State} {a o w : Nat}

theorem readAt_served (hb : bar0 s = true) (hc : contained o w = true) :
    readAt a o w s = { readEffect a s with rdata := readPart (readWord s a) o w } := by
  rw [readAt, hb, hc]
  rfl

theorem readAt_unserved (h : (bar0 s && contained o w) = false) : readAt a o w s = { s with rdata := 0 } := by
  rw [readAt, h]
  rfl

theorem readEffect_cnt_rc {r : RegRow} (hr : regRow a = some r) (h : r.acc = .rc) :
    (readEffect a s).cnt = cellsPut a 0 0 s.cnt := by
  simp only [readEffect, hr, h, if_true]

theorem readEffect_cnt_ne {r : RegRow} (hr : regRow a = some r) (h : r.acc ≠ .rc) : (readEffect a s).cnt = s.cnt := by
  simp only [readEffect, hr, if_neg h]

theorem readWord_latched (h : latched a = true) : readWord s a = cellsGet a (latchReset s a) s.latch := if_pos h

/-- The row of TIME_NOW_LO: read-only. -/
theorem regRow_timeNowLo : ∃ r, regRow 0x30040 = some r ∧ r.acc = .ro := ⟨_, rfl, rfl⟩

theorem readWord_readOnly {r : RegRow} (hl : latched a = false) (hr : regRow a = some r) (h : r.acc = .ro) :
    readWord s a = statusValue s a := by
  simp only [readWord, hl, hr, h, Bool.false_eq_true, if_false]

theorem readWord_timeNowLo : readWord s 0x30040 = wordN (loN s.time.tb) := by
  obtain ⟨r, hr, ha⟩ := regRow_timeNowLo
  exact readWord_readOnly (by decide) hr ha

theorem latchReset_congr {t : State} (h : t.sec = s.sec) : latchReset t = latchReset s := by
  funext b
  simp only [latchReset, h]

theorem cellsWf_putLatch (v : Word) {l : List (Nat × Word)} (h : cellsWf (latchReset s) l = true) :
    cellsWf (latchReset s) (putLatch s a v l) = true := cellsWf_put (latchReset s) a v l h

theorem get_putLatch_same (v : Word) {l : List (Nat × Word)} (h : cellsWf (latchReset s) l = true) :
    cellsGet a (latchReset s a) (putLatch s a v l) = v := cellsGet_put (latchReset s) a v l h

theorem get_putLatch_ne {b : Nat} {d : Word} (v : Word) (l : List (Nat × Word)) (h : b ≠ a) :
    cellsGet b d (putLatch s a v l) = cellsGet b d l := cellsGet_put_ne a b v _ d l h

/-- The latch group of R53. -/
theorem readEffect_timeNowLo_latch : (readEffect 0x30040 s).latch =
    putLatch s 0x30044 (wordN (hiN s.time.tb)) (putLatch s 0x30048 (wordN (s.time.sub / 2 ^ 16))
      (putLatch s 0x3004C (wordN s.time.ofs) (putLatch s 0x30050 (wordN (loN s.time.asn))
        (putLatch s 0x30054 (wordN (hiN s.time.asn)) s.latch)))) := rfl

/-- The low words of the pairs and their latches stand at different addresses, apart from the latch group of R53. -/
theorem isPairLo_spec (h : isPairLo a = true) : a ≠ 0x30040 ∧ latched (a + 4) = true := by
  simp only [isPairLo, List.contains_eq_mem, List.mem_cons, List.not_mem_nil, or_false, decide_eq_true_eq] at h
  rcases h with rfl | rfl | rfl | rfl | rfl | rfl | rfl | rfl | rfl <;> decide

theorem readEffect_pairLo_latch (h : isPairLo a = true) :
    (readEffect a s).latch = putLatch s (a + 4) (wordN (hiN (pairQuantity s a))) s.latch := by
  change (if a = 0x30040 then _ else if isPairLo a then _ else s.latch) = _
  rw [if_neg (isPairLo_spec h).1, if_pos h]

end

end Sys2Proof.Machine
end

section
/-! THEOREMS. Accesses to BAR0. -/
namespace Sys2Proof.Machine

section
variable {s : State} {a o w : Nat} {v : Word} {r : RegRow}

/-- A write that stores leaves what a journal record leaves, apart from the register's word. -/
theorem registerWrite_stores (hb : bar0 s = true) (ha : RowlessAddr a) (hr : regRow a = some r) (hacc : r.acc = .rw)
    (hp : s.pwr.preparing = false) (hd : jwrDrops s = false) (ht : (isTemplate a && !allInactive s) = false)
    (hg : isHgroup a = false) (hq : ringOfReg a = none) (hh : a ≠ 0xC0040) (hk : ∀ old w x, regHook a old w x = x) :
    exec (.registerWrite a 4 v) s =
      .next ((if r.jrn then journalCfg a v s else s).setReg a (written r (s.reg a) v)) := by
  rw [registerWrite_of_rowless hb ha]
  cases hj : r.jrn with
  | false => rw [writeWord_plain hr hacc hj, writeRow_stores ht hg hq hh hk]; rfl
  | true =>
    rw [writeWord_journaled hr hacc hj, jwr_takes hb hp hd, writeRow_stores (s := journalCfg a v s) ht hg hq hh hk]
    rfl

/-- What a read of TIME_NOW_LO leaves in the words of its latch group. -/
theorem readWord_latchGroup {t : State} (hl : cellsWf (latchReset s) s.latch = true) (ht : t.latch = (readEffect 0x30040 s).latch)
    (hs : t.sec = s.sec) :
    readWord t 0x30044 = wordN (hiN s.time.tb) ∧ readWord t 0x30048 = wordN (s.time.sub / 2 ^ 16) ∧
    readWord t 0x3004C = wordN s.time.ofs ∧ readWord t 0x30050 = wordN (loN s.time.asn) ∧
    readWord t 0x30054 = wordN (hiN s.time.asn) := by
  have h1 := cellsWf_putLatch (a := 0x30054) (wordN (hiN s.time.asn)) hl
  have h2 := cellsWf_putLatch (a := 0x30050) (wordN (loN s.time.asn)) h1
  have h3 := cellsWf_putLatch (a := 0x3004C) (wordN s.time.ofs) h2
  have h4 := cellsWf_putLatch (a := 0x30048) (wordN (s.time.sub / 2 ^ 16)) h3
  rw [readEffect_timeNowLo_latch] at ht
  refine ⟨?_, ?_, ?_, ?_, ?_⟩ <;> rw [readWord_latched (by decide), ht, latchReset_congr hs]
  · exact get_putLatch_same _ h4
  · rw [get_putLatch_ne _ _ (by decide)]
    exact get_putLatch_same _ h3
  · rw [get_putLatch_ne _ _ (by decide), get_putLatch_ne _ _ (by decide)]
    exact get_putLatch_same _ h2
  · rw [get_putLatch_ne _ _ (by decide), get_putLatch_ne _ _ (by decide), get_putLatch_ne _ _ (by decide)]
    exact get_putLatch_same _ h1
  · rw [get_putLatch_ne _ _ (by decide), get_putLatch_ne _ _ (by decide), get_putLatch_ne _ _ (by decide),
      get_putLatch_ne _ _ (by decide)]
    exact get_putLatch_same _ hl

/-- What a read of the low word of a pair leaves in its high word. -/
theorem readWord_pairHi {t : State} (h : isPairLo a = true) (hl : cellsWf (latchReset s) s.latch = true)
    (ht : t.latch = (readEffect a s).latch) (hs : t.sec = s.sec) : readWord t (a + 4) = wordN (hiN (pairQuantity s a)) := by
  rw [readWord_latched (isPairLo_spec h).2, ht, readEffect_pairLo_latch h, latchReset_congr hs]
  exact get_putLatch_same _ hl

end

/-- Settles O47, conjunct by conjunct from the cases of a write and of a read. -/
theorem registerAccess : Obligations.RegisterAccess := by
  refine ⟨fun a w v s => registerWrite_of_not_bar0, fun a w v s => registerWrite_of_badWidth, fun v s hb => ?rows,
    fun a v s hb h4 h10 hErr hHctl hPool hRing => ?words, fun r a v s => writeRow_of_free,
    fun r a v s hb h4 h10 hErr hHctl hPool hRing hr hacc hp hd hwf ht hg hq hh hk => ?stores, fun a o w s hb hc => ?reads,
    fun a o w s h => ?unserved, fun o w s hb hc hl => ?timeNow, fun a o w s hb hc hp hl => ?pairLo⟩
  case rows =>
    have row (i : Nat) : exec (.registerWrite i 4 v) s = execRegisterWrite i 4 v s := rfl
    refine ⟨?_, ?_, ?_, fun k => registerWrite_of_quePool hb, fun ring h => ?_⟩
    · rw [row, execRegisterWrite, hb]; rfl
    · rw [row, execRegisterWrite, hb]; rfl
    · rw [row, execRegisterWrite, hb]; rfl
    · exact registerWrite_of_ringCtl hb (ctl_bounds h).1 (ctl_bounds h).2 (ringAtCtl_ctl h)
  case words =>
    rw [registerWrite_of_rowless hb ⟨h4, h10, hErr, hHctl, hPool, hRing⟩]
    refine ⟨fun hr ha => ?_, fun hr ha => ?_, fun r hr h => ?_, fun r hr h hj => ⟨fun hp => ?_, fun hp hd => ?_, fun hp hd => ?_⟩,
      fun r hr h hj => ?_⟩
    · rw [writeWord_unmapped hr ha]; rfl
    · rw [writeWord_activeCopy hr ha]
    · rw [writeWord_readOnly hr h]
    · rw [writeWord_journaled hr h hj, jwr_preparing hp]
    · rw [writeWord_journaled hr h hj, jwr_drops hb hp hd]; rfl
    · rw [writeWord_journaled hr h hj, jwr_takes hb hp hd]
    · rw [writeWord_plain hr h hj]
  case stores =>
    refine ⟨_, registerWrite_stores hb ⟨h4, h10, hErr, hHctl, hPool, hRing⟩ hr hacc hp hd ht hg hq hh hk, ?_⟩
    have hreg := (wordsOk_iff.mp hwf).1
    split
    · exact ⟨reg_setReg_same (s := journalCfg a v s) a _ hreg, fun b => reg_setReg_ne (s := journalCfg a v s) _, rfl, rfl, rfl,
        rfl, rfl, rfl, rfl, rfl, rfl, rfl, rfl⟩
    · exact ⟨reg_setReg_same a _ hreg, fun b => reg_setReg_ne _, rfl, rfl, rfl, rfl, rfl, rfl, rfl, rfl, rfl, rfl, rfl⟩
  case reads =>
    refine ⟨readAt a o w s, rfl, rfl, ?_⟩
    rw [readAt_served hb hc]
    refine ⟨rfl, rfl, rfl, rfl, rfl, rfl, rfl, rfl, rfl, rfl, rfl, fun r hr h hwf => ?_, fun r hr h => readEffect_cnt_ne hr h⟩
    change cellsGet a 0 (readEffect a s).cnt = 0 ∧ ∀ b, b ≠ a → cellsGet b 0 (readEffect a s).cnt = _
    rw [readEffect_cnt_rc hr h]
    exact ⟨cellsGet_put (fun _ => 0) a 0 s.cnt (wordsOk_iff.mp hwf).2.1, fun b => cellsGet_put_ne a b 0 0 0 s.cnt⟩
  case unserved =>
    have h' (x : Nat) : Host.Outcome.next (readAt x o w s) = (.next { s with rdata := 0 } : Res) := by rw [readAt_unserved h]
    exact ⟨h' a, h' a, h' 0x30040⟩
  case timeNow =>
    obtain ⟨r, hr, ha⟩ := regRow_timeNowLo
    refine ⟨readAt 0x30040 o w s, rfl, ?_⟩
    rw [readAt_served hb hc, readWord_timeNowLo]
    refine ⟨rfl, rfl, readEffect_cnt_ne hr (by rw [ha]; decide), rfl, readWord_latchGroup hl rfl rfl⟩
  case pairLo =>
    refine ⟨readAt a o w s, rfl, ?_⟩
    rw [readAt_served hb hc]
    exact readWord_pairHi hp hl rfl rfl

end Sys2Proof.Machine
end

section
/-! SUPPORT. Core work that is done, checks that pass, and what an admission leaves. -/
namespace Sys2Proof.Machine

@[simp] theorem coreOnly_self (s : State) : coreOnly s s = s := ite_self s

theorem coreOnly_of_runs {s : State} (h : coreRuns s = true) (t : State) : coreOnly s t = t := by
  simp [coreOnly, h]

theorem up_of_coreRuns {s : State} (h : coreRuns s = true) : s.up = true := by
  unfold coreRuns at h
  exact (Bool.and_eq_true_iff.mp h).1

/-- Checks that all pass leave the decision to the checks behind them. -/
theorem checked_append {r : CmdRef} {l : List (Bool × Nat × Nat × Nat)} (h : ∀ x ∈ l, x.1 = false)
    (l' : List (Bool × Nat × Nat × Nat)) (f : State → State) (s : State) : checked r (l ++ l') f s = checked r l' f s := by
  induction l with
  | nil => rfl
  | cons x t ih =>
    rw [List.cons_append, checked, h x (by simp), if_neg (by decide)]
    exact ih (fun y hy => h y (by simp [hy]))

/-- What an admission leaves of a quantity that depends on none of the host interface, the journal, the queues and the counters. -/
theorem admitCmd_keeps {α : Type} (F : State → α) {r : CmdRef} {op need n : Nat} {c : HostCmd} {s : State}
    (hF : ∀ (s : State) h j q w, F { s with jrn := j, que := q, cnt := w, hif := h } = F s := by intros; rfl) :
    F (admitCmd r op need n c s) = F s := by
  obtain ⟨j, q, w, h⟩ := admitCmd_eq r op need n c s
  rw [h, hF]

end Sys2Proof.Machine
end

section
/-! THEOREMS. References of time sources and what becomes of them (R56 to R60, R71, R81). -/
namespace Sys2Proof.Machine

section
variable {c p kind : Nat} {off mpd : Int} {pps : Nat} {s : State}

theorem reference_of_skip (h : (srcIn s c p).skip = true) :
    reference c p kind off pps mpd s = modSrc c p (fun z => { z with skip := false }) s := by
  rw [reference, if_pos h]

theorem reference_of_early (h : (srcIn s c p).skip = false) (he : beforeEpoch s c p off = true) :
    reference c p 0 off pps mpd s = sourceOutcome c p 2 off (journal (.tsrc c 2 pps off mpd)
      { s with time := { s.time with epochRej := s.time.epochRej + 1 } }) := by
  simp [reference, h, he, b2n, withTime]

theorem reference_of_timely (h : (srcIn s c p).skip = false) (he : beforeEpoch s c p off = false) :
    reference c p 0 off pps mpd s = sourceOutcome c p (if outlier s c (srcIn s c p) off = true then 2 else 0) off
      (journal (.tsrc c (if outlier s c (srcIn s c p) off = true then 2 else 0) pps off mpd) s) := by
  simp [reference, h, he, b2n, withTime]

theorem exec_timeSourceOutcome (code outcome : Nat) (h : coreRuns s = true) :
    exec (.timeSourceOutcome code outcome off mpd) s =
      .next (sourceOutcome code ((followed s).getD 0) outcome off (journal (.tsrc code outcome 0 off mpd) s)) := by
  change execTimeSourceOutcome code outcome off mpd s = _
  rw [execTimeSourceOutcome, coreOnly_of_runs h, up_of_coreRuns h]
  rfl

theorem exec_airBeaconMiss {a : Nat} (h : coreRuns s = true) (hp : followed s = some p) (ha : s.time.bcnDue.getD p none = some a) :
    exec .airBeaconMiss s = .next (reference 4 p 1 0 0 0
      { reach (s.time.at_ (a + peerPeriod s p)) s with
        time := { (reach (s.time.at_ (a + peerPeriod s p)) s).time with
          bcnDue := setAt s.time.bcnDue p (some (a + peerPeriod s p)) } }) := by
  change execAirBeaconMiss s = _
  rw [execAirBeaconMiss, coreOnly_of_runs h, hp]
  simp only [ha, up_of_coreRuns h]
  rfl

end

/-- Settles O17, by the cases of a reference. -/
theorem referenceOutcomes : Obligations.ReferenceOutcomes := by
  refine ⟨fun _ _ _ _ _ _ _ => reference_of_skip, fun c p off pps mpd s hs ho he => ?outlier,
    fun _ _ _ _ _ _ => reference_of_early, fun c p off pps mpd s hs ho he => ?accepted,
    fun code outcome _ _ _ => exec_timeSourceOutcome code outcome, fun _ _ _ => exec_airBeaconMiss⟩
  case outlier => rw [reference_of_timely hs he, if_pos ho]
  case accepted => rw [reference_of_timely hs he, ho]; rfl

end Sys2Proof.Machine
end

section
/-! THEOREMS. `PKT_SEND` and `BCAST_SEND` (R356, R359, R418 to R420). -/
namespace Sys2Proof.Machine

/-- A packet of 40 to 1,500 octets whose header is in order (R419). -/
def PktOk (p : List Octet) : Prop := 40 ≤ p.length ∧ p.length ≤ 1500 ∧ ipVersion p = 6 ∧ ipPayLen p = p.length - 40

section
variable {r : CmdRef} {p : List Octet} {c f : Nat} {s : State}

theorem pktChecks_pass (h : PktOk p) : ∀ x ∈ pktChecks p, x.1 = false := by
  obtain ⟨hlo, hhi, hv, hl⟩ := h
  simp [pktChecks, hv, hl, hlo, hhi]

theorem exec_pktSend (hg : goes s r 0x0501 1 = true) :
    exec (.pktSend r p) s = .next (doPktSend r p (admitCmd r 0x0501 1 (16 + p.length) (.pktSend p) s)) :=
  congrArg Host.Outcome.next (runCmd_goes _ _ _ hg)

theorem exec_bcastSend (hg : goes s r 0x0502 1 = true) :
    exec (.bcastSend r p c f) s = .next (doBcastSend r p c f (admitCmd r 0x0502 1 (16 + p.length) (.bcastSend p c f) s)) :=
  congrArg Host.Outcome.next (runCmd_goes _ _ _ hg)

theorem doPktSend_of_ok (h : PktOk p) : doPktSend r p s = sendPacket r p s := by
  rw [doPktSend, ← List.append_nil (pktChecks p), checked_append (pktChecks_pass h), checked]

theorem doPktSend_of_long (h : 1500 < p.length) : doPktSend r p s = refuse r stLen 10 0 s := by
  simp [doPktSend, pktChecks, checked, h]

theorem doPktSend_of_short (h : p.length < 40) : doPktSend r p s = refuse r stBad 10 0x000B s := by
  have hl : ¬ 1500 < p.length := by omega
  simp [doPktSend, pktChecks, checked, h, hl]

theorem sendPacket_of_linked {n k : Nat} {t : State} (h : downlink (some r) p s = .linked n k t) :
    sendPacket r p s = awaitParts r n k t := by
  rw [sendPacket, h]

theorem sendPacket_of_noNode (ho : s.offline 7 = false) (hn : nodeOfAddr s (ipDst p) = none) :
    sendPacket r p s = refuse r stNoNode 10 0 s := by
  simp [sendPacket, downlink, ho, hn]

theorem doBcastSend_of_unicast (h : PktOk p) (h0 : 0 < c) (h8 : c ≤ 8) (hf : f ≤ 31) (hm : isMulticast (ipDst p) = false) :
    doBcastSend r p c f s = refuse r stBad 10 0x0103 s := by
  have hc : (c == 0 || decide (8 < c) || decide (31 < f)) = false := by simp; omega
  rw [doBcastSend, checked_append (pktChecks_pass h)]
  simp only [checked, hc, hm]
  rfl

/-- What a multicast whose payload fits its profile does (R420). -/
theorem doBcastSend_of_fits (h : PktOk p) (h0 : 0 < c) (h8 : c ≤ 8) (hf : f ≤ 31) (hm : isMulticast (ipDst p) = true)
    (ho : s.offline 7 = false) (hl : bcastLen s (profAt s.act f) (bcastPayload s p) ≤ Prof.maxPsdu (profAt s.act f)) :
    (linkBulk (.bcast f) (some r) 0 c (List.replicate c (bcastPayload s p)) s).elim (refuse r stBusy 10 0 (poolDrop true 3 s))
      (awaitParts r 0 c) = doBcastSend r p c f s := by
  have hc : (c == 0 || decide (8 < c) || decide (31 < f)) = false := by simp; omega
  have hfit : decide (Prof.maxPsdu (profAt s.act f) < bcastLen s (profAt s.act f) (bcastPayload s p)) = false :=
    decide_eq_false (Nat.not_lt.mpr hl)
  rw [doBcastSend, checked_append (pktChecks_pass h)]
  simp only [checked, hc, hm, ho, hfit]
  cases linkBulk (.bcast f) (some r) 0 c (List.replicate c (bcastPayload s p)) s <;> rfl

end

/-- Settles O34, by the checks that a packet passes and what the downlink path answers. -/
theorem framesSent : Obligations.FramesSent := by
  refine ⟨fun r p s hg hlo hhi hv hl => ?path, fun r p n k t s hg hlo hhi hv hl hd => ?linked,
    fun r p s hg hlo hhi hv hl ho hn => ?noNode, fun r p s hg hlen => ?long, fun r p s hg hlen => ?short,
    fun r p c f s hg hlo hhi hv hl h0 h8 hf hm ho hfit => ?copies, fun r p c f s hg hlo hhi hv hl h0 h8 hf hm => ?unicast⟩
  case path =>
    rw [exec_pktSend hg, doPktSend_of_ok ⟨hlo, hhi, hv, hl⟩]
    refine congrArg Host.Outcome.next ?_
    generalize admitCmd r 0x0501 1 (16 + p.length) (.pktSend p) s = u
    rw [sendPacket]
    cases downlink (some r) p u <;> rfl
  case linked => rw [exec_pktSend hg, doPktSend_of_ok ⟨hlo, hhi, hv, hl⟩, sendPacket_of_linked hd, awaitParts]
  case noNode =>
    rw [exec_pktSend hg, doPktSend_of_ok ⟨hlo, hhi, hv, hl⟩, sendPacket_of_noNode]
    · rwa [admitCmd_keeps (fun t => t.offline 7)]
    · rwa [admitCmd_keeps (fun t => nodeOfAddr t (ipDst p))]
  case long => rw [exec_pktSend hg, doPktSend_of_long hlen]
  case short => rw [exec_pktSend hg, doPktSend_of_short hlen]
  case copies =>
    rw [exec_bcastSend hg, ← doBcastSend_of_fits ⟨hlo, hhi, hv, hl⟩ h0 h8 hf hm ((admitCmd_keeps (fun t => t.offline 7)).trans ho)
      ((admitCmd_keeps (fun t => bcastLen t (profAt t.act f) (bcastPayload t p) ≤ Prof.maxPsdu (profAt t.act f))).mpr hfit),
      admitCmd_keeps (fun t => bcastPayload t p)]
    refine congrArg Host.Outcome.next ?_
    cases linkBulk (.bcast f) (some r) 0 c (List.replicate c (bcastPayload s p)) _ <;> rfl
  case unicast => rw [exec_bcastSend hg, doBcastSend_of_unicast ⟨hlo, hhi, hv, hl⟩ h0 h8 hf hm]

end Sys2Proof.Machine
end

section
/-! THEOREMS. A transmission from the wake of its port to its transmit instant (R96, R103, R111, R113, R114, R127, R132, R229). -/
namespace Sys2Proof.Machine

/-! ### What the radio side touches when it gives up -/

theorem portIdle_eq (p now : Nat) (s : State) : ∃ r, portIdle p now s = { s with rf := r } := by
  unfold portIdle
  extract_lets
  split
  · exact ⟨s.rf, rfl⟩
  · split <;> exact ⟨_, rfl⟩

theorem portGo_eq (p : Nat) (s : State) : ∃ r h w x, portGo p s = { s with rf := r, hif := h, cnt := w, rx := x } := by
  unfold portGo
  extract_lets tgt
  split
  · obtain ⟨r, e⟩ := portIdle_eq p s.time.tb s
    exact ⟨r, s.hif, s.cnt, s.rx, e⟩
  · obtain ⟨r, h, w, e⟩ := portReached_eq p (modPort p (startTo s p s.time.tb tgt) s)
    rw [e]
    exact ⟨r, h, w, _, rfl⟩

/-- A transmission that the radio side gives up with `outcome`. -/
def Tx.givenUp (outcome : Nat) (x : Tx) : Tx := { x with phase := .held, yield := some (outcome, 0) }

/-- Giving up changes the transmission and what belongs to the ports. -/
theorem yieldOut_eq (id outcome : Nat) (t : Tx) (s : State) :
    ∃ r h w x, yieldOut id outcome t s = { modTx id (Tx.givenUp outcome) s with rf := r, hif := h, cnt := w, rx := x } := by
  unfold yieldOut
  extract_lets u v
  obtain ⟨r, hv⟩ : ∃ r, v = { u with rf := r } := portIdle_eq _ _ _
  split
  · exact ⟨_, s.hif, s.cnt, s.rx, by rw [hv]; rfl⟩
  · obtain ⟨r', h, w, x, e⟩ := portGo_eq t.port v
    exact ⟨_, h, w, x, by rw [e, hv]; rfl⟩

theorem map_modTx {α : Type} (g : Tx → α) (id : Nat) (f : Tx → Tx) (s : State) :
    (modTx id f s).tx.txs.map g = s.tx.txs.map (fun x => if x.id = id then g (f x) else g x) := by
  simp only [modTx, List.map_map]
  exact List.map_congr_left (fun x _ => apply_ite g _ _ _)

/-! ### Each row of the radio side, as core work -/

section
variable {id p : Nat} {t : Tx} {s : State}

theorem exec_txPortWake {a : Nat} {l : List Nat} (h : coreRuns s = true)
    (hdue : (s.tx.txs.filter (fun t => t.port == p && t.waits)).map Tx.start = a :: l) (hp : 4 ≤ p) (hl : s.rf.spll = .locked)
    (hh : portsHeld s = false) (hf : (portOf s p).failed = false) (hst : (portOf s p).st = .off) (htr : (portOf s p).trans = none)
    (hw : wanted s p ≠ .off ∨ (portOf s p).waiting ≠ []) :
    exec (.txPortWake p) s =
      .next (modPort p (startHop true (max s.time.tb (l.foldl min a - 80_000)) .idle) (reach (l.foldl min a - 80_000) s)) := by
  have hrest : (wanted s p == .off && (portOf s p).waiting.isEmpty) = false := by
    simpa [Bool.and_eq_false_iff, Decidable.imp_iff_not_or] using hw
  change execTxPortWake p s = _
  simp [execTxPortWake, coreOnly_of_runs h, up_of_coreRuns h, hdue, hl, hh, hf, hst, htr, hrest, isOut, hp]
  rfl

theorem exec_coexRequestAssert (h : coreRuns s = true) (ht : txAt s id = some t) (he : coexEn s = true) (hw : t.waits = true) :
    exec (.coexRequestAssert id) s = .next (modTx id (fun x => { x with asked := true })
      (withRf (fun r => { r with coexReq := true, coexPri := s.regB 0x50020 (8 + t.cls) })
        (reach (max (t.start - 1000 * min 1000 (s.regN 0x50024)) t.coexFrom) s))) := by
  change execCoexRequestAssert id s = _
  simp [execCoexRequestAssert, coreOnly_of_runs h, up_of_coreRuns h, ht, he, hw]

theorem exec_txRampStart {u : State} (h : coreRuns s = true) (ht : txAt s id = some t) (hw : t.waits = true)
    (hr : t.phase ≠ .ramping) (hu : u = reach (t.start - 12_000) s) :
    exec (.txRampStart id) s = .next (
      if canRamp u t.port then
        modPort t.port (startHop true (max u.time.tb (t.start - 12_000)) .on) (modTx id (fun x => { x with phase := .ramping }) u)
      else if inTx u t.port then modTx id (fun x => { x with phase := .ramping }) u
      else modTx id (fun x => { x with phase := .held }) u) := by
  subst hu
  change execTxRampStart id s = _
  simp [execTxRampStart, coreOnly_of_runs h, ht, hw, hr]

theorem exec_femLeadSwitch (h : coreRuns s = true) (ht : txAt s id = some t) (hr : t.phase = .ramping) (hy : t.yield = none)
    (hi : inTx s t.port = true) :
    exec (.femLeadSwitch id) s = .next (modPort t.port (fun y => { y with femRow := 3, femUntil := none })
      (reach (t.start - femLeadNs s t.port) s)) := by
  change execFemLeadSwitch id s = _
  simp [execFemLeadSwitch, coreOnly_of_runs h, ht, hr, hy, hi]

theorem exec_txHoldExpire (h : coreRuns s = true) (ht : txAt s id = some t) (hw : t.waits = true) :
    exec (.txHoldExpire id) s = .next (bump (0x50030 + 4 * (t.port - 4)) (yieldOut id 1 t (reach (t.start + 100_000) s))) := by
  change execTxHoldExpire id s = _
  simp [execTxHoldExpire, coreOnly_of_runs h, ht, hw]

/-! ### At the transmit instant -/

/-- The port of a transmission is in TX and has power for it (R116, R132). -/
def Tx.portReady (t : Tx) (u : State) : Prop :=
  t.phase = .ramping ∧ (portOf u t.port).st = .on ∧ (portOf u t.port).trans = none ∧ powerFits u t.port t.level = true

section
variable {g b : Bool} {u : State} (h : coreRuns s = true) (ht : txAt s id = some t) (hw : t.waits = true) (hu : u = reach t.start s)
  (htb : u.time.tb ≤ t.start + 100_000)
include h ht hw hu htb

theorem exec_txInstant_of_not_ready (hn : ¬ t.portReady u) :
    exec (.txInstant id g b) s = .next (modTx id (fun x => { x with phase := if x.phase = .ramping then .ramping else .held }) u) := by
  have hr : (t.phase == .ramping && (portOf u t.port).st == .on && (portOf u t.port).trans.isNone && powerFits u t.port t.level) =
      false := Bool.eq_false_iff.mpr (fun hc => hn (by simpa [Tx.portReady, and_assoc] using hc))
  subst hu
  change execTxInstant id g b s = _
  simp [execTxInstant, coreOnly_of_runs h, up_of_coreRuns h, ht, hw, Nat.not_lt.mpr htb, hr]

theorem exec_txInstant_of_full (hr : t.portReady u) (hf : freePos u t.port = none) : exec (.txInstant id g b) s = .next u := by
  obtain ⟨hph, hst, htr, hpow⟩ := hr
  subst hu
  change execTxInstant id g b s = _
  simp [execTxInstant, coreOnly_of_runs h, up_of_coreRuns h, ht, hw, Nat.not_lt.mpr htb, hph, hst, htr, hpow, hf]

/-- With room and power, listen-before-talk decides first, then the grant. -/
theorem exec_txInstant_of_room {pos : Nat} (hr : t.portReady u) (hf : freePos u t.port = some pos) :
    exec (.txInstant id g b) s = .next (
      if t.lbt && (b || ownEnergy u t u.time.tb) then yieldOut id 4 t u
      else if (coexEn u && !g) && !u.regB 0x50020 12 then
        denyRow t.port (yieldOut id 2 t (bumpIf (coexEn u && !g) 0x50028 (sampleGrant g u)))
      else startCarrier id pos t (bumpIf (coexEn u && !g) 0x50028 (sampleGrant g u))) := by
  obtain ⟨hph, hst, htr, hpow⟩ := hr
  subst hu
  change execTxInstant id g b s = _
  simp [execTxInstant, coreOnly_of_runs h, up_of_coreRuns h, ht, hw, Nat.not_lt.mpr htb, hph, hst, htr, hpow, hf]

end

end

theorem sampleGrant_eq (g : Bool) (s : State) : ∃ a b q w f, sampleGrant g s =
    { s with rf := { s.rf with grant := a, denied := b }, que := q, cnt := w, hif := f } := by
  unfold sampleGrant eventIf
  extract_lets fault
  split
  · exact ⟨_, _, _, _, _, rfl⟩
  · split <;> exact ⟨_, _, _, _, _, rfl⟩

/-- Settles O53, row by row. -/
theorem transmitStart : Obligations.TransmitStart := by
  refine ⟨fun p a l s h hdue hp hl hh hf hst htr hw => exec_txPortWake h hdue hp hl hh hf hst htr hw,
    fun id t s h ht he hw => ⟨_, exec_coexRequestAssert h ht he hw, rfl, rfl, rfl, rfl, rfl⟩,
    fun id t u s h ht hw hr hu => ?ramp, fun id t s h ht hr hy hi => exec_femLeadSwitch h ht hr hy hi,
    fun id g b t u s h ht hw hu htb => ⟨fun hn => ?held, fun hph hst htr hpow => ?ready⟩,
    fun id t s h ht hw => exec_txHoldExpire h ht hw, fun id o t s => ?yields, fun id s ht => ?absent⟩
  case ramp =>
    rw [exec_txRampStart h ht hw hr hu]
    exact ⟨fun hc => by rw [if_pos hc], fun hc hi => by rw [hc, if_neg (by decide), if_pos hi],
      fun hc hi => by rw [hc, hi, if_neg (by decide), if_neg (by decide)]⟩
  case held =>
    refine exec_txInstant_of_not_ready h ht hw hu htb (fun ⟨hph, hst, htr, hpow⟩ => ?_)
    simp [hph, hst, htr, hpow] at hn
  case ready =>
    have hr : t.portReady u := ⟨hph, hst, htr, hpow⟩
    refine ⟨exec_txInstant_of_full h ht hw hu htb hr, fun pos hf => ?_⟩
    rw [exec_txInstant_of_room h ht hw hu htb hr hf]
    refine ⟨fun hlbt he => ?energy, fun hq => ?quiet⟩
    case energy => rw [if_pos (by simpa [hlbt] using he)]
    case quiet =>
      have hfree : (t.lbt && (b || ownEnergy u t u.time.tb)) = false := by
        rcases hq with hlbt | ⟨hb, hown⟩
        · rw [hlbt, Bool.false_and]
        · rw [hb, hown, Bool.or_false, Bool.and_false]
      rw [hfree, if_neg (by decide)]
      refine ⟨fun hc hg hign => ?denied, fun hc hg hign => ?ignored, fun hgo => ?starts⟩
      case denied => simp only [hc, hg, hign]; rfl
      case ignored => simp only [hc, hg, hign]; rfl
      case starts =>
        have hgiven : (coexEn u && !g) = false := by
          rcases hgo with hc | hg
          · rw [hc, Bool.false_and]
          · rw [hg, Bool.not_true, Bool.and_false]
        obtain ⟨a, d, q, w, f, e⟩ := sampleGrant_eq g u
        rw [hgiven, Bool.false_and, if_neg Bool.false_ne_true, e, hu]
        exact ⟨_, rfl, rfl, rfl, rfl, rfl, rfl⟩
  case yields =>
    obtain ⟨r, h, w, x, e⟩ := yieldOut_eq id o t s
    refine ⟨_, rfl, ?_⟩
    rw [e]
    exact ⟨map_modTx Tx.yield _ _ _, map_modTx Tx.phase _ _ _, rfl, rfl, rfl⟩
  case absent =>
    refine ⟨?_, ?_, ?_, ?_, ?_⟩ <;>
      simp only [exec, execTxHoldExpire, execTxRampStart, execTxInstant, execFemLeadSwitch, execCoexRequestAssert, ht, coreOnly_self]

end Sys2Proof.Machine
end

section
/-! SUPPORT. A received frame from its last bit to its acceptance, case by case (R25, R26, R148 to R152, R178, R192, R214 to R216,
R266 to R268). -/
namespace Sys2Proof.Machine

/-! ### The end of a frame -/

@[simp] theorem metaOf_fcs (s : State) (ch : Nat) (l : Lock) (d : Sfd) (mm : RxMeas) (mode fcs fec : Nat) :
    (metaOf s ch l d mm mode fcs fec).fcs = fcs := by
  simp only [RxMeta.fcs, metaOf]
  omega

section
variable {ch fec : Nat} {x : RxSig} {mm : RxMeas} {l : Lock} {d : Sfd} {s : State}

theorem exec_rxFrameEnd_of_idle (h : inFrame s ch = none) : exec (.rxFrameEnd ch x mm fec) s = .next s := by
  simp only [exec, execRxFrameEnd, h]

theorem exec_rxFrameEnd_of_ms {phr : BitVec 16} (h : inFrame s ch = some (l, d))
    (ha : arrived (profAt s.act l.profile) l d x = .ms phr) : exec (.rxFrameEnd ch x mm fec) s = .next (msPhr ch l phr s) := by
  simp only [exec, execRxFrameEnd, h, ha]

theorem exec_rxFrameEnd_of_bad {k : Nat} (h : inFrame s ch = some (l, d))
    (ha : arrived (profAt s.act l.profile) l d x = .bad k) :
    exec (.rxFrameEnd ch x mm fec) s = .next (demDisc k (freeLock ch s)) := by
  simp only [exec, execRxFrameEnd, h, ha]

theorem exec_rxFrameEnd_of_psdu {mode fcs : Nat} {b : List Octet} (h : inFrame s ch = some (l, d))
    (ha : arrived (profAt s.act l.profile) l d x = .psdu mode fcs b) :
    exec (.rxFrameEnd ch x mm fec) s = .next (rxEnd (metaOf s ch l d mm mode fcs fec) b (freeLock ch s)) := by
  simp only [exec, execRxFrameEnd, h, ha]

theorem exec_rxFrameEnd_of_eland {len spread : Nat} {w : ElWait} (h : inFrame s ch = some (l, d))
    (ha : arrived (profAt s.act l.profile) l d x = .eland len spread) (hw : w = ⟨metaOf s ch l d mm spread 4 0, l.at_, len⟩) :
    exec (.rxFrameEnd ch x mm fec) s = .next (elandEnd w
      { freeLock ch s with rx := { (freeLock ch s).rx with elWait := s.rx.elWait ++ [w] } }) := by
  subst hw
  simp only [exec, execRxFrameEnd, h, ha]
  rfl

end

section
variable {m : RxMeta} {b : List Octet} {s : State}

theorem rxEnd_of_badFcs (h : fcsGood m.fcs b = false) : rxEnd m b s = fcsFail m.chSlot s := by
  rw [rxEnd, h, if_neg (by decide)]

theorem rxEnd_of_fits (h : fcsGood m.fcs b = true) (hf : fifoFit s (handoffFifo m.chSlot) (handoffEntries b.length) = 0) :
    rxEnd m b s = { s with rx := { s.rx with out := modAt (handoffFifo m.chSlot) (· ++ [(m, b)]) s.rx.out } } := by
  rw [rxEnd, if_pos h, handOver]
  exact if_pos hf

theorem rxEnd_of_full (h : fcsGood m.fcs b = true) (hf : fifoFit s (handoffFifo m.chSlot) (handoffEntries b.length) ≠ 0) :
    rxEnd m b s = rxCount m.chSlot 6 (fifoPut (handoffFifo m.chSlot) (handoffEntries b.length) id s) := by
  rw [rxEnd, if_pos h, handOver]
  exact if_neg hf

end

section
variable {q : Prof} {l : Lock} {d : Sfd} {b : List Octet}

theorem arrived_fsk {phr : BitVec 16} (hq : q.typ = 0) : arrived q l d (.fsk phr b) = fskArrived l d.fec phr b := if_pos hq

theorem arrived_oqpsk {phr : Octet} (hq : q.typ = 2) : arrived q l d (.oqpsk phr b) =
    if bitsOf phr.toNat 6 0 < 2 then .bad 1
    else if bitOf phr.toNat 7 then .bad 2
    else .psdu 0 2 (fitOct (bitsOf phr.toNat 6 0) b) :=
  if_neg (not_not_intro hq)

end

/-! ### The checks of Table 09-2 -/

section
variable {s : State} {m : RxMeta} {p : List Octet}

theorem rxFrame_of_badForm {k : Nat} (h : rxForm s (rxMhr m p) = some k) : rxFrame m p s = rxDisc k s := by
  simp only [rxFrame, h]

theorem rxFrame_of_noAsn (h : rxForm s (rxMhr m p) = none) (ha : s.time.st = .acquire ∨ rxAsn s m = none)
    (hb : beaconPeer s (rxMhr m p) = none) : rxFrame m p s = rxDisc 8 s := by
  have hc : ((s.time.st == .acquire || (rxAsn s m).isNone) && (beaconPeer s (rxMhr m p)).isNone) = true := by
    simpa [hb] using ha
  simp only [rxFrame, h, hc, if_true]

/-! A frame in order, at a unit that has a time, is judged by its sender. -/

section
variable {a0 : Nat} (h : rxForm s (rxMhr m p) = none) (hst : s.time.st ≠ .acquire) (ha : rxAsn s m = some a0)
include h hst ha

theorem rxFrame_of_unknown (hs : senderOf s m (rxMhr m p) = .unknown) : rxFrame m p s =
    learn (rxMhr m p).src a0 m.ts
      [rxIndex s m, m.chSlot, m.profile, sx m.rssiQ, sx m.snrQ, (rxMhr m p).typ, (rxMhr m p).level] s := by
  simp [rxFrame, h, hst, ha, hs]

theorem rxFrame_of_node {nd : Node} (hs : senderOf s m (rxMhr m p) = .node nd) : rxFrame m p s =
    rxTake (rxCheck s m (rxMhr m p) (some nd) (rxMhr m p).src (if s.time.loaded then some a0 else none) a0)
      (fun v b u => nodeIn nd none m (rxMhr m p) (rxEndAt s m p.length) a0 v b u) s := by
  simp [rxFrame, h, hst, ha, hs]

theorem rxFrame_of_peer {i : Nat} (hs : senderOf s m (rxMhr m p) = .peer i) : rxFrame m p s =
    rxTake (rxCheck s m (rxMhr m p) none (rxMhr m p).src (if s.time.loaded then some a0 else none) a0)
      (fun _ b u => peerIn i m (rxMhr m p) a0 b u) s := by
  simp [rxFrame, h, hst, ha, hs]

theorem rxFrame_of_acks {l : List (Tx × Node)} (hs : senderOf s m (rxMhr m p) = .acks l) :
    rxFrame m p s = rxAck l m (rxMhr m p) (rxEndAt s m p.length) a0 s := by
  simp [rxFrame, h, hst, ha, hs]

end

end

section
variable {s : State} {m : RxMeta} {f : Mhr}

theorem rxForm_of_unsupported (h : f.version ≠ 2 ∨ 2 < f.typ) : rxForm s f = some 0 := if_pos h

theorem rxForm_of_badAddr (hv : f.version = 2) (ht : f.typ ≤ 2) (ha : f.addrOk = false) : rxForm s f = some 1 := by
  simp [rxForm, hv, ht, ha]

theorem rxForm_of_badPan (hv : f.version = 2) (ht : f.typ ≤ 2) (ha : f.addrOk = true) (hp : f.pan ≠ panId s)
    (hb : beaconPeer s f = none) : rxForm s f = some 2 := by
  simp [rxForm, hv, ht, ha, hp, hb]

theorem senderOf_unknown (ht : f.typ ≠ 2) (hn : findEui s f.src = none) (hp : peerOf s f.src = none) :
    senderOf s m f = .unknown := by
  simp [senderOf, ht, hn, hp]

theorem senderOf_node {nd : Node} (ht : f.typ ≠ 2) (hn : findEui s f.src = some nd) : senderOf s m f = .node nd := by
  simp [senderOf, ht, hn]

theorem senderOf_peer {i : Nat} (ht : f.typ ≠ 2) (hn : findEui s f.src = none) (hp : peerOf s f.src = some i) :
    senderOf s m f = .peer i := by
  simp [senderOf, ht, hn, hp]

theorem senderOf_ack {t : Tx} {nd : Node} (ht : f.typ = 2) (hl : ackedTxs s m f = [t]) (hn : entryAt s t.node = some nd) :
    senderOf s m f = .acks [(t, nd)] := by
  simp [senderOf, ht, hl, hn]

/-- With one exchange to answer, an Enhanced ACK is what its checks under that exchange say. -/
theorem rxAck_single (x : Tx × Node) (e a0 : Nat) : rxAck [x] m f e a0 s =
    rxTake (rxCheck s m f (some x.2) x.2.eui (some x.1.vasn) a0) (fun v b u => nodeIn x.2 (some x.1) m f e a0 v b u) s := by
  simp only [rxAck, List.map_cons, List.map_nil, List.find?_cons, List.find?_nil, List.head?_cons]
  cases (rxCheck s m f (some x.2) x.2.eui (some x.1.vasn) a0).out <;> rfl

end

section
variable {s : State} {m : RxMeta} {f : Mhr} {n : Option Node} {e a0 : Nat} {first : Option Nat} {k : KeyId}

theorem rxCheck_of_counter {j : Nat} (h : rxCounter s f n a0 = some j) : rxCheck s m f n e first a0 = ⟨none, .error j⟩ := by
  simp only [rxCheck, h]

theorem rxCheck_of_noKey (h : rxCounter s f n a0 = none) (ho : openBeacon s f = false) (hk : rxSlotKey s f n = none) :
    rxCheck s m f n e first a0 = ⟨none, .error 7⟩ := by
  simp [rxCheck, h, ho, hk]

theorem rxCheck_of_badTag (h : rxCounter s f n a0 = none) (ho : openBeacon s f = false) (hk : rxSlotKey s f n = some k)
    (ht : rxOpen s m f n (keyOct k) e first a0 = none) : rxCheck s m f n e first a0 = ⟨some k, .error 8⟩ := by
  simp [rxCheck, h, ho, hk, ht]

theorem rxCheck_of_opened {x : Nat × List Octet × List Octet} (h : rxCounter s f n a0 = none) (ho : openBeacon s f = false)
    (hk : rxSlotKey s f n = some k) (ht : rxOpen s m f n (keyOct k) e first a0 = some x) :
    rxCheck s m f n e first a0 = bodyCheck (some k) x.1 (macBody f.ie x.2.1 x.2.2) := by
  simp [rxCheck, h, ho, hk, ht]

/-- A body with sound IEs is taken, with its unknown IEs counted; another fails check 9. -/
theorem rxTake_bodyCheck (v : Nat) (b : MacBody) (g : Nat → MacBody → State → State) :
    rxTake (bodyCheck (some k) v b) g s =
      if b.ieOk then g v b (bumpN (0x80840 + 44) b.unknown (useKey k s)) else rxDisc 9 (useKey k s) := by
  unfold rxTake bodyCheck
  cases b.ieOk <;> rfl

end

section
variable {s : State} {f : Mhr} {nd : Node} {a0 : Nat} (ho : openBeacon s f = false)
include ho

theorem rxCounter_of_unsecured (n : Option Node) (hs : f.secured = false) : rxCounter s f n a0 = some 3 := by
  simp [rxCounter, ho, hs]

theorem rxCounter_of_lowLevel (n : Option Node) (hs : f.secured = true) (hl : f.level < minRx s) : rxCounter s f n a0 = some 4 := by
  simp [rxCounter, ho, hs, hl]

/-- A frame of sufficient level is judged by its counter, unless it is for another node. -/
theorem rxCounter_of_level (hs : f.secured = true) (hl : minRx s ≤ f.level) : rxCounter s f (some nd) a0 =
    if overheardBy s f || decide (nd.fcl < f.fc) then none
    else if f.fc = nd.fcl ∧ !nd.synth ∧ a0 % 2 ^ 32 = nd.asnl then some 6
    else some 5 := by
  simp [rxCounter, ho, hs, Nat.not_lt.mpr hl]

end

/-! ### Admission of frames and of slot receive summaries -/

section
variable {s : State} {i ch : Nat}

/-- What the row of a receive handoff FIFO does with its oldest frame, which the row names by its channel slot. -/
theorem exec_rxFrameAdmit {m : RxMeta} {p : List Octet} {rest : List (RxMeta × List Octet)} {u : State} (hup : s.up = true)
    (hl : s.pair.leads = true) (hq : s.rx.out.getD i [] = (m, p) :: rest)
    (hu : u = { s with rx := { s.rx with out := setAt s.rx.out i rest } }) :
    exec (.rxFrameAdmit i m.chSlot) s = .next (if s.offline 6 then { u with rx := sumCount u m.chSlot 6 1 u.rx }
      else admitFrame m p (journal (.frame m p) (dropFrame (earlyDrop s m p) i u))) := by
  subst hu
  simp only [exec, execRxFrameAdmit, hup, hl, hq, ne_eq, not_true_eq_false, if_false]
  rfl

theorem exec_rxFrameAdmit_of_other (h : s.pair.leads = false ∨ ((s.rx.out.getD i []).head?.map (fun x => x.1.chSlot)) ≠ some ch) :
    exec (.rxFrameAdmit i ch) s = .next s := by
  simp only [exec, execRxFrameAdmit]
  refine congrArg Host.Outcome.next ?_
  split
  · rfl
  · next hgo =>
    obtain ⟨-, hl⟩ : s.up = true ∧ s.pair.leads = true := by simpa using hgo
    cases hq : s.rx.out.getD i [] with
    | nil => rfl
    | cons x rest =>
      rw [hl, hq] at h
      have hch : x.1.chSlot ≠ ch := fun e => (h.resolve_left (by decide)) (congrArg some e)
      exact if_pos hch

end

section
variable {s : State} {pair : Nat} {c : List (Nat × Nat × Int)}

theorem exec_rxSummaryAdmit (hup : s.up = true) (hl : s.pair.leads = true) (hr : s.time.running = true) (ha : asnNow s ≠ 0)
    (hn : (s.rx.sums.getD pair RxCounts.reset).lastAsn ≠ some (asnNow s - 1)) (hp : pair < 2)
    (hw : (List.range 4).any (fun i => (winAt s.act (4 * pair + i)).en) = true) :
    exec (.rxSummaryAdmit ⟨pair, c⟩) s =
      .next (admitSummary (sumOf s pair c) (journal (.rxsum (sumOf s pair c)) (sumStart pair (asnNow s - 1) s))) := by
  have hn' : ((s.rx.sums.getD pair RxCounts.reset).lastAsn == some (asnNow s - 1)) = false := by simpa using hn
  have ha' : (asnNow s == 0) = false := by simpa using ha
  simp only [exec, execRxSummaryAdmit, hup, hl, hr, ha', hn', hw, hp]
  rfl

theorem exec_rxSummaryAdmit_of_done (h : (s.rx.sums.getD pair RxCounts.reset).lastAsn = some (asnNow s - 1)) :
    exec (.rxSummaryAdmit ⟨pair, c⟩) s = .next s := by
  simp only [exec, execRxSummaryAdmit, h]
  simp

end

end Sys2Proof.Machine
end

section
/-! THEOREMS. Received frames. -/
namespace Sys2Proof.Machine

/-- Settles O56, by the cases of a frame's end, of its checks and of its sender. -/
theorem receivedFrames : Obligations.ReceivedFrames := by
  refine ⟨fun ch fec x mm l d s h => ⟨fun phr ha => exec_rxFrameEnd_of_ms h ha, fun k ha => exec_rxFrameEnd_of_bad h ha,
      fun mode fcs b m ha hm => ?psdu, fun len spread w ha hw => exec_rxFrameEnd_of_eland h ha hw⟩,
    fun ch fec x mm s h => exec_rxFrameEnd_of_idle h, fun q l d phr b hq => ?fsk, fun q l d phr b hq => ?oqpsk,
    fun q l d phr hq => ?eland, fun w s => ?codewords, fun i m p rest u s hup hl hq hu => ?oldest,
    fun i ch s h => exec_rxFrameAdmit_of_other h, fun m p f s hf => ?form, fun m p f a0 s hf h hst ha => ?sender,
    fun m f n e a0 first g s => ?check, fun f nd a0 s ho => ?counter, fun nd m f e a0 v b s => ?accept,
    fun pair c s hup hl hr ha hn hp hw => ?summary, fun pair c s h => exec_rxSummaryAdmit_of_done h⟩
  case psdu =>
    have hch : m.chSlot = ch := by rw [hm]; rfl
    have hfcs : m.fcs = fcs := by rw [hm, metaOf_fcs]
    rw [exec_rxFrameEnd_of_psdu h ha, ← hm]
    refine ⟨fun hg => ?_, fun hg hfit => ?_, fun hg hfull => ?_⟩
    · rw [rxEnd_of_badFcs (hfcs ▸ hg), hch]
    · rw [rxEnd_of_fits (hfcs ▸ hg) (hch ▸ hfit), hch]
      exact ⟨_, rfl, rfl, rfl, rfl, rfl, rfl⟩
    · rw [rxEnd_of_full (hfcs ▸ hg) (hch ▸ hfull), hch]
  case fsk =>
    rw [arrived_fsk hq, fskArrived]
    refine ⟨fun hms => if_pos hms, fun hms hlen => ?_, fun hms hlen hres => ?_, fun hms hlen h1 h2 => ?_⟩
    · simp only [hms, hlen]
      rfl
    · simp only [hms, hres, Nat.not_lt.mpr hlen]
      rfl
    · simp only [hms, h1, h2, Nat.not_lt.mpr hlen]
      rfl
  case oqpsk =>
    rw [arrived_oqpsk hq]
    refine ⟨fun hlen => if_pos hlen, fun hlen hres => ?_, fun hlen hres => ?_⟩
    · rw [if_neg (Nat.not_lt.mpr hlen), if_pos hres]
    · rw [if_neg (Nat.not_lt.mpr hlen), hres, if_neg (by decide)]
  case eland =>
    rw [arrived, if_neg (not_not_intro hq)]
    cases phrRead (phrOctets phr) <;> rfl
  case codewords =>
    refine ⟨fun hall => ?_, fun hall hgood => ?_⟩
    · simp only [elandEnd, hall]
      rfl
    · simp only [elandEnd, hall, hgood]
      rfl
  case oldest =>
    rw [exec_rxFrameAdmit hup hl hq hu]
    exact ⟨fun ho => by rw [ho, if_neg (by decide), admitFrame], fun ho => by rw [if_pos ho]⟩
  case form =>
    subst hf
    exact ⟨fun h => rxFrame_of_badForm (rxForm_of_unsupported h), fun hv ht h => rxFrame_of_badForm (rxForm_of_badAddr hv ht h),
      fun hv ht h hp hb => rxFrame_of_badForm (rxForm_of_badPan hv ht h hp hb), rxFrame_of_noAsn⟩
  case sender =>
    subst hf
    refine ⟨fun ht hn hp => rxFrame_of_unknown h hst ha (senderOf_unknown ht hn hp),
      fun nd ht hn => rxFrame_of_node h hst ha (senderOf_node ht hn),
      fun i ht hn hp => rxFrame_of_peer h hst ha (senderOf_peer ht hn hp), fun t nd ht hl hn => ?_⟩
    rw [rxFrame_of_acks h hst ha (senderOf_ack ht hl hn), rxAck_single]
  case check =>
    refine ⟨fun k h => ?_, fun h ho hk => ?_, fun k h ho hk => ?_⟩
    · rw [rxCheck_of_counter h]
      rfl
    · rw [rxCheck_of_noKey h ho hk]
      rfl
    · cases ht : rxOpen s m f n (keyOct k) e first a0 with
      | none =>
        rw [rxCheck_of_badTag h ho hk ht]
        rfl
      | some x => rw [rxCheck_of_opened h ho hk ht, rxTake_bodyCheck]
  case counter =>
    refine ⟨rxCounter_of_unsecured ho _, rxCounter_of_lowLevel ho _, fun hs hl => ?_⟩
    rw [rxCounter_of_level ho hs hl]
    refine ⟨fun hov => ?_, fun hnew => ?_, fun hov hold => ?_, fun hov heq hsy hasn => ?_, fun hov heq hno => ?_⟩
    · simp [hov]
    · simp [hnew]
    · simp [hov, Nat.lt_asymm hold, Nat.ne_of_lt hold]
    · simp [hov, heq, hsy, hasn]
    · have hrep : ¬ (nd.fcl = nd.fcl ∧ !nd.synth ∧ a0 % 2 ^ 32 = nd.asnl) := by
        rintro ⟨-, hsy, hasn⟩
        exact hno.elim (fun h => by simp [h] at hsy) (fun h => h hasn.symm)
      rw [hov, heq, if_neg (by simp), if_neg hrep]
  case accept =>
    refine ⟨fun x hov => if_pos hov, fun hov ht => ?_, fun t hov => ?_, fun hs => ?_⟩
    · simp only [nodeIn, hov, ht]
      rfl
    · simp only [nodeIn, hov]
      rfl
    · refine ⟨by rw [heard, eventIf_tbl]; rfl, ?_, ?_, ?_⟩ <;> simp [hearNode, hs]
  case summary =>
    refine ⟨_, exec_rxSummaryAdmit hup hl hr ha hn hp hw, rfl, rfl, rfl, rfl, rfl, rfl, rfl, rfl⟩

end Sys2Proof.Machine
end

section
/-! THEOREMS. The slot clock and the commands of mesh time (R54 to R56, R79 to R81). -/
namespace Sys2Proof.Machine

/-! ### The slot clock -/

section
variable {t : TimeSt}

theorem asn_of_running (h : t.running = true) : t.asn = (t.tb - t.epoch) / (t.slotLen * 250_000) % 2 ^ 40 := if_pos h

theorem ofs_of_running (h : t.running = true) : t.ofs = (t.tb - t.epoch) % (t.slotLen * 250_000) := if_pos h

theorem asn_of_stopped (h : t.running = false) : t.asn = 0 := by rw [TimeSt.asn, h, if_neg (by decide)]

theorem ofs_of_stopped (h : t.running = false) : t.ofs = 0 := by rw [TimeSt.ofs, h, if_neg (by decide)]

/-- The slot clock runs from the epoch on, with a slot that has a length. -/
theorem epoch_le_of_running (h : t.running = true) : t.epoch ≤ t.tb ∧ 0 < t.slotLen := by
  simp only [TimeSt.running, Bool.and_eq_true, decide_eq_true_eq] at h
  exact ⟨h.1.2, h.2⟩

end

/-- Settles O13, by division of the time since the epoch with the slot length. -/
theorem slotClock : Obligations.SlotClock := by
  refine fun t => ⟨fun h => ?_, fun h => ⟨asn_of_stopped h, ofs_of_stopped h⟩⟩
  obtain ⟨hle, hpos⟩ := epoch_le_of_running h
  rw [ofs_of_running h, asn_of_running h]
  refine ⟨rfl, Nat.mod_lt _ (by omega), ?_⟩
  rw [Nat.add_assoc, Nat.div_add_mod']
  exact Nat.add_sub_cancel' hle

/-! ### What the commands read is what it was before their admission -/

section
variable {r : CmdRef} {op need n : Nat} {c : HostCmd} {s : State}

@[simp] theorem admitCmd_allInactive : allInactive (admitCmd r op need n c s) = allInactive s := by
  rw [allInactive, admitCmd_sch]; rfl

@[simp] theorem admitCmd_sfActive (k : Nat) : sfActive (admitCmd r op need n c s) k = sfActive s k :=
  admitCmd_keeps (fun s => sfActive s k)

@[simp] theorem admitCmd_sfLen (k : Nat) : sfLen (admitCmd r op need n c s) k = sfLen s k :=
  admitCmd_keeps (fun s => sfLen s k)

@[simp] theorem admitCmd_stepBoundary (len a : Nat) : stepBoundary (admitCmd r op need n c s) len a = stepBoundary s len a :=
  admitCmd_keeps (fun s => stepBoundary s len a)

end

/-! ### `TIME_SET_EPOCH` -/

section
variable {r : CmdRef} {e l : Nat} {s : State}

theorem exec_timeSetEpoch (h : goes s r 0x0110 1 = true) :
    exec (.timeSetEpoch r e l) s = .next (doTimeSetEpoch r e l (admitCmd r 0x0110 1 0 (.timeSetEpoch e l) s)) :=
  congrArg Host.Outcome.next (runCmd_goes _ _ _ h)

theorem doTimeSetEpoch_of_active (h : allInactive s = false) : doTimeSetEpoch r e l s = refuse r stBadState 5 0 s := by
  rw [doTimeSetEpoch, checked, h]; rfl

theorem doTimeSetEpoch_of_bad (h : allInactive s = true) (hb : (l < 8 ∨ 160 < l) ∨ s.time.loaded = true ∧ s.time.tb < e) :
    doTimeSetEpoch r e l s = refuse r stBad 5 0x000B s := by
  by_cases hl : l < 8 ∨ 160 < l
  · simp [doTimeSetEpoch, checked, h, hl]
  · simp [doTimeSetEpoch, checked, h, hl, hb.resolve_left hl]

theorem doTimeSetEpoch_of_ok (h : allInactive s = true) (h8 : 8 ≤ l) (h160 : l ≤ 160) (he : s.time.loaded = true → e ≤ s.time.tb) :
    doTimeSetEpoch r e l s =
      done r { s with time := { s.time with epoch := e, slotLen := l, epochSet := true, lastAsn := none } } := by
  have hl : ¬ (l < 8 ∨ 160 < l) := by omega
  have hn : ¬ (s.time.loaded = true ∧ s.time.tb < e) := fun ⟨hd, hlt⟩ => Nat.not_lt.mpr (he hd) hlt
  simp [doTimeSetEpoch, checked, h, hl, hn, withTime]

end

/-- Settles O14, by the order of the command's checks. -/
theorem timeSetEpoch : Obligations.TimeSetEpoch := by
  intro r e l s hg
  extract_lets u
  have hi : allInactive u = allInactive s := admitCmd_allInactive
  have ht : u.time = s.time := admitCmd_time ..
  rw [exec_timeSetEpoch hg, ← hi, ← ht]
  exact ⟨fun h h8 h160 he => congrArg _ (doTimeSetEpoch_of_ok h h8 h160 he), fun h => congrArg _ (doTimeSetEpoch_of_active h),
    fun h hl => congrArg _ (doTimeSetEpoch_of_bad h (.inl hl)), fun h _ _ hl he => congrArg _ (doTimeSetEpoch_of_bad h (.inr ⟨hl, he⟩))⟩

/-! ### `TIME_STEP` -/

/-- What the checks of `TIME_STEP` ask for, but for the step that may be pending (R80). -/
structure StepOk (s : State) (r : CmdRef) (step sfh : Nat) : Prop where
  serves : s.time.st ≠ .acquire
  pos : 1 ≤ step
  le : step ≤ 2 ^ 62
  handle : sfh ≤ 63
  active : (sfActive s sfh).isSome = true
  fits : (stepBoundary s (sfLen s sfh) r.asn * s.time.l + step) / max 1 s.time.l < 2 ^ 40

section
variable {r : CmdRef} {step sfh : Nat} {s : State}

theorem exec_timeStep (h : goes s r 0x0111 1 = true) :
    exec (.timeStep r step sfh) s = .next (doTimeStep r step sfh (admitCmd r 0x0111 1 0 (.timeStep step sfh) s)) :=
  congrArg Host.Outcome.next (runCmd_goes _ _ _ h)

theorem StepOk.admitted {op need n : Nat} {c : HostCmd} (h : StepOk s r step sfh) :
    StepOk (admitCmd r op need n c s) r step sfh where
  serves := by simpa using h.serves
  pos := h.pos
  le := h.le
  handle := h.handle
  active := by simpa using h.active
  fits := by simpa using h.fits

/-- A step in order is refused while another is pending, and else pends for its boundary. -/
theorem doTimeStep_of_ok (h : StepOk s r step sfh) :
    doTimeStep r step sfh s = if s.time.step.isSome then refuse r stBusy 5 0 s
      else { s with time := { s.time with step := some ⟨r, step, sfh, stepBoundary s (sfLen s sfh) r.asn⟩ } } := by
  have hst : (s.time.st == .acquire) = false := beq_false_of_ne h.serves
  have harg : (decide (step < 1) || decide (2 ^ 62 < step) || decide (63 < sfh)) = false := by
    obtain ⟨_, hpos, hle, hh, _, _⟩ := h
    simp
    omega
  have hsf : ((sfActive s sfh).isNone ||
      decide (2 ^ 40 ≤ (stepBoundary s (sfLen s sfh) r.asn * s.time.l + step) / max 1 s.time.l)) = false := by
    rw [Option.isNone_eq_false_iff.mpr h.active, decide_eq_false (Nat.not_le.mpr h.fits)]; rfl
  simp only [doTimeStep, checked, hst, harg, hsf]
  rfl

/-- A pending step is taken at its boundary. -/
theorem exec_timeStepExecute {q : StepReq} (h : coreRuns s = true) (hq : s.time.step = some q) (hr : s.time.running = true)
    (ha : q.after ≤ asnNow s) : exec .timeStepExecute s = .next (takeStep q s) := by
  change execTimeStepExecute s = _
  simp only [execTimeStepExecute, coreOnly_of_runs h, hq, hr, ha, Bool.true_and, decide_true, if_true]

end

/-- Settles O16, by the checks of the command and by what a step does. -/
theorem timeStep : Obligations.TimeStep := by
  refine ⟨fun r step sfh s hg hst hpos hle hh hact hnone hfit => ?pends, fun r step sfh q s hg hst hpos hle hh hact hsome hfit => ?busy,
    fun q s h hq hr ha => ⟨_, exec_timeStepExecute h hq hr ha, takeStep_spec q s⟩⟩
  case pends =>
    have hok : StepOk s r step sfh := ⟨hst, hpos, hle, hh, hact, hfit⟩
    rw [exec_timeStep hg, doTimeStep_of_ok hok.admitted]
    simp [hnone]
  case busy =>
    have hok : StepOk s r step sfh := ⟨hst, hpos, hle, hh, hact, hfit⟩
    rw [exec_timeStep hg, doTimeStep_of_ok hok.admitted]
    simp [hsome]

/-! ### `TIME_FORCE` -/

/-- On a unit that leads, starting the journal opens it. -/
theorem openJournal_isOpen (k : Nat) (s : State) : (openJournal k s).jrn.isOpen = (s.jrn.isOpen || s.pair.leads) := by
  rw [openJournal, journal_isOpen, journal_isOpen]

/-- The timebase, made to serve as it stands (R79). -/
def forceTime (s : State) : TimeSt := { s.time with
  forced := true
  e0 := s.time.recon.getD (holdLimNs s + 1000)
  accAt := s.time.tb
  noSlew := false }

section
variable {r : CmdRef} {s : State}

theorem exec_timeForce (h : goes s r 0x0112 1 = true) :
    exec (.timeForce r) s = .next (doTimeForce r (admitCmd r 0x0112 1 0 .timeForce s)) :=
  congrArg Host.Outcome.next (runCmd_goes _ _ _ h)

theorem doTimeForce_of_bad (h : s.time.st ≠ .acquire ∨ s.time.epochSet = false ∨ s.time.loaded = false) :
    doTimeForce r s = refuse r stBadState 5 0 s := by
  have hc : (!(s.time.st == .acquire && s.time.epochSet && s.time.loaded)) = true := by
    rcases h with h | h | h <;> simp [h]
  rw [doTimeForce, checked, hc, if_pos rfl]

theorem doTimeForce_of_ok (hst : s.time.st = .acquire) (he : s.time.epochSet = true) (hl : s.time.loaded = true) :
    doTimeForce r s = done r (setTimeState .drifted
      (if s.jrn.isOpen then { s with time := forceTime s } else openJournal 2 { s with time := forceTime s })) := by
  have hc : (!(s.time.st == .acquire && s.time.epochSet && s.time.loaded)) = false := by simp [hst, he, hl]
  rw [doTimeForce, checked, hc]
  rfl

/-- What a force leaves: the forced timebase in DRIFTED, an open journal on a unit that leads; tables, schedule and registers stay. -/
theorem doTimeForce_spec (hst : s.time.st = .acquire) (he : s.time.epochSet = true) (hl : s.time.loaded = true) :
    (doTimeForce r s).time = { forceTime s with st := .drifted } ∧ (s.pair.leads = true → (doTimeForce r s).jrn.isOpen = true) ∧
      (doTimeForce r s).tbl = s.tbl ∧ (doTimeForce r s).sch = s.sch ∧ (doTimeForce r s).regs = s.regs := by
  have hj : ∃ f j q w, (if s.jrn.isOpen then { s with time := forceTime s } else openJournal 2 { s with time := forceTime s }) =
      { s with time := forceTime s, fresh := f, jrn := j, que := q, cnt := w } ∧ (s.pair.leads = true → j.isOpen = true) := by
    by_cases ho : s.jrn.isOpen = true
    · rw [if_pos ho]
      exact ⟨_, _, _, _, rfl, fun _ => ho⟩
    · rw [if_neg ho]
      exact ⟨_, _, _, _, rfl, fun hp => (openJournal_isOpen 2 _).trans (by simp [hp])⟩
  obtain ⟨f, j, q, w, e, hopen⟩ := hj
  rw [doTimeForce_of_ok hst he hl, e]
  generalize hx : ({ s with time := forceTime s, fresh := f, jrn := j, que := q, cnt := w } : State) = x
  obtain ⟨q', w', h', e'⟩ := setTimeState_eq .drifted x
  rw [e']
  subst hx
  refine ⟨?_, hopen, rfl, rfl, rfl⟩
  change { forceTime s with st := .drifted, sinceWake := s.time.sinceWake && true } = _
  rw [Bool.and_true]
  rfl

end

/-- Settles O15: past its check, a force sets the time state and starts a journal. -/
theorem timeForceServes : Obligations.TimeForceServes := by
  refine fun r s hg => ⟨fun hst he hl => ?serves, fun h => ?refused⟩
  case serves =>
    have hkeep : forceTime (admitCmd r 0x0112 1 0 .timeForce s) = forceTime s := admitCmd_keeps forceTime
    obtain ⟨ht, hj, htbl, hsch, hregs⟩ := doTimeForce_spec (r := r) (s := admitCmd r 0x0112 1 0 .timeForce s)
      (by simpa using hst) (by simpa using he) (by simpa using hl)
    rw [hkeep] at ht
    rw [admitCmd_pair] at hj
    refine ⟨_, exec_timeForce hg, ?_, ?_, ?_, ?_, ?_, hj, htbl.trans (admitCmd_tbl ..), hsch.trans (admitCmd_sch ..),
      hregs.trans (admitCmd_regs ..)⟩ <;> rw [ht] <;> rfl
  case refused =>
    rw [exec_timeForce hg, doTimeForce_of_bad (by simpa using h)]

end Sys2Proof.Machine
end

section
/-! THEOREMS. The state of a power-on reset (R16, R52, R56, R89, R202, R329, R499, R522). -/
namespace Sys2Proof.Machine

/-- A list of one value reads as that value everywhere when it is the default too. -/
theorem getD_replicate_default {α : Type} (n i : Nat) (x : α) : (List.replicate n x).getD i x = x := by
  rw [List.getD_eq_getElem?_getD, List.getElem?_replicate]
  split <;> rfl

/-- No handle holds a definition after the reset. -/
theorem sfUses_reset (k : Nat) : sfUses State.reset k = [] := getD_replicate_default 64 k []

theorem portOf_reset (p : Nat) : portOf State.reset p = Port.reset := getD_replicate_default 6 p Port.reset

/-- Settles O2: the state of the reset lists no register word, no count and no active copy, and the rest is as written there. -/
theorem resetState : Obligations.ResetState := by
  refine ⟨⟨fun _ => rfl, fun _ => rfl, fun _ => rfl, rfl, rfl, rfl, asn_of_stopped rfl, fun p _ => ?ports, rfl, fun k => ?handles,
    by decide, rfl, rfl⟩, rfl⟩
  case ports => rw [portOf_reset]; rfl
  case handles => rw [sfState, sfUses_reset]; rfl

end Sys2Proof.Machine
end

section
/-! THEOREMS. The 1PPS input and the time-of-day line (R61 to R66). -/
namespace Sys2Proof.Machine

/-- The instant of an edge: filter latency and cable delay are taken off (R61). -/
def ppsEdgeAt (s : State) (at_ : Nat) : Nat := mv (-16 - signedOf 32 (s.regN 0x30024)) at_

/-- The instant at which a second without an active edge is over (R62). -/
def ppsMissAt (y : PpsSt) : Nat := y.lastActive.getD y.enabledAt + 1_500_000_000 + y.missing * 1_000_000_000

/-! ### A pulse that is held -/

section
variable {p : Pulse} {s : State}

theorem settle_of_no_pulse (f : Bool) (h : s.time.pps.pulse = none) : settle f s = s := by
  simp only [settle, h]

/-- Deciding a pulse without a trailing edge takes it as longer than 500 ms. -/
theorem settle_of_open (hp : s.time.pps.pulse = some p) (hw : p.width = none) : settle true s = decidePulse p 500_000_001 s := by
  simp only [settle, hp, hw, if_true]

/-- A message with no pulse open is checked at once. -/
theorem todArrive_of_no_pulse (m : List Octet) (at_ : Nat) (h : s.time.pps.pulse = none) : todArrive m at_ s = todMessage m at_ s := by
  simp only [todArrive, h]

/-- Outside LOCKED, the first active edge starts a pulse and decides nothing. -/
theorem activeEdge_of_first (edge : Nat) (hst : s.time.st ≠ .locked) (ha : s.time.pps.lastActive = none) (hp : s.time.pps.pulse = none) :
    activeEdge edge s = withPps (fun y => { y with
      lastActive := some edge
      lastEdge := some edge
      missing := 0
      pulse := some ⟨edge, none, nearSec edge, slewTo s.time edge, none⟩ }) s := by
  have hl : (s.time.st == .locked) = false := beq_false_of_ne hst
  simp [activeEdge, ha, hl, settle_of_no_pulse true hp, withPps, withTime]

end

/-! ### The rows of 1PPS, as core work -/

section
variable {up : Bool} {at_ : Nat} {p : Pulse} {s : State} (h : coreRuns s = true) (hen : ppsEn s = true)
include h hen

theorem exec_ppsEdge_of_active (hn : s.time.pps.noisy = false) (hk : (up != s.regB 0x30020 1) = true) :
    exec (.ppsEdge up at_) s = .next (activeEdge (ppsEdgeAt s at_) (reach (at_ + 16) s)) := by
  change execPpsEdge up at_ s = _
  have hr : (reach (at_ + 16) s).time.pps.noisy = false := hn
  simp only [execPpsEdge, coreOnly_of_runs h, hen, hr, hk]
  rfl

theorem exec_ppsEdge_of_trailing (hn : s.time.pps.noisy = false) (hk : (up != s.regB 0x30020 1) = false)
    (hp : s.time.pps.pulse = some p) (hw : p.width = none) :
    exec (.ppsEdge up at_) s = .next (settle false (withPps (fun y => { y with
      lastEdge := some (ppsEdgeAt s at_)
      pulse := some { p with width := some (ppsEdgeAt s at_ - p.edge) } }) (reach (at_ + 16) s))) := by
  change execPpsEdge up at_ s = _
  have hr : (reach (at_ + 16) s).time.pps.noisy = false := hn
  have hq : (reach (at_ + 16) s).time.pps.pulse = some p := hp
  simp only [execPpsEdge, coreOnly_of_runs h, hen, hr, hk, withPps, withTime, hq, Option.map_some, hw]
  rfl

theorem exec_ppsEdge_of_noisy (hn : s.time.pps.noisy = true) :
    exec (.ppsEdge up at_) s = .next (withPps (fun y => { y with
      noisyAt := ppsEdgeAt s at_
      lastEdge := some (ppsEdgeAt s at_)
      lastActive := if up != s.regB 0x30020 1 then some (ppsEdgeAt s at_) else y.lastActive }) (reach (at_ + 16) s)) := by
  change execPpsEdge up at_ s = _
  have hr : (reach (at_ + 16) s).time.pps.noisy = true := hn
  simp only [execPpsEdge, coreOnly_of_runs h, hen, hr]
  rfl

theorem exec_ppsWidthTimeout (hp : s.time.pps.pulse = some p) (hw : p.width = none) :
    exec .ppsWidthTimeout s = .next (decidePulse p 500_000_001 (reach (p.edge + 500_000_000) s)) := by
  have hq : (reach (p.edge + 500_000_000) s).time.pps.pulse = some p := hp
  change execPpsWidthTimeout s = _
  rw [← settle_of_open hq hw]
  simp only [execPpsWidthTimeout, coreOnly_of_runs h, hp, hen, hw]
  rfl

theorem exec_ppsMissingSecond_of_not_noisy (hn : s.time.pps.noisy = false) :
    let code := if s.time.pps.lastEdge.any (fun e => decide (ppsMissAt s.time.pps < e + 1_500_000_000)) then 4 else 5
    exec .ppsMissingSecond s = .next (reference 3 0 1 0 code 0 (bump (0x30028 + 4 * code)
      (withPps (fun y => { y with missing := y.missing + 1 }) (settle true (reach (ppsMissAt s.time.pps) s))))) := by
  change execPpsMissingSecond s = _
  simp only [execPpsMissingSecond, coreOnly_of_runs h, hen, hn]
  rfl

theorem exec_ppsMissingSecond_of_noisy (hn : s.time.pps.noisy = true) :
    exec .ppsMissingSecond s = .next (reference 3 0 1 0 0 0 (withPps (fun y => { y with missing := y.missing + 1 })
      (reach (s.time.pps.enabledAt + (s.time.pps.missing + 1) * 1_000_000_000) s))) := by
  change execPpsMissingSecond s = _
  simp only [execPpsMissingSecond, coreOnly_of_runs h, hen, hn]
  rfl

theorem exec_ppsQuiet_spec (hn : s.time.pps.noisy = true) :
    ∃ t, exec .ppsQuiet s = .next t ∧ t.time.pps.noisy = false ∧ t.time.pps.prevGood = none ∧
      t.time.tb = max s.time.tb (s.time.pps.noisyAt + 3_000_000_000) ∧ t.regs = s.regs := by
  change ∃ t, execPpsQuiet s = _ ∧ _
  simp only [execPpsQuiet, coreOnly_of_runs h, hen, hn]
  exact ⟨_, rfl, rfl, rfl, rfl, rfl⟩

end

/-- Settles O19, row by row. -/
theorem pulsePerSecond : Obligations.PulsePerSecond :=
  ⟨fun _ _ _ h hen => exec_ppsEdge_of_active h hen, fun _ _ _ _ h hen => exec_ppsEdge_of_trailing h hen,
    fun _ _ _ h hen => exec_ppsEdge_of_noisy h hen,
    fun _ _ _ h hen hn hk hst ha hp => ⟨_, (exec_ppsEdge_of_active h hen hn hk).trans
      (congrArg _ (activeEdge_of_first _ hst ha hp)), rfl, rfl, rfl, rfl, rfl, rfl, rfl⟩,
    fun _ _ h hen => exec_ppsWidthTimeout h hen, fun _ h hen => exec_ppsMissingSecond_of_not_noisy h hen,
    fun _ h hen => exec_ppsMissingSecond_of_noisy h hen, fun _ h hen => exec_ppsQuiet_spec h hen⟩

/-! ### The rows of the time-of-day line, as core work -/

section
variable {os : List Octet} {at_ : Nat} {s : State} (h : coreRuns s = true) (hen : ppsEn s = true)
include h hen

theorem exec_todMessageRx {t : State} {b : List Octet} (ht : t = settle false (reach at_ s)) (hb : b = t.time.pps.tod ++ os) :
    exec (.todMessageRx os at_) s = .next (if 16 ≤ b.length
      then todArrive (b.take 16) at_ (withPps (fun y => { y with tod := b.drop 16, todAt := at_ }) t)
      else withPps (fun y => { y with tod := b, todAt := at_ }) t) := by
  change execTodMessageRx os at_ s = _
  simp only [execTodMessageRx, coreOnly_of_runs h, hen, Bool.not_true, Bool.false_eq_true, if_false, ← ht, ← hb]
  split <;> rfl

/-- With no pulse open, bytes short of a message are kept. -/
theorem exec_todMessageRx_of_part (hp : s.time.pps.pulse = none) (hl : s.time.pps.tod.length + os.length < 16) :
    exec (.todMessageRx os at_) s =
      .next (withPps (fun y => { y with tod := s.time.pps.tod ++ os, todAt := at_ }) (reach at_ s)) := by
  have hq : (reach at_ s).time.pps.pulse = none := hp
  rw [exec_todMessageRx h hen (settle_of_no_pulse false hq).symm rfl,
    if_neg (by rw [List.length_append]; exact Nat.not_le.mpr hl)]
  rfl

/-- With no pulse open, sixteen bytes on an empty line are a message. -/
theorem exec_todMessageRx_of_message (hp : s.time.pps.pulse = none) (ht : s.time.pps.tod = []) (hl : os.length = 16) :
    exec (.todMessageRx os at_) s = .next (todMessage os at_
      { reach at_ s with time := { (reach at_ s).time with pps := { s.time.pps with tod := [], todAt := at_ } } }) := by
  have hq : (reach at_ s).time.pps.pulse = none := hp
  have hb : os = (reach at_ s).time.pps.tod ++ os := (congrArg (· ++ os) ht).symm
  rw [exec_todMessageRx h hen (settle_of_no_pulse false hq).symm hb, if_pos (Nat.le_of_eq hl.symm),
    List.take_of_length_le (Nat.le_of_eq hl), List.drop_eq_nil_of_le (Nat.le_of_eq hl)]
  refine congrArg Host.Outcome.next ?_
  exact todArrive_of_no_pulse os at_ hp

theorem exec_todByteGap : exec (.todByteGap os) s =
    .next { s with time := { s.time with pps := { s.time.pps with tod := [] } } } := by
  change execTodByteGap os s = _
  rw [execTodByteGap, coreOnly_of_runs h, if_pos hen]
  rfl

theorem exec_todWaitTimeout {e : Nat} (hf : s.time.pps.todFor = some (e, true)) :
    exec .todWaitTimeout s = .next (reference 3 0 2 0 0 0
      { reach (e + 900_000_000) s with
        time := { (reach (e + 900_000_000) s).time with pps := { s.time.pps with todFor := some (e, false) } } }) := by
  change execTodWaitTimeout s = _
  simp only [execTodWaitTimeout, coreOnly_of_runs h, hf, hen]
  rfl

end

/-- Settles O20, row by row. -/
theorem timeOfDay : Obligations.TimeOfDay :=
  ⟨fun _ _ _ h hen => exec_todMessageRx h hen rfl rfl,
    fun _ _ _ h hen hp hl => ⟨_, exec_todMessageRx_of_part h hen hp hl, rfl, rfl, rfl, rfl, rfl⟩,
    fun _ _ _ h hen => exec_todMessageRx_of_message h hen, fun _ _ h hen => exec_todByteGap h hen,
    fun _ _ h hen => exec_todWaitTimeout h hen⟩

end Sys2Proof.Machine
end

section
/-! THEOREMS. KEEP and its wake (R84, R85, R509 to R516, R524). -/
namespace Sys2Proof.Machine

section
variable {s : State}

/-! ### How KEEP is left -/

theorem exec_wakeTimer_of_keep (hk : s.pwr.st = .keep) (hw : s.pwr.waking = none) (ha : s.pwr.wakeAfter ≠ 0) :
    exec .wakeTimer s = .next { s with pwr := { s.pwr with
      slck := max s.pwr.slck (s.time.keepC0 + s.pwr.wakeAfter * 32_768)
      waking := some 1, cause := 1, mainEn := true, hostWake := s.regB 0x10024 4 } } := by
  change execWakeTimer s = _
  simp only [execWakeTimer, hk, hw, bne_iff_ne.mpr ha, startWake, withPwr]
  rfl

theorem exec_wakeTimer_of_other (h : s.pwr.st ≠ .keep ∨ s.pwr.waking.isSome = true ∨ s.pwr.wakeAfter = 0) :
    exec .wakeTimer s = .next s := by
  change execWakeTimer s = _
  have hc : (s.pwr.st == .keep && s.pwr.waking.isNone && s.pwr.wakeAfter != 0) = false := by
    rcases h with hk | hw | ha
    · simp [hk]
    · simp [Option.isNone_eq_false_iff.mpr hw]
    · simp [ha]
  rw [execWakeTimer, hc]
  rfl

theorem exec_wakePin_of_keep (hk : s.pwr.st = .keep) (hw : s.pwr.waking = none) (he : s.regB 0x10024 0 = true) :
    exec .wakePin s = .next { s with pwr := { s.pwr with
      waking := some 2, cause := 2, mainEn := true, hostWake := s.regB 0x10024 4 } } := by
  change execWakePin s = _
  simp only [execWakePin, hk, he, startWake, hw]
  rfl

theorem exec_wakePin_of_other (h : s.pwr.st ≠ .keep ∨ s.pwr.waking.isSome = true) : exec .wakePin s = .next s := by
  change execWakePin s = _
  rcases h with hk | hw
  · simp [execWakePin, hk]
  · simp [execWakePin, startWake, hw]

/-! ### The wake -/

theorem exec_keepWake {cause : Nat} (c1 : Nat) (oks : List Bool) (hk : s.pwr.st = .keep) (hw : s.pwr.waking = some cause) :
    exec (.keepWake c1 oks) s = .next (wake cause (max c1 s.pwr.slck) oks s) := by
  simp only [exec, execKeepWake, hk, hw]

theorem exec_keepWake_of_other (c1 : Nat) (oks : List Bool) (h : s.pwr.st ≠ .keep ∨ s.pwr.waking = none) :
    exec (.keepWake c1 oks) s = .next s := by
  change execKeepWake c1 oks s = _
  unfold execKeepWake
  split
  next cause hk hw => exact absurd h (by simp [hk, hw])
  next => rfl

/-- The device as the state bank puts it back on a main reset at SLCK count `c1` (R511). -/
def banked (cause c1 : Nat) (s : State) : State :=
  restoreBank c1 (wakeState s (wakeEst s.time c1)) s (mainReset cause (useFresh 1 s))

/-- The bank brings no transaction back. -/
theorem banked_sixp (cause c1 : Nat) (s : State) : (banked cause c1 s).herd.sixp = [] := by
  cases hk : s.pwr.kept <;> simp only [banked, restoreBank, hk] <;> rfl

/-- Without retained banks the node table and the schedule are empty. -/
theorem banked_of_lost (cause c1 : Nat) (h : s.pwr.kept = false) :
    (banked cause c1 s).tbl.nodes = [] ∧ (banked cause c1 s).sch = SchSt.reset := by
  simp only [banked, restoreBank, h]
  exact ⟨rfl, rfl⟩

/-- The timebase at a wake stands where the SLCK periods since the commit put it; the slot clock's settings stay (R85). -/
theorem wakeTime_clock (x : TimeSt) (c1 : Nat) (est : Rat) (n : TimeState) :
    (wakeTime x c1 est n).tb = x.keepT0 + wakeElapsed x c1 ∧ (wakeTime x c1 est n).sub = x.keepSub ∧
    (wakeTime x c1 est n).epoch = x.epoch ∧ (wakeTime x c1 est n).epochSet = x.epochSet ∧
    (wakeTime x c1 est n).slotLen = x.slotLen := by
  rw [wakeTime]
  exact ⟨rfl, rfl, rfl, rfl, rfl⟩

theorem banked_time (cause c1 : Nat) (s : State) :
    (banked cause c1 s).time = wakeTime s.time c1 (wakeEst s.time c1) (wakeState s (wakeEst s.time c1)) := rfl

/-- A wake runs the rest of Table 18-9 on the device that its bank has put back. -/
theorem wake_eq_serve (cause c1 : Nat) (oks : List Bool) (s : State) : wake cause c1 oks s =
    wakeServe cause c1 (wakeState s (wakeEst s.time c1)) (wakeEst s.time c1) oks s (banked cause c1 s) := rfl

section
variable {t : State} {cause c1 : Nat} {oks : List Bool} (h : wake cause c1 oks s = t)
include h

/-- A wake ends in RUN with phase 6 over. -/
theorem wake_pwr : t.pwr.st = .run ∧ t.pwr.phase = 6 ∧ t.pwr.warm = true ∧ t.pwr.cause = cause ∧ t.pwr.slck = c1 := by
  subst h
  obtain ⟨-, hpwr, -⟩ := wakeServe_spec cause c1 (wakeState s (wakeEst s.time c1)) (wakeEst s.time c1) oks s _ (banked_sixp cause c1 s)
  rw [wake_eq_serve, hpwr]
  exact ⟨rfl, rfl, rfl, rfl, rfl⟩

/-- A wake reconstructs the timebase and chooses its state; the slot clock's settings stay (R85). -/
theorem wake_time : t.time.tb = s.time.keepT0 + wakeElapsed s.time c1 ∧ t.time.sub = s.time.keepSub ∧
    t.time.st = wakeState s (wakeEst s.time c1) ∧ t.time.epoch = s.time.epoch ∧ t.time.epochSet = s.time.epochSet ∧
    t.time.slotLen = s.time.slotLen := by
  subst h
  obtain ⟨-, -, htime, -⟩ := wakeServe_spec cause c1 (wakeState s (wakeEst s.time c1)) (wakeEst s.time c1) oks s _ (banked_sixp cause c1 s)
  rw [wake_eq_serve, htime, banked_time]
  obtain ⟨htb, hsub, hepoch, hset, hlen⟩ := wakeTime_clock s.time c1 (wakeEst s.time c1) (wakeState s (wakeEst s.time c1))
  generalize wakeTime s.time c1 (wakeEst s.time c1) (wakeState s (wakeEst s.time c1)) = x at *
  exact ⟨htb, hsub, rfl, hepoch, hset, hlen⟩

/-- A wake keeps prefixes and active configuration; no frame, transmission, transaction or reception is open. -/
theorem wake_core : t.tbl.pfx = s.tbl.pfx ∧ t.active = s.active ∧ t.tx.frames = [] ∧ t.tx.txs = [] ∧ t.herd.sixp = [] ∧
    t.rx.locks = [] := by
  subst h
  obtain ⟨hframe, -⟩ := wakeServe_spec cause c1 (wakeState s (wakeEst s.time c1)) (wakeEst s.time c1) oks s _ (banked_sixp cause c1 s)
  simp only [wakeFrame, Prod.mk.injEq] at hframe
  obtain ⟨hactive, htx, hherd, hrx, -, -, hpfx, -⟩ := hframe
  rw [wake_eq_serve, hpfx, hactive, htx, hherd, hrx]
  exact ⟨rfl, rfl, rfl, rfl, banked_sixp cause c1 s, rfl⟩

/-- Without retained banks a wake has an empty node table and schedule. -/
theorem wake_of_lost (hk : s.pwr.kept = false) : t.tbl.nodes = [] ∧ t.sch = SchSt.reset := by
  subst h
  obtain ⟨hframe, -, -, hnodes, -⟩ := wakeServe_spec cause c1 (wakeState s (wakeEst s.time c1)) (wakeEst s.time c1) oks s _
    (banked_sixp cause c1 s)
  simp only [wakeFrame, Prod.mk.injEq] at hframe
  obtain ⟨-, -, -, -, hsch, -⟩ := hframe
  obtain ⟨hn, hs⟩ := banked_of_lost cause c1 hk
  exact ⟨hnodes hn, hsch.trans hs⟩

/-- After a wake the host interface is ready, PAIR_ACTIVE is driven and the SPLL is locked. -/
theorem wake_serves : t.hif.ready = true ∧ t.pair.activeOut = true ∧ t.rf.spll = .locked := by
  subst h
  obtain ⟨-, -, -, -, hready, hout, hspll, -⟩ := wakeServe_spec cause c1 (wakeState s (wakeEst s.time c1)) (wakeEst s.time c1) oks s _
    (banked_sixp cause c1 s)
  exact ⟨hready, hout, hspll⟩

end

/-! ### The balls in KEEP and OFF -/

theorem femLines_of_down (p : Nat) (h : s.pwr.st = .keep ∨ s.pwr.st = .off) : femLines s p = none := by
  rcases h with h | h <;> simp [femLines, h]

theorem awake_of_down (h : s.pwr.st = .keep ∨ s.pwr.st = .off) : awake s = false := by
  rcases h with h | h <;> simp [awake, h]

theorem qflowLevel_of_down (p : Nat) (h : s.pwr.st = .keep ∨ s.pwr.st = .off) : qflowLevel s p = none := by
  rcases h with h | h <;> simp [qflowLevel, ioUp, h]

/-- Out of RUN and WATCH the polarity latch gives the level (R514). -/
theorem coexLevel_of_not_awake (b : Bool) (h : awake s = false) : coexLevel s b = s.rf.polLatch := by
  simp [coexLevel, latchRules, h]

end

/-- Settles O43: a wake is Table 18-9 over the state bank put back on the reset device. -/
theorem keepAndWake : Obligations.KeepAndWake := by
  refine ⟨fun s hk hw ha => exec_wakeTimer_of_keep hk hw ha, fun s ha => exec_wakeTimer_of_other (.inr (.inr ha)),
    fun s hk hw he => exec_wakePin_of_keep hk hw he,
    fun s h => ⟨exec_wakePin_of_other h, exec_wakeTimer_of_other (h.imp_right .inl)⟩,
    fun c1 cause oks s hk hw => ?wake, fun c1 oks s h => exec_keepWake_of_other c1 oks h, fun s p h => ?balls⟩
  case wake =>
    generalize hc : max c1 s.pwr.slck = c
    generalize ht : wake cause c oks s = t
    have hexec : exec (.keepWake c1 oks) s = .next t := by rw [exec_keepWake c1 oks hk hw, hc, ht]
    obtain ⟨hst, hphase, hwarm, hcause, hslck⟩ := wake_pwr ht
    obtain ⟨htb, hsub, htst, hepoch, hset, hlen⟩ := wake_time ht
    obtain ⟨hpfx, hactive, hframes, htxs, hsixp, hlocks⟩ := wake_core ht
    obtain ⟨hready, hout, hspll⟩ := wake_serves ht
    exact ⟨t, hexec, hst, hphase, hwarm, hcause, hslck, htb, hsub, htst, hepoch, hset, hlen, hpfx, hactive, hframes, htxs, hsixp,
      hlocks, hready, hout, hspll, wake_of_lost ht⟩
  case balls =>
    have hd : awake s = false := awake_of_down h
    refine ⟨femLines_of_down p h, qflowLevel_of_down p h, ?_, coexLevel_of_not_awake _ hd, coexLevel_of_not_awake _ hd⟩
    rw [pairActiveLevel, hd, Bool.and_false]

end Sys2Proof.Machine
end

section
/-! THEOREMS. The slot boundary (R55, R207, R447, R450, R463, R490). -/
namespace Sys2Proof.Machine

/-- The boundary that comes next has not come yet. -/
theorem lt_nextBoundary {t : TimeSt} {a : Nat} (h : t.lastAsn = some a) : a < nextBoundary t := by
  simp only [nextBoundary, h]
  omega

/-- The boundary of ASN `n` comes: the timebase has reached it, and it is the last one that came. -/
def boundaryAt (n : Nat) (s : State) : State :=
  { reach (s.time.at_ n) s with time := { (reach (s.time.at_ n) s).time with lastAsn := some n } }

section
variable {n : Nat} {s : State}

/-- Whether a boundary comes at all. -/
def ticks (s : State) : Bool :=
  s.up && s.pair.st != .replay && (s.time.loaded && s.time.epochSet && decide (0 < s.time.slotLen))

theorem exec_slotBoundary (hn : n = nextBoundary s.time) : exec .slotBoundary s = .next (if !ticks s then s
    else if s.pair.leads then boundaryWork n (pairCount (boundaryAt n s)) else pairCount (boundaryAt n s)) := by
  subst hn
  change execSlotBoundary s = _
  rw [ticks, bne, Bool.not_and, Bool.not_and, Bool.not_not]
  rfl

end

theorem ne_replay_of_leads {p : PairSt} (h : p.leads = true) : p.st ≠ .replay := by
  intro hr
  simp [PairSt.leads, hr] at h

/-! ### The restart step -/

theorem foldl_event_err (c : Nat) (f : Nat → List Nat) (l : List Nat) (s : State) :
    (l.foldl (fun u k => event c (f k) u) s).err = s.err := by
  induction l generalizing s with
  | nil => rfl
  | cons k l ih => rw [List.foldl_cons, ih, event_err]

/-- What the restart step leaves of the error unit. -/
theorem restartDone_err (s : State) : (restartDone s).err = { s.err with
    offline := s.err.offline.filter (fun u => !s.err.restarting.contains u)
    restarting := []
    restarted := s.err.restarting.map (fun u => (u, s.time.tb)) ++
      s.err.restarted.filter (fun x => !s.err.restarting.contains x.1) } := by
  unfold restartDone
  extract_lets back x t u
  have hu : u.err = t.err := foldl_event_err 0x0E41 (fun k => [k, 0]) back t
  split
  · obtain ⟨r, h, w, e⟩ := returnPorts_eq u
    rw [e]
    exact hu
  · exact hu

/-- Settles O52, row by row of the boundary. -/
theorem slotBoundary : Obligations.SlotBoundary := by
  refine ⟨fun n u s hup hl hld he hs hn hu => ?leads, fun n s hup hl hr hld he hs hn => ?follows, fun s h => ?silent,
    fun t a h => lt_nextBoundary h, fun s => ?restart⟩
  case leads =>
    have ht : ticks s = true := by simp [ticks, hup, hld, he, hs, ne_replay_of_leads hl]
    rw [exec_slotBoundary hn, ht, if_neg (by decide), if_pos hl, hu]
    exact ⟨rfl, rfl, rfl⟩
  case follows =>
    have ht : ticks s = true := by simp [ticks, hup, hld, he, hs, hr]
    refine ⟨_, exec_slotBoundary hn, ?_⟩
    rw [ht, hl]
    refine ⟨rfl, rfl, rfl, rfl, rfl, rfl, rfl, rfl, fun hb => ?_, fun hb => ?_⟩ <;> simp [pairCount, boundaryAt, hl, hb]
  case silent =>
    have ht : ticks s = false := by rcases h with h | h | h <;> simp [ticks, h]
    rw [exec_slotBoundary rfl, ht]
    rfl
  case restart =>
    rw [restartDone_err]
    refine ⟨rfl, fun u hu => ?_, fun u hu => ?_⟩
    · simp [hu]
    · have hm : u ∉ s.err.restarting := by simpa using hu
      simp [hm]

end Sys2Proof.Machine
end

section
/-! THEOREMS. A demodulator's lock from its preamble to its release (R110, R146, R149, R160 to R164), and the pool of Eland
codewords (R191, R193). -/
namespace Sys2Proof.Machine

/-! ### The list of locks -/

/-- An inserted lock is found at its channel slot, and every other channel slot finds what it found. -/
theorem find?_insLock (d : Demod) (c : Nat) (t : List Demod) :
    (insLock d t).find? (fun e => e.ch == c) = if d.ch = c then some d else t.find? (fun e => e.ch == c) := by
  induction t with
  | nil => by_cases h : d.ch = c <;> simp [insLock, h]
  | cons e t ih =>
    rw [insLock]
    split
    · by_cases h : d.ch = c <;> simp [h]
    · split
      · next heq => by_cases h : d.ch = c <;> simp [h, ← heq]
      · next hne =>
        by_cases he : e.ch = c
        · have hd : d.ch ≠ c := fun h => hne (h.trans he.symm)
          simp [he, hd]
        · simp [he, ih]

section
variable {ch c : Nat} {l : Lock} {s : State}

theorem demodAt_setLock_same : demodAt (setLock ch l s) ch = some l := by
  simp [demodAt, setLock, find?_insLock]

theorem demodAt_setLock_of_ne (h : c ≠ ch) : demodAt (setLock ch l s) c = demodAt s c := by
  simp [demodAt, setLock, find?_insLock, h.symm]

theorem demodAt_freeLock_same : demodAt (freeLock ch s) ch = none := by
  simp [demodAt, freeLock, List.find?_eq_none]

theorem demodAt_freeLock_of_ne (h : c ≠ ch) : demodAt (freeLock ch s) c = demodAt s c := by
  have hc : (fun e : Demod => decide ((e.ch != ch) = true ∧ (e.ch == c) = true)) = fun e => e.ch == c := by
    funext e
    by_cases he : e.ch = c <;> simp [he, h]
  simp only [demodAt, freeLock, List.find?_filter, hc]

end

/-! ### Detection and capture -/

section
variable {ch p q : Nat} {r mean : Int} {l : Lock} {s : State}

/-- What a channel slot finds is a profile that it searches for and that shares the preamble. -/
theorem finds_spec (h : finds s ch p = some q) :
    searches s ch q = true ∧ samePreamble (profAt s.act q) (profAt s.act p) = true := by
  obtain ⟨hheard, hs⟩ := Option.filter_eq_some_iff.mp h
  rw [heardAs] at hheard
  have hq := List.find?_some hheard
  exact ⟨hs, (Bool.and_eq_true_iff.mp hq).2⟩

section
variable (hr : demRuns s ch = true)
include hr

theorem exec_preambleDetect_of_found (hd : demodAt s ch = none) (hf : finds s ch p = some q) :
    exec (.preambleDetect ch p r) s = .next (setLock ch ⟨q, r, s.time.tb, none, none, false⟩ s) := by
  simp only [exec, execPreambleDetect, hr, hd, hf]
  rfl

theorem exec_preambleDetect_of_unfound (hd : demodAt s ch = none) (hf : finds s ch p = none) :
    exec (.preambleDetect ch p r) s = .next s := by
  simp only [exec, execPreambleDetect, hr, hd, hf, ite_self]

theorem exec_preambleDetect_of_locked (hd : demodAt s ch = some l) (hm : l.msUntil = none) :
    exec (.preambleDetect ch p r) s = .next s := by
  simp only [exec, execPreambleDetect, hr, hd, hm, ite_self]

/-- A demodulator that awaits the new mode takes a preamble of it that began in time. -/
theorem exec_preambleDetect_of_awaited {u : Nat} (hd : demodAt s ch = some l) (hm : l.msUntil = some u) :
    exec (.preambleDetect ch p r) s = .next (
      if samePreamble (profAt s.act l.profile) (profAt s.act p) = true ∧ s.time.tb ≤ u + detectNs (profAt s.act p) then
        setLock ch { l with msUntil := none, at_ := s.time.tb, rssiQ := r } s
      else s) := by
  simp only [exec, execPreambleDetect, hr, hd, hm]
  rfl

section
variable (hf : finds s ch p = some q)
include hf

theorem exec_secondPreambleDetect_of_free (hd : demodAt s ch = none) :
    exec (.secondPreambleDetect ch p ⟨r, mean⟩) s = .next (setLock ch ⟨q, r, s.time.tb, none, none, false⟩ s) := by
  simp only [exec, execSecondPreambleDetect, hr, if_true, hf, hd]
  rfl

/-- Before the SFD the stronger preamble replaces the lock (R161). -/
theorem exec_secondPreambleDetect_of_preSfd (hd : demodAt s ch = some l) (hs : l.sfd = none) :
    exec (.secondPreambleDetect ch p ⟨r, mean⟩) s = .next (
      if l.rssiQ + ((4 * s.regF 0x70004 12 8 : Nat) : Int) ≤ r then
        setLock ch ⟨q, r, s.time.tb, none, none, false⟩ (demDisc 5 (rxCount ch 8 s))
      else s) := by
  simp only [exec, execSecondPreambleDetect, hr, if_true, hf, hd, hs]
  rfl

/-- After the SFD the preamble that is stronger than the frame captures, unless CAPTURE_DB is 0 (R162). -/
theorem exec_secondPreambleDetect_of_frame (hd : demodAt s ch = some l) (hs : l.sfd ≠ none) :
    exec (.secondPreambleDetect ch p ⟨r, mean⟩) s = .next (
      if 4 * s.regF 0x70004 4 0 ≠ 0 ∧ mean + ((4 * s.regF 0x70004 4 0 : Nat) : Int) ≤ r then
        setLock ch ⟨q, r, s.time.tb, none, none, false⟩ (demDisc 7 (rxCount ch 3 s))
      else s) := by
  have hi : l.sfd.isNone = false := Option.isNone_eq_false_iff.mpr (Option.isSome_iff_ne_none.mpr hs)
  simp only [exec, execSecondPreambleDetect, hr, if_true, hf, hd, hi, Bool.false_eq_true, if_false, Bool.and_eq_true,
    bne_iff_ne, decide_eq_true_eq]
  rfl

end

end

end

/-! ### The SFD -/

section
variable {ch tick fec : Nat} {r1 r2 : Int} {l : Lock} {s : State}

theorem exec_sfdDetect (hr : demRuns s ch = true) (hd : demodAt s ch = some l) (hs : l.sfd = none) (hm : l.msUntil = none) :
    exec (.sfdDetect ch r1 r2 ⟨tick, fec⟩) s = .next { setLock ch { l with
        sfd := some ⟨tick, fec, (diversity s ch r1 r2).1, (diversity s ch r1 r2).2, r1, r2⟩ } (reach (tick * 5 / 4) s) with
      rx := modSums s ch (fun y => { y with
          divs := divCount ((diversity s ch r1 r2).1 != portA s ch) (diversity s ch r1 r2).2 y.divs })
        (setLock ch { l with
          sfd := some ⟨tick, fec, (diversity s ch r1 r2).1, (diversity s ch r1 r2).2, r1, r2⟩ } s).rx } := by
  simp only [exec, execSfdDetect, hr, hd, hs, hm]
  rfl

theorem diversity_of_first_deaf (ha : hearing s (portA s ch) = false) : diversity s ch r1 r2 = (portA s ch + 1, true) := by
  simp [diversity, ha]

theorem diversity_of_second_deaf (ha : hearing s (portA s ch) = true) (hb : hearing s (portA s ch + 1) = false) :
    diversity s ch r1 r2 = (portA s ch, true) := by
  simp [diversity, ha, hb]

/-- With both ports in RX the pair's mode decides (R110). -/
theorem diversity_of_both (ha : hearing s (portA s ch) = true) (hb : hearing s (portA s ch + 1) = true) {k : Nat}
    (hk : k = s.regF 0x40010 (2 * winPair (slotWin s.act ch) + 1) (2 * winPair (slotWin s.act ch))) :
    diversity s ch r1 r2 = if k = 1 then (portA s ch, false) else if k = 2 then (portA s ch + 1, false)
      else (if r1 + 1 < r2 then portA s ch + 1 else portA s ch, false) := by
  simp [diversity, ha, hb, hk]

theorem exec_falseDetRelease (hd : demodAt s ch = some l) (hs : l.sfd = none) (hm : l.msUntil = none) :
    exec (.falseDetRelease ch) s = .next (freeLock ch (demDisc 6 (rxCount ch 7 (reach (l.at_ + releaseNs s ch l.profile) s)))) := by
  simp only [exec, execFalseDetRelease, hd, hs, hm]
  rfl

end

/-! ### Mode switch -/

section
variable {ch p : Nat} {phr : BitVec 16} {l : Lock} {s : State}

theorem exec_msPhrRx {msg : BitVec 11} {chk : BitVec 5} {d : Sfd} (hi : inFrame s ch = some (l, d))
    (ht : (profAt s.act l.profile).typ = 0) : exec (.msPhrRx ch msg chk) s = .next (msPhr ch l (chk ++ msg) s) := by
  simp only [exec, execMsPhrRx, hi, ht, if_true]

theorem msPhr_of_bad (h : msPhrOk phr = false) : msPhr ch l phr s = demDisc 0 (freeLock ch s) := by
  simp [msPhr, h]

theorem msPhr_of_unmapped (h : msPhrOk phr = true) (hp : msProfile s.act (msKey phr) = none) :
    msPhr ch l phr s = demDisc 3 (freeLock ch s) := by
  simp [msPhr, h, hp]

section
variable (h : msPhrOk phr = true) (hp : msProfile s.act (msKey phr) = some p)
include h hp

theorem msPhr_of_fsk (ht : (profAt s.act p).typ = 0) :
    msPhr ch l phr s = setLock ch ⟨p, l.rssiQ, s.time.tb, none, some (s.time.tb + 1_000_000), true⟩ s := by
  simp [msPhr, h, hp, ht, freshLock]

theorem msPhr_of_ofdm_uncovered (ht : (profAt s.act p).typ = 1) (hw : msWide s ch p = none) :
    msPhr ch l phr s = demDisc 3 (freeLock ch s) := by
  simp [msPhr, h, hp, ht, hw]

/-- The wideband demodulator that covers the new mode takes it where it is free. -/
theorem msPhr_of_ofdm {m : Nat} (ht : (profAt s.act p).typ = 1) (hw : msWide s ch p = some m) :
    msPhr ch l phr s = if (demodAt s (128 + m)).isSome then freeLock ch s
      else setLock (128 + m) ⟨p, l.rssiQ, s.time.tb, none, some (s.time.tb + 1_000_000), true⟩ (freeLock ch s) := by
  simp [msPhr, h, hp, ht, hw, freshLock]

theorem msPhr_of_unsupported (ht : 2 ≤ (profAt s.act p).typ) : msPhr ch l phr s = demDisc 3 (freeLock ch s) := by
  have h0 : (profAt s.act p).typ ≠ 0 := by omega
  have h1 : (profAt s.act p).typ ≠ 1 := by omega
  simp [msPhr, h, hp, h0, h1]

end

theorem exec_msTimeout {u : Nat} (hd : demodAt s ch = some l) (hm : l.msUntil = some u) :
    exec (.msTimeout ch) s = .next (freeLock ch (demDisc 4 (reach u s))) := by
  simp only [exec, execMsTimeout, hd, Option.bind_some, hm]

end

/-! ### The pool of codewords -/

/-- The pool and the decoded codewords of live frames once `x` has arrived. -/
def withArrived (x : List SoftCw) (s : State) : State := { s with rx := { s.rx with
  pool := (x.filter (fun c => elLive s c.ch c.frameAt)).foldl (fun l c => insCw c l) s.rx.pool
  cws := s.rx.cws.filter (fun c => elLive s c.ch c.frameAt) } }

/-- The first codeword `c` of the pool, decoded as `r`, leaves it and is counted. -/
def withDecoded (c : SoftCw) (r : CwResult) (rest : List SoftCw) (s : State) : State :=
  bumpN 0x7006C r.iters (bumpIf (!r.good) 0x70068 (bump 0x70064 { s with rx := { s.rx with
    pool := rest
    cws := s.rx.cws ++ [⟨c.ch, c.frameAt, c.index, r.bits, r.good, r.fixed⟩] } }))

section
variable {x : List SoftCw} {i j : Nat} {c : SoftCw} {rest : List SoftCw} {s : State}

theorem exec_ldpcCodewordDone : exec (.ldpcCodewordDone x i j) s = .next (
    if (withArrived x s).rx.pool.head?.map (fun c => (c.ch, c.index)) = some (i, j) then decodeNext (withArrived x s)
    else withArrived x s) := rfl

theorem decodeNext_of_unawaited (hp : s.rx.pool = c :: rest) (hl : elLive s c.ch c.frameAt = true)
    (hw : s.rx.elWait.find? (fun w => w.md.chSlot == c.ch && w.frameAt == c.frameAt) = none) :
    decodeNext s = withDecoded c (decodeWord (elMaxIt s) c.index c.info c.spread c.soft) rest s := by
  simp [decodeNext, hp, hl, hw, withDecoded]

/-- A frame whose last chip has come may end with its codeword (R192). -/
theorem decodeNext_of_awaited {w : ElWait} (hp : s.rx.pool = c :: rest) (hl : elLive s c.ch c.frameAt = true)
    (hw : s.rx.elWait.find? (fun w => w.md.chSlot == c.ch && w.frameAt == c.frameAt) = some w) :
    decodeNext s = elandEnd w (withDecoded c (decodeWord (elMaxIt s) c.index c.info c.spread c.soft) rest s) := by
  simp [decodeNext, hp, hl, hw, withDecoded]

end

/-- Settles O55, row by row. -/
theorem demodulatorLocks : Obligations.DemodulatorLocks := by
  refine ⟨fun ch c l s => ⟨demodAt_setLock_same, demodAt_setLock_of_ne, demodAt_freeLock_same, demodAt_freeLock_of_ne⟩,
    fun ch p r s hr => ⟨fun hd => ⟨fun q hf => ?found, exec_preambleDetect_of_unfound hr hd⟩,
      fun l hd hm => exec_preambleDetect_of_locked hr hd hm, fun l u hd hm => ?awaited⟩,
    fun ch p q r mean s hr hf => ?second, fun ch tick fec r1 r2 l s hr hd hs hm => ?sfd,
    fun ch r1 r2 s => ⟨diversity_of_first_deaf, diversity_of_second_deaf, fun k ha hb hk => ?diversity⟩,
    fun ch l s hd hs hm => exec_falseDetRelease hd hs hm, fun ch msg chk phr l d s hphr hi ht => ?modeSwitch,
    fun ch u l s hd hm => exec_msTimeout hd hm, fun x pool cws s hpool hcws => ?pool⟩
  case found => exact ⟨(finds_spec hf).1, (finds_spec hf).2, exec_preambleDetect_of_found hr hd hf⟩
  case awaited =>
    rw [exec_preambleDetect_of_awaited hr hd hm]
    refine ⟨fun hsame htime => by rw [if_pos ⟨hsame, htime⟩], fun hnot => ?_⟩
    rw [if_neg]
    rintro ⟨hsame, htime⟩
    rcases hnot with hother | hlate
    · exact absurd hsame (by simp [hother])
    · exact absurd htime (Nat.not_le.mpr hlate)
  case second =>
    extract_lets new pre cap
    refine ⟨exec_secondPreambleDetect_of_free hr hf, fun l hd => ⟨fun hs hle => ?stronger, fun hs hlt => ?weaker,
      fun hs hcap hle => ?captures, fun hs hnot => ?spared⟩⟩
    case stronger => rw [exec_secondPreambleDetect_of_preSfd hr hf hd hs, if_pos hle]
    case weaker => rw [exec_secondPreambleDetect_of_preSfd hr hf hd hs, if_neg (Int.not_le.mpr hlt)]
    case captures => rw [exec_secondPreambleDetect_of_frame hr hf hd hs, if_pos ⟨Int.ofNat_ne_zero.mp hcap, hle⟩]
    case spared =>
      rw [exec_secondPreambleDetect_of_frame hr hf hd hs, if_neg]
      rintro ⟨hne, hle⟩
      rcases hnot with hzero | hlt
      · exact hne (Int.ofNat_eq_zero.mp hzero)
      · exact Int.not_le.mpr hlt hle
  case sfd => exact ⟨_, exec_sfdDetect hr hd hs hm, demodAt_setLock_same, rfl, rfl, rfl, rfl, rfl, rfl, rfl⟩
  case diversity =>
    rw [diversity_of_both ha hb hk]
    exact ⟨fun h0 => by simp [h0], fun h1 => by simp [h1], fun h2 => by simp [h2]⟩
  case modeSwitch =>
    rw [exec_msPhrRx hi ht, ← hphr]
    refine ⟨fun h => by rw [msPhr_of_bad h], fun h hp => by rw [msPhr_of_unmapped h hp], fun p h hp =>
      ⟨fun h0 => by rw [msPhr_of_fsk h hp h0], fun h1 hw => by rw [msPhr_of_ofdm_uncovered h hp h1 hw],
        fun m h1 hw => ?ofdm, fun h2 => by rw [msPhr_of_unsupported h hp h2]⟩⟩
    rw [msPhr_of_ofdm h hp h1 hw]
    exact ⟨fun hfree => by simp [hfree], fun hbusy => by rw [if_pos hbusy]⟩
  case pool =>
    subst hpool hcws
    refine ⟨fun i j hne => ?_, fun c rest r t hpool hlive hr ht => ?_⟩
    · rw [exec_ldpcCodewordDone]
      exact congrArg _ (if_neg hne)
    · have hfirst : (withArrived x s).rx.pool.head?.map (fun c => (c.ch, c.index)) = some (c.ch, c.index) :=
        congrArg (fun l : List SoftCw => l.head?.map (fun c => (c.ch, c.index))) hpool
      subst hr ht
      rw [exec_ldpcCodewordDone, if_pos hfirst]
      exact ⟨fun hw => congrArg _ (decodeNext_of_unawaited hpool hlive hw),
        fun w hw => congrArg _ (decodeNext_of_awaited hpool hlive hw)⟩

end Sys2Proof.Machine
end

section
/-! THEOREMS. `RF_CALIBRATE`, calibration runs and background trim (R97, R99, R101, R102). -/
namespace Sys2Proof.Machine

/-! ### What the command reads is what it was before its admission -/

section
variable {r : CmdRef} {op need n : Nat} {c : HostCmd} {s : State}

@[simp] theorem admitCmd_calBusy (p t0 : Nat) : calBusy (admitCmd r op need n c s) p t0 = calBusy s p t0 :=
  admitCmd_keeps (fun s => calBusy s p t0)

@[simp] theorem admitCmd_needsTime (a : Nat) : needsTime (admitCmd r op need n c s) a = needsTime s a :=
  admitCmd_keeps (fun s => needsTime s a)

@[simp] theorem admitCmd_asnNow : asnNow (admitCmd r op need n c s) = asnNow s := admitCmd_keeps asnNow

end

/-! ### `RF_CALIBRATE` -/

/-- A run of a port, or of the SPLL, pends for ASN `n`. -/
def withCalPend (r : CmdRef) (port n : Nat) (s : State) : State :=
  if port = 6 then withRf (fun x => { x with spllPend := some (r, n) }) s
  else modPort port (fun y => { y with calPend := some (r, n) }) s

section
variable {r : CmdRef} {port : Nat} {s : State}

theorem exec_rfCalibrate (h : goes s r 0x0202 1 = true) :
    exec (.rfCalibrate r port) s = .next (doRfCalibrate r port (admitCmd r 0x0202 1 0 (.rfCalibrate port) s)) :=
  congrArg Host.Outcome.next (runCmd_goes _ _ _ h)

theorem doRfCalibrate_of_bad (hp : 6 < port) : doRfCalibrate r port s = refuse r stBad 4 0x000B s := by
  simp [doRfCalibrate, checked, hp]

theorem doRfCalibrate_of_ok {n : Nat} (hn : n = if r.asn = 0 then asnNow s else r.asn) (hp : port ≤ 6)
    (hb : calBusy s port (if r.asn = 0 then s.time.tb else s.time.at_ r.asn) = false) (hl : port = 6 ∨ s.rf.spll = .locked)
    (ht : needsTime s r.asn = false) :
    doRfCalibrate r port s = if r.asn = 0 then calStart port n (withCalPend r port n s) else withCalPend r port n s := by
  have hlock : (port != 6 && s.rf.spll != .locked) = false := by
    rcases hl with hl | hl <;> simp [hl]
  subst hn
  simp only [doRfCalibrate, checked, decide_eq_false (Nat.not_lt.mpr hp), hb, hlock, ht, Bool.false_eq_true, if_false]
  rfl

end

/-! ### A run starts -/

section
variable {p now n : Nat} {r : CmdRef} {s : State}

theorem exec_calibrateStart (h : coreRuns s = true) : exec (.calibrateStart p) s = .next (calStart p (nowFor s) s) :=
  congrArg Host.Outcome.next (coreOnly_of_runs h _)

/-- A due run of a receive port: the port is in CAL from now, and transmissions that ramp on it are held. -/
theorem calStart_of_due (hp : p < 4) (hr : (portOf s p).calPend = some (r, n)) (hn : n ≤ now) (hl : s.rf.spll = .locked)
    (hq : (portOf s (partner p)).calRun = none) (ha : onAir (portOf s p) = []) :
    calStart p now s = dropUnheard { s with
      rf := { s.rf with ports := modAt p (fun y => { y with
        calPend := none, st := .cal, trans := none, linger := none, femUntil := none, calRun := some (some r, s.time.tb) }) s.rf.ports }
      tx := { s.tx with
        txs := s.tx.txs.map (fun t => if t.port = p ∧ t.phase = .ramping then { t with phase := .held } else t) } } := by
  have h6 : p ≠ 6 := by omega
  have hin : isOut p = false := decide_eq_false (Nat.not_le.mpr hp)
  simp [calStart, h6, hr, Nat.not_lt.mpr hn, hl, hq, ha, hin, modPort]

/-- A due run of an SPLL that is not locked: BAND, and the samples of every port stop. -/
theorem calStart_spll_of_due (hr : s.rf.spllPend = some (r, n)) (hn : n ≤ now) (hl : s.rf.spll ≠ .locked) :
    calStart 6 now s = { s with rf := { s.rf with
      spll := .band, spllPend := none, spllRun := some (r, s.time.tb), spllAt := s.time.tb + 4_800_000, spllFrom := s.time.tb,
      ports := s.rf.ports.map haltIn } } := by
  simp only [calStart, if_true, hr, Nat.not_lt.mpr hn, if_false, hl, withRf]

end

/-! ### A run ends -/

section
variable {r : CmdRef} {t0 : Nat} {s : State}

theorem exec_calRunDone_spll_good (h : s.rf.spllRun = some (r, t0)) :
    exec (.calRunDone 6 true) s = .next (done r (calResult 6 2 true t0 (spllLocked
      (withRf (fun x => { x with spllRun := none }) (reach (t0 + 6_000_000) s))))) := by
  change execCalRunDone 6 true s = _
  simp only [execCalRunDone, h, if_true]

theorem exec_calRunDone_spll_failed {t : State} (h : s.rf.spllRun = some (r, t0)) (ht : t = reach (t0 + 6_000_000) s) :
    exec (.calRunDone 6 false) s = .next (complete r stCalFail 4 6 0 (calResult 6 2 false t0 (withRf (fun x => { x with
      spllRun := none, spll := if x.refOk then .locking else .unlocked, attempts := 0, spllAt := t.time.tb + 2_000_000,
      spllFrom := t.time.tb }) t))) := by
  change execCalRunDone 6 false s = _
  subst ht
  simp only [execCalRunDone, h, if_true]
  rfl

/-- A port after its run of 25 ms: in IDLE on its way to its commanded state, with the result journaled and raised. -/
def afterRun (p : Nat) (ok : Bool) (t0 : Nat) (s : State) : State :=
  portGo p (calResult p 1 ok t0 (modPort p (fun y => { y with
    calRun := none, st := .idle, femRow := if isOut p then 2 else y.femRow, failed := y.failed && !ok,
    tempDelta := if ok then 0 else y.tempDelta, advised := y.advised && !ok }) (reach (t0 + 25_000_000) s)))

section
variable {p : Nat} {ok : Bool} (hp : p < 6)
include hp

/-- The run that a command asked for answers it. -/
theorem exec_calRunDone_of_command (h : (portOf s p).calRun = some (some r, t0)) :
    exec (.calRunDone p ok) s = .next (if ok then done r (afterRun p ok t0 s)
      else complete r stCalFail 4 p 0 (afterRun p ok t0 s)) := by
  change execCalRunDone p ok s = _
  simp only [execCalRunDone, if_neg (Nat.ne_of_lt hp), h, afterRun]

theorem exec_calRunDone_of_startUp (h : (portOf s p).calRun = some (none, t0)) :
    exec (.calRunDone p ok) s = .next (afterRun p ok t0 s) := by
  change execCalRunDone p ok s = _
  simp only [execCalRunDone, if_neg (Nat.ne_of_lt hp), h, afterRun]

end

/-! ### Background trim -/

section
variable {p d : Nat} (hup : s.up = true) (hp : p < 6)
include hup hp

theorem exec_bgtrimStep_of_cool (hd : d ≤ 25) :
    exec (.bgtrimStep p d) s = .next (modPort p (fun y => { y with trims := y.trims + b2n (trimOn s p), tempDelta := d }) s) := by
  have hadv : decide (25 < d) = false := decide_eq_false (Nat.not_lt.mpr hd)
  have hmin : min 255 d = d := by omega
  change execBgtrimStep p d s = _
  simp [execBgtrimStep, hup, Nat.not_lt.mpr (Nat.le_of_lt_succ hp), hadv, hmin, eventIf]

/-- Above 25 °C the first step advises a calibration. -/
theorem exec_bgtrimStep_of_warm (hd : 25 < d) (hmax : d ≤ 255) (ha : (portOf s p).advised = false) :
    exec (.bgtrimStep p d) s = .next (event 0x0105 [p, d] (modPort p (fun y => { y with
      trims := y.trims + b2n (trimOn s p), tempDelta := d, advised := true }) s)) := by
  have hmin : min 255 d = d := by omega
  change execBgtrimStep p d s = _
  simp [execBgtrimStep, hup, Nat.not_lt.mpr (Nat.le_of_lt_succ hp), hd, hmin, ha, eventIf]

end

end

/-- Settles O23, row by row. -/
theorem portCalibration : Obligations.PortCalibration := by
  refine ⟨fun r port s hg hp hb hl ht => ?admitted, fun r port s hg hp => ?noSuchPort,
    fun p r n s h hp hr hn hl hq ha => ?portStarts, fun r n s h hr hn hl => ?spllStarts,
    fun r t0 s => exec_calRunDone_spll_good, fun r t0 s h => exec_calRunDone_spll_failed h rfl,
    fun p ok ref t0 s hp h => ?portDone, fun p d s => exec_bgtrimStep_of_cool, fun p d s => exec_bgtrimStep_of_warm⟩
  case admitted =>
    rw [exec_rfCalibrate hg, doRfCalibrate_of_ok rfl hp (by simpa using hb) (by simpa using hl) (by simpa using ht),
      admitCmd_asnNow]
    rfl
  case noSuchPort => rw [exec_rfCalibrate hg, doRfCalibrate_of_bad hp]
  case portStarts =>
    refine ⟨_, exec_calibrateStart h, ?_⟩
    rw [calStart_of_due hp hr hn hl hq ha]
    exact ⟨rfl, rfl, rfl, rfl⟩
  case spllStarts => rw [exec_calibrateStart h, calStart_spll_of_due hr hn hl]
  case portDone =>
    cases ref with
    | none => exact exec_calRunDone_of_startUp hp h
    | some r =>
      rw [exec_calRunDone_of_command hp h]
      cases ok <;> rfl

end Sys2Proof.Machine
end

section
/-! THEOREMS. The reference input and the sample clock (R89 to R92, R481). -/
namespace Sys2Proof.Machine

/-- An error of a subsystem that serves, with room in the FIFO and no escalation, is recorded there and counted. -/
theorem raiseErr_of_room {code cls unit sub place detail lost : Nat} {s : State} (hoff : s.offline unit = false)
    (hb : s.err.busy = false) (hroom : s.err.fifo.length < 60) (hc : cls ≠ 0) :
    ∃ w e n, raiseErr code cls unit sub place detail lost s = { s with
      cnt := w, err := { s.err with eseq := n, fifo := s.err.fifo ++ [e] } } ∧ e.code = code ∧ e.cls = cls := by
  have hfull : ¬ 60 ≤ s.err.fifo.length := by omega
  have hover : ¬ 64 ≤ s.err.fifo.length := by omega
  simp only [raiseErr, hoff, hb, Bool.false_and, Bool.false_eq_true, if_false, hc, decide_eq_true_eq, hfull, and_false, hover]
  exact ⟨_, _, _, rfl, rfl, rfl⟩

/-! ### The reference input -/

section
variable {s : State} (hup : s.up = true)
include hup

theorem exec_refLost (hr : s.rf.refOk = true) {u : State} (hu : u = raiseErr 0x0401 1 1 0 0 0 0 (event 0x0101 []
      (journal (.clock 2) { s with
        rf := { s.rf with refOk := false, refLostAt := some s.time.tb }, cnt := cntBump 0x20104 16 16 1 s.cnt }))) :
    exec .refLost s = .next (if u.rf.spll = .locked then spllLeave .unlocked u
      else { u with rf := { u.rf with spll := if u.rf.spll = .off ∨ u.rf.spllRun.isSome then u.rf.spll else .unlocked } }) := by
  change execRefLost s = _
  simp only [execRefLost, hup, hr, hu]
  rfl

/-- REF_IN is good again: an SPLL in UNLOCKED starts LOCKING. -/
theorem exec_refGood_of_unlocked (hr : s.rf.refOk = false) (hs : s.rf.spll = .unlocked) :
    exec .refGood s = .next (journal (.clock 3) { s with rf := { s.rf with
      refOk := true, refLostAt := none, spll := .locking, attempts := 0, spllAt := s.time.tb + 2_000_000,
      spllFrom := s.time.tb } }) := by
  change execRefGood s = _
  simp only [execRefGood, hup, hr, withRf, hs]
  rfl

theorem exec_refGood_of_other (hr : s.rf.refOk = false) (hs : s.rf.spll ≠ .unlocked) :
    exec .refGood s = .next (journal (.clock 3) { s with rf := { s.rf with refOk := true, refLostAt := none } }) := by
  change execRefGood s = _
  simp only [execRefGood, hup, hr, withRf, hs, if_false]
  rfl

theorem exec_refRecoveryTimeout {t0 : Nat} (ht : s.rf.refLostAt = some t0) :
    exec .refRecoveryTimeout s = .next (raiseErr 0x0402 3 14 0 0 0 0
      (withRf (fun r => { r with refLostAt := none }) (reach (t0 + 1_000_000_000) s))) := by
  change execRefRecoveryTimeout s = _
  simp only [execRefRecoveryTimeout, ht, hup, if_true]

/-! ### The SPLL -/

theorem exec_spllUnlock (hs : s.rf.spll = .locked) :
    exec .spllUnlock s = .next (if s.rf.refOk then raiseErr 0x0403 1 1 0 0 0 0 (spllLeave .locking s)
      else spllLeave .unlocked s) := by
  change execSpllUnlock s = _
  simp only [execSpllUnlock, hup, hs]
  rfl

section
variable (hs : s.rf.spll = .locking ∨ s.rf.spll = .band) (hr : s.rf.spllRun = none)
include hs hr

theorem exec_spllLock (href : s.rf.refOk = true) :
    exec .spllLock s = .next (returnPorts (event 0x0103 [] (journal (.clock 0) { s with rf := { s.rf with
      spll := .locked, attempts := 0, failed := false } }))) := by
  have ha : ((s.rf.spll == .locking || s.rf.spll == .band) && s.rf.spllRun.isNone && s.up && s.rf.refOk) = true := by
    rcases hs with hs | hs <;> simp [hs, hr, hup, href]
  exact congrArg Host.Outcome.next (if_pos ha)

/-- The third attempt that ends without lock gives up; an earlier one is followed by another BAND. -/
theorem exec_spllLockTimeout :
    exec .spllLockTimeout s = .next (if 2 ≤ s.rf.attempts then spllGiveUp (reach (lockEnd s) s)
      else { reach (lockEnd s) s with rf := { s.rf with
        spll := .band
        attempts := s.rf.attempts + 1
        spllAt := max s.time.tb (lockEnd s) + 4_800_000 } }) := by
  have ha : ((s.rf.spll == .locking || s.rf.spll == .band) && s.rf.spllRun.isNone && s.up) = true := by
    rcases hs with hs | hs <;> simp [hs, hr, hup]
  change execSpllLockTimeout s = _
  simp only [execSpllLockTimeout, ha]
  rfl

end

end

theorem lockEnd_of_locking {s : State} (hs : s.rf.spll = .locking) : lockEnd s = s.rf.spllAt := by simp [lockEnd, hs]

theorem lockEnd_of_band {s : State} (hs : s.rf.spll = .band) : lockEnd s = s.rf.spllAt + 2_000_000 := by simp [lockEnd, hs]

/-- Settles O24, row by row. -/
theorem sampleClock : Obligations.SampleClock := by
  refine ⟨fun s hup hr => ⟨fun hs => ?leaves, fun hs => ?stays⟩, fun s hup hr hs hrun hoff hb hroom => ?lost,
    fun s => exec_refGood_of_unlocked, fun s => exec_refGood_of_other, fun t0 s hup => exec_refRecoveryTimeout hup,
    fun s hup hs hr => ?relocks, fun s hup hs hr => ?unlocks, fun s => exec_spllLock,
    fun s hup hs hrun ha => ?fromLocking, fun s hup hs hrun ha => ?fromBand, fun s hup hs hrun ha => ?givesUp⟩
  case leaves => rw [exec_refLost hup hr rfl, if_pos hs]
  case stays => rw [exec_refLost hup hr rfl, if_neg hs]
  case lost =>
    obtain ⟨w, e, n, hu, hcode, hcls⟩ := raiseErr_of_room (code := 0x0401) (cls := 1) (unit := 1) (sub := 0) (place := 0)
      (detail := 0) (lost := 0) (s := event 0x0101 [] (journal (.clock 2) { s with
        rf := { s.rf with refOk := false, refLostAt := some s.time.tb }, cnt := cntBump 0x20104 16 16 1 s.cnt }))
      hoff hb hroom Nat.one_ne_zero
    rw [exec_refLost hup hr hu.symm, if_neg (by simp [hs])]
    refine ⟨_, rfl, ?_, rfl, rfl, ⟨e, rfl, hcode, hcls⟩, rfl, rfl, rfl⟩
    simp [hs, hrun]
  case relocks => rw [exec_spllUnlock hup hs, if_pos hr]
  case unlocks => rw [exec_spllUnlock hup hs, hr, if_neg (by decide)]
  case fromLocking =>
    rw [exec_spllLockTimeout hup (.inl hs) hrun, if_neg (Nat.not_le.mpr ha), lockEnd_of_locking hs]
    exact ⟨_, rfl, rfl, rfl, rfl, rfl, rfl⟩
  case fromBand =>
    rw [exec_spllLockTimeout hup (.inr hs) hrun, if_neg (Nat.not_le.mpr ha), lockEnd_of_band hs]
    exact ⟨_, rfl, rfl, rfl, rfl, rfl, rfl⟩
  case givesUp => rw [exec_spllLockTimeout hup hs hrun, if_pos ha]

end Sys2Proof.Machine
end

section
/-! THEOREMS. DEAF channel slots, clipping ports and the coexistence fault (R107 to R109, R113, R115). -/
namespace Sys2Proof.Machine

/-! ### DEAF channel slots -/

section
variable {ch id : Nat} {s : State}

theorem exec_channelDeafStart {t : Tx} (ht : txAt s id = some t) (hp : t.phase ≠ .ackWait)
    (hd : deafens s t.port t.freq ch = true) (hn : s.rf.deaf.any (fun d => d.ch == ch && d.id == id) = false) :
    exec (.channelDeafStart ch id) s = .next (loseLocks (fun d => d.ch == ch) 1
      { reach (t.start - deafPre s) s with
        rf := { s.rf with deaf := s.rf.deaf ++ [⟨ch, id, max s.time.tb (t.start - deafPre s), none⟩] } }) := by
  change execChannelDeafStart ch id s = _
  simp only [execChannelDeafStart, ht, beq_false_of_ne hp, hd, hn]
  rfl

theorem exec_channelDeafEnd_of_ended {d : DeafRec} {u : Nat}
    (hf : s.rf.deaf.find? (fun d => d.ch == ch && d.id == id) = some d) (hu : d.until_ = some u) :
    exec (.channelDeafEnd ch id) s = .next (deafClose (fun d => d.ch == ch && d.id == id) (reach u s)) := by
  change execChannelDeafEnd ch id s = _
  simp only [execChannelDeafEnd, hf, hu]

/-- A carrier that never started deafens no more at once. -/
theorem exec_channelDeafEnd_of_unsent {d : DeafRec}
    (hf : s.rf.deaf.find? (fun d => d.ch == ch && d.id == id) = some d) (hu : d.until_ = none) (ht : txAt s id = none) :
    exec (.channelDeafEnd ch id) s = .next (deafClose (fun d => d.ch == ch && d.id == id) s) := by
  change execChannelDeafEnd ch id s = _
  simp only [execChannelDeafEnd, hf, hu, ht]
  rfl

end

/-- The only DEAF record, taken out, counts its time in the summary of its pair. -/
theorem deafClose_of_only {gone : DeafRec → Bool} {d : DeafRec} {s : State} (h : s.rf.deaf = [d]) (hg : gone d = true) :
    deafClose gone s = { s with
      rf := { s.rf with deaf := [] }
      rx := modSums s d.ch (fun c => { c with deaf := (d.ch, s.time.tb - d.since) :: c.deaf }) s.rx } := by
  simp only [deafClose, h, List.filter_cons, hg, List.filter_nil]
  rfl

/-! ### Clipping -/

section
variable {p : Nat} {s : State}

theorem exec_clipDetect (hp : p < 4) (hon : (portOf s p).st = .on) :
    exec (.clipDetect p) s = .next (
      bumpN (0x40040 + 4 * p) (s.rx.locks.filter (fun d => d.lock.sfd.any (fun x => x.port == p))).length
        (bumpIf (!(portOf s p).clipping) (0x40030 + 4 * p)
          (loseLocks (fun d => d.lock.sfd.any (fun x => x.port == p)) 2 (modPort p (fun y => { y with
            clipping := true, clipUntil := s.time.tb + 1000 * s.regF 0x4001C 31 24 }) s)))) := by
  have hrx : (decide (4 ≤ p) || (portOf s p).st != .on) = false := by
    rw [decide_eq_false (Nat.not_le.mpr hp), hon]
    rfl
  change execClipDetect p s = _
  simp only [execClipDetect, hrx]
  rfl

theorem exec_clipHangExpire (hc : (portOf s p).clipping = true) :
    exec (.clipHangExpire p) s = .next (modPort p (fun y => { y with clipping := false }) (reach (portOf s p).clipUntil s)) :=
  congrArg Host.Outcome.next (if_pos hc)

end

/-! ### The coexistence fault -/

section
variable {s : State} (hup : s.up = true)
include hup

theorem exec_coexFault (he : coexEn s = true) (hg : s.rf.grant = true ∨ s.regB 0x50020 16 = false) :
    exec .coexFault s = .next (event 0x0106 []
      (({ reach (s.rf.denied.getD s.time.tb + 5_000_000_000) s with
          rf := { s.rf with grant := false, denied := some (s.rf.denied.getD s.time.tb) } }).setReg
        0x50020 (s.reg 0x50020 ||| 0x10000))) := by
  have hnew : (!s.rf.grant && s.regB 0x50020 16) = false := by
    rcases hg with hg | hg <;> simp [hg]
  change execCoexFault s = _
  simp only [execCoexFault, hup, he, hnew]
  rfl

theorem exec_coexClear {t0 : Nat} (hd : s.rf.denied = some t0) (hf : t0 + 5_000_000_000 ≤ s.time.tb) :
    exec .coexClear s = .next (event 0x0107 [] { s with rf := { s.rf with grant := true, denied := none } }) := by
  change execCoexClear s = _
  simp only [execCoexClear, hd, hup, hf]
  rfl

end

/-- Settles O25, row by row. -/
theorem deafClippingAndCoexistence : Obligations.DeafClippingAndCoexistence := by
  refine ⟨⟨fun ch id t s => exec_channelDeafStart, fun ch id u d s => exec_channelDeafEnd_of_ended,
    fun ch id d s hd hch hid hu ht => ?unsent, fun p s => exec_clipDetect, fun p s => exec_clipHangExpire⟩,
    fun s => exec_coexFault, fun t0 s hup => exec_coexClear hup⟩
  have hmine : (d.ch == ch && d.id == id) = true := by simp [hch, hid]
  have hf : s.rf.deaf.find? (fun d => d.ch == ch && d.id == id) = some d := by simp [hd, hch, hid]
  refine ⟨_, exec_channelDeafEnd_of_unsent hf hu ht, ?_⟩
  rw [deafClose_of_only hd hmine]
  exact ⟨rfl, rfl, rfl, rfl⟩

end Sys2Proof.Machine
end

section
/-! THEOREMS. The outcome of a transmission, the end of its carrier and its ACK window (R96, R104, R105, R111, R209, R210, R213,
R216, R227, R239). -/
namespace Sys2Proof.Machine

@[simp] theorem cellOut_tx (k asn sfh node : Nat) (s : State) : (cellOut k asn sfh node s).tx = s.tx := by
  rw [cellOut, eventIf_tx, bump_tx]

/-! ### Outcomes -/

section
variable {id o h : Nat} {t : Tx} {s : State}

theorem exec_txOutcome {oc ho : Nat} (hr : coreRuns s = true) (ht : txAt s id = some t)
    (hy : (oc, ho) = t.yield.getD (min o 4, min h 100)) :
    exec (.txOutcome id o h) s = .next (outcomeIn t oc ho (journal (.txout t.port oc ho t.entry t.asn t.sfh t.node) s)) := by
  change execTxOutcome id o h s = _
  simp only [execTxOutcome, coreOnly_of_runs hr, ht, ← hy]

/-- INTERRUPTED of a frame is an attempt without ACK, whose airtime stays. -/
theorem outcomeIn_of_interrupted (hk : t.kind ≠ .ack) : outcomeIn t 3 h s = noAck true t (keepCharge t.id s) := by
  rw [outcomeIn, if_pos rfl, if_neg hk]

theorem outcomeIn_of_interruptedAck (hk : t.kind = .ack) : outcomeIn t 3 h s = dropTx t.id s := by
  rw [outcomeIn, if_pos rfl, if_pos hk]

section
variable (hair : t.phase ≠ .onAir) (hwait : t.phase ≠ .ackWait)
include hair hwait

/-- SENT, of a transmission that answers no uplink: it is on air, and its airtime is kept. -/
theorem outcomeIn_of_sent (hs : t.sync = none) : outcomeIn t 0 h s = { s with tx := { s.tx with
    txs := s.tx.txs.map (fun x => if x.id = t.id then { x with phase := .onAir, yield := none, late := 1000 * h } else x)
    charges := s.tx.charges.map (fun c => if c.id = t.id then { c with kept := true } else c)
    air := s.tx.air ++ [⟨t.port, t.freq, t.start + 1000 * h, t.start + 1000 * h + t.airtime⟩] } } := by
  simp only [outcomeIn, hair, hwait, or_self, if_false, if_true, ackSync, hs]
  rfl

/-- An attempt that never was on air ends, and its airtime is released. -/
theorem outcomeIn_of_skipped (h0 : o ≠ 0) (h3 : o ≠ 3) (hf : t.frame = none) :
    outcomeIn t o h s = sweepTombs (cellOut (skipOf t o) t.asn t.sfh t.node (dropCharge t.id (dropTx t.id s))) := by
  simp only [outcomeIn, h3, hair, hwait, or_self, h0, if_false, hf]

end

theorem skipOf_ack (hk : t.kind = .ack) : skipOf t o = 15 := if_pos hk

theorem skipOf_frame (hk : t.kind ≠ .ack) : skipOf t o = if o = 1 then 3 else if o = 2 then 4 else 5 := if_neg hk

end

/-! ### The end of a carrier -/

/-- The carrier of transmission `t` ends: its position is free 1 µs later, its DEAF records end POST later, and the port goes where
no other carrier keeps it. -/
def carrierEnd (id : Nat) (t : Tx) (s : State) : State :=
  portIdle t.port (max s.time.tb (t.onAt + t.airtime)) (withRf (fun r => { r with
    deaf := r.deaf.map (fun d => if d.id = id then { d with until_ := some (max s.time.tb (t.onAt + t.airtime) + deafPost s) } else d) })
    (modPort t.port (fun y => { y with
      carriers := y.carriers.map (fun c => if c.id = id then { c with until_ := some (max s.time.tb (t.onAt + t.airtime) + 1000) } else c) })
      (reach (t.onAt + t.airtime) s)))

theorem carrierEnd_eq (id : Nat) (t : Tx) (s : State) : ∃ r, carrierEnd id t s = { reach (t.onAt + t.airtime) s with rf := r } := by
  unfold carrierEnd
  exact portIdle_eq _ _ _

section
variable {id : Nat} {t : Tx} {s : State} (h : coreRuns s = true) (ht : txAt s id = some t) (hp : t.phase = .onAir) (hy : t.yield = none)
include h ht hp hy

theorem exec_txFrameEnd_of_ack (hk : t.kind = .ack) : exec (.txFrameEnd id) s = .next (dropTx id (carrierEnd id t s)) := by
  change execTxFrameEnd id s = _
  simp only [execTxFrameEnd, coreOnly_of_runs h, ht, hp, hy, hk]
  rfl

/-- A BULK frame and a beacon are done with their carrier. -/
theorem exec_txFrameEnd_of_unacked {w : State} (hk : t.kind = .bulk ∨ t.kind = .beacon)
    (hw : w = cellOut 2 t.asn t.sfh t.node (dropTx id (carrierEnd id t s))) :
    exec (.txFrameEnd id) s = .next (sweepTombs (t.frame.elim w (fun f => frameDone f stOk w))) := by
  change execTxFrameEnd id s = _
  subst hw
  rcases hk with hk | hk <;>
  · simp only [execTxFrameEnd, coreOnly_of_runs h, ht, hp, hy, hk]
    cases t.frame <;> rfl

section
variable (hk : t.kind = .unicast ∨ t.kind = .shared)
include hk

theorem exec_txFrameEnd_of_ackReq (ha : t.ackReq = true) :
    exec (.txFrameEnd id) s = .next (modTx id (fun x => { x with phase := .ackWait }) (carrierEnd id t s)) := by
  change execTxFrameEnd id s = _
  rcases hk with hk | hk <;>
  · simp only [execTxFrameEnd, coreOnly_of_runs h, ht, hp, hy, hk, ha]
    rfl

theorem exec_txFrameEnd_of_noAckReq {w : State} (ha : t.ackReq = false)
    (hw : w = cellOut 19 t.asn t.sfh t.node (dropTx id (carrierEnd id t s))) :
    exec (.txFrameEnd id) s = .next (sweepTombs (t.frame.elim w (fun f => frameDone f stOk w))) := by
  change execTxFrameEnd id s = _
  subst hw
  rcases hk with hk | hk <;>
  · simp only [execTxFrameEnd, coreOnly_of_runs h, ht, hp, hy, hk, ha]
    cases t.frame <;> rfl

end

end

/-! ### The ACK window -/

section
variable {id f : Nat} {t : Tx} {g : Frame} {s : State}

theorem exec_ackWindowClose (h : coreRuns s = true) (ht : txAt s id = some t) (hp : t.phase = .ackWait) :
    exec (.ackWindowClose id) s = .next (noAck false t (reach (ackClose s t) s)) := by
  change execAckWindowClose id s = _
  simp only [execAckWindowClose, coreOnly_of_runs h, ht, hp, if_true]

theorem exec_ackWindowClose_of_other (ht : txAt s id = some t) (hp : t.phase ≠ .ackWait) :
    exec (.ackWindowClose id) s = .next s := by
  change execAckWindowClose id s = _
  simp only [execAckWindowClose, ht, hp, if_false, coreOnly_self]

theorem noAck_of_frame {i : Bool} (hf : t.frame = some f) : noAck i t s = sweepTombs (retryFrame f
    (herdItemIf (unicastTx t && !excused s t i) (.attempt t.node t.chIdx false) (cellOut 1 t.asn t.sfh t.node (dropTx t.id s)))) := by
  simp only [noAck, hf]

theorem retryFrame_of_left (hg : frameAt s f = some g) (hl : g.retries < s.regF 0x90000 3 0) :
    retryFrame f s = lastTry f stNoRoute
      { s with tx := { s.tx with frames := s.tx.frames.map (fun x => if x.id = f then { x with retries := x.retries + 1 } else x) } } := by
  simp only [retryFrame, hg, hl, if_true]

theorem retryFrame_of_spent (hg : frameAt s f = some g) (hl : s.regF 0x90000 3 0 ≤ g.retries) :
    retryFrame f s = frameDone f stNoRoute s := by
  simp only [retryFrame, hg, Nat.not_lt.mpr hl, if_false]

end

/-! ### LINGER and FEM hold -/

section
variable {p a : Nat} {s : State}

/-- A port that is in OFF only forgets its LINGER. -/
theorem exec_txLingerExpire_of_off (hl : (portOf s p).linger = some a) (hst : (portOf s p).st = .off) :
    exec (.txLingerExpire p) s = .next (modPort p (fun y => { y with linger := none }) s) := by
  have hstay : (!(onAir (portOf (reach a s) p)).isEmpty || (portOf (reach a s) p).st != .on || (portOf (reach a s) p).trans.isSome) =
      true := by
    have hr : (portOf (reach a s) p).st = .off := hst
    simp [hr]
  change execTxLingerExpire p s = _
  simp only [execTxLingerExpire, hl, hstay, if_true]

/-- A port in TX with no carrier on air leaves it, and its FEM lines follow after FEMHOLD. -/
theorem exec_txLingerExpire_of_idle (hl : (portOf s p).linger = some a) (hst : (portOf s p).st = .on)
    (htr : (portOf s p).trans = none) (hair : onAir (portOf s p) = []) :
    exec (.txLingerExpire p) s = .next (modPort p (fun y => { startHop true (max s.time.tb a) (leaveTo s p) y with
      linger := none
      femUntil := some (max s.time.tb a + femHoldNs s p) }) (reach a s)) := by
  have hgo : (!(onAir (portOf (reach a s) p)).isEmpty || (portOf (reach a s) p).st != .on || (portOf (reach a s) p).trans.isSome) =
      false := by
    have hr : portOf (reach a s) p = portOf s p := rfl
    simp [hr, hair, hst, htr]
  change execTxLingerExpire p s = _
  simp only [execTxLingerExpire, hl, hgo]
  rfl

theorem exec_femHoldExpire (hf : (portOf s p).femUntil = some a) :
    exec (.femHoldExpire p) s = .next (coexSettle (modPort p (fun y => { y with
      femUntil := none
      femRow := femRowOf (match y.trans with | some h => h.1 | none => y.st) }) (reach a s))) := by
  change execFemHoldExpire p s = _
  simp only [execFemHoldExpire, hf] <;> rfl

end

/-- Settles O54, row by row. -/
theorem transmitEnd : Obligations.TransmitEnd := by
  refine ⟨fun id o h oc ho t s => exec_txOutcome, fun t h s hair hwait hs => ?sent, fun t h s => outcomeIn_of_interrupted,
    fun t h s => outcomeIn_of_interruptedAck, fun t h o k s hair hwait hf hk => ?skipped, fun id t s h ht hp hy => ?ends,
    fun id t s => exec_ackWindowClose, fun i t f s hf => ?noAck, fun f g s hg => ⟨retryFrame_of_left hg, retryFrame_of_spent hg⟩,
    fun id t s => exec_ackWindowClose_of_other, fun p a s => exec_txLingerExpire_of_off, fun p a s => exec_txLingerExpire_of_idle,
    fun p a s => exec_femHoldExpire⟩
  case sent => exact ⟨_, outcomeIn_of_sent hair hwait hs, rfl, rfl, rfl, rfl, rfl, rfl, rfl⟩
  case skipped =>
    rcases hk with ⟨hkind, hk⟩ | ⟨hkind, rfl, ho⟩
    · simp only [Prod.mk.injEq] at hk
      rw [outcomeIn_of_skipped hair hwait (by omega) (by omega) hf, skipOf_frame hkind]
      rcases hk with ⟨rfl, rfl⟩ | ⟨rfl, rfl⟩ | ⟨rfl, rfl⟩ <;> rfl
    · rw [outcomeIn_of_skipped hair hwait (by omega) (by omega) hf, skipOf_ack hkind]
  case ends =>
    obtain ⟨r, hv⟩ := carrierEnd_eq id t s
    refine ⟨carrierEnd id t s, rfl, by rw [hv]; rfl, by rw [hv]; rfl, by rw [hv]; rfl, by rw [hv]; rfl,
      exec_txFrameEnd_of_ackReq h ht hp hy, fun hk ha f hf => ?noAckReq, fun hk hf => ?bare, fun hk f hf => ?unacked,
      exec_txFrameEnd_of_ack h ht hp hy⟩
    case noAckReq => rw [exec_txFrameEnd_of_noAckReq h ht hp hy hk ha rfl, hf]; rfl
    case bare => rw [exec_txFrameEnd_of_unacked h ht hp hy hk rfl, hf]; rfl
    case unacked => rw [exec_txFrameEnd_of_unacked h ht hp hy hk rfl, hf]; rfl
  case noAck =>
    have htx := cellOut_tx 1 t.asn t.sfh t.node (dropTx t.id s)
    exact ⟨_, noAck_of_frame hf, rfl, congrArg TxSt.txs htx, (congrArg TxSt.frames htx).trans rfl⟩

end Sys2Proof.Machine
end

section
/-! THEOREMS. `RF_BANK_APPLY`: the checks, the pending snapshot and its activation (R137 to R140, R522). -/
namespace Sys2Proof.Machine

/-! ### What the command reads is what it was before its admission -/

section
variable {r : CmdRef} {op need n : Nat} {c : HostCmd} {s : State}

@[simp] theorem admitCmd_tooSoon (a : Nat) : tooSoon (admitCmd r op need n c s) a = tooSoon s a :=
  admitCmd_keeps (fun s => tooSoon s a)

@[simp] theorem admitCmd_namedAsn (a : Nat) : namedAsn (admitCmd r op need n c s) a = namedAsn s a :=
  admitCmd_keeps (fun s => namedAsn s a)

@[simp] theorem admitCmd_stagingNow : stagingNow (admitCmd r op need n c s) = stagingNow s := admitCmd_keeps stagingNow

end

/-! ### The command -/

section
variable {r : CmdRef} {s : State}

theorem exec_rfBankApply (h : goes s r 0x0203 1 = true) :
    exec (.rfBankApply r) s = .next (doBankApply r (admitCmd r 0x0203 1 0 .rfBankApply s)) :=
  congrArg Host.Outcome.next (runCmd_goes _ _ _ h)

theorem doBankApply_of_pending (ht : needsTime s r.asn = false) (hp : s.bank.apply.isSome = true) :
    doBankApply r s = refuse r stBusy 4 0 s := by
  simp [doBankApply, checked, ht, hp]

section
variable (ht : needsTime s r.asn = false) (hp : s.bank.apply = none) (ha : tooSoon s r.asn = false)
include ht hp ha

theorem doBankApply_of_failed {f : ApplyFail} (hf : checkSnapshot (snapGet (stagingNow s)) = some f) :
    doBankApply r s = complete r stBad (applyUnit f.typ) (applyErrOf f + applyDetOf f * 2 ^ 32) (0x100 + f.reason)
      { s with bank := { s.bank with applyErr := applyErrOf f, applyDet := applyDetOf f } } := by
  simp [doBankApply, checked, ht, hp, ha, hf]

theorem doBankApply_of_passed (hc : checkSnapshot (snapGet (stagingNow s)) = none) :
    doBankApply r s = pendApply r (namedAsn s r.asn) s := by
  simp [doBankApply, checked, ht, hp, ha, hc]

end

end

/-! ### Activation -/

/-- Counting lost frames takes no lock. -/
theorem foldl_sumCount_locks (s : State) (k : Nat) (l : List Demod) (r : RxSt) :
    (l.foldl (fun r d => sumCount s d.ch k 1 r) r).locks = r.locks := by
  induction l generalizing r with
  | nil => rfl
  | cons d l ih => exact ih (sumCount s d.ch k 1 r)

@[simp] theorem loseLocks_locks (hit : Demod → Bool) (k : Nat) (s : State) :
    (loseLocks hit k s).rx.locks = s.rx.locks.filter (fun d => !hit d) :=
  foldl_sumCount_locks s k _ _

theorem activate_locks (a : Apply) (s : State) :
    (activate a s).rx.locks = s.rx.locks.filter (fun d => !slotChanged s.act (snapGet a.snap) d.ch) :=
  loseLocks_locks (fun d => slotChanged s.act (snapGet a.snap) d.ch) 5 s

theorem exec_bankApplyActivate_of_due {a : Apply} {s : State} (h : coreRuns s = true) (ha : s.bank.apply = some a)
    (hn : a.asn ≤ nowFor s) : exec .bankApplyActivate s = .next (activate a s) := by
  change execBankApplyActivate s = _
  simp only [execBankApplyActivate, coreOnly_of_runs h, ha, if_pos hn]

/-- Settles O26, clause by clause. -/
theorem bankApply : Obligations.BankApply := by
  refine ⟨fun r s hg ht hp ha hc => ?passed, fun r f s hg ht hp ha hf => ?failed, fun r a s hg ht hp => ?pending,
    fun a s h ha hn => ⟨activate a s, exec_bankApplyActivate_of_due h ha hn, rfl, rfl, rfl, rfl, rfl, rfl, rfl, rfl,
      activate_locks a s⟩⟩
  case passed =>
    rw [exec_rfBankApply hg, doBankApply_of_passed (by simpa using ht) (by simpa using hp) (by simpa using ha) (by simpa using hc)]
    simp only [pendApply, admitCmd_namedAsn, admitCmd_stagingNow, admitCmd_regs, admitCmd_time]
  case failed =>
    rw [exec_rfBankApply hg,
      doBankApply_of_failed (by simpa using ht) (by simpa using hp) (by simpa using ha) (by simpa using hf), admitCmd_bank]
  case pending => rw [exec_rfBankApply hg, doBankApply_of_pending (by simpa using ht) (by simp [hp])]

end Sys2Proof.Machine
end

section
/-! SUPPORT. Checks that all pass, and lists in which one element was changed. -/
namespace Sys2Proof.Machine

/-- Checks that all pass let the effect happen. -/
theorem checked_of_pass {r : CmdRef} {l : List (Bool × Nat × Nat × Nat)} {s : State} (h : ∀ x ∈ l, x.1 = false) (f : State → State) :
    checked r l f s = f s := by
  simpa [checked] using checked_append (r := r) h [] f s

theorem getD_modAt_of_fixed {α : Type} {f : α → α} {d : α} (hf : f d = d) (i j : Nat) (l : List α) :
    (modAt i f l).getD j d = if j = i then f (l.getD j d) else l.getD j d := by
  simp only [List.getD_eq_getElem?_getD, getElem?_modAt]
  split
  · cases l[j]? with
    | none => exact hf.symm
    | some x => rfl
  · rfl

/-- Two changes that agree on the element they meet are one. -/
theorem modAt_congr {α : Type} {f g : α → α} {i : Nat} {l : List α} (h : ∀ x, l[i]? = some x → f x = g x) : modAt i f l = modAt i g l := by
  refine List.ext_getElem? fun j => ?_
  simp only [getElem?_modAt]
  split
  case isTrue hj => subst hj; exact Option.map_congr h
  case isFalse => rfl

end Sys2Proof.Machine
end

section
/-! THEOREMS. `SCHED_SLOTFRAME_SET` and its effect (R201, R202, R241, R295). -/
namespace Sys2Proof.Machine

/-! ### The command -/

section
variable {r : CmdRef} {a : SfArgs} {s : State}

@[simp] theorem admitCmd_sfCheck {r' : CmdRef} {op need n : Nat} {c : HostCmd} : sfCheck (admitCmd r' op need n c s) r a = sfCheck s r a :=
  admitCmd_keeps (fun s => sfCheck s r a)

@[simp] theorem admitCmd_sfAdmit {r' : CmdRef} {op need n : Nat} {c : HostCmd} : sfAdmit (admitCmd r' op need n c s) r a = sfAdmit s r a :=
  admitCmd_keeps (fun s => sfAdmit s r a)

theorem exec_schedSlotframeSet (h : goes s r 0x0301 1 = true) :
    exec (.schedSlotframeSet r a) s = .next (doSlotframeSet r a (admitCmd r 0x0301 1 0 (.schedSlotframeSet a) s)) :=
  congrArg Host.Outcome.next (runCmd_goes _ _ _ h)

/-- Where no condition of R202 holds, the handle's list of definitions changes, and a removal withdraws. -/
theorem exec_schedSlotframeSet_of_pass (hg : goes s r 0x0301 1 = true) (h : ∀ x ∈ sfCheck s r a, x.1 = false) :
    let t := { admitCmd r 0x0301 1 0 (.schedSlotframeSet a) s with sch := { s.sch with sf := modAt a.sfh (sfAdmit s r a) s.sch.sf } }
    exec (.schedSlotframeSet r a) s = .next (if a.en then t else withdraw (namedAsn s r.asn) (fun x => x.sfh == a.sfh) t) := by
  rw [exec_schedSlotframeSet hg, doSlotframeSet, checked_of_pass (by simpa using h)]
  simp only [admitCmd_sfAdmit, admitCmd_namedAsn, admitCmd_sch]

theorem doSlotframeSet_of_high (h : 63 < a.sfh) : doSlotframeSet r a s = refuse r stBad 5 0x000B s := by
  simp [doSlotframeSet, sfCheck, checked, h]

/-- A handle that is ACTIVE has no removal that an activation must follow. -/
theorem mustFollow_of_active {k : Nat} (h : sfState s k = 1) : mustFollow s k true = 0 := by
  unfold sfState at h
  unfold mustFollow
  cases hl : (sfUses s k).getLast? with
  | none => rfl
  | some u =>
    cases hu : u.rem with
    | none => simp [hu]
    | some m => simp [hl, hu] at h

theorem doSlotframeSet_of_active (he : a.en = true) (hk : a.sfh < 64) (hr : r.asn = 0) (h : sfState s a.sfh = 1) :
    doSlotframeSet r a s = refuse r stBadState 5 0 s := by
  simp [doSlotframeSet, sfCheck, checked, he, Nat.not_lt.mpr (Nat.le_of_lt_succ hk), hr, h, needsTime, tooSoon, mustFollow_of_active h]

section
variable (hl : s.time.loaded = true) (hn : asnNow s + 2 ≤ r.asn)
include hn

theorem namedAsn_of_ahead : namedAsn s r.asn = r.asn := if_neg (by omega)

theorem tooSoon_of_ahead : tooSoon s r.asn = false := by
  simp [tooSoon, hn]

include hl

/-- An activation of an INACTIVE handle passes every condition of R202. -/
theorem sfCheck_pass_of_inactive (he : a.en = true) (hk : a.sfh < 64) (hu : sfUses s a.sfh = []) (hh : herdForbids s a.sfh true = false)
    (hc : ctxZero s = true) (hp : poolErr s = false) (hf : sfFieldsBad s a r.asn = false) : ∀ x ∈ sfCheck s r a, x.1 = false := by
  have hkeep : mustFollow s a.sfh true = 0 := by simp [mustFollow, hu]
  have hst : sfState s a.sfh = 0 := by simp [sfState, hu]
  simp [sfCheck, he, Nat.le_of_lt_succ hk, needsTime, hl, tooSoon_of_ahead hn, namedAsn_of_ahead hn, hkeep, hst, hh, hc, hp, hf]

/-- A removal of an ACTIVE record that has begun passes every condition of R202. -/
theorem sfCheck_pass_of_begun {u : SfUse} (he : a.en = false) (hk : a.sfh < 64) (hu : sfUses s a.sfh = [u]) (hb : u.begun = true)
    (hr : u.rem = none) (hh : herdForbids s a.sfh false = false) : ∀ x ∈ sfCheck s r a, x.1 = false := by
  have hkeep : mustFollow s a.sfh false = 0 := by simp [mustFollow, hu, hb]
  have hst : sfState s a.sfh = 1 := by simp [sfState, hu, hr]
  simp [sfCheck, he, Nat.le_of_lt_succ hk, needsTime, hl, tooSoon_of_ahead hn, hkeep, hst, hh]

end

end

/-! ### The effect -/

section
variable {k now : Nat} {u : SfUse} {s : State}

/-- A handle in use is listed. -/
theorem getElem?_of_sfUses (h : sfUses s k = [u]) : s.sch.sf[k]? = some [u] := by
  rw [sfUses, List.getD_eq_getElem?_getD] at h
  cases hl : s.sch.sf[k]? with
  | none => simp [hl] at h
  | some l => simpa [hl] using h

theorem exec_slotframeSetEffect (h : coreRuns s = true) : exec (.slotframeSetEffect k) s = .next (sfEffect k (nowFor s) s) :=
  congrArg Host.Outcome.next (coreOnly_of_runs h _)

theorem sfEffect_of_begin (h : sfUses s k = [u]) (hb : u.begun = false) (ha : u.act ≤ now) (hr : u.rem = none) :
    sfEffect k now s = sfBegin k u s := by
  simp [sfEffect, h, hb, ha, hr]

theorem sfEffect_of_removal {n : Nat} (h : sfUses s k = [u]) (hb : u.begun = true) (hc : u.actRef = none) (ha : u.act ≤ now)
    (hr : u.rem = some n) (hn : n ≤ now) : sfEffect k now s = sfRemove k u s := by
  have hu : ({ u with begun := true, actRef := none } : SfUse) = u := by rw [← hb, ← hc]
  simp only [sfEffect, h, List.foldl_cons, List.foldl_nil, ha, decide_true, if_true, hu]
  simp [hb, hr, hn]

/-- What the end of Herd's downlink cells may touch. -/
theorem dlsfGone_eq (s : State) : ∃ q h w ns hd, dlsfGone s =
    { s with que := q, hif := h, cnt := w, tbl := { s.tbl with nodes := ns }, herd := hd } := by
  obtain ⟨q, h, w, ns, sx, e, -⟩ := closeSixps_spec s
  unfold dlsfGone
  rw [e]
  exact ⟨_, _, _, _, _, rfl⟩

theorem sweepTombs_dlsfGone_eq (c : Prop) [Decidable c] (s : State) : ∃ q h w ns hd, sweepTombs (if c then dlsfGone s else s) =
    { s with que := q, hif := h, cnt := w, tbl := { s.tbl with nodes := ns }, herd := hd } := by
  split
  · obtain ⟨q, h, w, ns, hd, e⟩ := dlsfGone_eq s
    rw [e]
    exact ⟨_, _, _, _, _, rfl⟩
  · exact ⟨_, _, _, _, _, rfl⟩

/-- A removal takes the definition and its region's words; beside them it touches the node entries, Herd's state, the rings, the
counters and the mark of a template change. -/
theorem sfRemove_eq (k : Nat) (u : SfUse) (s : State) : ∃ q h w ns hd td, sfRemove k u s =
    { s with
      que := q
      hif := h
      cnt := w
      tbl := { s.tbl with nodes := ns }
      herd := hd
      sch := { s.sch with
        sf := modAt k (fun l => l.erase u) s.sch.sf
        store := s.sch.store.filter (fun p => !u.rec_.has p.1)
        tmplDrop := td } } := by
  unfold sfRemove
  extract_lets ws _ t _ v w
  obtain ⟨q, h, c, ns, hd, e⟩ := sweepTombs_dlsfGone_eq (k = dlSf s) v
  change w = _ at e
  rw [e]
  split <;> exact ⟨_, _, _, _, _, _, rfl⟩

/-- Every word of a removed region reads 0, and every other word as before. -/
theorem storeGet_filter (st : List (Nat × Word)) (x : SfRec) (w : Nat) :
    storeGet (st.filter (fun p => !x.has p.1)) w = if x.has w = true then 0 else storeGet st w :=
  cellsGet_filter x.has 0 st w

end

/-- Settles O27, by the conditions of the command and by what a due definition does. -/
theorem slotframes : Obligations.Slotframes := by
  refine ⟨fun r a s => exec_schedSlotframeSet_of_pass, fun r a s hg he hk hu hl hn hh hc hp hf => ?activates,
    fun r a u s hg he hk hu hb hr hl hn hh => ?removes, fun r a s hg hk => ?high, fun r a s hg he hk _ hr hst => ?active,
    fun k r u s h hu hb ha hr hc => ?begins, fun k n u s h hu hb hc ha hr hn => ?ends⟩
  case activates =>
    rw [exec_schedSlotframeSet_of_pass hg (sfCheck_pass_of_inactive hl hn he hk hu hh hc hp hf), if_pos he]
    unfold sfAdmit
    simp only [he, if_true, namedAsn_of_ahead hn]
  case removes =>
    have hadmit : modAt a.sfh (sfAdmit s r a) s.sch.sf = modAt a.sfh (fun _ => [{ u with rem := some r.asn, remRef := some r }]) s.sch.sf := by
      refine modAt_congr fun l hl => ?_
      rw [getElem?_of_sfUses hu, Option.some.injEq] at hl
      subst hl
      simp [sfAdmit, he, namedAsn_of_ahead hn]
    rw [exec_schedSlotframeSet_of_pass hg (sfCheck_pass_of_begun hl hn he hk hu hb hr hh), hadmit, namedAsn_of_ahead hn, he]
    rfl
  case high => rw [exec_schedSlotframeSet hg, doSlotframeSet_of_high hk]
  case active =>
    rw [exec_schedSlotframeSet hg, doSlotframeSet_of_active he hk hr ((admitCmd_keeps (fun s => sfState s a.sfh)).trans hst)]
  case begins =>
    rw [exec_slotframeSetEffect h, sfEffect_of_begin hu hb ha hr]
    simp only [sfBegin, hc]
  case ends =>
    obtain ⟨q, hf, w, ns, hd, td, e⟩ := sfRemove_eq k u s
    have huses : ∀ j, sfUses (sfRemove k u s) j = if j = k then (sfUses s j).erase u else sfUses s j := by
      intro j
      rw [e]
      exact getD_modAt_of_fixed rfl k j s.sch.sf
    refine ⟨sfRemove k u s, by rw [exec_slotframeSetEffect h, sfEffect_of_removal hu hb hc ha hr hn],
      by rw [huses, if_pos rfl, hu, List.erase_cons_head], fun j hj => by rw [huses, if_neg hj], ?_⟩
    rw [e]
    exact ⟨fun w hw => (storeGet_filter _ _ w).trans (if_pos hw), fun w hw => (storeGet_filter _ _ w).trans (by rw [hw]; rfl),
      rfl, rfl, rfl, rfl, rfl⟩

end Sys2Proof.Machine
end

section
/-! THEOREMS. `SCHED_CELLS_WRITE` and its effect (R201, R203, R295). -/
namespace Sys2Proof.Machine

/-! ### The command -/

section
variable {r : CmdRef} {k : Nat} {es : List CellEntry} {s : State}

@[simp] theorem admitCmd_cellsCheck {op need n : Nat} {c : HostCmd} (k m : Nat) (es : List CellEntry) (b : Bool) :
    cellsCheck (admitCmd r op need n c s) k m es b = cellsCheck s k m es b :=
  admitCmd_keeps (fun s => cellsCheck s k m es b)

@[simp] theorem admitCmd_sfAt {op need n : Nat} {c : HostCmd} (k m : Nat) : sfAt (admitCmd r op need n c s) k m = sfAt s k m :=
  admitCmd_keeps (fun s => sfAt s k m)

theorem exec_schedCellsWrite (h : goes s r 0x0302 1 = true) : exec (.schedCellsWrite r k es) s =
    .next (doCellsWrite r k es (admitCmd r 0x0302 1 (4 + 8 * es.length) (.schedCellsWrite k es) s)) :=
  congrArg Host.Outcome.next (runCmd_goes _ _ _ h)

theorem doCellsWrite_of_bad (h : 63 < k ∨ es = [] ∨ 64 < es.length) : doCellsWrite r k es s = refuse r stBad 5 0x000B s := by
  have hc : (decide (63 < k) || es.isEmpty || decide (64 < es.length)) = true := by simpa [or_assoc] using h
  simp only [doCellsWrite, List.cons_append, checked, hc, if_true]

theorem doCellsWrite_of_pass (hk : k < 64) (he : es ≠ []) (hlen : es.length ≤ 64) (ht : needsTime s r.asn = false)
    (ha : tooSoon s r.asn = false) (h : ∀ x ∈ cellsCheck s k (namedAsn s r.asn) es false, x.1 = false) :
    doCellsWrite r k es s = { s with sch := { s.sch with writes := s.sch.writes ++
      [⟨some r, namedAsn s r.asn, k, ((sfAt s k (namedAsn s r.asn)).map SfUse.act).getD 0, es⟩] } } := by
  have hc : (decide (63 < k) || es.isEmpty || decide (64 < es.length)) = false := by
    simp [Nat.le_of_lt_succ hk, he, hlen]
  rw [doCellsWrite, checked_append (by simp [hc, ht, ha]), checked_of_pass h]

end

/-! ### The effect -/

section
variable {q : CellsReq} {r : CmdRef} {s : State}

/-- Writing cells changes their words; beside the store it touches the node entries and Herd's runs of NO_FRAME. -/
theorem putCells_eq (u : SfRec) (es : List CellEntry) (s : State) : ∃ ns hd, putCells u es s =
    { s with
      tbl := { s.tbl with nodes := ns }
      herd := hd
      sch := { s.sch with store := es.foldl (fun st e => cellsPut (u.wordOf e.slot e.pos) e.word 0 st) s.sch.store } } := by
  unfold putCells
  induction es generalizing s with
  | nil => exact ⟨_, _, rfl⟩
  | cons e es ih =>
    obtain ⟨ns, hd, h⟩ := ih _
    exact ⟨ns, hd, h⟩

/-- The only pending write takes effect when its ASN has come. -/
theorem exec_cellsWriteEffect_of_single (h : coreRuns s = true) (hw : s.sch.writes = [q]) (ha : q.asn ≤ nowFor s) :
    exec .cellsWriteEffect s = .next (cellsEffect q s) := by
  change execCellsWriteEffect s = _
  simp [execCellsWriteEffect, coreOnly_of_runs h, hw, ha]

theorem cellsEffect_of_inUse {u : SfUse} (hw : s.sch.writes = [q]) (hr : q.ref = some r) (hu : useOf s q = some u) :
    cellsEffect q s = done r (sweepTombs (putCells u.rec_ q.entries { s with sch := { s.sch with writes := [] } })) := by
  have ht : useOf { s with sch := { s.sch with writes := [] } } q = some u := hu
  simp only [cellsEffect, hw, List.erase_cons_head, ht, hr]

theorem cellsEffect_of_gone (hw : s.sch.writes = [q]) (hr : q.ref = some r) (hu : useOf s q = none) :
    cellsEffect q s = refuse r stBadState 5 0 { s with sch := { s.sch with writes := [] } } := by
  have ht : useOf { s with sch := { s.sch with writes := [] } } q = none := hu
  simp only [cellsEffect, hw, List.erase_cons_head, ht, hr]

end

/-- Settles O28, by the conditions of the command and by what the due write does. -/
theorem scheduleCells : Obligations.ScheduleCells := by
  refine ⟨fun r k es s hg hk he hlen ht ha hc => ?held, fun r k es s hg hbad => ?bad,
    fun r k n e u s h hw hn hu hwf => ?written, fun r k n a es s h hw hn hu => ?gone⟩
  case held =>
    rw [exec_schedCellsWrite hg, doCellsWrite_of_pass hk he hlen (by simpa using ht) (by simpa using ha) (by simpa using hc)]
    simp only [admitCmd_sch, admitCmd_namedAsn, admitCmd_sfAt]
  case bad => rw [exec_schedCellsWrite hg, doCellsWrite_of_bad hbad]
  case written =>
    have huse : useOf s ⟨some r, n, k, u.act, [e]⟩ = some u := by simp [useOf, hu]
    obtain ⟨ns, hd, ep⟩ := putCells_eq u.rec_ [e] { s with sch := { s.sch with writes := [] } }
    refine ⟨_, (exec_cellsWriteEffect_of_single h hw hn).trans (congrArg _ (cellsEffect_of_inUse hw rfl huse)), ?_⟩
    rw [ep]
    exact ⟨rfl, rfl, cellsGet_put (fun _ => 0) _ e.word s.sch.store hwf,
      fun w hne => cellsGet_put_ne _ w e.word 0 0 s.sch.store hne, rfl, rfl, rfl, rfl, rfl, rfl⟩
  case gone =>
    have huse : useOf s ⟨some r, n, k, a, es⟩ = none := by simpa [useOf, Option.filter_eq_none_iff] using hu
    rw [exec_cellsWriteEffect_of_single h hw hn, cellsEffect_of_gone hw rfl huse]

end Sys2Proof.Machine
end

section
/-! THEOREMS. Ageing, supervision, the expiry of parents and of reassembly contexts (R223, R277, R278, R295, R309). -/
namespace Sys2Proof.Machine

section
variable {i : Nat} {n : Node} {s : State}

/-! ### Ageing and supervision -/

/-- The visit of a slot that has had none: the live positions of its share, in order. -/
theorem exec_ageingVisit_of_due (h : coreRuns s = true) (hr : s.time.running = true) (he : s.regB 0xB0004 31 = true)
    (ha : s.tbl.ageAsn ≠ some (asnNow s)) {m hi : Nat} {t : State} (hm : m = sweepSlots s)
    (hhi : hi = ceilDiv ((asnNow s % m + 1) * 81921) m)
    (ht : t = (livePositions s (ceilDiv (asnNow s % m * 81921) m) hi).foldl (fun u p => visit (asnNow s) p u) s) :
    exec .ageingVisit s = .next { t with tbl := { t.tbl with agePos := hi % 81921, ageAsn := some (asnNow s) } } := by
  have hgo : (!(s.time.running && s.up && s.regB 0xB0004 31) || s.tbl.ageAsn == some (asnNow s)) = false := by
    simp [hr, up_of_coreRuns h, he, ha]
  subst hm hhi ht
  change execAgeingVisit s = _
  simp only [execAgeingVisit, coreOnly_of_runs h, hgo]
  rfl

theorem exec_ageingVisit_of_visited (h : s.tbl.ageAsn = some (asnNow s)) : exec .ageingVisit s = .next s := by
  change execAgeingVisit s = _
  simp only [execAgeingVisit, h, beq_self_eq_true, Bool.or_true, if_true, coreOnly_self]

theorem exec_nodeSupervisionTimeout_of_overdue (h : coreRuns s = true) (hr : s.time.running = true) (ho : ∃ n ∈ overdue s, n.idx = i) :
    exec (.nodeSupervisionTimeout i) s =
      .next (((overdue s).filter (fun n => decide (n.idx ≤ i))).foldl (fun u n => loseNode n.idx n u) s) := by
  have hany : (overdue s).any (fun n => n.idx == i) = true := by simpa using ho
  change execNodeSupervisionTimeout i s = _
  rw [execNodeSupervisionTimeout, h, hr, hany]
  rfl

/-! ### Parents -/

theorem exec_parentExpire_of_due (h : coreRuns s = true) (hr : s.time.running = true) (hn : entryAt s i = some n)
    (hp : n.parent ≠ noParent) (he : n.pnoexp = false) (hd : (asn32 s + 2 ^ 32 - n.pexp) % 2 ^ 32 < 2 ^ 31) :
    exec (.parentExpire i) s = .next (setParent i noParent s) := by
  have hgo : n.parent ≠ noParent ∧ (!n.pnoexp) = true ∧ (asn32 s + 2 ^ 32 - n.pexp) % 2 ^ 32 < 2 ^ 31 ∧ s.time.running = true :=
    ⟨hp, by rw [he]; rfl, hd, hr⟩
  change execParentExpire i s = _
  simp only [execParentExpire, coreOnly_of_runs h, hn]
  rw [if_pos hgo]

theorem exec_parentExpire_of_early (hn : entryAt s i = some n) (hd : 2 ^ 31 ≤ (asn32 s + 2 ^ 32 - n.pexp) % 2 ^ 32) :
    exec (.parentExpire i) s = .next s := by
  change execParentExpire i s = _
  simp only [execParentExpire, hn]
  rw [if_neg (fun ⟨_, _, hlt, _⟩ => Nat.not_lt.mpr hd hlt), coreOnly_self]

/-! ### Reassembly -/

/-- Discarding contexts takes those that share node, tag and size with one of them, and gives their cells back. -/
theorem foldl_dropCtx_eq (l : List ReCtx) (s : State) : ∃ q, l.foldl (fun u c => dropCtx c u) s =
    { s with
      que := q
      adp := { s.adp with ctxs := s.adp.ctxs.filter (fun c => !l.any (fun d => sameCtx d.node d.tag d.size c)) } } := by
  induction l generalizing s with
  | nil =>
    have hall : s.adp.ctxs.filter (fun c => !([] : List ReCtx).any (fun d => sameCtx d.node d.tag d.size c)) = s.adp.ctxs :=
      List.filter_eq_self.mpr (fun _ _ => rfl)
    refine ⟨s.que, ?_⟩
    rw [hall, List.foldl_nil]
  | cons c l ih =>
    obtain ⟨q, e⟩ := ih (dropCtx c s)
    have hcons : (dropCtx c s).adp.ctxs.filter (fun x => !l.any (fun d => sameCtx d.node d.tag d.size x)) =
        s.adp.ctxs.filter (fun x => !(c :: l).any (fun d => sameCtx d.node d.tag d.size x)) := by
      simp only [dropCtx, List.filter_filter, List.any_cons, Bool.not_or, Bool.and_comm]
    refine ⟨q, ?_⟩
    rw [List.foldl_cons, e, hcons]
    rfl

theorem exec_reasmExpire {old : List ReCtx} (h : coreRuns s = true)
    (ho : old = s.adp.ctxs.filter (fun c => decide (60_000_000_000 ≤ (asnNow s - c.asn) * s.time.l))) :
    exec .reasmExpire s =
      .next (sweepTombs (bumpN 0xA031C (sumNat (old.map (fun c => c.frags.length))) (old.foldl (fun u c => dropCtx c u) s))) := by
  subst ho
  exact congrArg Host.Outcome.next (coreOnly_of_runs h _)

end

/-- Settles O32, row by row. -/
theorem nodeUpkeep : Obligations.NodeUpkeep := by
  refine ⟨fun s h hr he ha => exec_ageingVisit_of_due h hr he ha rfl rfl rfl, fun s => exec_ageingVisit_of_visited,
    fun i s => exec_nodeSupervisionTimeout_of_overdue, fun i n s => rfl,
    fun i n s h hr hn hp he hd => exec_parentExpire_of_due h hr hn hp he hd, fun i n s _ => exec_parentExpire_of_early,
    fun s h => ⟨_, exec_reasmExpire h rfl, ?_⟩⟩
  obtain ⟨q, e⟩ := foldl_dropCtx_eq (s.adp.ctxs.filter (fun c => decide (60_000_000_000 ≤ (asnNow s - c.asn) * s.time.l))) s
  rw [e]
  exact ⟨rfl, rfl, rfl, rfl, rfl⟩

end Sys2Proof.Machine
end

section
/-! SUPPORT. The host's commands to Herd: when their checks pass and what they leave (R255 to R258). -/
namespace Sys2Proof.Machine

/-! ### `HERD_MODE_SET` and `SCH_HCTL` -/

/-- The word of SCH_HCTL that `HERD_MODE_SET` writes: its own fields, and bits 31 and 30 as they are. -/
def hctlWord (s : State) (m a d lag : Nat) : Word :=
  BitVec.ofNat 32 (bitsOf (s.reg 0x92000).toNat 31 30 * 2 ^ 30 + d * 2 ^ 24 + a * 2 ^ 16 + lag * 2 ^ 8 + m)

section
variable {r : CmdRef} {m a d lag op need n : Nat} {c : HostCmd} {v : Word} {s : State}

theorem hctlWord_toNat (hm : m < 4) (ha : a < 64) (hd : d < 64) (hl : lag < 16) :
    (hctlWord s m a d lag).toNat = bitsOf (s.reg 0x92000).toNat 31 30 * 2 ^ 30 + d * 2 ^ 24 + a * 2 ^ 16 + lag * 2 ^ 8 + m := by
  have hk : bitsOf (s.reg 0x92000).toNat 31 30 < 4 := Nat.mod_lt _ (by decide)
  rw [hctlWord, BitVec.toNat_ofNat]
  omega

theorem hctlWord_mode (hm : m < 4) (ha : a < 64) (hd : d < 64) (hl : lag < 16) : (hctlWord s m a d lag).toNat % 4 = m := by
  rw [hctlWord_toNat hm ha hd hl]
  omega

theorem admitCmd_wordsOk (h : s.wordsOk = true) : (admitCmd r op need n c s).wordsOk = true := (kept_admitCmd Kept.refl).2 h

@[simp] theorem admitCmd_hctlWord : hctlWord (admitCmd r op need n c s) m a d lag = hctlWord s m a d lag :=
  admitCmd_keeps (hctlWord · m a d lag)

@[simp] theorem admitCmd_modeBreach : modeBreach (admitCmd r op need n c s) m a d lag = modeBreach s m a d lag := by
  simp [modeBreach]

theorem modeBreach_of_equal : modeBreach s m a a lag = some stBad := if_pos (.inl rfl)

theorem modeBreach_of_inactive (hm : m = 1 ∨ m = 2) (had : a ≠ d) (h2 : 2 ≤ lag) (h16 : lag < 16) (ha : sfActive s a = none) :
    modeBreach s m a d lag = some stBadState := by
  rw [modeBreach, if_neg (by omega), if_pos ⟨hm, .inl (by rw [ha]; rfl)⟩]

theorem modeBreach_of_kept (had : a ≠ d) (h2 : 2 ≤ lag) (h16 : lag < 16)
    (h : m = 1 ∨ m = 2 → (sfActive s a).isSome = true ∧ (sfActive s d).isSome = true) : modeBreach s m a d lag = none := by
  rw [modeBreach, if_neg (by omega), if_neg]
  rintro ⟨hm, hn⟩
  obtain ⟨ha, hd⟩ := h hm
  simp [Option.isNone_eq_false_iff.mpr ha, Option.isNone_eq_false_iff.mpr hd] at hn

theorem exec_herdModeSet (h : goes s r 0x0310 1 = true) : exec (.herdModeSet r m a d lag) s =
    .next (doHerdModeSet r m a d lag (admitCmd r 0x0310 1 0 (.herdModeSet m a d lag) s)) :=
  congrArg Host.Outcome.next (runCmd_goes _ _ _ h)

theorem modeFields_inRange (hm : m < 4) (ha : a < 64) (hd : d < 64) :
    (decide (3 < m) || decide (63 < a) || decide (63 < d)) = false := by
  simp
  omega

theorem doHerdModeSet_of_kept (hm : m < 4) (ha : a < 64) (hd : d < 64) (h : modeBreach s m a d lag = none) :
    doHerdModeSet r m a d lag s = done r (setHctl (hctlWord s m a d lag) s) := by
  simp only [doHerdModeSet, checked, modeFields_inRange hm ha hd, h]
  rfl

theorem doHerdModeSet_of_bad (hm : m < 4) (ha : a < 64) (hd : d < 64) (h : modeBreach s m a d lag = some stBad) :
    doHerdModeSet r m a d lag s = refuse r stBad 5 0x000B s := by
  simp only [doHerdModeSet, checked, modeFields_inRange hm ha hd, h]
  rfl

theorem doHerdModeSet_of_inactive (hm : m < 4) (ha : a < 64) (hd : d < 64) (h : modeBreach s m a d lag = some stBadState) :
    doHerdModeSet r m a d lag s = refuse r stBadState 5 0 s := by
  simp only [doHerdModeSet, checked, modeFields_inRange hm ha hd, h]
  rfl

theorem done_reg (x : Nat) : (done r s).reg x = s.reg x := rfl

theorem setHctl_reg_same (h : s.wordsOk = true) : (setHctl v s).reg 0x92000 = v :=
  reg_setReg_same 0x92000 v (wordsOk_iff.mp h).1

theorem setHctl_reg_ne {x : Nat} (h : x ≠ 0x92000) : (setHctl v s).reg x = s.reg x := reg_setReg_ne v h

@[simp] theorem setHctl_tbl : (setHctl v s).tbl = s.tbl := rfl
@[simp] theorem setHctl_time : (setHctl v s).time = s.time := rfl
@[simp] theorem setHctl_store : (setHctl v s).sch.store = s.sch.store := rfl
@[simp] theorem setHctl_sf : (setHctl v s).sch.sf = s.sch.sf := rfl

theorem setHctl_grpDrop_of_off (h : s.wordsOk = true) (hv : v.toNat % 4 = 0) : (setHctl v s).herd.grpDrop = false := by
  have hmode : (s.setReg 0x92000 v).regF 0x92000 1 0 = 0 := by
    rw [State.regF, reg_setReg_same 0x92000 v (wordsOk_iff.mp h).1, bitsOf]
    simpa using hv
  simp [setHctl, hctlMode, hmode]

theorem exec_schHctlWrite (hb : bar0 s = true) (hp : s.pwr.preparing = false) (hd : jwrDrops s = false) :
    let n := (v &&& 0xFF3F0F03).toNat
    let w := if (modeBreach s (bitsOf n 1 0) (bitsOf n 21 16) (bitsOf n 29 24) (bitsOf n 11 8)).isSome then v &&& 0xFF3F0F00
      else v &&& 0xFF3F0F03
    exec (.schHctlWrite v) s = .next (setHctl w (journalCfg 0x92000 w s)) := by
  have hoff : (v &&& 0xFF3F0F03) &&& 0xFFFFFFFC = v &&& 0xFF3F0F00 := BitVec.and_assoc ..
  intro n w
  change execSchHctlWrite v s = _
  simp only [execSchHctlWrite, jwr_takes hb hp hd, hoff]
  rfl

end

/-! ### `HERD_NODE_SET` -/

/-- The power change already announced for a node: a forced one replaces it (R252, R256). -/
def announcedPower (s : State) (i : Nat) : Int :=
  if s.herd.anns.any (fun x => x.node == i && x.kind == .power) then (pendingOf s i .power).getD 0 else 0

/-- Every value that the command forces is valid for node `n` (R256). -/
structure ForceOk (s : State) (g : HerdSetArgs) (n : Node) : Prop where
  rung : forced g 0 = true → g.rung ≤ 7 ∧ usable s n (nodeChans s n) g.rung = true
  drop : forced g 1 = true → setValid s (g.drop.toNat % 16) = true
  power : forced g 2 = true → -8 ≤ signedOf 4 n.herd.pwr - announcedPower s g.index + g.power ∧
    signedOf 4 n.herd.pwr - announcedPower s g.index + g.power ≤ 7
  hint : forced g 3 = true → g.hint = 1 ∨ g.hint = 2

/-- What the command writes into the node's record at ASN `n`. -/
def recordSet (n : Nat) (g : HerdSetArgs) (s : State) : State :=
  modRec g.index (fun h => { h with
    pin := ((BitVec.ofNat 4 h.pin &&& ~~~g.pinwe) ||| (g.pin &&& g.pinwe)).toNat
    holdcnt := if forced g 0 then 0 else h.holdcnt
    drop := if forced g 1 then g.drop.toNat % 16 else h.drop
    dropasn := if forced g 1 then n / 256 % 2 ^ 24 else h.dropasn }) s

/-- The announcements of what the command forces, in their order. -/
def forcedOut (g : HerdSetArgs) (t : State) : State :=
  let u := if forced g 0 then announceForced g.index .profile (g.rung : Nat) t else t
  let v := if forced g 1 then announceForced g.index .map ((mapOf (effDrop u u.herd.gd (g.drop.toNat % 16)) : Nat) : Int) u else u
  let w := if forced g 2 then announceForced g.index .power g.power v else v
  if forced g 3 then announceForced g.index .hint (g.hint : Nat) w else w

section
variable {r : CmdRef} {g : HerdSetArgs} {n : Node} {s : State}

theorem forced_of_force_zero (h : g.force = 0) (i : Nat) : forced g i = false := by
  rw [forced, h]
  exact BitVec.getLsbD_zero

theorem forceOk_of_force_zero (h : g.force = 0) : ForceOk s g n := by
  constructor <;> simp [forced_of_force_zero h]

theorem forcedOut_of_force_zero (h : g.force = 0) : forcedOut g s = s := by
  simp [forcedOut, forced_of_force_zero h]

theorem recordSet_of_force_zero (k : Nat) (h : g.force = 0) : recordSet k g s = modNode g.index (fun m => { m with
    herd := { m.herd with pin := ((BitVec.ofNat 4 m.herd.pin &&& ~~~g.pinwe) ||| (g.pin &&& g.pinwe)).toNat } }) s := by
  simp only [recordSet, forced_of_force_zero h]
  rfl

theorem ForceOk.admitted {op need k : Nat} {c : HostCmd} (h : ForceOk s g n) : ForceOk (admitCmd r op need k c s) g n where
  rung := by
    rw [admitCmd_keeps (fun t => usable t n (nodeChans t n) g.rung)]
    exact h.rung
  drop := by
    rw [admitCmd_keeps (fun t => setValid t (g.drop.toNat % 16))]
    exact h.drop
  power := by
    rw [admitCmd_keeps (announcedPower · g.index)]
    exact h.power
  hint := h.hint

@[simp] theorem admitCmd_nodeAt {op need k : Nat} {c : HostCmd} (i : Nat) : nodeAt (admitCmd r op need k c s) i = nodeAt s i :=
  admitCmd_keeps (nodeAt · i)

theorem exec_herdNodeSet (h : goes s r 0x0311 1 = true) : exec (.herdNodeSet r g) s =
    .next (doHerdNodeSet r g (admitCmd r 0x0311 1 0 (.herdNodeSet g) s)) :=
  congrArg Host.Outcome.next (runCmd_goes _ _ _ h)

theorem doHerdNodeSet_of_none (h : nodeAt s g.index = none) : doHerdNodeSet r g s = refuse r stNoNode 5 0 s := by
  rw [doHerdNodeSet, h]

theorem doHerdNodeSet_of_valid (hn : nodeAt s g.index = some n) (h : ForceOk s g n) :
    doHerdNodeSet r g s = done r (forcedOut g (recordSet (asnNow s) g s)) := by
  have hrung : (forced g 0 && (decide (7 < g.rung) || !usable s n (nodeChans s n) g.rung)) = false := by
    cases hf : forced g 0 with
    | false => rfl
    | true =>
      obtain ⟨h7, hu⟩ := h.rung hf
      simp [hu, h7]
  have hdrop : (forced g 1 && !setValid s (g.drop.toNat % 16)) = false := by
    cases hf : forced g 1 with
    | false => rfl
    | true => rw [h.drop hf]; rfl
  have hpower : (forced g 2 && (decide (signedOf 4 n.herd.pwr - announcedPower s g.index + g.power < -8) ||
      decide (7 < signedOf 4 n.herd.pwr - announcedPower s g.index + g.power))) = false := by
    cases hf : forced g 2 with
    | false => rfl
    | true =>
      obtain ⟨hlo, hhi⟩ := h.power hf
      rw [decide_eq_false (Int.not_lt.mpr hlo), decide_eq_false (Int.not_lt.mpr hhi)]
      rfl
  have hhint : (forced g 3 && g.hint != 1 && g.hint != 2) = false := by
    cases hf : forced g 3 with
    | false => rfl
    | true => rcases h.hint hf with e | e <;> rw [e] <;> rfl
  rw [announcedPower] at hpower
  simp only [doHerdNodeSet, hn, checked, hrung, hdrop, hpower, hhint]
  rfl

theorem exec_herdNodeSet_of_valid (hg : goes s r 0x0311 1 = true) (hn : nodeAt s g.index = some n) (h : ForceOk s g n) :
    exec (.herdNodeSet r g) s =
      .next (done r (forcedOut g (recordSet (asnNow s) g (admitCmd r 0x0311 1 0 (.herdNodeSet g) s)))) := by
  rw [exec_herdNodeSet hg, doHerdNodeSet_of_valid (by simpa using hn) h.admitted, admitCmd_asnNow]

/-! ### `HERD_NODE_READ` -/

theorem exec_herdNodeRead {i addr : Nat} (h : goes s r 0x0312 1 = true) : exec (.herdNodeRead r i addr) s =
    .next (doHerdNodeRead r i addr (admitCmd r 0x0312 1 0 (.herdNodeRead i addr) s)) :=
  congrArg Host.Outcome.next (runCmd_goes _ _ _ h)

theorem doHerdNodeRead_of_none {i addr : Nat} (h : nodeAt s i = none) : doHerdNodeRead r i addr s = refuse r stNoNode 5 0 s := by
  rw [doHerdNodeRead, h]

theorem doHerdNodeRead_of_node {i addr : Nat} (h : nodeAt s i = some n) :
    doHerdNodeRead r i addr s = done r (writeOut addr (herdOctets n.herd) s) := by
  rw [doHerdNodeRead, h]

end
end Sys2Proof.Machine
end

section
/-! THEOREMS. The host's commands to Herd, and Herd's own timeouts and checks (R234, R244, R250, R255 to R258). -/
namespace Sys2Proof.Machine

/-! ### Timeouts, overruns and readmission -/

section
variable {i : Nat} {s : State}

theorem exec_sixpTimeout_of_acked {a : Nat} {x : Sixp} (h : coreRuns s = true)
    (hf : s.herd.sixp.find? (fun y => y.node == i) = some x) (ha : x.ackAt = some a) {t : State}
    (ht : t = reach (a + 1_000_000_000 * s.regF 0x92018 23 8) s) :
    exec (.sixpTimeout i) s = .next (failAsk (asnNow t + 1) i 0xFF t) := by
  subst ht
  change execSixpTimeout i s = _
  simp only [execSixpTimeout, coreOnly_of_runs h, hf, ha, up_of_coreRuns h]
  rfl

/-- Closing transactions changes their nodes' numbers and Herd's list. -/
theorem foldl_closeTxn_eq (l : List Nat) (s : State) : ∃ ns sx, l.foldl (fun u i => closeTxn i u) s =
    { s with tbl := { s.tbl with nodes := ns }, herd := { s.herd with sixp := sx } } := by
  induction l generalizing s with
  | nil => exact ⟨s.tbl.nodes, s.herd.sixp, rfl⟩
  | cons i l ih =>
    obtain ⟨ns, sx, e⟩ := ih (closeTxn i s)
    exact ⟨ns, sx, e⟩

theorem dropDecs_spec (b : Nat) (s : State) : (dropDecs b s).herd.decs = s.herd.decs.filter (fun d => d.from_ != b) ∧
    (dropDecs b s).herd.items = s.herd.items ∧ (dropDecs b s).regs = s.regs ∧ (dropDecs b s).time = s.time ∧
    (dropDecs b s).tx = s.tx := by
  unfold dropDecs
  extract_lets gone
  obtain ⟨ns, sx, e⟩ := foldl_closeTxn_eq (gone.filterMap (fun d => d.out.txnOf)) { withHerd (fun h => { h with
    decs := h.decs.filter (fun d => d.from_ != b)
    busy := h.busy.filter (fun x => x.2.1 + 2 != b + herdLag s) }) s with
      sch := { s.sch with writes := s.sch.writes.filter (fun q => !(q.ref.isNone && q.sfh == dlSf s && q.asn == b + herdLag s)) } }
  rw [e]
  exact ⟨rfl, rfl, rfl, rfl, rfl⟩

theorem exec_herdOverrun {b : Nat} (h : coreRuns s = true) (hb : b = asnNow s + 1 - herdLag s) : exec .herdOverrun s =
    .next (raiseErr 0x0501 1 5 0 0 0 (s.herd.decs.filter (fun d => d.from_ == b)).length (dropDecs b s)) := by
  subst hb
  change execHerdOverrun s = _
  rw [execHerdOverrun, coreOnly_of_runs h, up_of_coreRuns h]
  rfl

theorem exec_dropReadmitCheck (h : coreRuns s = true) (hd : deciding s = true) (hi : asnNow s % 65536 = i % 65536) :
    exec (.dropReadmitCheck i) s = .next (readmit (asnNow s) i s) := by
  change execDropReadmitCheck i s = _
  simp only [execDropReadmitCheck, coreOnly_of_runs h, up_of_coreRuns h, hd, hi, beq_self_eq_true, Bool.and_self, if_true]

theorem readmit_of_due {k : Nat} {n : Node} (hn : nodeAt s i = some n) (hd : n.herd.drop ≠ 0)
    (ht : ((s.regF 0x92008 31 16 * 60_000_000_000 : Nat) : Int) ≤
      (((k / 256 + 2 ^ 24 - n.herd.dropasn) % 2 ^ 24 : Nat) - 1 : Int) * 256 * (s.time.l : Int)) :
    readmit k i s = setDrop k n 0 (modRec i (fun h => { h with
      psrg := (List.range 4).map (fun g => if bitOf n.herd.drop g then 717 else h.psrgAt g) }) s) := by
  simp only [readmit, hn]
  rw [if_pos (by rw [bne_iff_ne.mpr hd, decide_eq_true ht]; rfl)]

theorem readmit_of_undropped {k : Nat} {n : Node} (hn : nodeAt s i = some n) (hd : n.herd.drop = 0) :
    readmit k i s = announceMap k n s := by
  simp [readmit, hn, hd]

end

/-- Settles O29, by the checks of each command and the branches of each event. -/
theorem herdCommandsAndEvents : Obligations.HerdCommandsAndEvents := by
  refine ⟨⟨fun r m a d lag s hg hm ha hd had h2 h16 hact => ?modeSet, fun r m a lag s hg hm ha => ?modeEqual,
    fun r a d lag s hg ha hd had h2 h16 hin => ?modeInactive, fun r g s hg hn => ?setNone,
    fun r g n s hg hn h0 => ?setPins, fun r g n s hg hn hrung hdrop hpower hhint => ?setForced,
    fun r i addr n s hg hn => ?read, fun r i addr s hg hn => ?readNone,
    fun v s hb hp hd hbad => ?hctlBreach, fun v s hb hp hd hok => ?hctlKept⟩,
    fun i a x s h hf ha => exec_sixpTimeout_of_acked h hf ha rfl,
    fun s h => ⟨dropDecs (asnNow s + 1 - herdLag s) s, exec_herdOverrun h rfl, dropDecs_spec _ s⟩,
    fun i n s h hdec hi hn hd ht => ?due, fun i n s h hdec hi hn hd => ?undropped⟩
  case modeSet =>
    rw [exec_herdModeSet hg, doHerdModeSet_of_kept hm ha hd (by simpa using modeBreach_of_kept had h2 h16 hact),
      admitCmd_hctlWord]
    refine ⟨_, rfl, fun hok => ?_, fun x hx => ?_, by simp, by simp, by simp, by simp, fun hok h0 => ?_⟩
    · rw [done_reg, setHctl_reg_same (admitCmd_wordsOk hok), hctlWord_toNat hm ha hd h16]
    · rw [done_reg, setHctl_reg_ne hx, admitCmd_keeps (State.reg · x)]
    · rw [done_herd, setHctl_grpDrop_of_off (admitCmd_wordsOk hok) ((hctlWord_mode hm ha hd h16).trans h0)]
  case modeEqual => rw [exec_herdModeSet hg, doHerdModeSet_of_bad hm ha ha modeBreach_of_equal]
  case modeInactive =>
    rw [exec_herdModeSet hg, doHerdModeSet_of_inactive (by decide) ha hd
      (by simpa using modeBreach_of_inactive (.inr rfl) had h2 h16 hin)]
  case setNone => rw [exec_herdNodeSet hg, doHerdNodeSet_of_none (by simpa using hn)]
  case setPins =>
    rw [exec_herdNodeSet_of_valid hg hn (forceOk_of_force_zero h0), recordSet_of_force_zero _ h0, forcedOut_of_force_zero h0]
  case setForced => exact exec_herdNodeSet_of_valid hg hn ⟨hrung, hdrop, fun h => hpower h _ rfl, hhint⟩
  case read =>
    rw [exec_herdNodeRead hg, doHerdNodeRead_of_node (by simpa using hn)]
    refine ⟨_, rfl, ?_⟩
    simp [writeOut]
  case readNone => rw [exec_herdNodeRead hg, doHerdNodeRead_of_none (by simpa using hn)]
  case hctlBreach => rw [exec_schHctlWrite hb hp hd, if_pos hbad]
  case hctlKept =>
    rw [exec_schHctlWrite hb hp hd, hok]
    rfl
  case due => rw [exec_dropReadmitCheck h hdec hi, readmit_of_due hn hd ht]
  case undropped => rw [exec_dropReadmitCheck h hdec hi, readmit_of_undropped hn hd]

end Sys2Proof.Machine
end

section
/-! THEOREMS. Writes with a row of their own: pools, rings, restarts (R258, R357, R380, R490). -/
namespace Sys2Proof.Machine

/-! ### `QUE_POOL_WRITE` -/

section
variable {k : Nat} {v : Word} {s : State} (hb : bar0 s = true) (hp : s.pwr.preparing = false) (hd : jwrDrops s = false)
include hb hp hd

theorem exec_quePoolWrite_of_unstarted (hk : k < 5) (hs : s.jrn.started = false) {t : State}
    (ht : t = s.setReg (poolCtl k) (v &&& 0xFFFF7FFF)) :
    exec (.quePoolWrite k v) s = .next { t with que := { t.que with free := (List.range 5).map (freshFree t) } } := by
  subst ht
  change execQuePoolWrite k v s = _
  rw [execQuePoolWrite, jwr_takes hb hp hd, if_neg (by omega), hs]
  rfl

theorem exec_quePoolWrite_of_started (hk : k < 5) (hs : s.jrn.started = true) :
    exec (.quePoolWrite k v) s = .next { s with que := { s.que with wrDrop := true } } := by
  change execQuePoolWrite k v s = _
  rw [execQuePoolWrite, jwr_takes hb hp hd, if_neg (by omega), if_pos hs]

theorem exec_quePoolWrite_of_noPool (hk : 5 ≤ k) : exec (.quePoolWrite k v) s = .next s := by
  change execQuePoolWrite k v s = _
  rw [execQuePoolWrite, jwr_takes hb hp hd, if_pos hk]

/-! ### `ERR_RESTART_WRITE` -/

theorem exec_errRestartWrite :
    exec (.errRestartWrite v) s = .next (restartUnits v.toNat (journalCfg 0x12000C (v &&& 0x7FFE) s)) := by
  change execErrRestartWrite v s = _
  rw [execErrRestartWrite, jwr_takes hb hp hd]

end

/-- What a restart of the subsystems `us` changes beside Collie's transactions. -/
def restartBegun (us : List Nat) (s : State) : State :=
  { s with
    err := { s.err with restarting := s.err.restarting ++ us }
    sec := { s.sec with cache := if us.contains 9 then [] else s.sec.cache } }

theorem restartUnits_eq {v : Nat} {us : List Nat} {s : State}
    (hu : us = s.err.offline.filter (fun u => bitOf v u && !s.err.restarting.contains u)) :
    restartUnits v s = if us.contains 5 then closeSixps (restartBegun us s) else restartBegun us s := by
  subst hu
  rfl

/-! ### `RING_CTL_WRITE` -/

section
variable {ring : RingSel} {v w : Word} {s : State}

theorem exec_ringCtlWrite_of_taken (hb : bar0 s = true)
    (hj : ctlJournaled ring = true → s.pwr.preparing = false ∧ jwrDrops s = false) :
    exec (.ringCtlWrite ring v) s = .next (ringCtlWrite ring v s) := by
  change execRingCtlWrite ring v s = _
  rw [execRingCtlWrite, if_pos hb]
  split
  case isTrue h =>
    obtain ⟨hp, hd⟩ := hj h
    rw [jwr_takes hb hp hd]
  case isFalse => rfl

/-- The word `w` written to a ring's CTL, after its CFG record where it has one. -/
def ctlStored (ring : RingSel) (w : Word) (s : State) : State :=
  (if ctlJournaled ring then journalCfg (RingSel.ctl ring) w s else s).setReg (RingSel.ctl ring) w

variable (hr : ringExists ring = true) (hw : w = v &&& BitVec.ofNat 32 (ctlMask ring))
include hr hw

theorem ringCtlWrite_of_refusedStart (he : ringEn s (RingSel.ctl ring) = false) (h31 : bitOf w.toNat 31 = true)
    (href : enRefused ring s w.toNat = true) : ringCtlWrite ring v s = cfgErr s := by
  simp only [ringCtlWrite, ← hw, hr, he, h31, href]
  rfl

theorem ringCtlWrite_of_start (he : ringEn s (RingSel.ctl ring) = false) (h31 : bitOf w.toNat 31 = true)
    (href : enRefused ring s w.toNat = false) : ringCtlWrite ring v s = ringStart ring (ctlStored ring w s) := by
  simp only [ringCtlWrite, ← hw, hr, he, h31, href]
  rfl

theorem ringCtlWrite_of_heldOpen (he : ringEn s (RingSel.ctl ring) = true) (h31 : bitOf w.toNat 31 = true) :
    ringCtlWrite ring v s = cfgErr s := by
  simp only [ringCtlWrite, ← hw, hr, he, h31]
  rfl

/-- Clearing EN leaves the other fields of the word. -/
theorem ringCtlWrite_of_stop (he : ringEn s (RingSel.ctl ring) = true) (h31 : bitOf w.toNat 31 = false)
    (href : enRefused ring s w.toNat = false) :
    ringCtlWrite ring v s = ringStop ring (ctlStored ring (s.reg (RingSel.ctl ring) &&& 0x7FFFFFFF) s) := by
  simp only [ringCtlWrite, ← hw, hr, he, h31, href]
  rfl

end

/-- A completion ring takes an EN that comes with a permitted size, and one that goes while no enabled command ring and no
admitted command is bound to it. -/
theorem enRefused_cpl_eq_false_iff {c n : Nat} {s : State} : enRefused (.cpl c) s n = false ↔
    (bitOf n 31 = true ∧ 6 ≤ bitsOf n 19 16 ∧ bitsOf n 19 16 ≤ 16) ∨
    (bitOf n 31 = false ∧ (∀ r, r < 16 → ringEn s (cringCtl r) = true → boundCpl s r ≠ c) ∧ ∀ a ∈ s.hif.admitted, a.cpl ≠ some c) := by
  cases h : bitOf n 31 with
  | true => simp [enRefused, h]
  | false => simp [enRefused, h]

/-- Settles O49, row by row. -/
theorem registerRows : Obligations.RegisterRows := by
  refine ⟨fun k v s hb hp hd hk hs => ⟨_, exec_quePoolWrite_of_unstarted hb hp hd hk hs rfl, rfl, rfl, rfl, rfl, rfl⟩,
    fun k v s => exec_quePoolWrite_of_started, fun k v s => exec_quePoolWrite_of_noPool,
    fun ring v s hb hr hj => ?rings, fun c n s _ _ => enRefused_cpl_eq_false_iff, fun v us s hb hp hd hu => ?restart⟩
  case rings =>
    rw [exec_ringCtlWrite_of_taken hb hj]
    refine ⟨fun he h31 => ⟨fun href => ?_, fun href => ?_⟩, fun he h31 => ?_, fun he h31 href => ?_⟩
    · rw [ringCtlWrite_of_refusedStart hr rfl he h31 href, cfgErr]
    · rw [ringCtlWrite_of_start hr rfl he h31 href, ctlStored]
    · rw [ringCtlWrite_of_heldOpen hr rfl he h31, cfgErr]
    · rw [ringCtlWrite_of_stop hr rfl he h31 href, ctlStored]
  case restart =>
    refine ⟨_, exec_errRestartWrite hb hp hd, ?_⟩
    rw [restartUnits_eq (s := journalCfg 0x12000C (v &&& 0x7FFE) s) hu]
    cases h5 : us.contains 5 with
    | true =>
      obtain ⟨q, h, w, ns, sx, e, htxn, -, -⟩ := closeSixps_spec (restartBegun us (journalCfg 0x12000C (v &&& 0x7FFE) s))
      rw [if_pos rfl, e]
      exact ⟨rfl, rfl, rfl, rfl, rfl, rfl, fun _ => htxn, nofun⟩
    | false => exact ⟨rfl, rfl, rfl, rfl, rfl, rfl, nofun, fun _ => ⟨rfl, rfl⟩⟩

end Sys2Proof.Machine
end

section
/-! THEOREMS. Where a new entry goes: its buckets, a path of moves, the stash (R291, R293, R301). -/
namespace Sys2Proof.Machine

/-! ### The candidate buckets -/

section
variable (e : Nat)

theorem hash0_lt : hash0 e < 81920 := Nat.mod_lt _ (by decide)

theorem hash1_lt : hash1 e < 81920 := by
  simp only [hash1]
  split
  case isTrue => exact Nat.mod_lt _ (by decide)
  case isFalse => exact Nat.mod_lt _ (by decide)

/-- Where the two hashes meet, the second bucket is half the table away. -/
theorem hash0_ne_hash1 : hash0 e ≠ hash1 e := by
  have hlt := hash0_lt e
  simp only [hash1]
  split
  case isTrue => simp only [buckets]; omega
  case isFalse h => exact Ne.symm h

theorem otherBucket_hash0 : otherBucket e (hash0 e) = hash1 e := if_pos rfl

theorem otherBucket_hash1 : otherBucket e (hash1 e) = hash0 e := if_neg (hash0_ne_hash1 e)

end

/-! ### Free places and the entries that may move -/

section
variable {s : State} {i b w k : Nat} {l : List Node} {path : List (Nat × Nat)} {n : Node}

theorem freeWay_eq_some (h : freeWay l b = some w) : w < 4 ∧ holdsIdx l (4 * b + w) = false :=
  ⟨List.mem_range.mp (List.mem_of_find?_eq_some h), by simpa using List.find?_some h⟩

theorem freeStash_eq_some (h : freeStash l = some k) : k < 64 ∧ holdsIdx l (stashBase + k) = false :=
  ⟨List.mem_range.mp (List.mem_of_find?_eq_some h), by simpa using List.find?_some h⟩

theorem idx_of_entryAt (h : entryAt s i = some n) : n.idx = i := by simpa using List.find?_some h

/-- The entry a path takes from a bucket stands in it and is not pinned. -/
theorem pathWay_eq_some (h : pathWay s b i path = some n) :
    entryAt s n.idx = some n ∧ pinned s n = false ∧ n.idx / 4 = b := by
  obtain ⟨p, hp, hn⟩ := List.exists_of_findSome?_eq_some h
  obtain ⟨j, -, rfl⟩ := List.mem_map.mp hp
  split at hn
  · cases hn
  split at hn
  case h_2 => cases hn
  case h_1 m hm =>
    split at hn
    · cases hn
    case isFalse hpin =>
      cases hn
      have hidx := idx_of_entryAt hm
      exact ⟨hidx ▸ hm, by simpa using hpin, by omega⟩

end

/-! ### Paths -/

/-- A path, newest step first, that leads to bucket `b`: each step takes an entry that is not pinned towards its other bucket, and
the step before it leads to the bucket that entry stands in. -/
def LeadsTo (s : State) : Nat → List (Nat × Nat) → Prop
  | _, [] => True
  | b, (p, _) :: t => (∃ n, entryAt s p = some n ∧ pinned s n = false ∧ b = otherBucket n.eui (p / 4)) ∧ LeadsTo s (p / 4) t

theorem pathMoves_map_fst (dest : Nat) (path : List (Nat × Nat)) : (pathMoves dest path).map Prod.fst = path.map Prod.fst := by
  induction path generalizing dest with
  | nil => rfl
  | cons q t ih => simp only [pathMoves, List.map_cons, ih]

/-- The moves of a path that leads to a bucket take each entry to a way of its other bucket. -/
theorem pathMoves_spec {s : State} {dest : Nat} {path : List (Nat × Nat)} (h : LeadsTo s (dest / 4) path) :
    ∀ m ∈ pathMoves dest path, ∃ n, entryAt s m.1 = some n ∧ pinned s n = false ∧ m.2 / 4 = otherBucket n.eui (m.1 / 4) := by
  induction path generalizing dest with
  | nil => simp [pathMoves]
  | cons q t ih =>
    obtain ⟨hq, ht⟩ := h
    simp only [pathMoves, List.forall_mem_cons]
    exact ⟨hq, ih ht⟩

/-- What the walk finds: a path of at most `k` steps, its moves, and the place of its oldest step for the new entry. -/
def IsPathPlace (s : State) (k : Nat) (p : Place) : Prop :=
  ∃ dest path, p = ⟨(path.getLastD (0, 0)).1, pathMoves dest path⟩ ∧ path ≠ [] ∧ path.length ≤ k ∧ LeadsTo s (dest / 4) path

theorem walk_eq_some {s : State} {fuel i b : Nat} {path : List (Nat × Nat)} {p : Place} (hb : LeadsTo s b path)
    (h : walk s fuel i b path = some p) : IsPathPlace s (path.length + fuel) p := by
  induction fuel generalizing i b path with
  | zero => cases h
  | succ fuel ih =>
    rw [walk] at h
    split at h
    · cases h
    case h_2 v hv =>
      obtain ⟨hent, hpin, rfl⟩ := pathWay_eq_some hv
      have hlead : LeadsTo s (otherBucket v.eui (v.idx / 4)) ((v.idx, otherBucket v.eui (v.idx / 4)) :: path) :=
        ⟨⟨v, hent, hpin, rfl⟩, hb⟩
      dsimp only at h
      split at h
      case h_1 w hw =>
        cases h
        obtain ⟨hw4, -⟩ := freeWay_eq_some hw
        refine ⟨_, _, rfl, List.cons_ne_nil _ _, by simp only [List.length_cons]; omega, ?_⟩
        rwa [show (4 * otherBucket v.eui (v.idx / 4) + w) / 4 = otherBucket v.eui (v.idx / 4) by omega]
      case h_2 =>
        have hfound := ih hlead h
        rwa [List.length_cons, show path.length + 1 + fuel = path.length + (fuel + 1) by omega] at hfound

/-- The places of R301: a free way of one of the two buckets, the start of a path, a free place of the stash. -/
theorem placeFor_cases {s : State} {e : Nat} {p : Place} (h : placeFor s e = some p) :
    (p.moves = [] ∧ holdsIdx s.tbl.nodes p.idx = false ∧
      (p.idx / 4 = hash0 e ∨ p.idx / 4 = hash1 e ∨ (stashBase ≤ p.idx ∧ p.idx < stashBase + 64))) ∨ IsPathPlace s 128 p := by
  rw [placeFor] at h
  split at h
  case h_1 w hw =>
    cases h
    obtain ⟨hw4, hfree⟩ := freeWay_eq_some hw
    exact .inl ⟨rfl, hfree, .inl (by dsimp only; omega)⟩
  split at h
  case h_1 w hw =>
    cases h
    obtain ⟨hw4, hfree⟩ := freeWay_eq_some hw
    exact .inl ⟨rfl, hfree, .inr (.inl (by dsimp only; omega))⟩
  split at h
  case h_1 q hq =>
    cases h
    exact .inr (by simpa using walk_eq_some (path := []) trivial hq)
  case h_2 =>
    obtain ⟨k, hk, rfl⟩ := Option.map_eq_some_iff.mp h
    obtain ⟨hk64, hfree⟩ := freeStash_eq_some hk
    exact .inl ⟨rfl, hfree, .inr (.inr ⟨by dsimp only; omega, by dsimp only; omega⟩)⟩

theorem IsPathPlace.moves_ne_nil {s : State} {k : Nat} {p : Place} (h : IsPathPlace s k p) : p.moves ≠ [] := by
  obtain ⟨dest, path, rfl, hne, -, -⟩ := h
  cases path with
  | nil => exact absurd rfl hne
  | cons q t => exact List.cons_ne_nil _ _

theorem IsPathPlace.length_le {s : State} {k : Nat} {p : Place} (h : IsPathPlace s k p) : p.moves.length ≤ k := by
  obtain ⟨dest, path, rfl, -, hk, -⟩ := h
  rwa [← List.length_map Prod.fst, pathMoves_map_fst, List.length_map]

theorem IsPathPlace.getLast?_fst {s : State} {k : Nat} {p : Place} (h : IsPathPlace s k p) :
    p.moves.getLast?.map Prod.fst = some p.idx := by
  obtain ⟨dest, path, rfl, hne, -, -⟩ := h
  rw [← List.getLast?_map, pathMoves_map_fst, List.getLast?_map, List.getLast?_eq_some_getLast hne,
    List.getLastD_eq_getLast?, List.getLast?_eq_some_getLast hne]
  rfl

/-- Settles O31, by the cases of a place and the path of a walk. -/
theorem twoCandidatePlacement : Obligations.TwoCandidatePlacement := by
  refine ⟨fun s e p h => ?place, fun e => ⟨hash0_lt e, hash1_lt e, hash0_ne_hash1 e, otherBucket_hash0 e, otherBucket_hash1 e⟩⟩
  rcases placeFor_cases h with ⟨hnil, hfree, hwhere⟩ | hpath
  · exact ⟨fun _ => ⟨hfree, hwhere⟩, by simp [hnil], by simp [hnil], fun hne => absurd hnil hne⟩
  · refine ⟨fun hnil => absurd hnil hpath.moves_ne_nil, hpath.length_le, ?_, fun _ => hpath.getLast?_fst⟩
    obtain ⟨dest, path, rfl, -, -, hlead⟩ := hpath
    exact pathMoves_spec hlead

end Sys2Proof.Machine
end

section
/-! THEOREMS. Prefix memory: insertion, removal, routing (R312, R313, R416). -/
namespace Sys2Proof.Machine

/-! ### The list of a bank -/

/-- The order of a bank: longer prefixes first, those of a length by ascending key. -/
def Pfx.Before (a b : Pfx) : Prop := b.len < a.len ∨ (b.len = a.len ∧ a.key < b.key)

theorem Pfx.Before.trans {a b c : Pfx} (hab : a.Before b) (hbc : b.Before c) : a.Before c := by
  unfold Pfx.Before at *
  omega

section
variable {x p : Pfx} {l : List Pfx} {d : Nat}

theorem mem_insPfx_self (x : Pfx) (l : List Pfx) : x ∈ insPfx x l := by
  induction l with
  | nil => exact List.mem_singleton_self x
  | cons y t ih =>
    rw [insPfx]
    split
    · exact List.mem_cons_self
    split
    · exact List.mem_cons_self
    · exact List.mem_cons_of_mem y ih

/-- An insertion replaces the entry of its own key and length alone. -/
theorem mem_insPfx_of_ne (hp : ¬(p.key = x.key ∧ p.len = x.len)) : p ∈ insPfx x l ↔ p ∈ l := by
  have hx : p ≠ x := by
    rintro rfl
    exact hp ⟨rfl, rfl⟩
  induction l with
  | nil => simp [insPfx, hx]
  | cons y t ih =>
    rw [insPfx]
    split
    · simp [hx]
    split
    case isTrue h =>
      have hy : p ≠ y := by
        rintro rfl
        exact hp h.symm
      simp [hx, hy]
    case isFalse => simp [ih]

theorem eq_or_mem_of_mem_insPfx (h : p ∈ insPfx x l) : p = x ∨ p ∈ l := by
  induction l with
  | nil => exact .inl (List.mem_singleton.mp h)
  | cons y t ih =>
    rw [insPfx] at h
    split at h
    · exact List.mem_cons.mp h
    split at h
    · exact (List.mem_cons.mp h).imp_right (List.mem_cons_of_mem y)
    · rcases List.mem_cons.mp h with rfl | h
      · exact .inr List.mem_cons_self
      · exact (ih h).imp_right (List.mem_cons_of_mem y)

theorem pairwise_insPfx (h : l.Pairwise Pfx.Before) : (insPfx x l).Pairwise Pfx.Before := by
  induction l with
  | nil => exact List.pairwise_singleton _ x
  | cons y t ih =>
    obtain ⟨hy, ht⟩ := List.pairwise_cons.mp h
    rw [insPfx]
    split
    case isTrue hxy =>
      have hbefore : x.Before y := hxy
      exact List.pairwise_cons.mpr ⟨List.forall_mem_cons.mpr ⟨hbefore, fun z hz => hbefore.trans (hy z hz)⟩, h⟩
    case isFalse hxy =>
      split
      case isTrue hsame =>
        refine List.pairwise_cons.mpr ⟨fun z hz => ?_, ht⟩
        have hyz := hy z hz
        unfold Pfx.Before at *
        omega
      case isFalse hne =>
        refine List.pairwise_cons.mpr ⟨fun z hz => ?_, ih ht⟩
        rcases eq_or_mem_of_mem_insPfx hz with rfl | hz
        · unfold Pfx.Before
          omega
        · exact hy z hz

/-- In a bank in order the search from the front finds the longest match. -/
theorem find?_of_longest (hl : l.Pairwise (fun a b => b.len ≤ a.len)) (hp : p ∈ l) (hm : p.matches_ d = true)
    (hlong : ∀ q ∈ l, q.matches_ d = true → q ≠ p → q.len < p.len) : l.find? (fun q => q.matches_ d) = some p := by
  induction l with
  | nil => cases hp
  | cons y t ih =>
    obtain ⟨hy, ht⟩ := List.pairwise_cons.mp hl
    by_cases hyp : y = p
    · subst hyp
      exact List.find?_cons_of_pos hm
    · have hpt : p ∈ t := (List.mem_cons.mp hp).resolve_left (Ne.symm hyp)
      have hnot : ¬ y.matches_ d = true := fun hym =>
        Nat.not_lt.mpr (hy p hpt) (hlong y List.mem_cons_self hym hyp)
      rw [List.find?_cons_of_neg (p := fun q : Pfx => q.matches_ d) hnot]
      exact ih ht hpt (fun q hq => hlong q (List.mem_cons_of_mem y hq))

theorem routeOf_of_found {s : State} (h : s.tbl.pfx.find? (fun q => q.matches_ d) = some p)
    (hok : s.tbl.pfxBad.contains (p.key, p.len) = false) : routeOf s d = p.res := by
  simp only [routeOf, h, hok]
  rfl

end

/-! ### The commands -/

section
variable {r : CmdRef} {k l x : Nat} {s : State}

theorem exec_prefixInsert (h : goes s r 0x0410 1 = true) : exec (.prefixInsert r k l x) s =
    .next (doPrefixInsert r k l x (admitCmd r 0x0410 1 20 (.prefixInsert k l x) s)) :=
  congrArg Host.Outcome.next (runCmd_goes _ _ _ h)

theorem exec_prefixRemove (h : goes s r 0x0411 1 = true) : exec (.prefixRemove r k l) s =
    .next (doPrefixRemove r k l (admitCmd r 0x0411 1 20 (.prefixRemove k l) s)) :=
  congrArg Host.Outcome.next (runCmd_goes _ _ _ h)

theorem any_pfx_iff {ps : List Pfx} : ps.any (fun p => p.key == k && p.len == l) = true ↔ ∃ p ∈ ps, p.key = k ∧ p.len = l := by
  simp

theorem mem_otherPrefixes {ps : List Pfx} {p : Pfx} :
    p ∈ ps.filter (fun p => !(p.key == k && p.len == l)) ↔ p ∈ ps ∧ ¬(p.key = k ∧ p.len = l) := by
  rw [List.mem_filter, Bool.not_eq_true', ← Bool.not_eq_true, Bool.and_eq_true, beq_iff_eq, beq_iff_eq]

theorem doPrefixInsert_of_pass (ha : pfxBadArgs k l = false) (hx : bitsOf x 15 12 ≤ 4)
    (hroom : s.tbl.pfx.length < 8192 ∨ ∃ p ∈ s.tbl.pfx, p.key = k ∧ p.len = l) :
    ∃ bad, doPrefixInsert r k l x s = done r { s with tbl := { s.tbl with
      bank := 1 - s.tbl.bank, pfx := insPfx ⟨k, l, x⟩ s.tbl.pfx, shadow := s.tbl.pfx, pfxBad := bad } } := by
  have hform : (pfxBadArgs k l || decide (4 < bitsOf x 15 12)) = false := by
    rw [ha, decide_eq_false (Nat.not_lt.mpr hx)]
    rfl
  have hplace : (!s.tbl.pfx.any (fun p => p.key == k && p.len == l) && decide (8192 ≤ s.tbl.pfx.length)) = false := by
    rcases hroom with hlt | hin
    · rw [decide_eq_false (Nat.not_le.mpr hlt), Bool.and_false]
    · rw [any_pfx_iff.mpr hin]
      rfl
  simp only [doPrefixInsert, checked, hform, hplace]
  exact ⟨_, rfl⟩

theorem doPrefixInsert_of_long (h : 128 < l) : doPrefixInsert r k l x s = refuse r stBad 8 0x000B s := by
  have hform : (pfxBadArgs k l || decide (4 < bitsOf x 15 12)) = true := by simp [pfxBadArgs, h]
  simp only [doPrefixInsert, checked, hform, if_true]

theorem doPrefixRemove_of_present (ha : pfxBadArgs k l = false) (hin : ∃ p ∈ s.tbl.pfx, p.key = k ∧ p.len = l) :
    doPrefixRemove r k l s = done r (swapBank (s.tbl.pfx.filter (fun p => !(p.key == k && p.len == l))) s) := by
  simp only [doPrefixRemove, checked, ha, any_pfx_iff.mpr hin]
  rfl

theorem doPrefixRemove_of_absent (ha : pfxBadArgs k l = false) (hno : ∀ p ∈ s.tbl.pfx, ¬(p.key = k ∧ p.len = l)) :
    doPrefixRemove r k l s = refuse r stNoRoute 8 0 s := by
  have hany : s.tbl.pfx.any (fun p => p.key == k && p.len == l) = false := by
    rw [Bool.eq_false_iff, ne_eq, any_pfx_iff]
    exact fun ⟨p, hp, hkl⟩ => hno p hp hkl
  simp only [doPrefixRemove, checked, ha, hany]
  rfl

end

/-- Settles O33, by the checks of each command and what an insertion does to the list of a bank. -/
theorem prefixMemory : Obligations.PrefixMemory := by
  refine ⟨fun r k l x s hg ha hx hroom => ?inserted, fun r k l x s hg hl => ?long, fun r k l s hg ha hin => ?removed,
    fun r k l s hg ha hno => ?absent, fun s d p hl hp hm hlong hok => routeOf_of_found (find?_of_longest hl hp hm hlong) hok⟩
  case inserted =>
    obtain ⟨bad, e⟩ := doPrefixInsert_of_pass (r := r) (s := admitCmd r 0x0410 1 20 (.prefixInsert k l x) s) ha hx (by simpa using hroom)
    refine ⟨_, (exec_prefixInsert hg).trans (congrArg _ e), ?_⟩
    simp only [done_tbl, done_regs, done_sch, admitCmd_tbl, admitCmd_regs, admitCmd_sch]
    exact ⟨trivial, trivial, mem_insPfx_self _ _, fun p hp => mem_insPfx_of_ne hp, pairwise_insPfx, trivial, trivial, trivial⟩
  case long => rw [exec_prefixInsert hg, doPrefixInsert_of_long hl]
  case removed =>
    refine ⟨_, (exec_prefixRemove hg).trans (congrArg _ (doPrefixRemove_of_present ha (by simpa using hin))), ?_⟩
    simp only [swapBank, done_tbl, done_regs, done_sch, admitCmd_tbl, admitCmd_regs, admitCmd_sch]
    exact ⟨trivial, fun p hp => (mem_otherPrefixes.mp hp).2, fun p hp => mem_otherPrefixes.trans (and_iff_left hp),
      trivial, trivial, trivial⟩
  case absent => rw [exec_prefixRemove hg, doPrefixRemove_of_absent ha (by simpa using hno)]

end Sys2Proof.Machine
end

section
/-! THEOREMS. Insertion, removal and reading of a node entry (R299 to R307, R417). -/
namespace Sys2Proof.Machine

/-! ### `NODE_INSERT` -/

section
variable {r : CmdRef} {op need n : Nat} {c : HostCmd} {s : State}

@[simp] theorem admitCmd_findEui (e : Nat) : findEui (admitCmd r op need n c s) e = findEui s e := admitCmd_keeps (findEui · e)

@[simp] theorem admitCmd_pathWay (b i : Nat) (path : List (Nat × Nat)) :
    pathWay (admitCmd r op need n c s) b i path = pathWay s b i path := admitCmd_keeps (pathWay · b i path)

@[simp] theorem admitCmd_walk (fuel i b : Nat) (path : List (Nat × Nat)) :
    walk (admitCmd r op need n c s) fuel i b path = walk s fuel i b path := by
  induction fuel generalizing i b path with
  | zero => simp only [walk]
  | succ fuel ih => simp only [walk, admitCmd_pathWay, admitCmd_tbl, ih]

@[simp] theorem admitCmd_placeFor (e : Nat) : placeFor (admitCmd r op need n c s) e = placeFor s e := by
  simp only [placeFor, admitCmd_tbl, admitCmd_walk]

@[simp] theorem admitCmd_movedEuis (ms : List (Nat × Nat)) : movedEuis (admitCmd r op need n c s) ms = movedEuis s ms :=
  admitCmd_keeps (movedEuis · ms)

@[simp] theorem admitCmd_newNode (i : Nat) (a : InsertArgs) : newNode (admitCmd r op need n c s) i a = newNode s i a :=
  admitCmd_keeps (newNode · i a)

end

/-- The write of the cell that an insertion at index `i` names, for ASN `m` and 2 (R417). -/
def cellHeld (a : InsertArgs) (i m : Nat) (t : State) : State :=
  match a.cell with
  | some c => { t with sch := { t.sch with writes := t.sch.writes ++ [⟨none, m + 2, c.sfh,
      ((sfAt t c.sfh (m + 2)).map SfUse.act).getD 0, [⟨c.slot, c.pos, insertWord c i⟩]⟩] } }
  | none => t

section
variable {r : CmdRef} {a : InsertArgs} {p : Place} {n : Node} {w : Nat} {s : State}

theorem exec_nodeInsert (h : goes s r 0x0401 1 = true) : exec (.nodeInsert r a) s =
    .next (doNodeInsert r a (admitCmd r 0x0401 1 24 (.nodeInsert a) s)) :=
  congrArg Host.Outcome.next (runCmd_goes _ _ _ h)

theorem doNodeInsert_of_present (hc : a.cls < 8) (hn : findEui s a.eui = some n) :
    doNodeInsert r a s = complete r stBadState 8 n.idx 0 s := by
  rw [doNodeInsert, if_neg (by omega), hn]

theorem doNodeInsert_of_full (hc : a.cls < 8) (hn : findEui s a.eui = none) (hp : placeFor s a.eui = none) :
    doNodeInsert r a s = refuse r stTableFull 8 0 (bump 0xB0028 s) := by
  rw [doNodeInsert, if_neg (by omega), hn, hp]

theorem doNodeInsert_of_place (hc : a.cls < 8) (hn : findEui s a.eui = none) (hp : placeFor s a.eui = some p)
    (hcell : a.cell.bind (fun c => insertCellBad (placed s p a) c p.idx) = none) :
    doNodeInsert r a s = doneWith r (p.idx + p.moves.length * 2 ^ 32) (bumpIf (stashBase ≤ p.idx) 0xB002C
      (bump 0xB0020 (bumpN 0xB0024 p.moves.length
        ((movedEuis s p.moves).foldl (fun w m => movedEvent m.1 m.2 w) (cellHeld a p.idx (asnNow s) (placed s p a)))))) := by
  rw [doNodeInsert, if_neg (by omega), hn]
  simp only [hp, hcell]
  rfl

theorem placeFor_of_freeWay {e : Nat} (h : freeWay s.tbl.nodes (hash0 e) = some w) : placeFor s e = some ⟨4 * hash0 e + w, []⟩ := by
  rw [placeFor, h]

/-- With a free way of the first bucket and no cell, an insertion is the entry and its counts. -/
theorem doNodeInsert_of_freeWay (hc : a.cls < 8) (hcell : a.cell = none) (hn : findEui s a.eui = none)
    (hw : freeWay s.tbl.nodes (hash0 a.eui) = some w) :
    ∃ b, doNodeInsert r a s = doneWith r (4 * hash0 a.eui + w) (bumpIf b 0xB002C (bump 0xB0020 (bumpN 0xB0024 0
      (withNodes (putNodeIn (newNode s (4 * hash0 a.eui + w) a)) s)))) := by
  rw [doNodeInsert_of_place hc hn (placeFor_of_freeWay hw) (by rw [hcell]; rfl), cellHeld, hcell]
  simp only [movedEuis, placed, List.map_nil, List.foldl_nil, List.length_nil, Nat.zero_mul, Nat.add_zero]
  exact ⟨_, rfl⟩

end

/-! ### `NODE_REMOVE` -/

section
variable {r : CmdRef} {i e : Nat} {s : State}

theorem sweepTombs_eq (s : State) : ∃ w ns, sweepTombs s = { s with cnt := w, tbl := { s.tbl with nodes := ns } } := ⟨_, _, rfl⟩

/-- A new parent touches the entries and the counters alone. -/
theorem setParent_eq (i p : Nat) (s : State) : ∃ w ns, setParent i p s = { s with cnt := w, tbl := { s.tbl with nodes := ns } } := by
  unfold setParent
  split
  case h_1 n _ =>
    obtain ⟨w, ns, e⟩ := sweepTombs_eq (modNode i (fun m => { m with parent := p }) (childRef p true (childRef n.parent false s)))
    rw [e]
    exact ⟨w, ns, rfl⟩
  · exact ⟨_, _, rfl⟩

/-- Steps 1 to 4 of R304 end the frames of the node, free its reassembly contexts and take its parent. -/
theorem unhook_eq (i st : Nat) (s : State) : ∃ h w x q ns hd, unhook i st s = { s with
    hif := h, cnt := w, tx := x, que := q, herd := hd
    tbl := { s.tbl with nodes := ns }
    adp := { s.adp with ctxs := s.adp.ctxs.filter (fun c => c.node != i) } } := by
  unfold unhook
  dsimp only
  generalize List.filter _ _ = ids
  obtain ⟨h, w, x, q, ns, e⟩ := framesDone_eq ids st s
  rw [e]
  obtain ⟨w', ns', e'⟩ := setParent_eq i noParent
    { freeCtxs i { s with hif := h, cnt := w, tx := x, que := q, tbl := { s.tbl with nodes := ns } } with
      herd := { s.herd with items := s.herd.items ++ [.lost i] } }
  exact ⟨_, _, _, _, _, _, e'⟩

/-- The last step of R304: a pinned entry stays as a tombstone, any other goes. -/
def dropEntry (i : Nat) (t : State) : State :=
  match entryAt t i with
  | some n =>
    if pinnedButTomb t n then modNode i (fun m => { m with tomb := true }) t
    else withNodes (fun l => l.filter (fun m => m.idx != i)) t
  | none => t

theorem removeNode_eq_dropEntry (i : Nat) (s : State) : removeNode i s = dropEntry i (bump 0xB0030 (unhook i stNoNode s)) := rfl

theorem dropEntry_eq (i : Nat) (t : State) : ∃ ns, dropEntry i t = { t with tbl := { t.tbl with nodes := ns } } := by
  unfold dropEntry
  split
  · split
    · exact ⟨_, rfl⟩
    · exact ⟨_, rfl⟩
  · exact ⟨_, rfl⟩

theorem nodeAt_of_entryAt_none (h : entryAt s i = none) : nodeAt s i = none := by
  simp only [entryAt, nodeAt, List.find?_eq_none, beq_iff_eq] at *
  simp +contextual [h]

theorem nodeAt_modNode_tomb (i : Nat) (s : State) : nodeAt (modNode i (fun m => { m with tomb := true }) s) i = none := by
  simp only [nodeAt, modNode, withNodes, List.find?_eq_none, List.forall_mem_map]
  intro n _
  split
  · simp
  case isFalse h => simp [h]

theorem nodeAt_withNodes_filter (i : Nat) (s : State) : nodeAt (withNodes (fun l => l.filter (fun m => m.idx != i)) s) i = none := by
  simp only [nodeAt, withNodes, List.find?_eq_none, List.mem_filter]
  rintro n ⟨-, hn⟩
  simp [bne_iff_ne.mp hn]

/-- Either way no live entry is left. -/
theorem nodeAt_dropEntry (i : Nat) (t : State) : nodeAt (dropEntry i t) i = none := by
  unfold dropEntry
  split
  · split
    · exact nodeAt_modNode_tomb i t
    · exact nodeAt_withNodes_filter i t
  case h_2 h => exact nodeAt_of_entryAt_none h

theorem nodeAt_removeNode (i : Nat) (s : State) : nodeAt (removeNode i s) i = none := by
  rw [removeNode_eq_dropEntry, nodeAt_dropEntry]

theorem nodeAt_done (i : Nat) : nodeAt (done r s) i = nodeAt s i := rfl

theorem removeNode_eq (i : Nat) (s : State) : ∃ h w x q ns hd, removeNode i s = { s with
    hif := h, cnt := w, tx := x, que := q, herd := hd
    tbl := { s.tbl with nodes := ns }
    adp := { s.adp with ctxs := s.adp.ctxs.filter (fun c => c.node != i) } } := by
  obtain ⟨h, w, x, q, ns, hd, e⟩ := unhook_eq i stNoNode s
  obtain ⟨ns', e'⟩ := dropEntry_eq i (bump 0xB0030 (unhook i stNoNode s))
  rw [removeNode_eq_dropEntry, e', e]
  exact ⟨_, _, _, _, _, _, rfl⟩

theorem exec_nodeRemove (h : goes s r 0x0402 1 = true) : exec (.nodeRemove r i e) s =
    .next (doNodeRemove r i e (admitCmd r 0x0402 1 0 (.nodeRemove i e) s)) :=
  congrArg Host.Outcome.next (runCmd_goes _ _ _ h)

theorem doNodeRemove_of_held (h : (nodeAt s i).map Node.eui = some e) : doNodeRemove r i e s = done r (removeNode i s) := by
  obtain ⟨n, hn, he⟩ := Option.map_eq_some_iff.mp h
  simp only [doNodeRemove, hn, if_pos he]

theorem doNodeRemove_of_notHeld (h : (nodeAt s i).map Node.eui ≠ some e) : doNodeRemove r i e s = refuse r stNoNode 8 0 s := by
  rw [doNodeRemove]
  split
  case h_1 n hn =>
    rw [if_neg]
    rintro rfl
    exact h (by rw [hn]; rfl)
  case h_2 => rfl

end

/-! ### `NODE_READ` -/

section
variable {r : CmdRef} {b : Bool} {k addr : Nat} {n : Node} {s : State}

theorem exec_nodeRead (h : goes s r 0x0403 1 = true) : exec (.nodeRead r b k addr) s =
    .next (doNodeRead r b k addr (admitCmd r 0x0403 1 24 (.nodeRead b k addr) s)) :=
  congrArg Host.Outcome.next (runCmd_goes _ _ _ h)

@[simp] theorem admitCmd_entryAt {op need m : Nat} {c : HostCmd} (i : Nat) : entryAt (admitCmd r op need m c s) i = entryAt s i :=
  admitCmd_keeps (entryAt · i)

@[simp] theorem admitCmd_nodeWords {op need m : Nat} {c : HostCmd} : nodeWords (admitCmd r op need m c s) n = nodeWords s n :=
  admitCmd_keeps (nodeWords · n)

theorem doNodeRead_of_found (h : (if b then findEui s k else entryAt s k) = some n) :
    doNodeRead r b k addr s = doneWith r n.idx (writeOut addr ((nodeWords s n).flatMap (octetsLE 4)) s) := by
  rw [doNodeRead, h]

theorem doNodeRead_of_none (h : (if b then findEui s k else entryAt s k) = none) :
    doNodeRead r b k addr s = refuse r stNoNode 8 0 s := by
  rw [doNodeRead, h]

end

/-- Settles O30, by the branches of each command. -/
theorem nodeTable : Obligations.NodeTable := by
  refine ⟨fun r a p s hg hc hn hp hcell => ?placed, fun r a w s hg hc hcell hn hw => ?freeWay, fun r a n s hg hc hn => ?present,
    fun r a s hg hc hn hp => ?full, fun r i e s hg h => ?notHeld, fun r i e s hg h => ?held, fun r b k addr n s hg h => ?found,
    fun r b k addr s hg h => ?none⟩
  case placed =>
    rw [exec_nodeInsert hg, doNodeInsert_of_place hc (by simpa using hn) (by simpa using hp) hcell, admitCmd_movedEuis, admitCmd_asnNow]
    rfl
  case freeWay =>
    obtain ⟨b, e⟩ := doNodeInsert_of_freeWay (r := r) (s := admitCmd r 0x0401 1 24 (.nodeInsert a) s) hc hcell (by simpa using hn)
      (by simpa using hw)
    refine ⟨_, (exec_nodeInsert hg).trans (congrArg _ e), ?_⟩
    simp [withNodes]
  case present => rw [exec_nodeInsert hg, doNodeInsert_of_present hc (by simpa using hn)]
  case full => rw [exec_nodeInsert hg, doNodeInsert_of_full hc (by simpa using hn) (by simpa using hp)]
  case notHeld => rw [exec_nodeRemove hg, doNodeRemove_of_notHeld (by simpa using h)]
  case held =>
    refine ⟨_, (exec_nodeRemove hg).trans (congrArg _ (doNodeRemove_of_held (by simpa using h))), ?_⟩
    obtain ⟨h, w, x, q, ns, hd, e⟩ := removeNode_eq i (admitCmd r 0x0402 1 0 (.nodeRemove i e) s)
    rw [nodeAt_done, nodeAt_removeNode]
    simp [e]
  case found =>
    refine ⟨_, (exec_nodeRead hg).trans (congrArg _ (doNodeRead_of_found (n := n) (by simpa using h))), ?_⟩
    simp [writeOut]
  case none => rw [exec_nodeRead hg, doNodeRead_of_none (by simpa using h)]

end Sys2Proof.Machine
end

section
/-! SUPPORT. A property of the fuses survives every command that does not program them, and programming where it survives that:
one lemma for each operation of the model that changes the state, in the order of their definitions (R315 to R320, R423). -/
namespace Sys2Proof.Machine

/- These many short proofs are elaborated in their order: side by side with the model's tests they pass the check's memory. -/
set_option Elab.async false

/-- The property `P` of the fuses holds in state `s`. -/
def Fused (P : Nat × Nat × Nat → Prop) (s : State) : Prop := P s.sec.fuses

section
variable {P : Nat × Nat × Nat → Prop} {s t : State}

/-- An update that leaves the security state alone. -/
theorem fused_upd {pending rdata fresh regs cnt active latch time rf rx bank tbl sch tx herd adp eth snap win ports captured que hif
    jrn pair err pwr} (h : Fused P s) :
    Fused P ⟨pending, rdata, fresh, regs, cnt, active, latch, time, rf, rx, bank, tbl, sch, tx, herd, adp, s.sec,
      eth, snap, win, ports, captured, que, hif, jrn, pair, err, pwr⟩ := h

theorem fused_setReg {a : Nat} {v : Word} (h : Fused P s) : Fused P (s.setReg a v) := h
theorem fused_bumpN {a n : Nat} (h : Fused P s) : Fused P (bumpN a n s) := h
theorem fused_bump {a : Nat} (h : Fused P s) : Fused P (bump a s) := h
theorem fused_bumpIf {c : Bool} {a : Nat} (h : Fused P s) : Fused P (bumpIf c a s) := h
theorem fused_event {k : Nat} {l : List Nat} (h : Fused P s) : Fused P (event k l s) := h
theorem fused_journal {b : JBody} (h : Fused P s) : Fused P (journal b s) := h
theorem fused_post {r : CmdRef} {st u x d : Nat} (h : Fused P s) : Fused P (post r st u x d s) := h
theorem fused_complete {r : CmdRef} {st u x d : Nat} (h : Fused P s) : Fused P (complete r st u x d s) := h
theorem fused_done {r : CmdRef} (h : Fused P s) : Fused P (done r s) := h
theorem fused_doneWith {r : CmdRef} {n : Nat} (h : Fused P s) : Fused P (doneWith r n s) := h
theorem fused_refuse {r : CmdRef} {st u d : Nat} (h : Fused P s) : Fused P (refuse r st u d s) := h
theorem fused_sweepTombs (h : Fused P s) : Fused P (sweepTombs s) := h
theorem fused_movedEvent {e m} (h : Fused P s) : Fused P (movedEvent e m s) := h
theorem fused_journalCfg {a v} (h : Fused P s) : Fused P (journalCfg a v s) := h
theorem fused_openJournal {reason} (h : Fused P s) : Fused P (openJournal reason s) := h
theorem fused_closeJournal {reason} (h : Fused P s) : Fused P (closeJournal reason s) := h
theorem fused_poolDrop {c k} (h : Fused P s) : Fused P (poolDrop c k s) := h
theorem fused_countSteer {x} (h : Fused P s) : Fused P (countSteer x s) := h
theorem fused_clearCore (h : Fused P s) : Fused P (clearCore s) := h
theorem fused_postErr {r} (h : Fused P s) : Fused P (postErr r s) := h
theorem fused_calResult {port kind ok t0} (h : Fused P s) : Fused P (calResult port kind ok t0 s) := h
theorem fused_hcnt {k} (h : Fused P s) : Fused P (hcnt k s) := h
theorem fused_demDisc {k} (h : Fused P s) : Fused P (demDisc k s) := h
theorem fused_goNoisy {edge} (h : Fused P s) : Fused P (goNoisy edge s) := h
theorem fused_drainEth {p} (h : Fused P s) : Fused P (drainEth p s) := h
theorem fused_standbyLost (h : Fused P s) : Fused P (standbyLost s) := h
theorem fused_tamperKeys {bit} (h : Fused P s) : Fused P (tamperKeys bit s) := h
theorem fused_pwrEvent {old new cause} (h : Fused P s) : Fused P (pwrEvent old new cause s) := h
theorem fused_endDesc {r ref d st un de} (h : Fused P s) : Fused P (endDesc r ref d st un de s) := h

theorem fused_ite {c : Prop} [Decidable c] (hs : Fused P s) (ht : Fused P t) : Fused P (if c then s else t) := by
  split
  · exact hs
  · exact ht

/-- A conditional change of a state. -/
theorem fused_when {c : Prop} [Decidable c] (ht : Fused P s → Fused P t) (h : Fused P s) : Fused P (if c then t else s) :=
  fused_ite (ht h) h

theorem fused_unless {c : Prop} [Decidable c] (ht : Fused P s → Fused P t) (h : Fused P s) : Fused P (if c then s else t) :=
  fused_ite h (ht h)

theorem fused_foldl {α : Type} {f : State → α → State} {l : List α} (hf : ∀ u x, Fused P u → Fused P (f u x)) (h : Fused P s) :
    Fused P (l.foldl f s) := by
  induction l generalizing s with
  | nil => exact h
  | cons x l ih => exact ih (hf s x h)

theorem fused_coreOnly (hs : Fused P s) (ht : Fused P t) : Fused P (coreOnly s t) := fused_ite ht hs

theorem fused_jwr {f : State → State} (hf : ∀ u, Fused P u → Fused P (f u)) (h : Fused P s) : Fused P (jwr f s) :=
  fused_ite h (fused_ite h (hf s h))

theorem fused_eventIf {c : Bool} {k : Nat} {l : List Nat} (h : Fused P s) : Fused P (eventIf c k l s) := fused_ite h h

theorem fused_admitCmd {r : CmdRef} {op need n : Nat} {c : HostCmd} (h : Fused P s) : Fused P (admitCmd r op need n c s) := by
  rw [Fused, admitCmd_sec]
  exact h

theorem fused_runCmd {r : CmdRef} {op need n : Nat} {c : HostCmd} {body : State → State}
    (hb : ∀ u, Fused P u → Fused P (body u)) (h : Fused P s) : Fused P (runCmd r op need n c s body) := by
  rcases runCmd_cases r op need n c s body with ⟨-, e⟩ | ⟨-, st, u, d, -, e⟩ | ⟨-, e⟩ <;> rw [e]
  · exact h
  · exact fused_refuse (fused_admitCmd h)
  · exact hb _ (fused_admitCmd h)

theorem fused_checked {r : CmdRef} {l : List (Bool × Nat × Nat × Nat)} {f : State → State}
    (hf : ∀ u, Fused P u → Fused P (f u)) (h : Fused P s) : Fused P (checked r l f s) := by
  rcases checked_cases r l f s with ⟨-, e⟩ | ⟨x, -, -, e⟩
  · rw [e]; exact hf s h
  · rw [e]; exact h

/-- A meaning answers a next state in which `P` holds of the fuses. -/
def Yields (P : Nat × Nat × Nat → Prop) (r : Res) : Prop := ∃ t, r = .next t ∧ Fused P t

theorem yields_next (h : Fused P t) : Yields P (.next t) := ⟨t, rfl, h⟩

theorem yields_ite {c : Prop} [Decidable c] {a b : Res} (ha : Yields P a) (hb : Yields P b) :
    Yields P (if c then a else b) := by
  split
  · exact ha
  · exact hb

/-! ### Frames and their ends -/

theorem fused_setParent {i p} (h : Fused P s) : Fused P (setParent i p s) := by
  unfold setParent
  split
  · exact fused_sweepTombs (fused_upd (fused_upd (fused_upd h)))
  · exact h

/-- Linked frames change the packet memory and their node's list. -/
theorem fused_linkNode {i : Nat} {k : FrameKind} {c : Option CmdRef} {os : List (List Octet)} (e : linkNode i k c os s = some t)
    (h : Fused P s) : Fused P t := by
  unfold linkNode at e
  split at e
  · cases e
  · split at e
    · cases e
    · split at e
      · cases e
      · cases e
        exact h

theorem fused_linkBulk {k : FrameKind} {c : Option CmdRef} {i n : Nat} {os : List (List Octet)}
    (e : linkBulk k c i n os s = some t) (h : Fused P s) : Fused P t := by
  unfold linkBulk at e
  split at e
  · cases e
  · cases e
    exact h

theorem fused_partDone {r part st} (h : Fused P s) : Fused P (partDone r part st s) := by
  unfold partDone
  dsimp only
  split
  · exact h
  · exact fused_ite h h

theorem fused_endFrame {st f} (h : Fused P s) : Fused P (endFrame st f s) := by
  unfold endFrame
  dsimp only
  split
  · exact fused_partDone h
  · exact h

theorem fused_frameDone {id st} (h : Fused P s) : Fused P (frameDone id st s) := by
  unfold frameDone
  split
  · exact fused_foldl (fun _ _ => fused_endFrame) h
  · exact h

theorem fused_lastTry {id st} (h : Fused P s) : Fused P (lastTry id st s) := by
  unfold lastTry
  split
  · exact fused_ite (fused_frameDone h) h
  · exact h

theorem fused_framesDone {ids st} (h : Fused P s) : Fused P (framesDone ids st s) :=
  fused_foldl (fun _ _ => fused_frameDone) h

theorem fused_cellOut {k asn sfh node} (h : Fused P s) : Fused P (cellOut k asn sfh node s) := fused_eventIf h

/-! ### Slotframes and cells -/

theorem fused_abortTx {t} (h : Fused P s) : Fused P (abortTx t s) := by
  unfold abortTx
  dsimp only
  split
  · exact fused_frameDone (fused_cellOut h)
  · exact fused_cellOut h

theorem fused_withdraw {n hit} (h : Fused P s) : Fused P (withdraw n hit s) := fused_foldl (fun _ _ => fused_abortTx) h

theorem fused_doSlotframeSet {r a} (h : Fused P s) : Fused P (doSlotframeSet r a s) :=
  fused_checked (fun _ hu => fused_unless fused_withdraw hu) h

theorem fused_sfBegin {k u} (h : Fused P s) : Fused P (sfBegin k u s) := by
  unfold sfBegin
  dsimp only
  split <;> exact h

theorem fused_closeSixps (h : Fused P s) : Fused P (closeSixps s) := fused_foldl (fun _ _ => id) h
theorem fused_dlsfGone (h : Fused P s) : Fused P (dlsfGone s) := fused_closeSixps h

theorem fused_sfRemove {k u} (h : Fused P s) : Fused P (sfRemove k u s) := by
  unfold sfRemove
  dsimp only
  split
  · exact fused_done (fused_sweepTombs (fused_when fused_dlsfGone (fused_upd (fused_upd (fused_upd h)))))
  · exact fused_sweepTombs (fused_when fused_dlsfGone (fused_upd (fused_upd (fused_upd h))))

theorem fused_sfEffect {k now} (h : Fused P s) : Fused P (sfEffect k now s) := by
  unfold sfEffect
  dsimp only
  refine fused_foldl ?_ h
  intro _ _ hu
  split
  · exact fused_when fused_sfRemove (fused_ite (fused_sfBegin hu) hu)
  · exact fused_ite (fused_sfBegin hu) hu

theorem fused_doCellsWrite {r sfh es} (h : Fused P s) : Fused P (doCellsWrite r sfh es s) :=
  fused_checked (fun _ => id) h

theorem fused_putCells {u es} (h : Fused P s) : Fused P (putCells u es s) :=
  fused_foldl (fun _ _ => id) h

theorem fused_cellsEffect {q} (h : Fused P s) : Fused P (cellsEffect q s) := by
  unfold cellsEffect
  dsimp only
  split
  · split <;> exact fused_putCells h
  · split <;> exact h

theorem yields_cellsWriteEffect (h : Fused P s) : Yields P (execCellsWriteEffect s) :=
  yields_next (fused_coreOnly h (fused_foldl (fun _ _ => fused_cellsEffect) h))

/-! ### The node table -/

theorem fused_moveEntry {a b} (h : Fused P s) : Fused P (moveEntry a b s) := by
  unfold moveEntry
  dsimp only
  split <;> exact h

theorem fused_placed {p a} (h : Fused P s) : Fused P (placed s p a) := fused_foldl (fun _ _ => fused_moveEntry) h

theorem fused_doNodeInsert {r a} (h : Fused P s) : Fused P (doNodeInsert r a s) := by
  unfold doNodeInsert
  dsimp only
  split
  · exact h
  · split
    · exact h
    · split
      · exact h
      · split
        · exact h
        · refine fused_doneWith (fused_bumpIf (fused_bump (fused_bumpN (fused_foldl (fun _ _ => fused_movedEvent) ?_))))
          split
          · exact fused_upd (fused_placed (a := a) h)
          · exact fused_placed h

theorem fused_unhook {i st} (h : Fused P s) : Fused P (unhook i st s) :=
  fused_setParent (fused_framesDone h)

theorem fused_removeNode {i} (h : Fused P s) : Fused P (removeNode i s) := by
  unfold removeNode
  extract_lets t
  have ht : Fused P t := fused_unhook h
  split
  · exact fused_ite ht ht
  · exact ht

theorem fused_doNodeRemove {r index eui} (h : Fused P s) : Fused P (doNodeRemove r index eui s) := by
  unfold doNodeRemove
  split
  · exact fused_ite (fused_done (fused_removeNode h)) (fused_refuse h)
  · exact fused_refuse h

theorem fused_doNodeRead {r byEui key outAddr} (h : Fused P s) : Fused P (doNodeRead r byEui key outAddr s) := by
  unfold doNodeRead
  split <;> exact h

theorem fused_learn {e a ts fields} (h : Fused P s) : Fused P (learn e a ts fields s) :=
  fused_ite h (fused_ite h h)

theorem fused_ageEntry {a i} (h : Fused P s) : Fused P (ageEntry a s i) := by
  unfold ageEntry
  dsimp only
  split
  · exact fused_ite h (fused_when fused_removeNode h)
  · exact h

theorem fused_drainOne {b} (h : Fused P s) : Fused P (drainOne b s) := by
  unfold drainOne
  split
  · exact fused_moveEntry h
  · exact h

theorem fused_visit {a p} (h : Fused P s) : Fused P (visit a p s) :=
  fused_when (fused_foldl (fun _ _ => fused_drainOne)) (fused_foldl (fun _ _ => fused_ageEntry) h)

theorem yields_ageingVisit (h : Fused P s) : Yields P (execAgeingVisit s) :=
  yields_next (fused_coreOnly h (fused_ite h (fused_upd (fused_foldl (fun _ _ => fused_visit) h))))

theorem fused_doPrefixInsert {r key len result} (h : Fused P s) : Fused P (doPrefixInsert r key len result s) :=
  fused_checked (fun _ => id) h

theorem fused_doPrefixRemove {r key len} (h : Fused P s) : Fused P (doPrefixRemove r key len s) :=
  fused_checked (fun _ => id) h

/-! ### The adaptation layer -/

theorem fused_downlink {c : Option CmdRef} {p : List Octet} {n k : Nat} (e : downlink c p s = .linked n k t) (h : Fused P s) :
    Fused P t := by
  unfold downlink at e
  split at e
  · cases e
  · split at e
    · cases e
    · split at e
      · cases e
      · split at e
        · cases e
        · split at e
          · cases e
          · dsimp only at e
            split at e
            · rename_i hl
              cases e
              exact fused_unless fused_upd (fused_linkNode hl h)
            · cases e

theorem fused_downDrop {p : List Octet} (h : Fused P s) : Fused P (downDrop p s) := by
  unfold downDrop
  split
  · rename_i e
    split at e
    · cases e
    · exact fused_downlink e h
  · exact h
  · exact h

theorem fused_route {o p} (h : Fused P s) : Fused P (route o p s) :=
  fused_ite h (fused_ite h (fused_ite h (fused_ite (fused_downDrop h)
    h)))

theorem fused_daoTarget {asn t} (h : Fused P s) : Fused P (daoTarget asn t s) := by
  unfold daoTarget
  dsimp only
  split
  · exact h
  · exact fused_setParent h

theorem fused_learnParents {asn p} (h : Fused P s) : Fused P (learnParents asn p s) :=
  fused_ite (fused_foldl (fun _ _ => fused_daoTarget) h) h

theorem fused_uplink {o p} (h : Fused P s) : Fused P (uplink o p s) :=
  fused_ite h (fused_ite h (fused_route (fused_learnParents h)))

theorem fused_addFrag {o c off p} (h : Fused P s) : Fused P (addFrag o c off p s) := by
  unfold addFrag
  dsimp only
  split
  · exact fused_uplink h
  · split <;> exact h

theorem fused_fragment {o tag size off p} (h : Fused P s) : Fused P (fragment o tag size off p s) := by
  unfold fragment
  split
  · exact h
  · split
    · exact h
    · split <;> exact fused_ite h (fused_ite h (fused_addFrag h))

theorem fused_payloadIn {o bcast pl} (h : Fused P s) : Fused P (payloadIn o bcast pl s) := by
  unfold payloadIn
  split
  · exact h
  · split
    · exact fused_uplink h
    · exact fused_fragment h
    · exact h

theorem yields_reasmExpire (h : Fused P s) : Yields P (execReasmExpire s) :=
  yields_next (fused_coreOnly h (fused_foldl (fun _ _ => id) h))

theorem yields_parentExpire {node} (h : Fused P s) : Yields P (execParentExpire node s) := by
  unfold execParentExpire
  refine yields_next (fused_coreOnly h ?_)
  split
  · exact fused_ite (fused_setParent h) h
  · exact h

/-! ### Rings and doorbells -/

theorem yields_dbCmdPi {page value descs} (h : Fused P s) : Yields P (execDbCmdPi page value descs s) := by
  unfold execDbCmdPi
  dsimp only
  refine yields_next ?_
  split <;> exact h

theorem yields_dbCplCi {page value} (h : Fused P s) : Yields P (execDbCplCi page value s) := by
  unfold execDbCplCi
  dsimp only
  refine yields_next ?_
  split <;> exact h

theorem yields_dbDlvCi {page value} (h : Fused P s) : Yields P (execDbDlvCi page value s) := by
  unfold execDbDlvCi
  dsimp only
  refine yields_next ?_
  split <;> exact h

theorem fused_deliverHead {d x items} (h : Fused P s) : Fused P (deliverHead d x items s) := by
  unfold deliverHead
  dsimp only
  split
  · exact fused_ite h h
  · exact h
  · exact h
  · exact h

theorem fused_dumpDone (h : Fused P s) : Fused P (dumpDone s) := by
  unfold dumpDone
  dsimp only
  split
  · exact fused_ite h h
  · exact h

theorem yields_recordDeliver {ring} (h : Fused P s) : Yields P (execRecordDeliver ring s) := by
  unfold execRecordDeliver
  refine yields_next ?_
  split
  · exact h
  · split
    · exact fused_ite (fused_dumpDone (fused_deliverHead h)) h
    · exact h
  · exact h

theorem yields_interruptSend {ring} (h : Fused P s) : Yields P (execInterruptSend ring s) := by
  unfold execInterruptSend
  dsimp only
  refine yields_next ?_
  split
  · split
    · split
      · exact fused_ite h h
      · exact h
    · exact h
  · split
    · split
      · exact fused_ite h h
      · exact h
    · exact h
  · exact h

theorem fused_ringStart {ring} (h : Fused P s) : Fused P (ringStart ring s) := by
  unfold ringStart
  dsimp only
  split
  · exact h
  · exact h
  · split <;> exact h

theorem fused_ringStop {ring} (h : Fused P s) : Fused P (ringStop ring s) := by
  unfold ringStop
  dsimp only
  split <;> exact h

theorem fused_ringCtlWrite {ring value} (h : Fused P s) : Fused P (ringCtlWrite ring value s) :=
  fused_ite h (fused_ite h (fused_ite h (fused_ite (fused_ringStop (fused_ite
    h h)) (fused_when fused_ringStart (fused_ite h h)))))

theorem yields_ringCtlWrite {ring value} (h : Fused P s) : Yields P (execRingCtlWrite ring value s) :=
  yields_next (fused_ite (fused_jwr (fun _ => fused_ringCtlWrite) h) (fused_ite (fused_ringCtlWrite h) h))

theorem fused_ringDown {ring} (h : Fused P s) : Fused P (ringDown s ring) :=
  fused_ite (fused_ringStop (fused_ite h h)) h

theorem fused_linkDown (h : Fused P s) : Fused P (linkDown s) := by
  unfold linkDown
  extract_lets _ _ s1 s2 s3
  have h1 : Fused P s1 := fused_upd h
  have h2 : Fused P s2 := fused_foldl (fun _ _ => fused_ringDown) h1
  have h3 : Fused P s3 := fused_unless (fun h => fused_setReg (fused_journalCfg h)) h2
  exact fused_upd h3

/-! ### Keys and the frame counter -/

theorem fused_fcStallCheck (h : Fused P s) : Fused P (fcStallCheck s) := fused_eventIf h
theorem fused_fcLowCheck (h : Fused P s) : Fused P (fcLowCheck s) := fused_eventIf h
theorem fused_fcReserveCheck (h : Fused P s) : Fused P (fcReserveCheck s) := fused_eventIf h
theorem fused_drawFc (h : Fused P s) : Fused P (drawFc s) := fused_fcLowCheck (fused_fcReserveCheck h)

theorem fused_takeSwitch (h : Fused P s) : Fused P (takeSwitch s) := by
  unfold takeSwitch
  dsimp only
  split
  · exact fused_done (fused_upd h)
  · exact fused_upd h

theorem fused_switchIfDue {now} (h : Fused P s) : Fused P (switchIfDue now s) := by
  unfold switchIfDue
  split
  · exact fused_ite (fused_takeSwitch h) h
  · exact h

/-! ### Packets, broadcasts and images -/

theorem fused_sendPacket {r : CmdRef} {p : List Octet} (h : Fused P s) : Fused P (sendPacket r p s) := by
  unfold sendPacket
  split
  · exact fused_refuse h
  · exact fused_refuse h
  · exact fused_refuse h
  · exact fused_refuse (fused_poolDrop h)
  · rename_i e
    exact fused_upd (fused_downlink e h)

theorem fused_doPktSend {r p} (h : Fused P s) : Fused P (doPktSend r p s) := fused_checked (fun _ => fused_sendPacket) h

theorem fused_doBcastSend {r : CmdRef} {p : List Octet} {n k : Nat} (h : Fused P s) : Fused P (doBcastSend r p n k s) := by
  refine fused_checked (fun u hu => ?_) h
  split
  · rename_i e
    exact fused_upd (fused_linkBulk e hu)
  · exact fused_refuse (fused_poolDrop hu)

theorem fused_doImgOpen {r a} (h : Fused P s) : Fused P (doImgOpen r a s) := by
  unfold doImgOpen
  dsimp only
  refine fused_checked ?_ h
  intro _ hu
  split <;> exact hu

theorem fused_doImgLoad {r session offset data} (h : Fused P s) : Fused P (doImgLoad r session offset data s) := by
  unfold doImgLoad
  split
  · exact h
  · split
    · exact h
    · exact fused_ite h h

theorem fused_doImgSend {r session sbn esi count} (h : Fused P s) : Fused P (doImgSend r session sbn esi count s) := by
  unfold doImgSend
  dsimp only
  split
  · exact h
  · split
    · exact h
    · exact fused_checked (fun _ => id) h

theorem fused_linkSymbols {q : RqReq} {x : ImgSess} {i n : Nat} (h : Fused P s) : Fused P (linkSymbols q x i n s) := by
  induction n generalizing i s with
  | zero => exact h
  | succ n ih =>
    refine ih ?_
    split
    · rename_i e
      exact fused_linkBulk e h
    · exact fused_partDone h

theorem fused_linkDue {q} (h : Fused P s) : Fused P (linkDue q s) := by
  unfold linkDue
  dsimp only
  split
  · exact fused_linkSymbols h
  · exact h

theorem yields_imgSendLink (h : Fused P s) : Yields P (execImgSendLink s) :=
  yields_next (fused_coreOnly h (fused_ite (fused_foldl (fun _ _ => fused_linkDue) h) h))

theorem fused_doImgClose {r session} (h : Fused P s) : Fused P (doImgClose r session s) := by
  unfold doImgClose
  split
  · exact h
  · split
    · exact h
    · exact fused_ite h h

/-! ### The timebase -/

theorem fused_setTimeState {n} (h : Fused P s) : Fused P (setTimeState n s) := fused_eventIf h
theorem fused_setSource {c} (h : Fused P s) : Fused P (setSource c s) := fused_eventIf h
theorem fused_reselect (h : Fused P s) : Fused P (reselect s) := fused_setSource h

theorem fused_revertTo {l : List Nat} (h : Fused P s) : Fused P (revertTo l s) := by
  induction l generalizing s with
  | nil => exact h
  | cons c l ih => exact fused_ite (fused_setSource h) (fused_ite (ih h) (ih h))

theorem fused_revert (h : Fused P s) : Fused P (revert s) := fused_ite h (fused_revertTo h)

theorem fused_loadTime {value} (h : Fused P s) : Fused P (loadTime value s) :=
  fused_switchIfDue (fused_unless fused_openJournal (fused_upd (fused_upd h)))

theorem fused_slewOr {off} (h : Fused P s) : Fused P (slewOr off s) := fused_ite h h

theorem fused_followRef {off} (h : Fused P s) : Fused P (followRef off s) :=
  fused_ite (fused_setTimeState (fused_slewOr h)) (fused_ite h h)

theorem fused_timeTable {c acc changed lost off} (h : Fused P s) : Fused P (timeTable c acc changed lost off s) := by
  unfold timeTable
  dsimp only
  split
  · exact fused_when (fun hy => fused_ite (fused_followRef hy) (fused_ite (fused_loadTime hy) hy)) (fused_ite
    (fused_reselect h) h)
  · exact fused_ite (fused_reselect (fused_setTimeState h)) (fused_revert (fused_ite (fused_slewOr h) h))
  · exact fused_when fused_followRef (fused_ite (fused_reselect h) h)

theorem fused_sourceOutcome {c p outcome off} (h : Fused P s) : Fused P (sourceOutcome c p outcome off s) :=
  fused_ite h (fused_timeTable h)

theorem fused_reference {c p kind off pps mpd} (h : Fused P s) : Fused P (reference c p kind off pps mpd s) :=
  fused_ite h (fused_sourceOutcome h)

theorem fused_timeBoundary (h : Fused P s) : Fused P (timeBoundary s) := by
  unfold timeBoundary
  split
  · exact fused_ite (fused_setTimeState h) h
  · exact fused_ite (fused_setTimeState h) h
  · exact fused_revert h
  · exact h

/-! ### Preparation of cells -/

theorem fused_useKeyOpt {k} (h : Fused P s) : Fused P (useKeyOpt k s) := by
  unfold useKeyOpt
  split <;> exact h

theorem fused_drawFor {n} (h : Fused P s) : Fused P (drawFor n s) := fused_ite h (fused_drawFc h)

theorem fused_stageTx {t sub x mk level p} (h : Fused P s) : Fused P (stageTx t sub x mk level p s) := by
  unfold stageTx
  dsimp only
  refine fused_upd (fused_upd ?_)
  have hk := fused_countSteer (x := x) (fused_useKeyOpt (k := txKey s t.asn p.node t.kind) (fused_drawFor (n := t.asn) h))
  split
  · exact fused_upd hk
  · exact hk

theorem fused_countFail {k} (h : Fused P s) : Fused P (countFail k s) :=
  fused_ite h (fused_ite h (fused_ite h h))

theorem fused_prepCell {n sfh r named used a w} (h : Fused P s) : Fused P (prepCell n sfh r named used a w s) := by
  unfold prepCell
  dsimp only
  split
  · exact fused_upd (fused_cellOut h)
  · split
    · split
      · exact fused_frameDone (fused_upd (fused_cellOut (fused_countFail h)))
      · exact fused_upd (fused_cellOut (fused_countFail h))
    · refine fused_upd ?_
      exact fused_stageTx h

theorem fused_prepCells {n : Nat} {named used : List Nat} {l : List (Nat × SfRec × Nat × Word)} (h : Fused P s) :
    Fused P (prepCells n named used l s) := by
  induction l generalizing used s with
  | nil => exact h
  | cons x l ih => exact ih (fused_prepCell h)

theorem fused_prepSlot {n} (h : Fused P s) : Fused P (prepSlot n s) := fused_ite h (fused_prepCells h)

/-! ### Reports of the radio -/

theorem fused_portReached {p} (h : Fused P s) : Fused P (portReached p s) :=
  fused_ite (fused_foldl (fun _ _ => id) h) h

theorem fused_portIdle {p now} (h : Fused P s) : Fused P (portIdle p now s) :=
  fused_ite h (fused_ite h h)

theorem fused_spllStop (h : Fused P s) : Fused P (spllStop s) := by
  unfold spllStop
  extract_lets t
  have ht : Fused P t := fused_portReached (fused_portReached (fused_upd h))
  clear_value t
  exact fused_upd (fused_upd ht)

theorem fused_returnPorts (h : Fused P s) : Fused P (returnPorts s) :=
  fused_foldl (fun _ _ hu => fused_ite hu (fused_portReached hu)) h

theorem fused_deafClose {gone} (h : Fused P s) : Fused P (deafClose gone s) :=
  fused_foldl (fun _ _ hu => fused_ite hu hu) h

/-! ### Error records -/

theorem fused_setPair {n trig} (h : Fused P s) : Fused P (setPair n trig s) := fused_eventIf h

theorem fused_enterDiverged {trig mismatch} (h : Fused P s) : Fused P (enterDiverged trig mismatch s) :=
  fused_setPair h

theorem fused_freezeFor {c} (h : Fused P s) : Fused P (freezeFor c s) := fused_eventIf h
theorem fused_gapOut {d} (h : Fused P s) : Fused P (gapOut s d) := by
  unfold gapOut
  dsimp only
  split
  · exact fused_ite h h
  · exact h

theorem fused_gapRings (h : Fused P s) : Fused P (gapRings s) :=
  fused_foldl (fun _ _ => fused_gapOut) (fused_foldl (fun _ _ => id) h)

theorem fused_sendMsi {n} (h : Fused P s) : Fused P (sendMsi n s) := h

theorem fused_fatalReport {r} (h : Fused P s) : Fused P (fatalReport r s) := by
  unfold fatalReport
  extract_lets t
  have ht : Fused P t := fused_foldl (fun _ _ => fused_refuse) h
  clear_value t
  exact fused_sendMsi (fused_postErr (fused_gapRings ht))

theorem fused_deviceFatal {r} (h : Fused P s) : Fused P (deviceFatal r s) :=
  fused_when (fun hy => fused_enterDiverged hy) (fused_when fused_fatalReport (fused_freezeFor h))

theorem fused_raiseErr {a b c d e f g : Nat} (h : Fused P s) : Fused P (raiseErr a b c d e f g s) := by
  refine fused_ite (fused_bump h) ?_
  extract_lets _ c' _ r _ t
  have ht : Fused P t := fused_upd h
  exact fused_ite (fused_ite (fused_bump ht) (fused_when fused_postErr ht))
    (fused_ite (fused_bump (fused_upd ht)) (fused_ite (fused_deviceFatal ht) (fused_upd ht)))

/-! ### Ports and calibration -/

theorem fused_portGo {p} (h : Fused P s) : Fused P (portGo p s) :=
  fused_ite (fused_portIdle h) (fused_portReached h)

theorem fused_portEffect {p now} (h : Fused P s) : Fused P (portEffect p now s) :=
  fused_foldl (fun _ _ hu => fused_portGo hu) h

theorem fused_doRfPortSet {r port target} (h : Fused P s) : Fused P (doRfPortSet r port target s) :=
  fused_checked (fun _ hu => fused_when fused_portEffect (fused_when fused_withdraw hu)) h

theorem fused_transDone {p n at_} (h : Fused P s) : Fused P (transDone p n at_ s) :=
  fused_upd (fused_portReached (fused_unless fused_upd (fused_upd (fused_upd h))))

theorem yields_portTransitionDone {port} (h : Fused P s) : Yields P (execPortTransitionDone port s) := by
  unfold execPortTransitionDone
  refine yields_next ?_
  split
  · exact fused_transDone h
  · exact h

theorem fused_spllLeave {n : SpllState} (h : Fused P s) : Fused P (spllLeave n s) := by
  unfold spllLeave
  extract_lets t
  have ht : Fused P t := fused_event (fused_journal (fused_spllStop h))
  clear_value t
  exact fused_upd ht

theorem fused_spllLocked (h : Fused P s) : Fused P (spllLocked s) :=
  fused_returnPorts h

theorem fused_calStart {p now} (h : Fused P s) : Fused P (calStart p now s) := by
  unfold calStart
  dsimp only
  split
  · split
    · exact fused_ite h (fused_ite (fused_spllLeave h) h)
    · exact h
  · split
    · exact fused_ite h (fused_ite h (fused_ite h (fused_ite h h)))
    · exact h

theorem fused_doRfCalibrate {r port} (h : Fused P s) : Fused P (doRfCalibrate r port s) :=
  fused_checked (fun _ hu => fused_when fused_calStart (fused_ite hu hu)) h

theorem yields_calRunDone {port ok} (h : Fused P s) : Yields P (execCalRunDone port ok s) := by
  unfold execCalRunDone
  dsimp only
  refine yields_next ?_
  split
  · split
    · exact fused_ite (fused_done (fused_calResult (fused_ite (fused_spllLocked (fused_upd (fused_upd h))) (fused_upd (fused_upd
      (fused_upd h)))))) (fused_complete (fused_calResult (fused_ite (fused_spllLocked (fused_upd (fused_upd h))) (fused_upd
      (fused_upd (fused_upd h))))))
    · exact h
  · split
    · split
      · exact fused_ite (fused_done (fused_portGo (fused_calResult (fused_upd (fused_upd h))))) (fused_complete (fused_portGo
        (fused_calResult (fused_upd (fused_upd h)))))
      · exact fused_portGo (fused_calResult (fused_upd (fused_upd h)))
    · exact h

theorem yields_refLost (h : Fused P s) : Yields P (execRefLost s) :=
  yields_next (fused_ite h (fused_ite (fused_spllLeave (fused_raiseErr h))
    (fused_raiseErr h)))

theorem yields_refRecoveryTimeout (h : Fused P s) : Yields P (execRefRecoveryTimeout s) := by
  unfold execRefRecoveryTimeout
  refine yields_next ?_
  split
  · exact fused_ite (fused_raiseErr h) h
  · exact h

theorem fused_spllGiveUp (h : Fused P s) : Fused P (spllGiveUp s) :=
  fused_raiseErr (fused_foldl (fun _ _ hu => fused_foldl (fun _ _ => id) hu) h)

theorem yields_channelDeafStart {ch id} (h : Fused P s) : Yields P (execChannelDeafStart ch id s) := by
  unfold execChannelDeafStart
  dsimp only
  refine yields_next ?_
  split
  · exact fused_ite h h
  · exact h

theorem yields_channelDeafEnd {ch id} (h : Fused P s) : Yields P (execChannelDeafEnd ch id s) := by
  unfold execChannelDeafEnd
  dsimp only
  refine yields_next ?_
  split
  · split
    · exact fused_deafClose h
    · exact fused_ite h (fused_deafClose h)
  · exact h

theorem yields_coexClear (h : Fused P s) : Yields P (execCoexClear s) := by
  unfold execCoexClear
  refine yields_next ?_
  split
  · exact fused_ite h h
  · exact h

/-! ### Transmission -/

theorem yields_txPortWake {port} (h : Fused P s) : Yields P (execTxPortWake port s) := by
  unfold execTxPortWake
  dsimp only
  refine yields_next (fused_coreOnly h ?_)
  split
  · exact h
  · exact fused_ite h h

theorem yields_coexRequestAssert {id} (h : Fused P s) : Yields P (execCoexRequestAssert id s) := by
  unfold execCoexRequestAssert
  dsimp only
  refine yields_next (fused_coreOnly h ?_)
  split
  · exact fused_ite h h
  · exact h

theorem yields_txRampStart {id} (h : Fused P s) : Yields P (execTxRampStart id s) := by
  unfold execTxRampStart
  dsimp only
  refine yields_next (fused_coreOnly h ?_)
  split
  · exact fused_ite h (fused_ite h (fused_ite h h))
  · exact h

theorem yields_femLeadSwitch {id} (h : Fused P s) : Yields P (execFemLeadSwitch id s) := by
  unfold execFemLeadSwitch
  refine yields_next (fused_coreOnly h ?_)
  split
  · exact fused_ite h h
  · exact h

theorem fused_yieldOut {id outcome t} (h : Fused P s) : Fused P (yieldOut id outcome t s) :=
  fused_unless fused_portGo (fused_portIdle h)

theorem fused_sampleGrant {granted} (h : Fused P s) : Fused P (sampleGrant granted s) :=
  fused_ite h (fused_eventIf h)

theorem yields_txInstant {id granted lbtBusy} (h : Fused P s) : Yields P (execTxInstant id granted lbtBusy s) := by
  unfold execTxInstant
  dsimp only
  refine yields_next (fused_coreOnly h ?_)
  split
  · split
    · exact h
    · split
      · exact fused_upd (fused_upd h)
      · split
        · exact fused_upd h
        · refine fused_ite (fused_yieldOut (fused_upd h)) (fused_ite (fused_upd (fused_upd (fused_yieldOut ?_)))
            (fused_upd (fused_upd ?_))) <;> exact fused_bumpIf (fused_sampleGrant (fused_upd h))
  · exact h

theorem yields_txHoldExpire {id} (h : Fused P s) : Yields P (execTxHoldExpire id s) := by
  unfold execTxHoldExpire
  refine yields_next (fused_coreOnly h ?_)
  split
  · exact fused_ite (fused_bump (fused_yieldOut (fused_upd h))) h
  · exact h

theorem fused_retryFrame {id} (h : Fused P s) : Fused P (retryFrame id s) := by
  unfold retryFrame
  dsimp only
  split
  · exact fused_ite (fused_lastTry h) (fused_frameDone h)
  · exact h

theorem fused_noAck {interrupted t} (h : Fused P s) : Fused P (noAck interrupted t s) := by
  unfold noAck
  dsimp only
  refine fused_sweepTombs ?_
  split
  · exact fused_retryFrame (fused_upd (fused_cellOut (fused_upd h)))
  · exact fused_upd (fused_cellOut (fused_upd h))

theorem fused_ackSync {t} (h : Fused P s) : Fused P (ackSync t s) := by
  unfold ackSync
  split
  · split <;> exact h
  · exact h

theorem fused_outcomeIn {t : Tx} {o n : Nat} (h : Fused P s) : Fused P (outcomeIn t o n s) := by
  refine fused_ite (fused_ite (fused_upd h) (fused_noAck (fused_upd h)))
    (fused_ite h (fused_ite (fused_ackSync (fused_upd (fused_upd (fused_upd h)))) (fused_sweepTombs ?_)))
  split
  · exact fused_lastTry (fused_cellOut (fused_upd (fused_upd h)))
  · exact fused_cellOut (fused_upd (fused_upd h))

theorem yields_txOutcome {id outcome hold} (h : Fused P s) : Yields P (execTxOutcome id outcome hold s) := by
  unfold execTxOutcome
  dsimp only
  refine yields_next (fused_coreOnly h ?_)
  split
  · exact fused_outcomeIn h
  · exact h

theorem yields_txFrameEnd {id} (h : Fused P s) : Yields P (execTxFrameEnd id s) := by
  unfold execTxFrameEnd
  dsimp only
  refine yields_next (fused_coreOnly h ?_)
  split
  · split
    · exact h
    · split
      · exact fused_upd (fused_portIdle (fused_upd (fused_upd (fused_upd h))))
      · refine fused_sweepTombs ?_
        split
        · exact fused_frameDone (fused_cellOut (fused_upd (fused_portIdle (fused_upd (fused_upd (fused_upd h))))))
        · exact fused_cellOut (fused_upd (fused_portIdle (fused_upd (fused_upd (fused_upd h)))))
      · refine fused_sweepTombs ?_
        split
        · exact fused_frameDone (fused_cellOut (fused_upd (fused_portIdle (fused_upd (fused_upd (fused_upd h))))))
        · exact fused_cellOut (fused_upd (fused_portIdle (fused_upd (fused_upd (fused_upd h)))))
      · split
        · exact fused_upd (fused_portIdle (fused_upd (fused_upd (fused_upd h))))
        · refine fused_sweepTombs ?_
          split
          · exact fused_frameDone (fused_cellOut (fused_upd (fused_portIdle (fused_upd (fused_upd (fused_upd h))))))
          · exact fused_cellOut (fused_upd (fused_portIdle (fused_upd (fused_upd (fused_upd h)))))
      · split
        · exact fused_upd (fused_portIdle (fused_upd (fused_upd (fused_upd h))))
        · refine fused_sweepTombs ?_
          split
          · exact fused_frameDone (fused_cellOut (fused_upd (fused_portIdle (fused_upd (fused_upd (fused_upd h))))))
          · exact fused_cellOut (fused_upd (fused_portIdle (fused_upd (fused_upd (fused_upd h)))))
  · exact h

theorem yields_txLingerExpire {port} (h : Fused P s) : Yields P (execTxLingerExpire port s) := by
  unfold execTxLingerExpire
  dsimp only
  refine yields_next ?_
  split
  · exact fused_ite h h
  · exact h

theorem yields_femHoldExpire {port} (h : Fused P s) : Yields P (execFemHoldExpire port s) := by
  unfold execFemHoldExpire
  dsimp only
  refine yields_next ?_
  split <;> exact h

theorem yields_ackWindowClose {id} (h : Fused P s) : Yields P (execAckWindowClose id s) := by
  unfold execAckWindowClose
  refine yields_next (fused_coreOnly h ?_)
  split
  · exact fused_ite (fused_noAck h) h
  · exact h

/-! ### The herd engine -/

theorem fused_notice {i : Nat} (h : Fused P s) : Fused P (notice i s) := by
  unfold notice
  split
  · split
    · exact h
    · split
      · rename_i e
        exact fused_hcnt (fused_linkNode e h)
      · exact h
  · exact h

theorem fused_announce {i k v} (h : Fused P s) : Fused P (announce i k v s) :=
  fused_notice (fused_upd (fused_when fused_upd (fused_upd h)))

theorem fused_annsAcked {i carried} (h : Fused P s) : Fused P (annsAcked i carried s) :=
  fused_foldl (fun _ _ => id) h

theorem fused_announceMap {n nd} (h : Fused P s) : Fused P (announceMap n nd s) := fused_ite h h
theorem fused_adviseMap {n i old new} (h : Fused P s) : Fused P (adviseMap n i old new s) := fused_ite h h

theorem fused_setDrop {n nd d} (h : Fused P s) : Fused P (setDrop n nd d s) := by
  unfold setDrop
  dsimp only
  split
  · exact fused_announceMap (fused_adviseMap h)
  · exact fused_adviseMap h

theorem fused_recheckMap {n was nd} (h : Fused P s) : Fused P (recheckMap n was s nd) := by
  unfold recheckMap
  dsimp only
  split
  · exact fused_announceMap (fused_adviseMap (fused_ite h h))
  · exact fused_adviseMap (fused_ite h h)

theorem fused_readmit {n i} (h : Fused P s) : Fused P (readmit n i s) := by
  unfold readmit
  dsimp only
  split
  · exact h
  · exact fused_ite (fused_setDrop h) (fused_announceMap h)

theorem fused_afterPsrg {n i g} (h : Fused P s) : Fused P (afterPsrg n i g s) := by
  unfold afterPsrg
  dsimp only
  split
  · exact fused_when fused_setDrop (fused_readmit h)
  · exact fused_readmit h

theorem fused_adapt {n i : Nat} (h : Fused P s) : Fused P (adapt n i s) := by
  unfold adapt
  split
  · exact h
  · extract_lets _ _ step t
    clear_value step
    have ht : Fused P t := by
      dsimp only [t]
      split
      · exact fused_when fused_hcnt (fused_upd (fused_upd h))
      · exact h
    refine fused_ite ht ?_
    split
    · exact fused_upd ht
    · exact ht

theorem fused_hintTo {n i v} (h : Fused P s) : Fused P (hintTo n i v s) := by
  unfold hintTo
  split
  · exact fused_ite h h
  · exact h

theorem fused_rootHint {n i} (h : Fused P s) : Fused P (rootHint n i s) := by
  unfold rootHint
  split
  · exact fused_ite (fused_hintTo h) h
  · exact h

theorem fused_avoidHint {n nd} (h : Fused P s) : Fused P (avoidHint n s nd) := fused_ite (fused_hintTo h) h

theorem fused_linkAsk {i c : Nat} {l : List (Nat × Nat)} (h : Fused P s) : Fused P (linkAsk i c l s) := by
  unfold linkAsk
  dsimp only
  split
  · rename_i e
    exact fused_linkNode e h
  · exact fused_sweepTombs (fused_upd (fused_when fused_upd h))

theorem fused_putDl {n es} (h : Fused P s) : Fused P (putDl n es s) := by
  unfold putDl
  dsimp only
  split
  · exact fused_ite h h
  · exact h

theorem fused_dropDl {n i only} (h : Fused P s) : Fused P (dropDl n i only s).1 := by
  unfold dropDl
  dsimp only
  split
  · exact fused_putDl h
  · exact h

theorem fused_failAsk {n i code} (h : Fused P s) : Fused P (failAsk n i code s) := fused_dropDl h

theorem fused_sixpFail {i code} (h : Fused P s) : Fused P (sixpFail i code s) :=
  fused_linkAsk h

theorem fused_writeDl {n i code c} (h : Fused P s) : Fused P (writeDl n i code c s) := by
  unfold writeDl
  split
  · exact fused_ite (fused_failAsk h) (fused_putDl h)
  · exact fused_failAsk h

theorem fused_sixpResponse {n i seq code cells} (h : Fused P s) : Fused P (sixpResponse n i seq code cells s) := by
  unfold sixpResponse
  dsimp only
  split
  · split
    · exact h
    · split
      · exact fused_failAsk h
      · split
        · split
          · exact fused_ite (fused_writeDl h) (fused_failAsk h)
          · exact fused_failAsk h
        · exact fused_dropDl h
  · exact h

theorem fused_sixpIn {n i : Nat} {m : SixpMsg} (h : Fused P s) : Fused P (sixpIn n i m s) := by
  cases m with
  | response => exact fused_sixpResponse h
  | request =>
    unfold sixpIn
    dsimp only
    split
    · refine fused_upd (fused_when fused_upd ?_)
      split
      · exact fused_upd (fused_dropDl h)
      · exact h
    · exact h

theorem fused_addAgreed {i} (h : Fused P s) : Fused P (addAgreed i s) := by
  unfold addAgreed
  split
  · exact fused_ite h h
  · exact h

theorem fused_applyOut {o : HOut} (h : Fused P s) : Fused P (applyOut o s) := by
  cases o with
  | announce => exact fused_when fused_announce h
  | advise => exact fused_event h
  | ask => exact fused_when fused_linkAsk h
  | write => exact fused_addAgreed h
  | drop => exact fused_upd h
  | dropAll => exact fused_sweepTombs (fused_upd (fused_upd h))
  | reply i code seq body =>
    unfold applyOut
    dsimp only
    cases e : linkNode i (.sixp i false) none [sixpAnswer (sfid s) seq code body] s with
    | none => exact h
    | some t => exact fused_linkNode e h
  | noCell => exact fused_hcnt (fused_event h)
  | fail => exact fused_sixpFail h

theorem fused_applyDecs {n} (h : Fused P s) : Fused P (applyDecs n s) := fused_foldl (fun _ _ => fused_applyOut) h
theorem fused_meter {n i rssi snr} (h : Fused P s) : Fused P (meter n i rssi snr s) := fused_when fused_adapt h

theorem fused_setGd {n gd} (h : Fused P s) : Fused P (setGd n gd s) :=
  fused_ite h (fused_foldl (fun _ _ hu => fused_announceMap (fused_adviseMap hu)) h)

theorem fused_census {n asn es} (h : Fused P s) : Fused P (census n asn es s) :=
  fused_when fused_setGd h

theorem fused_herdItemIn {n i} (h : Fused P s) : Fused P (herdItemIn n s i) := by
  unfold herdItemIn
  dsimp only
  split
  · split
    · exact h
    · exact fused_foldl (fun _ _ => id) (fused_meter h)
  · exact fused_ite (fused_meter h) h
  · exact fused_when fused_rootHint (fused_ite (fused_meter h) h)
  · exact fused_ite h (fused_when fused_afterPsrg h)
  · exact fused_census h
  · exact fused_sixpIn h
  · exact fused_dropDl h
  · exact fused_ite (fused_foldl (fun _ _ => fused_recheckMap) h) h

theorem fused_sixpWork {n nd} (h : Fused P s) : Fused P (sixpWork n s nd) := by
  unfold sixpWork
  split
  · exact h
  · split
    · exact fused_upd (fused_upd (fused_upd (fused_upd h)))
    · split
      · exact fused_upd (fused_upd (fused_upd h))
      · split
        · split
          · exact fused_upd h
          · exact fused_upd (fused_upd (fused_upd h))
        · exact h

theorem fused_adviseCell {n nd} (h : Fused P s) : Fused P (adviseCell n s nd) := by
  unfold adviseCell
  split
  · exact h
  · split
    · exact h
    · split
      · split <;> exact h
      · exact h

theorem fused_herdBoundary {n : Nat} (h : Fused P s) : Fused P (herdBoundary n s) := by
  unfold herdBoundary
  extract_lets t u v w x y
  have hu : Fused P u := fused_foldl (fun _ _ => fused_herdItemIn) (fused_applyDecs h)
  have hv : Fused P v := fused_foldl (fun _ _ => fused_failAsk) hu
  have hw : Fused P w := fused_foldl (fun _ _ => fused_unless fused_notice) hv
  have hx : Fused P x := fused_foldl (fun _ _ => fused_when fused_readmit) hw
  have hy : Fused P y := fused_foldl (fun _ _ => fused_avoidHint) hx
  exact fused_ite hw (fused_ite (fused_foldl (fun _ _ => fused_sixpWork) hy) (fused_foldl (fun _ _ => fused_adviseCell) hy))

theorem fused_dropDecs {b} (h : Fused P s) : Fused P (dropDecs b s) :=
  fused_foldl (fun _ _ => id) h

theorem yields_sixpTimeout {node} (h : Fused P s) : Yields P (execSixpTimeout node s) := by
  unfold execSixpTimeout
  dsimp only
  refine yields_next (fused_coreOnly h ?_)
  split
  · split
    · exact fused_ite (fused_failAsk h) h
    · exact h
  · exact h

theorem yields_dropReadmitCheck {node} (h : Fused P s) : Yields P (execDropReadmitCheck node s) :=
  yields_next (fused_coreOnly h (fused_ite (fused_readmit h) h))

theorem fused_doHerdModeSet {r mode autosf dlsf lag} (h : Fused P s) : Fused P (doHerdModeSet r mode autosf dlsf lag s) :=
  fused_checked (fun _ => id) h

theorem yields_schHctlWrite {value} (h : Fused P s) : Yields P (execSchHctlWrite value s) :=
  yields_next (fused_jwr (fun _ => id) h)

theorem fused_announceForced {i k v} (h : Fused P s) : Fused P (announceForced i k v s) := fused_announce h

theorem fused_doHerdNodeSet {r a} (h : Fused P s) : Fused P (doHerdNodeSet r a s) := by
  unfold doHerdNodeSet
  dsimp only
  split
  · exact h
  · exact fused_checked (fun _ hu => (fused_when fused_announceForced (fused_when fused_announceForced
    (fused_when fused_announceForced (fused_when fused_announceForced hu))))) h

theorem fused_doHerdNodeRead {r index outAddr} (h : Fused P s) : Fused P (doHerdNodeRead r index outAddr s) := by
  unfold doHerdNodeRead
  split <;> exact h

/-! ### Queues and watermarks -/

theorem fused_fifoPut {f n : Nat} {put : State → State} (hp : ∀ u, Fused P u → Fused P (put u)) (h : Fused P s) :
    Fused P (fifoPut f n put s) := by
  unfold fifoPut
  split
  · exact hp s h
  · exact h
  · exact h
  · exact h

theorem fused_wmRise {w} (h : Fused P s) : Fused P (wmRise w s) := fused_eventIf h

theorem yields_qflowHoldExpire {pin} (h : Fused P s) : Yields P (execQflowHoldExpire pin s) := by
  unfold execQflowHoldExpire
  dsimp only
  refine yields_next ?_
  split
  · exact fused_ite h h
  · exact h

theorem yields_quePoolWrite {k value} (h : Fused P s) : Yields P (execQuePoolWrite k value s) :=
  yields_next (fused_jwr (fun _ hu => fused_ite hu (fused_ite hu hu)) h)

/-! ### Demodulation -/

theorem yields_preambleDetect {ch profile rssiQ} (h : Fused P s) :
    Yields P (execPreambleDetect ch profile rssiQ s) := by
  unfold execPreambleDetect
  refine yields_next ?_
  split
  · exact h
  · split
    · split <;> exact h
    · split
      · exact fused_ite h h
      · exact h

theorem yields_secondPreambleDetect {ch profile lv} (h : Fused P s) :
    Yields P (execSecondPreambleDetect ch profile lv s) := by
  unfold execSecondPreambleDetect
  dsimp only
  refine yields_next ?_
  split
  · exact h
  · split
    · exact h
    · exact fused_ite (fused_ite h h) (fused_ite h h)

theorem yields_sfdDetect {ch snr1 snr2 x} (h : Fused P s) : Yields P (execSfdDetect ch snr1 snr2 x s) := by
  unfold execSfdDetect
  dsimp only
  refine yields_next ?_
  split
  · exact h
  · exact fused_ite h h

theorem yields_falseDetRelease {ch} (h : Fused P s) : Yields P (execFalseDetRelease ch s) := by
  unfold execFalseDetRelease
  refine yields_next ?_
  split
  · exact h
  · exact fused_ite h h

theorem fused_msPhr {ch l phr} (h : Fused P s) : Fused P (msPhr ch l phr s) := by
  unfold msPhr
  dsimp only
  split
  · exact fused_demDisc (fused_upd h)
  · split
    · exact fused_demDisc (fused_upd h)
    · split
      · exact fused_upd h
      · split
        · split
          · exact fused_unless fused_upd (fused_upd h)
          · exact fused_demDisc (fused_upd h)
        · exact fused_demDisc (fused_upd h)

theorem yields_msPhrRx {ch msg check} (h : Fused P s) : Yields P (execMsPhrRx ch msg check s) := by
  unfold execMsPhrRx
  refine yields_next ?_
  split
  · exact fused_ite (fused_msPhr h) h
  · exact h

theorem yields_msTimeout {ch} (h : Fused P s) : Yields P (execMsTimeout ch s) := by
  unfold execMsTimeout
  refine yields_next ?_
  split <;> exact h

theorem fused_handOver {m psdu} (h : Fused P s) : Fused P (handOver m psdu s) :=
  fused_ite (fused_upd h) (fused_upd (fused_fifoPut (fun _ => fused_upd) h))

theorem fused_rxEnd {m psdu} (h : Fused P s) : Fused P (rxEnd m psdu s) :=
  fused_ite (fused_handOver h) h

theorem fused_elandEnd {w} (h : Fused P s) : Fused P (elandEnd w s) :=
  fused_ite h (fused_ite (fused_rxEnd h) h)

theorem fused_decodeNext (h : Fused P s) : Fused P (decodeNext s) := by
  unfold decodeNext
  dsimp only
  split
  · exact h
  · split
    · exact fused_elandEnd h
    · exact h

theorem yields_rxFrameEnd {ch x m fec} (h : Fused P s) : Yields P (execRxFrameEnd ch x m fec s) := by
  unfold execRxFrameEnd
  dsimp only
  refine yields_next ?_
  split
  · exact h
  · split
    · exact fused_msPhr h
    · exact h
    · exact fused_rxEnd h
    · exact fused_elandEnd h

/-! ### References of time -/

theorem fused_doTimeSetEpoch {r e l} (h : Fused P s) : Fused P (doTimeSetEpoch r e l s) :=
  fused_checked (fun _ => id) h

theorem fused_doTimeStep {r step sfh} (h : Fused P s) : Fused P (doTimeStep r step sfh s) :=
  fused_checked (fun _ => id) h

theorem fused_takeStep {q} (h : Fused P s) : Fused P (takeStep q s) :=
  fused_done (fused_event (fused_sweepTombs (fused_foldl (fun _ _ => fused_lastTry) (fused_upd (fused_upd h)))))

theorem yields_timeStepExecute (h : Fused P s) : Yields P (execTimeStepExecute s) := by
  unfold execTimeStepExecute
  refine yields_next (fused_coreOnly h ?_)
  split
  · exact fused_ite (fused_takeStep h) h
  · exact h

theorem fused_doTimeForce {r} (h : Fused P s) : Fused P (doTimeForce r s) :=
  fused_checked (fun _ hu => fused_done (fused_setTimeState (fused_unless fused_openJournal (fused_upd hu)))) h

theorem yields_servoSecondSample (h : Fused P s) : Yields P (execServoSecondSample s) := by
  unfold execServoSecondSample
  dsimp only
  refine yields_next (fused_coreOnly h ?_)
  split
  · exact h
  · refine ?_
    split <;> exact h

theorem fused_todMessage {m at_} (h : Fused P s) : Fused P (todMessage m at_ s) := by
  unfold todMessage
  dsimp only
  split
  · exact fused_ite h (fused_unless (fun hy => fused_ite (fused_reference hy) (fused_reference hy)) h)
  · exact h

theorem fused_nameable {p owed} (h : Fused P s) : Fused P (nameable p owed s) := by
  unfold nameable
  dsimp only
  refine ?_
  split
  · exact fused_reference h
  · exact h

theorem fused_decidePulse {p w} (h : Fused P s) : Fused P (decidePulse p w s) := by
  unfold decidePulse
  dsimp only
  split
  · exact fused_when fused_todMessage (fused_unless fused_reference (fused_when fused_nameable h))
  · exact fused_unless fused_reference (fused_when fused_nameable h)

theorem fused_settle {force} (h : Fused P s) : Fused P (settle force s) := by
  unfold settle
  split
  · split <;> exact fused_ite (fused_decidePulse h) h
  · exact h

theorem fused_activeEdge {edge} (h : Fused P s) : Fused P (activeEdge edge s) :=
  fused_ite (fused_goNoisy h) (fused_ite (fused_bump (fused_upd h)) (fused_upd (fused_upd (fused_ite (fused_bump h)
    (fused_settle h)))))

theorem yields_ppsEdge {rising at_} (h : Fused P s) : Yields P (execPpsEdge rising at_ s) :=
  yields_next (fused_coreOnly h (fused_ite h (fused_ite h (fused_ite (fused_activeEdge h)
    (fused_settle h)))))

theorem yields_ppsWidthTimeout (h : Fused P s) : Yields P (execPpsWidthTimeout s) := by
  unfold execPpsWidthTimeout
  refine yields_next (fused_coreOnly h ?_)
  split
  · exact fused_ite (fused_settle h) (fused_settle h)
  · exact h

theorem yields_ppsMissingSecond (h : Fused P s) : Yields P (execPpsMissingSecond s) :=
  yields_next (fused_coreOnly h (fused_ite h (fused_ite (fused_reference h) (fused_reference (fused_settle h)))))

theorem fused_todArrive {m at_} (h : Fused P s) : Fused P (todArrive m at_ s) := by
  unfold todArrive
  split
  · exact fused_ite h (fused_todMessage h)
  · exact fused_todMessage h

theorem yields_todMessageRx {octets at_} (h : Fused P s) : Yields P (execTodMessageRx octets at_ s) :=
  yields_next (fused_coreOnly h (fused_ite h (fused_when fused_todArrive (fused_settle h))))

theorem yields_todWaitTimeout (h : Fused P s) : Yields P (execTodWaitTimeout s) := by
  unfold execTodWaitTimeout
  refine yields_next (fused_coreOnly h ?_)
  split
  · exact fused_ite (fused_reference h) h
  · exact h

theorem fused_ptpFrom {p ty n : Nat} {m : List Octet} {f : State → State} (hf : ∀ u, Fused P u → Fused P (f u))
    (h : Fused P s) : Fused P (ptpFrom p ty n m f s) :=
  fused_ite h (fused_ite (hf s h) h)

theorem fused_syncDone {p t1 t2} (h : Fused P s) : Fused P (syncDone p t1 t2 s) := by
  unfold syncDone
  dsimp only
  split
  · exact fused_reference h
  · exact h

theorem yields_ptpSyncRx {port x} (h : Fused P s) : Yields P (execPtpSyncRx port x s) :=
  yields_next (fused_coreOnly h (fused_ptpFrom (fun _ hu => fused_ite hu (fused_syncDone
    hu)) h))

theorem yields_ptpFollowUpRx {port x} (h : Fused P s) : Yields P (execPtpFollowUpRx port x s) := by
  unfold execPtpFollowUpRx
  dsimp only
  refine yields_next (fused_coreOnly h (fused_ptpFrom ?_ h))
  intro _ hu
  split
  · exact fused_ite (fused_syncDone hu) hu
  · exact hu

theorem yields_ptpDelayRespRx {port x} (h : Fused P s) : Yields P (execPtpDelayRespRx port x s) := by
  unfold execPtpDelayRespRx
  dsimp only
  refine yields_next (fused_coreOnly h (fused_ptpFrom ?_ h))
  intro _ hu
  split
  · exact fused_ite hu hu
  · exact hu

theorem yields_airBeaconMiss (h : Fused P s) : Yields P (execAirBeaconMiss s) := by
  unfold execAirBeaconMiss
  dsimp only
  refine yields_next (fused_coreOnly h ?_)
  split
  · split
    · exact fused_ite h (fused_reference h)
    · exact h
  · exact h

/-! ### Reception -/

theorem fused_heard {m f a0 n} (h : Fused P s) : Fused P (heard m f a0 n s) := fused_eventIf h

theorem fused_sendAck {nd m f end_ v o} (h : Fused P s) : Fused P (sendAck nd m f end_ v o s) := by
  unfold sendAck
  dsimp only
  split
  · exact fused_stageTx h
  · exact fused_cellOut (fused_countFail h)

theorem fused_airBeacon {p m sync} (h : Fused P s) : Fused P (airBeacon p m sync s) := by
  unfold airBeacon
  dsimp only
  split
  · exact h
  · exact fused_ite h (fused_reference h)

theorem fused_ackIn {t m corr} (h : Fused P s) : Fused P (ackIn t m corr s) := by
  unfold ackIn
  extract_lets u v _ _ w
  have hu : Fused P u := fused_cellOut h
  have hv : Fused P v := by
    dsimp only [v]
    split
    · exact fused_frameDone hu
    · exact hu
  have hw : Fused P w := hv
  refine (fused_annsAcked ?_)
  split <;> exact hw

theorem fused_dataIn {nd m f end_ a0 v b} (h : Fused P s) : Fused P (dataIn nd m f end_ a0 v b s) := by
  unfold dataIn
  dsimp only
  refine fused_payloadIn ?_
  split
  · refine fused_sendAck ?_
    split
    · exact fused_when fused_upd (fused_upd h)
    · exact fused_upd h
  · split
    · exact fused_when fused_upd (fused_upd h)
    · exact fused_upd h

theorem fused_nodeIn {nd ack m f end_ a0 v b} (h : Fused P s) : Fused P (nodeIn nd ack m f end_ a0 v b s) := by
  unfold nodeIn
  dsimp only
  split
  · exact h
  · split
    · exact fused_ackIn (fused_heard h)
    · split
      · exact fused_dataIn (fused_heard h)
      · split
        · exact fused_airBeacon (fused_heard h)
        · exact fused_heard h

theorem fused_peerIn {p m f a0 b} (h : Fused P s) : Fused P (peerIn p m f a0 b s) :=
  fused_ite h (fused_ite (fused_airBeacon h) (fused_payloadIn h))

theorem fused_rxTake {r : RxRes} {f : Nat → MacBody → State → State} (hf : ∀ v b u, Fused P u → Fused P (f v b u))
    (h : Fused P s) : Fused P (rxTake r f s) := by
  unfold rxTake
  dsimp only
  split
  · exact fused_useKeyOpt h
  · exact hf _ _ _ (fused_useKeyOpt h)

theorem fused_rxAck {l m f end_ a0} (h : Fused P s) : Fused P (rxAck l m f end_ a0 s) := by
  unfold rxAck
  dsimp only
  split
  · exact fused_rxTake (fun _ _ _ => fused_nodeIn) h
  · exact h

theorem fused_rxFrame {m psdu} (h : Fused P s) : Fused P (rxFrame m psdu s) := by
  unfold rxFrame
  dsimp only
  split
  · exact h
  · split
    · exact h
    · split
      · exact fused_rxTake (fun _ _ _ => fused_peerIn) h
      · exact fused_rxTake (fun _ _ _ => fused_nodeIn) h
      · exact fused_rxAck h
      · exact fused_learn h

theorem fused_admitFrame {m psdu} (h : Fused P s) : Fused P (admitFrame m psdu s) :=
  fused_rxFrame (fused_fcStallCheck h)

theorem yields_rxFrameAdmit {fifo ch} (h : Fused P s) : Yields P (execRxFrameAdmit fifo ch s) := by
  unfold execRxFrameAdmit
  dsimp only
  refine yields_next ?_
  split
  · exact h
  · split
    · exact h
    · exact fused_ite h (fused_ite h (fused_admitFrame h))

/-! ### The slot boundary -/

theorem fused_restartDone (h : Fused P s) : Fused P (restartDone s) :=
  fused_when fused_returnPorts (fused_foldl (fun _ _ => id) h)

theorem fused_runPorts {n} (h : Fused P s) : Fused P (runPorts n s) := by
  unfold runPorts
  split
  · exact fused_ite (fused_returnPorts h) h
  · exact h

theorem fused_slotWrite (h : Fused P s) : Fused P (slotWrite s) := fused_ite h h

theorem fused_boundaryWork {n : Nat} (h : Fused P s) : Fused P (boundaryWork n s) := by
  unfold boundaryWork
  extract_lets t u _ c v w
  have ht : Fused P t := fused_timeBoundary (fused_upd (fused_slotWrite h))
  have hu : Fused P u := fused_runPorts (fused_restartDone ht)
  have hc : Fused P c := fused_when fused_upd hu
  have hv : Fused P v := fused_unless fused_herdBoundary hc
  have hw : Fused P w := fused_fcStallCheck (fused_unless fused_prepSlot hv)
  exact fused_sweepTombs (fused_when (fun hw => fused_upd (fused_upd hw)) hw)

theorem fused_loseNode {i n} (h : Fused P s) : Fused P (loseNode i n s) :=
  fused_framesDone h

theorem yields_nodeSupervisionTimeout {node} (h : Fused P s) : Yields P (execNodeSupervisionTimeout node s) :=
  yields_next (fused_ite (fused_foldl (fun _ _ => fused_loseNode) h) h)

/-! ### Banks -/

theorem fused_activate {a} (h : Fused P s) : Fused P (activate a s) := h

theorem fused_pendApply {r : CmdRef} {n : Nat} (h : Fused P s) : Fused P (pendApply r n s) := by
  unfold pendApply
  extract_lets w a t
  have ht : Fused P t := fused_withdraw (fused_upd h)
  clear_value t
  exact fused_unless fused_activate ht

theorem fused_doBankApply {r} (h : Fused P s) : Fused P (doBankApply r s) := by
  unfold doBankApply
  dsimp only
  refine fused_checked ?_ h
  intro _ hu
  split
  · exact hu
  · exact fused_pendApply hu

theorem yields_bankApplyActivate (h : Fused P s) : Yields P (execBankApplyActivate s) := by
  refine yields_next (fused_coreOnly h ?_)
  split
  · exact fused_ite h h
  · exact h

/-! ### Ethernet -/

theorem fused_ethDown {p} (h : Fused P s) : Fused P (ethDown p s) :=
  fused_upd (fused_drainEth (p := p) (fused_upd h))

theorem fused_ethEval {p} (h : Fused P s) : Fused P (ethEval p s) :=
  fused_ite h (fused_event (fused_journal (fused_upd (fused_ite (fused_upd h) (fused_ethDown h)))))

theorem fused_ethPause {p n} (h : Fused P s) : Fused P (ethPause p n s) := fused_ite h h
theorem fused_ethStore {p mgmt f} (h : Fused P s) : Fused P (ethStore p mgmt f s) := fused_fifoPut (fun _ => id) h
theorem fused_ethMgmt {p on f} (h : Fused P s) : Fused P (ethMgmt p on f s) := fused_ite (fused_ethStore h) h

theorem fused_ethData {p f} (h : Fused P s) : Fused P (ethData p f s) :=
  fused_ite (fused_ite (fused_ethMgmt h) (fused_ethStore h)) (fused_ite (fused_ethMgmt h) h)

theorem fused_ethClass {p f} (h : Fused P s) : Fused P (ethClass p f s) :=
  fused_ite (fused_when fused_ethPause h) (fused_ite h (fused_ethData h))

theorem fused_ethRx {p f} (h : Fused P s) : Fused P (ethRx p f s) :=
  fused_ite h (fused_ite h (fused_ite h (fused_ite
    h (fused_ethClass h))))

theorem fused_ethItem {p mgmt f} (h : Fused P s) : Fused P (ethItem p mgmt f s) :=
  fused_ite h (fused_route h)

theorem fused_ethTaken {p x} (h : Fused P s) : Fused P (ethTaken p x s) := fused_ethItem h

theorem fused_ethAdmit {p x} (h : Fused P s) : Fused P (ethAdmit p x s) :=
  fused_ite (fused_ethTaken h) h

theorem yields_ethAdmit {port} (h : Fused P s) : Yields P (execEthAdmit port s) := by
  unfold execEthAdmit
  refine yields_next ?_
  split
  · exact fused_ite (fused_ethAdmit h) h
  · exact h

theorem fused_fillFrom {p q : Nat} {l : List EgItem} (h : Fused P s) : Fused P (fillFrom p q l s) := by
  induction l generalizing s with
  | nil => exact h
  | cons i l ih =>
    unfold fillFrom
    split
    · exact fused_ite (ih h) h
    · exact h

theorem fused_fillEth {p} (h : Fused P s) : Fused P (fillEth p s) := fused_when fused_fillFrom (fused_fillFrom h)
theorem fused_sendEgress {p} (h : Fused P s) : Fused P (sendEgress p s) := by
  unfold sendEgress
  split <;> exact h

theorem fused_ethTx {p} (h : Fused P s) : Fused P (ethTx p s) := by
  unfold ethTx
  split
  · exact h
  · split
    · exact h
    · exact fused_unless fused_sendEgress (fused_fillEth h)

theorem yields_ethPauseExpire {port} (h : Fused P s) : Yields P (execEthPauseExpire port s) := by
  unfold execEthPauseExpire
  refine yields_next ?_
  split <;> exact h

theorem yields_pauseRepeat {port} (h : Fused P s) : Yields P (execPauseRepeat port s) := by
  unfold execPauseRepeat
  dsimp only
  refine yields_next ?_
  split
  · exact fused_ite h h
  · exact h

theorem yields_ptpDelayReqSend {port egress} (h : Fused P s) : Yields P (execPtpDelayReqSend port egress s) := by
  unfold execPtpDelayReqSend
  dsimp only
  refine yields_next (fused_coreOnly h ?_)
  split
  · exact h
  · refine (?_)
    split <;> exact h

/-! ### Security -/

theorem fused_doSecAttest {r kind outAddr challenge} (h : Fused P s) : Fused P (doSecAttest r kind outAddr challenge s) :=
  fused_checked (fun _ => id) h

theorem fused_blobOut {b outAddr} (h : Fused P s) : Fused P (blobOut b outAddr s) := fused_ite h h
theorem fused_importReplay {r b outAddr} (h : Fused P s) : Fused P (importReplay r b outAddr s) :=
  fused_ite h (fused_blobOut h)

/-- Where a master is placed is no matter of the fuses. -/
theorem placeAs_fuses (w : Placement × Bool) (m g a : Nat) (x : SecSt) : (placeAs w m g a x).2.fuses = x.fuses := by
  unfold placeAs
  dsimp only
  split <;> rfl

theorem fused_placed_sec {w : Placement × Bool} {m g a : Nat} (h : Fused P s) :
    Fused P { s with sec := (placeAs w m g a s.sec).2 } := by
  rw [Fused, placeAs_fuses]
  exact h

theorem fused_sendPair {k a} (h : Fused P s) : Fused P (sendPair k a s) := h

theorem fused_importPlace {r b a outAddr} (h : Fused P s) : Fused P (importPlace r b a outAddr s) := by
  refine fused_ite h ?_
  exact fused_fcStallCheck (fused_doneWith (fused_blobOut (fused_sendPair (fused_journal (fused_placed_sec h)))))

theorem fused_importRefused {r : CmdRef} {b : List Octet} {a : Nat} {l : List (Bool × Nat × Nat × Nat)} {f : State → State}
    (hf : ∀ u, Fused P u → Fused P (f u)) (h : Fused P s) : Fused P (importRefused r b a l f s) := by
  induction l with
  | nil => exact hf s h
  | cons x l ih => exact fused_ite h ih

theorem fused_doSecKeyImport {r b outAddr} (h : Fused P s) : Fused P (doSecKeyImport r b outAddr s) :=
  fused_importRefused (fun _ hu => fused_ite (fused_importReplay hu) (fused_importPlace hu)) h

theorem fused_doSecKeygenSwitch {r} (h : Fused P s) : Fused P (doSecKeygenSwitch r s) := fused_checked (fun _ => id) h

theorem yields_keygenSwitchTake (h : Fused P s) : Yields P (execKeygenSwitchTake s) :=
  yields_next (fused_coreOnly h (fused_fcStallCheck (fused_switchIfDue h)))

theorem fused_doSecKeyClear {r} (h : Fused P s) : Fused P (doSecKeyClear r s) :=
  fused_checked (fun _ => id) h

theorem fused_doSecFcAck {r gen block} (h : Fused P s) : Fused P (doSecFcAck r gen block s) :=
  fused_checked (fun _ hu => fused_fcStallCheck hu) h

theorem fused_doSecFcRestore {r gen block} (h : Fused P s) : Fused P (doSecFcRestore r gen block s) :=
  fused_checked (fun _ hu => fused_fcStallCheck (fused_fcLowCheck hu)) h

/-- Completing the half-blown pair of the life-cycle state keeps `P` (R317, R320). -/
def Completes (P : Nat × Nat × Nat → Prop) : Prop :=
  ∀ lc o t, lcOf lc ≠ 0 → P (lc, o, t) → P (blow lc (lcOf lc) true, o, t)

/-- Programming keeps `P`: a target's pair, and a field that is not programmed yet (R318, R320, R423). -/
def Programs (P : Nat × Nat × Nat → Prop) : Prop :=
  (∀ lc o t target second, P (lc, o, t) → P (blow lc target second, o, t)) ∧
  (∀ lc t v, P (lc, 0, t) → P (lc, v, t)) ∧ (∀ lc o v, P (lc, o, 0) → P (lc, o, v))

theorem Programs.completes (hp : Programs P) : Completes P := fun lc o t _ => hp.1 lc o t (lcOf lc) true

theorem fused_advance {target second} (hp : Programs P) (h : Fused P s) : Fused P (advance target second s) := by
  unfold advance
  dsimp only
  split <;> exact hp.1 _ _ _ target second h

theorem fused_doSecLcAdvance {r target token secondOk} (hp : Programs P) (h : Fused P s) :
    Fused P (doSecLcAdvance r target token secondOk s) :=
  fused_checked (fun _ hu => fused_done (fused_fcStallCheck (fused_advance hp hu))) h

theorem fused_doSecTamperAck {r} (h : Fused P s) : Fused P (doSecTamperAck r s) :=
  fused_ite h h

/-- A field that is written was not programmed before. -/
theorem fused_doSecFuseWrite {r field value readBackOk} (hp : Programs P) (h : Fused P s) :
    Fused P (doSecFuseWrite r field value readBackOk s) := by
  obtain ⟨-, ho, ht⟩ := hp
  rcases checked_cases r _ _ s with ⟨hl, e⟩ | ⟨x, -, -, e⟩ <;> rw [doSecFuseWrite, e]
  · have h1 := hl _ (List.mem_append_right _ (List.mem_cons_self ..))
    have h2 := hl _ (List.mem_append_right _ (List.mem_cons_of_mem _ (List.mem_cons_self ..)))
    simp only [decide_eq_false_iff_not, Nat.not_lt, Bool.or_eq_false_iff, bne_eq_false_iff_eq] at h1 h2
    obtain ⟨h0, -⟩ := h2
    have hs : P (s.sec.lc, s.sec.ownerId, s.sec.ownerTamp) := h
    obtain rfl | rfl : field = 0 ∨ field = 1 := by omega
    · rw [if_pos rfl] at h0
      rw [h0] at hs
      exact fused_ite (ho _ _ _ hs) (ho _ _ _ hs)
    · rw [if_neg Nat.one_ne_zero] at h0
      rw [h0] at hs
      exact fused_ite (ht _ _ _ hs) (ht _ _ _ hs)
  · exact fused_refuse h

theorem fused_doRomPatchLoad {r p} (h : Fused P s) : Fused P (doRomPatchLoad r p s) :=
  fused_checked (fun _ => id) h

theorem fused_hostKey {a} (h : Fused P s) : Fused P (hostKey a s) := fused_ite h (fused_ite h h)

theorem fused_startCipher {r : CmdRef} {a : CipherArgs} (h : Fused P s) : Fused P (startCipher r a s) := by
  refine (fused_hostKey ?_)
  split <;> exact h

theorem fused_doSecCipher {r a} (h : Fused P s) : Fused P (doSecCipher r a s) := fused_checked (fun _ => fused_startCipher) h
theorem fused_tagOut {q} (h : Fused P s) : Fused P (tagOut q s) := fused_ite h h

theorem fused_cipherWrites {q} (h : Fused P s) : Fused P (cipherWrites q s) :=
  fused_ite h (fused_ite (fused_tagOut h) (fused_ite (fused_tagOut h) (fused_ite h h)))

theorem fused_endCipher {q} (h : Fused P s) : Fused P (endCipher q s) := by
  unfold endCipher
  extract_lets t u v
  have ht : Fused P t := fused_ite (fused_post h) h
  have hu : Fused P u := fused_ite (fused_cipherWrites ht) ht
  have hv : Fused P v := fused_upd hu
  exact fused_ite (fused_refuse hv) (fused_ite (fused_done hv) (fused_refuse hv))

theorem yields_cipherOperationDone {engine r} (h : Fused P s) : Yields P (execCipherOperationDone engine r s) := by
  unfold execCipherOperationDone
  refine yields_next ?_
  split
  · exact fused_ite (fused_endCipher h) h
  · exact h

/-! ### What a register write sets off -/

theorem fused_srcPriHook (h : Fused P s) : Fused P (srcPriHook s) := fused_unless fused_reselect h
theorem fused_ppsHook {rise} (h : Fused P s) : Fused P (ppsHook rise s) := fused_ite h h
theorem fused_ptpEnHook {i rise} (h : Fused P s) : Fused P (ptpEnHook i rise s) := fused_ite h h
theorem fused_peerEnHook {i rise} (h : Fused P s) : Fused P (peerEnHook i rise s) := fused_ite h h

theorem fused_ethHook {p old v} (h : Fused P s) : Fused P (ethHook p old v s) :=
  fused_ethEval (fused_ite (fused_ethEval h) h)

theorem fused_msixHook {v} (h : Fused P s) : Fused P (msixHook v s) := fused_ite h h

theorem fused_regHook {a old v} (h : Fused P s) : Fused P (regHook a old v s) :=
  fused_ite (fused_srcPriHook h) (fused_ite (fused_ppsHook h) (fused_ite (fused_ptpEnHook h) (fused_ite (fused_peerEnHook h)
    (fused_ite h (fused_ite h (fused_ite (fused_ethHook h) (fused_ite (fused_ethHook h)
    (fused_ite (fused_msixHook h) h))))))))

theorem fused_storeReg {r a v} (h : Fused P s) : Fused P (storeReg r a v s) := fused_regHook h

theorem fused_writeRow {r a v} (h : Fused P s) : Fused P (writeRow r a v s) :=
  fused_ite h (fused_ite h (fused_ite h (fused_ite h (fused_storeReg h))))

theorem fused_restartUnits {v} (h : Fused P s) : Fused P (restartUnits v s) := fused_when fused_closeSixps h

theorem yields_errRestartWrite {value} (h : Fused P s) : Yields P (execErrRestartWrite value s) :=
  yields_next (fused_jwr (fun _ hu => fused_restartUnits hu) h)

/-! ### Commands and records shared by the pair -/

theorem fused_outOf {r : Res} (hr : Yields P r) : Fused P (outOf s r) := by
  obtain ⟨t, rfl, ht⟩ := hr
  exact ht

theorem fused_doCfgSnapshotRead {r outAddr outLen} (h : Fused P s) : Fused P (doCfgSnapshotRead r outAddr outLen s) :=
  fused_ite h h

theorem fused_doJournalCtl {r stream} (h : Fused P s) : Fused P (doJournalCtl r stream s) :=
  fused_ite h h

theorem fused_doShared {r c} (hp : Programs P) (h : Fused P s) : Fused P (doShared r c s) := by
  unfold doShared
  split
  · exact h
  · exact fused_doCfgSnapshotRead h
  · exact fused_doTimeSetEpoch h
  · exact fused_doTimeStep h
  · exact fused_doTimeForce h
  · exact fused_doRfPortSet h
  · exact fused_doRfCalibrate h
  · exact fused_doBankApply h
  · exact fused_doSlotframeSet h
  · exact fused_doCellsWrite h
  · exact fused_doHerdModeSet h
  · exact fused_doHerdNodeSet h
  · exact fused_doHerdNodeRead h
  · exact fused_doNodeInsert h
  · exact fused_doNodeRemove h
  · exact fused_doNodeRead h
  · exact fused_doPrefixInsert h
  · exact fused_doPrefixRemove h
  · exact fused_doPktSend h
  · exact fused_doBcastSend h
  · exact fused_doImgOpen h
  · exact fused_doImgLoad h
  · exact fused_doImgSend h
  · exact fused_doImgClose h
  · exact h
  · exact fused_doSecAttest h
  · exact fused_doSecKeyImport h
  · exact fused_doSecKeygenSwitch h
  · exact fused_doSecKeyClear h
  · exact fused_doSecFcAck h
  · exact fused_doSecFcRestore h
  · exact fused_doSecLcAdvance hp h
  · exact fused_doSecTamperAck h
  · exact fused_doSecFuseWrite hp h
  · exact fused_doRomPatchLoad h
  · exact fused_doSecCipher h
  · exact fused_doJournalCtl h
  · exact h
  · exact h

theorem fused_takePart {replay : Bool} {p : CorePart} (h : Fused P s) : Fused P (takePart replay s p) := by
  cases p <;> exact h

theorem fused_mirrorAdmit {seq r op need} (h : Fused P s) : Fused P (mirrorAdmit seq r op need s) :=
  fused_ite h h

theorem fused_mirrorPortSet {r port target} (h : Fused P s) : Fused P (mirrorPortSet r port target s) :=
  fused_checked (fun _ => id) h

theorem fused_mirrorPorts {now} (h : Fused P s) : Fused P (mirrorPorts now s) :=
  fused_foldl (fun _ _ => fused_foldl (fun _ _ => id)) h

theorem fused_mirrorCalibrate {r port} (h : Fused P s) : Fused P (mirrorCalibrate r port s) :=
  fused_checked (fun _ hu => fused_ite hu hu) h

theorem fused_mirrorDrill {r sfh} (h : Fused P s) : Fused P (mirrorDrill r sfh s) := fused_checked (fun _ => id) h

theorem fused_runHost {replay r c} (hp : Programs P) (h : Fused P s) : Fused P (runHost replay r c s) := by
  unfold runHost
  split
  · exact fused_mirrorPortSet h
  · exact fused_mirrorCalibrate h
  · exact h
  · exact h
  · exact h
  · exact fused_ite h (fused_ite h h)
  · exact h
  · exact fused_mirrorDrill h
  · exact h
  · exact h
  · exact h
  · exact h
  · exact h
  · exact fused_doShared hp h

theorem fused_calRecord {port ok ratio unc} (h : Fused P s) : Fused P (calRecord port ok ratio unc s) := by
  unfold calRecord
  dsimp only
  split
  · exact h
  · split
    · split <;> exact h
    · split <;> exact h

theorem fused_keyRecord {masters st pl gen act} (h : Fused P s) : Fused P (keyRecord masters st pl gen act s) := by
  unfold keyRecord
  extract_lets _ _ t
  have ht : Fused P t := fused_ite (fused_fcStallCheck (fused_upd (fused_placed_sec h))) h
  split <;> exact ht

theorem fused_cfgRecord {a v} (h : Fused P s) : Fused P (cfgRecord a v s) := by
  unfold cfgRecord
  split
  · exact h
  · split
    · exact fused_restartUnits h
    · split
      · exact fused_ite (fused_ringCtlWrite h) (fused_ite (fused_ringCtlWrite h) (fused_ite (fused_ringCtlWrite h)
        (fused_writeRow h)))
      · exact h

theorem fused_endCarriers (h : Fused P s) : Fused P (endCarriers s) :=
  fused_foldl (fun _ _ hu => fused_outOf (yields_ackWindowClose hu)) (fused_foldl (fun _ _ hu => fused_outOf
    (yields_txFrameEnd hu)) h)

theorem fused_dueBefore {n : Nat} (h : Fused P s) : Fused P (dueBefore n s) := by
  unfold dueBefore
  extract_lets t u v w
  have ht : Fused P t := fused_foldl (fun _ _ => fused_sfEffect) (fused_endCarriers h)
  have hu : Fused P u := fused_outOf (yields_timeStepExecute ht)
  have hv : Fused P v := fused_mirrorPorts (fused_outOf (yields_cellsWriteEffect hu))
  have hw : Fused P w := fused_outOf (yields_bankApplyActivate hv)
  exact fused_outOf (yields_keygenSwitchTake hw)

theorem fused_dueAfter (h : Fused P s) : Fused P (dueAfter s) := by
  unfold dueAfter
  extract_lets t u idx v w y
  have ht : Fused P t := fused_outOf (yields_imgSendLink h)
  have hu : Fused P u := fused_outOf (yields_reasmExpire ht)
  have hv : Fused P v := fused_foldl (fun _ _ hx => fused_outOf (yields_nodeSupervisionTimeout
    (fused_outOf (yields_parentExpire hx)))) hu
  have hw : Fused P w := fused_foldl (fun _ _ hx => fused_outOf (yields_dropReadmitCheck hx)) hv
  have hy : Fused P y := fused_foldl (fun _ _ hx => fused_outOf (yields_sixpTimeout hx)) hw
  exact fused_outOf (yields_ageingVisit hy)

theorem fused_drillServed {n} (h : Fused P s) : Fused P (drillServed n s) := by
  unfold drillServed
  dsimp only
  split
  · exact fused_ite h h
  · exact h

theorem fused_slotRecord {j keyed} (h : Fused P s) : Fused P (slotRecord j keyed s) :=
  fused_dueAfter (fused_boundaryWork (fused_dueBefore (fused_drillServed h)))

theorem fused_atStamp {j} (h : Fused P s) : Fused P (atStamp j s) := fused_ite h h

theorem fused_recordBody {replay j} (hp : Programs P) (h : Fused P s) : Fused P (recordBody replay j s) := by
  unfold recordBody
  dsimp only
  split
  · exact h
  · exact fused_slotRecord h
  · exact h
  · exact fused_ite h (fused_sourceOutcome h)
  · split
    · exact fused_outcomeIn h
    · exact h
  · exact h
  · exact fused_calRecord h
  · exact h
  · exact h
  · exact h
  · exact fused_admitFrame h
  · exact h
  · exact fused_ite h (fused_ethItem h)
  · exact fused_runHost hp (fused_mirrorAdmit h)
  · exact h
  · exact fused_cfgRecord h
  · exact fused_keyRecord h
  · exact h
  · exact h

theorem fused_runRecord {replay j} (hp : Programs P) (h : Fused P s) : Fused P (runRecord replay j s) :=
  fused_recordBody hp (fused_ite h h)

theorem fused_runRecords {l} (hp : Programs P) (h : Fused P s) : Fused P (runRecords l s) :=
  fused_foldl (fun _ _ hu => fused_runRecord hp (fused_atStamp hu)) h

theorem fused_replayRecord {j} (hp : Programs P) (h : Fused P s) : Fused P (replayRecord j s) :=
  fused_runRecord hp (fused_atStamp h)

/-! ### Diagnosis -/

theorem fused_doDiagIqSnapshot {r win ports samples ofs} (h : Fused P s) :
    Fused P (doDiagIqSnapshot r win ports samples ofs s) :=
  fused_checked (fun _ => id) h

theorem fused_iqPort {x : Snap} {p k i n : Nat} (h : Fused P s) : Fused P (iqPort x p k i n s) := by
  induction k generalizing i n s with
  | zero => exact h
  | succ k ih => exact fused_ite h (ih h)

theorem fused_iqRun {x} (h : Fused P s) : Fused P (iqRun x s) :=
  fused_done (fused_bump (fused_upd (fused_foldl (fun _ _ => fused_iqPort) (fused_upd h))))

theorem yields_iqCapture (h : Fused P s) : Yields P (execIqCapture s) := by
  unfold execIqCapture
  refine yields_next ?_
  split
  · exact fused_ite (fused_iqRun h) h
  · exact h

/-! ### The pair -/

theorem fused_endJoin {st detail} (h : Fused P s) : Fused P (endJoin st detail s) := by
  unfold endJoin
  split <;> exact h

theorem fused_joinFailed {st detail} (h : Fused P s) : Fused P (joinFailed st detail s) := fused_endJoin h
theorem fused_sendMasters (h : Fused P s) : Fused P (sendMasters s) := fused_foldl (fun _ _ => id) h
theorem fused_startJoin {role i} (h : Fused P s) : Fused P (startJoin role i s) :=
  fused_ite (fused_setPair (fused_sendMasters h)) (fused_setPair
    h)

theorem fused_tryJoin (h : Fused P s) : Fused P (tryJoin s) := by
  unfold tryJoin
  split
  · split
    · split
      · exact fused_joinFailed h
      · exact fused_startJoin h
    · exact h
  · exact h

theorem fused_doPairJoin {r role} (h : Fused P s) : Fused P (doPairJoin r role s) :=
  fused_checked (fun _ hu => fused_tryJoin hu) h

theorem fused_rejoinIdent {i} (h : Fused P s) : Fused P (rejoinIdent i s) :=
  fused_ite (fused_ite h (fused_startJoin h)) (fused_ite h h)

theorem fused_activeLost (h : Fused P s) : Fused P (activeLost s) := fused_joinFailed h

theorem fused_joinBroken {trig mismatch} (h : Fused P s) : Fused P (joinBroken trig mismatch s) :=
  fused_enterDiverged (fused_joinFailed h)

theorem yields_joinTimeout (h : Fused P s) : Yields P (execJoinTimeout s) :=
  yields_next (fused_ite h (fused_ite (fused_joinBroken h) (fused_ite (fused_joinFailed h) h)))

theorem yields_autorejoinTimer (h : Fused P s) : Yields P (execAutorejoinTimer s) := by
  unfold execAutorejoinTimer
  dsimp only
  refine yields_next ?_
  split
  · exact fused_ite (fused_setPair (fused_upd (fused_upd (fused_upd (fused_upd (fused_clearCore (fused_upd h))))))) h
  · exact h

theorem fused_linkLost (h : Fused P s) : Fused P (linkLost s) :=
  fused_when fused_activeLost (fused_when fused_standbyLost (fused_event (fused_bump (fused_upd h))))

theorem yields_keyTransferRx {host gen master tagOk} (h : Fused P s) :
    Yields P (execKeyTransferRx host gen master tagOk s) :=
  yields_next (fused_ite h (fused_ite h (fused_when fused_linkLost h)))

theorem fused_synced (h : Fused P s) : Fused P (synced s) := by
  unfold synced
  extract_lets t u
  have ht : Fused P t := by
    dsimp only [t]
    split
    · exact fused_done h
    · exact h
  have hu : Fused P u := by
    dsimp only [u]
    split
    · exact fused_done (fused_upd ht)
    · exact ht
  exact fused_upd (fused_setPair (fused_bump (fused_upd hu)))

theorem fused_compared {l} (h : Fused P s) : Fused P (compared l s) := by
  unfold compared
  dsimp only
  split
  · exact fused_ite (fused_joinBroken h) (fused_enterDiverged h)
  · exact fused_when fused_synced h

theorem yields_standbyExecuteSlot {first count} (hp : Programs P) (h : Fused P s) : Yields P (execStandbyExecuteSlot first count s) := by
  unfold execStandbyExecuteSlot
  refine yields_next ?_
  split
  · exact h
  · split
    · exact fused_ite (fused_compared (fused_runRecords hp h)) h
    · exact h

theorem yields_digestWrite (h : Fused P s) : Yields P (execDigestWrite s) := by
  unfold execDigestWrite
  dsimp only
  refine yields_next ?_
  split
  · exact fused_ite h h
  · exact h

theorem fused_enterTakeover {trig} (h : Fused P s) : Fused P (enterTakeover trig s) := fused_setPair h

theorem yields_pairAckRx {seq} (h : Fused P s) : Yields P (execPairAckRx seq s) := by
  unfold execPairAckRx
  dsimp only
  refine yields_next ?_
  split
  · exact h
  · refine fused_upd ?_
    split
    · exact fused_done (fused_bump (fused_upd (fused_upd h)))
    · exact fused_upd (fused_upd h)

theorem fused_triggered {trig} (h : Fused P s) : Fused P (triggered trig s) :=
  fused_ite (fused_enterTakeover h) (fused_ite (fused_activeLost h) h)

theorem fused_yieldActive {trig} (h : Fused P s) : Fused P (yieldActive trig s) := fused_enterDiverged h

theorem yields_pairFailAssert (h : Fused P s) : Yields P (execPairFailAssert s) :=
  yields_next (fused_ite h (fused_ite (fused_enterTakeover h) (fused_when fused_yieldActive h)))

theorem fused_doPairTakeover {r} (h : Fused P s) : Fused P (doPairTakeover r s) :=
  fused_ite h (fused_enterTakeover h)

theorem fused_abortWaiting {ring n : Nat} (h : Fused P s) : Fused P (abortWaiting ring n s) := by
  induction n generalizing s with
  | zero => exact h
  | succ n ih =>
    unfold abortWaiting
    split
    · refine ih (fused_bump (fused_refuse (fused_upd ?_)))
      exact fused_admitCmd (fused_when fused_upd (fused_upd h))
    · exact h

theorem fused_abortRings (h : Fused P s) : Fused P (abortRings s) := by
  unfold abortRings
  refine fused_foldl ?_ h
  intro _ _ hu
  split
  · exact fused_ite (fused_abortWaiting hu) hu
  · exact hu

theorem fused_skipFc {n} (h : Fused P s) : Fused P (skipFc n s) :=
  fused_fcStallCheck (fused_fcLowCheck (fused_eventIf h))

theorem fused_takeoverCore {b} (h : Fused P s) : Fused P (takeoverCore b s) :=
  fused_skipFc (fused_framesDone h)

theorem fused_becomeActive {trig} (h : Fused P s) : Fused P (becomeActive trig s) := fused_returnPorts (fused_setPair h)

theorem fused_takeoverAt {b} (h : Fused P s) : Fused P (takeoverAt b s) := by
  unfold takeoverAt
  extract_lets led t u v
  have ht : Fused P t := fused_upd (fused_abortRings (fused_takeoverCore (fused_upd h)))
  clear_value t
  have hv : Fused P v := fused_sendPair (fused_bump (fused_becomeActive (fused_upd ht)))
  clear_value v
  refine fused_boundaryWork (fused_dueBefore ?_)
  split
  · exact fused_done hv
  · exact hv

theorem fused_doSwapDrill {r sfh} (h : Fused P s) : Fused P (doSwapDrill r sfh s) := fused_checked (fun _ => id) h

theorem yields_swapDrillBoundary (h : Fused P s) : Yields P (execSwapDrillBoundary s) := by
  unfold execSwapDrillBoundary
  dsimp only
  refine yields_next ?_
  split
  · exact fused_ite (fused_setPair h) h
  · exact h

theorem yields_drillActivate (h : Fused P s) : Yields P (execDrillActivate s) := by
  unfold execDrillActivate
  refine yields_next ?_
  split
  · split
    · extract_lets t u
      have hu : Fused P u := fused_becomeActive (fused_upd (fused_upd h))
      refine fused_boundaryWork ?_
      split
      · exact fused_done hu
      · exact hu
    · exact h
  · exact h

theorem fused_doPairSolo {r} (h : Fused P s) : Fused P (doPairSolo r s) :=
  fused_ite h (fused_setPair h)

theorem fused_doJournalDump {r} (h : Fused P s) : Fused P (doJournalDump r s) :=
  fused_ite h (fused_dumpDone h)

theorem fused_doReplayEnter {r} (h : Fused P s) : Fused P (doReplayEnter r s) :=
  fused_ite h (fused_setPair h)

theorem fused_replayStop {reason unit j expd got} (h : Fused P s) : Fused P (replayStop reason unit j expd got s) :=
  fused_enterDiverged h

theorem fused_replaySnap {x j} (h : Fused P s) : Fused P (replaySnap x j s) :=
  fused_ite (fused_replayStop h) (fused_foldl (fun _ _ => fused_takePart) h)

theorem fused_feedOne {raw j} (hp : Programs P) (h : Fused P s) : Fused P (feedOne raw j s) := by
  unfold feedOne
  dsimp only
  split
  · exact fused_ite (fused_replaySnap h) h
  · split
    · exact fused_replayStop h
    · exact fused_replayRecord hp h

theorem fused_feed {l : List (Option (List Octet × JRec))} (hp : Programs P) (h : Fused P s) : Fused P (feed l s).2 := by
  induction l generalizing s with
  | nil => exact h
  | cons x l ih =>
    cases x with
    | none => exact h
    | some x =>
      unfold feed
      split
      · exact h
      · split
        · exact h
        · exact ih (fused_feedOne hp h)

theorem fused_doReplayFeed {r octets} (hp : Programs P) (h : Fused P s) : Fused P (doReplayFeed r octets s) :=
  fused_checked (fun _ hu => fused_ite (fused_feed hp hu) (fused_feed hp hu)) h

/-! ### Errors and tamper -/

theorem fused_fifoLoss {f} (h : Fused P s) : Fused P (fifoLoss f s) :=
  fused_ite h (fused_ite h (fused_ite h (fused_ite h (fused_ite h h))))

theorem fused_queueReset {f code} (h : Fused P s) : Fused P (queueReset f code s) :=
  fused_raiseErr (fused_fifoLoss h)

theorem yields_errorDetect {e} (h : Fused P s) : Yields P (execErrorDetect e s) := by
  unfold execErrorDetect
  dsimp only
  refine yields_next ?_
  split
  · exact h
  · split
    · exact fused_ite (fused_queueReset (fused_ite h h)) h
    · split
      · exact fused_raiseErr h
      · exact h

theorem yields_rqOverrun (h : Fused P s) : Yields P (execRqOverrun s) := by
  unfold execRqOverrun
  dsimp only
  refine yields_next (fused_coreOnly h ?_)
  split
  · exact fused_raiseErr h
  · exact h

theorem fused_abortCmds {u hit} (h : Fused P s) : Fused P (abortCmds u hit s).2 := fused_foldl (fun _ _ => id) h
theorem fused_loseOps (h : Fused P s) : Fused P (loseOps s).2 := fused_abortCmds h
theorem fused_loseRq (h : Fused P s) : Fused P (loseRq s).2 := fused_abortCmds h
theorem fused_loseCtxs (h : Fused P s) : Fused P (loseCtxs s).2 := fused_foldl (fun _ _ => id) h

theorem fused_resetTx {t} (h : Fused P s) : Fused P (resetTx t s) := by
  unfold resetTx
  dsimp only
  split
  · exact fused_frameDone (fused_cellOut h)
  · exact fused_cellOut h

theorem fused_loseTxs {hit} (h : Fused P s) : Fused P (loseTxs hit s).2 := fused_foldl (fun _ _ => fused_resetTx) h
theorem fused_loseLink (h : Fused P s) : Fused P (loseLink s).2 := fused_ite (fused_linkLost h) h

theorem fused_resetSub {unit sub} (h : Fused P s) : Fused P (resetSub unit sub s).2 := by
  unfold resetSub
  split
  · exact fused_loseTxs h
  · exact fused_loseRq h
  · exact fused_loseOps h
  · split <;> exact h
  · exact fused_loseLink h
  · exact h
  · exact h

theorem fused_loseEntry {i word} (h : Fused P s) : Fused P (loseEntry i word s).2 := by
  unfold loseEntry
  dsimp only
  split
  · exact h
  · exact fused_sweepTombs (fused_upd (fused_upd (fused_ite (fused_upd h) (fused_framesDone h))))

theorem fused_loseSession {w} (h : Fused P s) : Fused P (loseSession w s).2 := by
  unfold loseSession
  dsimp only
  split
  · exact h
  · exact fused_abortCmds h

theorem fused_loseCell {w : Nat} {link : Bool} (h : Fused P s) : Fused P (loseCell w link s).2 := by
  unfold loseCell
  extract_lets t _ u _ v a b
  have ht : Fused P t := fused_when fused_upd h
  have hu : Fused P u := fused_framesDone ht
  have hv : Fused P v := fused_foldl (fun _ _ => fused_upd) hu
  have ha : Fused P a.2 := fused_upd hv
  have hb : Fused P b.2 := fused_loseSession ha
  exact fused_sweepTombs hb

theorem fused_loseSched {w} (h : Fused P s) : Fused P (loseSched w s).2 := by
  unfold loseSched
  dsimp only
  split
  · exact fused_upd h
  · exact fused_loseTxs (fused_upd h)

theorem fused_loseQueue {q} (h : Fused P s) : Fused P (loseQueue q s).2 := fused_ite h (fused_ite h h)

theorem fused_damage {r} (h : Fused P s) : Fused P (damage r s).2 := by
  unfold damage
  dsimp only
  split
  · exact fused_loseEntry h
  · exact fused_loseCell h
  · exact fused_loseSched h
  · exact h
  · exact h
  · split <;> exact h
  · exact fused_loseQueue h
  · exact h
  · exact fused_ite h (fused_linkDown h)
  · exact h

theorem fused_fifoAction {f} (h : Fused P s) : Fused P (fifoAction f s).2 := by
  unfold fifoAction
  split
  · exact fused_loseOps h
  · split
    · exact fused_loseOps h
    · split
      · exact fused_loseLink h
      · exact h

theorem fused_contain {r} (h : Fused P s) : Fused P (contain r s).2 := by
  unfold contain
  split
  · exact fused_resetSub h
  · split
    · exact fused_fifoAction h
    · exact fused_damage h

theorem fused_loseRuns (h : Fused P s) : Fused P (loseRuns s).2 := fused_abortCmds h

theorem fused_loseUnit {u} (h : Fused P s) : Fused P (loseUnit u s).2 := by
  unfold loseUnit
  dsimp only
  split
  · exact fused_loseRuns h
  · exact h
  · exact h
  · exact h
  · exact fused_loseCtxs (fused_loseRq h)
  · exact fused_loseOps h
  · exact fused_ite h (fused_linkDown h)
  · exact fused_loseLink h
  · exact h

theorem fused_unitPorts {u} (h : Fused P s) : Fused P (unitPorts u s) :=
  fused_ite h (fused_ite (fused_ethEval (fused_ethEval h)) h)

theorem fused_unitFatal {r : ErrRec} (h : Fused P s) : Fused P (unitFatal r s).2 := by
  unfold unitFatal
  extract_lets d a b _ _ t v
  have hd : Fused P d.2 := fused_damage h
  have ha : Fused P a.2 := fused_loseUnit hd
  have hb : Fused P b.2 := fused_abortCmds ha
  have ht : Fused P t := fused_unitPorts hb
  exact fused_when (fun hv => (fused_enterDiverged hv)) (fused_freezeFor ht)

theorem fused_pwrWithdraw {unit} (h : Fused P s) : Fused P (pwrWithdraw unit s) := by
  unfold pwrWithdraw
  split
  · exact fused_ite h h
  · exact h

theorem fused_fatalStop {r} (h : Fused P s) : Fused P (fatalStop r s) :=
  fused_deviceFatal (fused_damage (fused_eventIf h))

theorem yields_errorRecordHandle (h : Fused P s) : Yields P (execErrorRecordHandle s) := by
  unfold execErrorRecordHandle
  dsimp only
  refine yields_next ?_
  split
  · split
    · exact h
    · split
      · exact fused_fatalStop h
      · refine fused_upd ?_
        split
        · exact fused_unitFatal (fused_pwrWithdraw h)
        · exact fused_contain (fused_pwrWithdraw h)
  · exact h

theorem yields_errorRecoveryDone (h : Fused P s) : Yields P (execErrorRecoveryDone s) := by
  unfold execErrorRecoveryDone
  dsimp only
  refine yields_next ?_
  split
  · exact fused_ite h (fused_when (fun hy => fused_foldl (fun _ _ => fused_resetSub) hy) h)
  · exact h

theorem fused_startWake {cause} (h : Fused P s) : Fused P (startWake cause s) := fused_ite h h
theorem fused_tamperOp {q} (h : Fused P s) : Fused P (tamperOp s q) :=
  fused_ite (fused_refuse (fused_when fused_upd (fused_post h))) (fused_refuse h)

theorem fused_tamperRun {bit} (h : Fused P s) : Fused P (tamperRun bit s) := by
  unfold tamperRun
  dsimp only
  refine fused_raiseErr (fused_event (fused_tamperKeys (fused_upd ?_)))
  split
  · exact fused_refuse (fused_foldl (fun _ _ => fused_tamperOp) h)
  · exact fused_foldl (fun _ _ => fused_tamperOp) h

theorem fused_tampRespond {bit} (h : Fused P s) : Fused P (tampRespond bit s) := by
  unfold tampRespond
  split
  · exact h
  · exact fused_startWake h
  · exact fused_ite (fused_tamperRun h) h

/-! ### Power states -/

theorem fused_pwrWithdrawTx {t n} (h : Fused P s) : Fused P (pwrWithdrawTx t n s) :=
  fused_ite (fused_withdraw h) (fused_withdraw h)

theorem fused_enterWatch (h : Fused P s) : Fused P (enterWatch s) :=
  fused_ethEval (fused_ethEval (fused_returnPorts h))

theorem fused_enterRun (h : Fused P s) : Fused P (enterRun s) :=
  fused_ethEval (fused_ethEval (fused_returnPorts h))

theorem fused_keepDrop (h : Fused P s) : Fused P (keepDrop s) :=
  fused_foldl (fun _ _ => id) (fused_foldl (fun _ _ => id) (fused_framesDone h))

theorem fused_flushCpl (h : Fused P s) : Fused P (flushCpl s) := fused_ite h h

theorem fused_flushRing {d n : Nat} (h : Fused P s) : Fused P (flushRing d n s) := by
  induction n generalizing s with
  | zero => exact h
  | succ n ih =>
    unfold flushRing
    split
    · exact fused_ite (ih (fused_deliverHead h)) h
    · exact h

theorem fused_flushAll (h : Fused P s) : Fused P (flushAll s) :=
  fused_foldl (fun _ _ hu => fused_flushRing hu) h

theorem fused_enterKeep {c : PwrCommit} (h : Fused P s) : Fused P (enterKeep c s) := by
  unfold enterKeep
  extract_lets t v _ u
  have ht : Fused P t := fused_closeJournal (fused_keepDrop (fused_pwrEvent h))
  clear_value t
  have hu : Fused P u := fused_upd (fused_flushCpl (fused_done (fused_flushAll ht)))
  clear_value u
  exact fused_upd hu

theorem fused_pwrCommit {c} (h : Fused P s) : Fused P (pwrCommit c s) := by
  unfold pwrCommit
  split
  · exact fused_enterKeep h
  · exact fused_done (fused_pwrEvent (fused_enterWatch h))
  · exact fused_done (fused_pwrEvent (fused_enterRun h))

theorem yields_pwrCommit (h : Fused P s) : Yields P (execPwrCommit s) := by
  unfold execPwrCommit
  refine yields_next ?_
  split
  · exact h
  · split
    · exact fused_ite (fused_pwrCommit h) h
    · exact fused_foldl (fun _ _ => fused_done) (fused_upd h)

theorem fused_pwrAccept {r t wakeAfter} (h : Fused P s) : Fused P (pwrAccept r t wakeAfter s) :=
  fused_ite (fused_pwrCommit h) (fused_ite h (fused_ite h (fused_pwrWithdrawTx h)))

theorem fused_doPwrEnter {r target wakeAfter} (h : Fused P s) : Fused P (doPwrEnter r target wakeAfter s) := by
  unfold doPwrEnter
  dsimp only
  refine fused_checked ?_ h
  intro _ hu
  split
  · exact hu
  · exact fused_pwrAccept hu

theorem yields_perstAssert (h : Fused P s) : Yields P (execPerstAssert s) := by
  unfold execPerstAssert
  refine yields_next ?_
  split <;> exact h

theorem yields_pwrOkFall (h : Fused P s) : Yields P (execPwrOkFall s) := by
  unfold execPwrOkFall
  refine yields_next ?_
  split
  · exact h
  · exact h
  · split <;> exact h

theorem fused_bootKeys (hc : Completes P) (h : Fused P s) : Fused P (bootKeys s) := by
  have hk : Fused P ((standing s).foldl (fun u b => tamperKeys b u) s) := fused_foldl (fun _ _ => fused_tamperKeys) h
  unfold bootKeys
  extract_lets t x y
  change P (y.lc, x.ownerId, x.ownerTamp)
  show P (if _ then _ else _, _, _)
  split
  · next e =>
    simp only [Bool.and_eq_true, bne_iff_ne] at e
    exact hc _ _ _ e.1.2 hk
  · exact hk

theorem fused_calReports {kind oks} (h : Fused P s) : Fused P (calReports kind oks s) :=
  fused_foldl (fun _ _ => id) h

theorem fused_boot {oks bistOk bad} (hc : Completes P) (h : Fused P s) : Fused P (boot oks bistOk bad s) :=
  fused_unless (fun hy => fused_calReports (fused_upd hy)) (fused_bootKeys hc (fused_upd (fused_upd h)))

theorem fused_softStop (h : Fused P s) : Fused P (softStop s) := by
  unfold softStop
  extract_lets t
  have ht : Fused P t := fused_closeJournal (fused_upd h)
  clear_value t
  split
  · exact fused_upd ht
  · exact fused_upd (fused_gapRings (fused_foldl (fun _ _ => fused_refuse) ht))

theorem fused_softReset (h : Fused P s) : Fused P (softReset s) := fused_softStop h

theorem yields_glbResetWrite {value} (hc : Completes P) (h : Fused P s) : Yields P (execGlbResetWrite value s) :=
  yields_next (fused_ite (fused_boot hc (fused_softReset (fused_upd h))) h)

/-- The state bank put back: retained register words, the active copies, and the banks as they stood. -/
theorem fused_restoreBank {c : Nat} {n : TimeState} (h : Fused P t) : Fused P (restoreBank c n s t) := h

theorem fused_wakeCals {oks again} (h : Fused P s) : Fused P (wakeCals oks again s) :=
  fused_foldl (fun _ _ => id) h

theorem fused_wakeKeys {c1} (hc : Completes P) (h : Fused P s) : Fused P (wakeKeys c1 s) := fused_bootKeys hc h

theorem fused_wakeServe {cause c : Nat} {n : TimeState} {est : Rat} {oks : List Bool} (hc : Completes P) (h : Fused P t) :
    Fused P (wakeServe cause c n est oks s t) := by
  unfold wakeServe
  extract_lets again b c' d e g
  have hb : Fused P c' := fused_switchIfDue (fused_unless fused_openJournal (fused_wakeKeys hc h))
  clear_value c'
  have he : Fused P e := fused_pwrEvent (fused_setTimeState (fused_closeSixps (fused_upd (fused_event hb))))
  have hg : Fused P g := fused_wakeCals (fused_upd he)
  exact fused_upd hg

theorem fused_wake {cause c1 oks} (hc : Completes P) (h : Fused P s) : Fused P (wake cause c1 oks s) :=
  fused_wakeServe hc (fused_restoreBank (fused_upd h))

theorem yields_keepWake {c1 verifyOk} (hc : Completes P) (h : Fused P s) : Yields P (execKeepWake c1 verifyOk s) := by
  unfold execKeepWake
  refine yields_next ?_
  split
  · exact fused_wake hc h
  · exact h

/-! ### Commands of descriptors -/

theorem fused_doHost {r c} (hp : Programs P) (h : Fused P s) : Fused P (doHost r c s) := by
  unfold doHost
  split
  · exact fused_doPwrEnter h
  · exact fused_doPairJoin h
  · exact fused_doPairTakeover h
  · exact fused_doSwapDrill h
  · exact fused_doPairSolo h
  · exact fused_doJournalDump h
  · exact fused_doReplayEnter h
  · exact fused_doReplayFeed hp h
  · exact fused_doDiagIqSnapshot h
  · exact fused_doShared hp h

theorem fused_enterDesc {r ref d n c} (h : Fused P s) : Fused P (enterDesc r ref d n c s) := by
  unfold enterDesc
  refine fused_upd ?_
  exact fused_admitCmd (fused_upd h)

theorem fused_runDesc {ref d} (hp : Programs P) (h : Fused P s) : Fused P (runDesc ref d s) :=
  fused_when id (fused_doHost hp h)

theorem fused_admitNext {r d x} (hp : Programs P) (h : Fused P s) : Fused P (admitNext r d x s) := by
  unfold admitNext
  dsimp only
  split
  · exact h
  · split
    · exact fused_endDesc (fused_bumpIf h)
    · exact fused_endDesc h
    · exact fused_endDesc h
    · exact fused_runDesc hp (fused_enterDesc h)

theorem yields_commandAdmit {ring} (hp : Programs P) (h : Fused P s) : Yields P (execCommandAdmit ring s) := by
  unfold execCommandAdmit
  refine yields_next ?_
  split
  · split
    · exact fused_ite (fused_admitNext hp h) h
    · exact h
  · exact h

/-! ### Registers over BAR0 -/

theorem fused_writeMapped {r a v} (h : Fused P s) : Fused P (writeMapped r a v s) := by
  unfold writeMapped
  split
  · exact fused_ite (fused_jwr (fun _ hu => fused_writeRow hu) h) (fused_writeRow h)
  · exact h

theorem fused_writeWord {a v} (h : Fused P s) : Fused P (writeWord a v s) := by
  unfold writeWord
  split
  · exact fused_writeMapped h
  · exact fused_ite h h

theorem yields_registerWrite {addr width : Nat} {value : Word} (hc : Completes P) (h : Fused P s) :
    Yields P (execRegisterWrite addr width value s) := by
  refine yields_ite (yields_next h) (yields_ite (yields_next h) (yields_ite (yields_glbResetWrite hc h)
    (yields_ite (yields_errRestartWrite h) (yields_ite (yields_schHctlWrite h) (yields_ite (yields_quePoolWrite h) ?_)))))
  split
  · exact yields_ringCtlWrite h
  · exact yields_next (fused_writeWord h)

theorem fused_readAt {a ofs width} (h : Fused P s) : Fused P (readAt a ofs width s) :=
  fused_ite h h

/-! ### The operation table -/

/-- What `P` must keep to hold after command `c`: nothing, but of the commands that program fuses and of the boots. -/
def Allows (P : Nat × Nat × Nat → Prop) : Instr → Prop
  | .secLcAdvance .. => Programs P
  | .secFuseWrite .. => Programs P
  | .commandAdmit .. => Programs P
  | .standbyExecuteSlot .. => Programs P
  | .replayFeed .. => Programs P
  | .coldBoot .. => Completes P
  | .keepWake .. => Completes P
  | .glbResetWrite .. => Completes P
  | .registerWrite .. => Completes P
  | _ => True

/-- Every command of the operation table answers a next state in which `P` holds of the fuses again. -/
theorem exec_yields (c : Instr) (hp : Allows P c) (h : Fused P s) : Yields P (exec c s) := by
  cases c with
  | cfgSnapshotRead => exact yields_next (fused_runCmd (fun _ => fused_doCfgSnapshotRead) h)
  | timeSetEpoch => exact yields_next (fused_runCmd (fun _ => fused_doTimeSetEpoch) h)
  | timeStep => exact yields_next (fused_runCmd (fun _ => fused_doTimeStep) h)
  | timeStepExecute => exact yields_timeStepExecute h
  | timeForce => exact yields_next (fused_runCmd (fun _ => fused_doTimeForce) h)
  | rfPortSet => exact yields_next (fused_runCmd (fun _ => fused_doRfPortSet) h)
  | portSetEffect => exact yields_next (fused_coreOnly h (fused_portEffect h))
  | portTransitionDone => exact yields_portTransitionDone h
  | rfCalibrate => exact yields_next (fused_runCmd (fun _ => fused_doRfCalibrate) h)
  | calibrateStart => exact yields_next (fused_coreOnly h (fused_calStart h))
  | calRunDone => exact yields_calRunDone h
  | bgtrimStep => exact yields_next (fused_ite h (fused_eventIf h))
  | rfBankApply => exact yields_next (fused_runCmd (fun _ => fused_doBankApply) h)
  | bankApplyActivate => exact yields_bankApplyActivate h
  | schedSlotframeSet => exact yields_next (fused_runCmd (fun _ => fused_doSlotframeSet) h)
  | slotframeSetEffect => exact yields_next (fused_coreOnly h (fused_sfEffect h))
  | schedCellsWrite => exact yields_next (fused_runCmd (fun _ => fused_doCellsWrite) h)
  | cellsWriteEffect => exact yields_cellsWriteEffect h
  | herdModeSet => exact yields_next (fused_runCmd (fun _ => fused_doHerdModeSet) h)
  | herdNodeSet => exact yields_next (fused_runCmd (fun _ => fused_doHerdNodeSet) h)
  | herdNodeRead => exact yields_next (fused_runCmd (fun _ => fused_doHerdNodeRead) h)
  | nodeInsert => exact yields_next (fused_runCmd (fun _ => fused_doNodeInsert) h)
  | nodeRemove => exact yields_next (fused_runCmd (fun _ => fused_doNodeRemove) h)
  | nodeRead => exact yields_next (fused_runCmd (fun _ => fused_doNodeRead) h)
  | prefixInsert => exact yields_next (fused_runCmd (fun _ => fused_doPrefixInsert) h)
  | prefixRemove => exact yields_next (fused_runCmd (fun _ => fused_doPrefixRemove) h)
  | pktSend => exact yields_next (fused_runCmd (fun _ => fused_doPktSend) h)
  | bcastSend => exact yields_next (fused_runCmd (fun _ => fused_doBcastSend) h)
  | imgOpen => exact yields_next (fused_runCmd (fun _ => fused_doImgOpen) h)
  | imgLoad => exact yields_next (fused_runCmd (fun _ => fused_doImgLoad) h)
  | imgSend => exact yields_next (fused_runCmd (fun _ => fused_doImgSend) h)
  | imgSendLink => exact yields_imgSendLink h
  | rqOverrun => exact yields_rqOverrun h
  | imgClose => exact yields_next (fused_runCmd (fun _ => fused_doImgClose) h)
  | secIdentity => exact yields_next (fused_runCmd (fun _ => id) h)
  | secAttest => exact yields_next (fused_runCmd (fun _ => fused_doSecAttest) h)
  | secKeyImport => exact yields_next (fused_runCmd (fun _ => fused_doSecKeyImport) h)
  | secKeygenSwitch => exact yields_next (fused_runCmd (fun _ => fused_doSecKeygenSwitch) h)
  | keygenSwitchTake => exact yields_keygenSwitchTake h
  | secKeyClear => exact yields_next (fused_runCmd (fun _ => fused_doSecKeyClear) h)
  | secFcAck => exact yields_next (fused_runCmd (fun _ => fused_doSecFcAck) h)
  | secFcRestore => exact yields_next (fused_runCmd (fun _ => fused_doSecFcRestore) h)
  | secLcAdvance => exact yields_next (fused_runCmd (fun _ => fused_doSecLcAdvance hp) h)
  | secTamperAck => exact yields_next (fused_runCmd (fun _ => fused_doSecTamperAck) h)
  | secFuseWrite => exact yields_next (fused_runCmd (fun _ => fused_doSecFuseWrite hp) h)
  | romPatchLoad => exact yields_next (fused_runCmd (fun _ => fused_doRomPatchLoad) h)
  | secCipher => exact yields_next (fused_runCmd (fun _ => fused_doSecCipher) h)
  | pwrEnter => exact yields_next (fused_runCmd (fun _ => fused_doPwrEnter) h)
  | pwrCommit => exact yields_pwrCommit h
  | pairJoin => exact yields_next (fused_runCmd (fun _ => fused_doPairJoin) h)
  | pairTakeover => exact yields_next (fused_runCmd (fun _ => fused_doPairTakeover) h)
  | swapDrill => exact yields_next (fused_runCmd (fun _ => fused_doSwapDrill) h)
  | swapDrillBoundary => exact yields_swapDrillBoundary h
  | pairSolo => exact yields_next (fused_runCmd (fun _ => fused_doPairSolo) h)
  | journalCtl => exact yields_next (fused_runCmd (fun _ => fused_doJournalCtl) h)
  | journalDump => exact yields_next (fused_runCmd (fun _ => fused_doJournalDump) h)
  | replayEnter => exact yields_next (fused_runCmd (fun _ => fused_doReplayEnter) h)
  | replayFeed => exact yields_next (fused_runCmd (fun _ => fused_doReplayFeed hp) h)
  | diagNop => exact yields_next (fused_runCmd (fun _ => id) h)
  | diagIqSnapshot => exact yields_next (fused_runCmd (fun _ => fused_doDiagIqSnapshot) h)
  | iqCapture => exact yields_iqCapture h
  | glbResetWrite => exact yields_glbResetWrite hp h
  | errRestartWrite => exact yields_errRestartWrite h
  | quePoolWrite => exact yields_quePoolWrite h
  | ringCtlWrite => exact yields_ringCtlWrite h
  | schHctlWrite => exact yields_schHctlWrite h
  | registerWrite => exact yields_registerWrite hp h
  | timeNowLoRead => exact yields_next (fused_readAt h)
  | loHiLatchRead => exact yields_next (fused_readAt h)
  | rcCounterRead => exact yields_next (fused_readAt h)
  | dbCmdPi => exact yields_dbCmdPi h
  | dbCplCi => exact yields_dbCplCi h
  | dbDlvCi => exact yields_dbDlvCi h
  | commandAdmit => exact yields_commandAdmit hp h
  | recordDeliver => exact yields_recordDeliver h
  | interruptSend => exact yields_interruptSend h
  | hifLinkReset => exact yields_next (fused_ite h (fused_linkDown h))
  | slotBoundary => exact yields_next (fused_ite h (fused_when fused_boundaryWork h))
  | herdOverrun => exact yields_next (fused_coreOnly h (fused_ite h (fused_raiseErr (fused_dropDecs h))))
  | sixpTimeout => exact yields_sixpTimeout h
  | dropReadmitCheck => exact yields_dropReadmitCheck h
  | nodeSupervisionTimeout => exact yields_nodeSupervisionTimeout h
  | reasmExpire => exact yields_reasmExpire h
  | parentExpire => exact yields_parentExpire h
  | ageingVisit => exact yields_ageingVisit h
  | txInstant => exact yields_txInstant h
  | txPortWake => exact yields_txPortWake h
  | coexRequestAssert => exact yields_coexRequestAssert h
  | txOutcome => exact yields_txOutcome h
  | txFrameEnd => exact yields_txFrameEnd h
  | txLingerExpire => exact yields_txLingerExpire h
  | ackWindowClose => exact yields_ackWindowClose h
  | channelDeafStart => exact yields_channelDeafStart h
  | channelDeafEnd => exact yields_channelDeafEnd h
  | clipDetect => exact yields_next (fused_ite h h)
  | clipHangExpire => exact yields_next (fused_ite h h)
  | coexFault => exact yields_next (fused_ite h h)
  | coexClear => exact yields_coexClear h
  | refLost => exact yields_refLost h
  | refGood => exact yields_next (fused_ite h h)
  | refRecoveryTimeout => exact yields_refRecoveryTimeout h
  | spllUnlock => exact yields_next (fused_ite h (fused_ite (fused_raiseErr (fused_spllLeave h)) (fused_spllLeave h)))
  | spllLock => exact yields_next (fused_ite (fused_spllLocked h) h)
  | spllLockTimeout => exact yields_next (fused_ite h (fused_ite (fused_spllGiveUp h) h))
  | preambleDetect => exact yields_preambleDetect h
  | secondPreambleDetect => exact yields_secondPreambleDetect h
  | sfdDetect => exact yields_sfdDetect h
  | falseDetRelease => exact yields_falseDetRelease h
  | msPhrRx => exact yields_msPhrRx h
  | msTimeout => exact yields_msTimeout h
  | rxFrameEnd => exact yields_rxFrameEnd h
  | ldpcCodewordDone => exact yields_next (fused_when fused_decodeNext h)
  | rxFrameAdmit => exact yields_rxFrameAdmit h
  | rxSummaryAdmit => exact yields_next (fused_ite h h)
  | timeSourceOutcome => exact yields_next (fused_coreOnly h (fused_ite h (fused_sourceOutcome h)))
  | servoSecondSample => exact yields_servoSecondSample h
  | slckRatioMeasure => exact yields_next (fused_coreOnly h (fused_ite h h))
  | ppsEdge => exact yields_ppsEdge h
  | ppsWidthTimeout => exact yields_ppsWidthTimeout h
  | ppsMissingSecond => exact yields_ppsMissingSecond h
  | ppsQuiet => exact yields_next (fused_coreOnly h (fused_ite h h))
  | todMessageRx => exact yields_todMessageRx h
  | todWaitTimeout => exact yields_todWaitTimeout h
  | todByteGap => exact yields_next (fused_coreOnly h (fused_ite h h))
  | ptpSyncRx => exact yields_ptpSyncRx h
  | ptpFollowUpRx => exact yields_ptpFollowUpRx h
  | ptpDelayRespRx => exact yields_ptpDelayRespRx h
  | ptpAnnounceRx => exact yields_next (fused_coreOnly h (fused_ptpFrom (fun _ => id) h))
  | ptpDelayReqSend => exact yields_ptpDelayReqSend h
  | ptpSyncMiss => exact yields_next (fused_coreOnly h (fused_ite h (fused_reference h)))
  | airBeaconMiss => exact yields_airBeaconMiss h
  | ethFrameRx => exact yields_next (fused_ite (fused_ethRx h) h)
  | ethAdmit => exact yields_ethAdmit h
  | ethLinkChange => exact yields_next (fused_ite (fused_ethEval h) h)
  | ethFrameTx => exact yields_next (fused_ite (fused_ethTx h) h)
  | ethPauseExpire => exact yields_ethPauseExpire h
  | pauseRepeat => exact yields_pauseRepeat h
  | watermarkCrossing => exact yields_next (fused_ite h (fused_ite (fused_ite h h) (fused_ite
    (fused_wmRise h) h)))
  | qflowHoldExpire => exact yields_qflowHoldExpire h
  | fifoQueueReset => exact yields_next (fused_ite (fused_queueReset h) h)
  | errorDetect => exact yields_errorDetect h
  | errorRecordHandle => exact yields_errorRecordHandle h
  | scrubVisit => exact yields_next (fused_ite h (fused_when (fun hy => fused_raiseErr hy) h))
  | watchdogExpire => exact yields_next (fused_ite (fused_raiseErr h) h)
  | tamperAlarm => exact yields_next (fused_ite h (fused_when fused_tampRespond h))
  | pairLinkChange => exact yields_next (fused_ite h (fused_ite h (fused_linkLost h)))
  | pairIdentRx => exact yields_next (fused_ite h (fused_ite (fused_tryJoin h) (fused_rejoinIdent h)))
  | joinCopyDone => exact yields_next (fused_ite (fused_setPair (fused_foldl (fun _ _ => fused_takePart) h)) h)
  | journalRecordRx => exact yields_next (fused_ite h (fused_when id h))
  | standbyExecuteSlot => exact yields_standbyExecuteSlot hp h
  | digestWrite => exact yields_digestWrite h
  | heartbeatRx => exact yields_next (fused_ite h h)
  | heartbeatLoss => exact yields_next (fused_ite h (fused_ite (fused_enterTakeover h) (fused_ite (fused_activeLost h) h)))
  | pairAckRx => exact yields_pairAckRx h
  | standbyLostTimeout => exact yields_next (fused_ite h h)
  | timingMarkRx => exact yields_next (fused_ite h h)
  | keyTransferRx => exact yields_keyTransferRx h
  | failMessageRx => exact yields_next (fused_ite (fused_triggered h) h)
  | takeoverMessageRx => exact yields_next (fused_ite (fused_yieldActive h) h)
  | drillMessageRx => exact yields_next (fused_ite h h)
  | pairFailAssert => exact yields_pairFailAssert h
  | takeoverActivate => exact yields_next (fused_ite h (fused_takeoverAt h))
  | drillActivate => exact yields_drillActivate h
  | joinTimeout => exact yields_joinTimeout h
  | autorejoinTimer => exact yields_autorejoinTimer h
  | powerOnReset => exact yields_next h
  | coldBoot => exact yields_next (fused_ite (fused_boot hp h) h)
  | perstAssert => exact yields_perstAssert h
  | pwrOkFall => exact yields_pwrOkFall h
  | brownOut => exact yields_next h
  | wakeTimer => exact yields_next (fused_ite (fused_startWake h) h)
  | wakePin => exact yields_next (fused_ite (fused_startWake h) h)
  | keepWake => exact yields_keepWake hp h
  | txHoldExpire => exact yields_txHoldExpire h
  | txRampStart => exact yields_txRampStart h
  | femLeadSwitch => exact yields_femLeadSwitch h
  | femHoldExpire => exact yields_femHoldExpire h
  | utcDayEnd => exact yields_next (fused_coreOnly h h)
  | pcieConfigWrite => exact yields_next h
  | cipherOperationDone => exact yields_cipherOperationDone h
  | errorRecoveryDone => exact yields_errorRecoveryDone h

end

end Sys2Proof.Machine
end

section
/-! SUPPORT. Blown bits, the life-cycle state that they spell, and the properties of the fuses that a step keeps. -/
namespace Sys2Proof.Machine

/-! ### Blown bits and the life-cycle state -/

theorem bitsOf_one (n k : Nat) : bitsOf n k k = (n.testBit k).toNat := by
  rw [bitsOf, Nat.sub_self, Nat.testBit_eq_decide_div_mod_eq]
  rcases Nat.mod_two_eq_zero_or_one (n / 2 ^ k) with e | e <;> simp [e]

theorem bitsOf_two (n k : Nat) : bitsOf n (k + 1) k = n / 2 ^ k % 4 :=
  congrArg (fun d => n / 2 ^ k % 2 ^ (d + 1)) (Nat.add_sub_cancel_left (n := k) (m := 1))

/-- A pair of fuses reads other than 0 where one of the two is blown. -/
theorem bitsOf_pair (n k : Nat) : (bitsOf n (k + 1) k != 0) = (n.testBit k || n.testBit (k + 1)) := by
  rw [bitsOf_two, Nat.testBit_eq_decide_div_mod_eq, Nat.testBit_eq_decide_div_mod_eq, Nat.pow_succ, ← Nat.div_div_eq_div_mul]
  generalize n / 2 ^ k = m
  rw [Bool.eq_iff_iff]
  simp
  omega

/-- Adding a power of two whose bit is 0 sets that bit. -/
theorem add_two_pow_eq_or {n k : Nat} (hk : n.testBit k = false) : n + 2 ^ k = n ||| 2 ^ k := by
  refine Nat.eq_of_testBit_eq fun i => ?_
  rw [Nat.testBit_or, Nat.testBit_two_pow]
  rcases Nat.lt_trichotomy i k with h | rfl | h
  · rw [Nat.add_comm, Nat.testBit_two_pow_add_gt h, decide_eq_false (by omega), Bool.or_false]
  · rw [Nat.add_comm, Nat.testBit_two_pow_add_eq, hk, decide_eq_true rfl]; rfl
  · obtain ⟨j, rfl⟩ : ∃ j, i = j + (k + 1) := ⟨i - (k + 1), by omega⟩
    rw [decide_eq_false (by omega), Bool.or_false, ← Nat.testBit_div_two_pow n, ← Nat.testBit_div_two_pow (n + 2 ^ k)]
    congr 1
    rw [Nat.testBit_eq_decide_div_mod_eq, decide_eq_false_iff_not] at hk
    rw [Nat.pow_succ, ← Nat.div_div_eq_div_mul, ← Nat.div_div_eq_div_mul, Nat.add_div_right _ (Nat.two_pow_pos k)]
    omega

theorem setBit_eq_or (n k : Nat) : (if bitsOf n k k = 0 then n + 2 ^ k else n) = n ||| 2 ^ k := by
  rw [bitsOf_one]
  cases hk : n.testBit k
  · exact add_two_pow_eq_or hk
  · refine Nat.eq_of_testBit_eq fun i => ?_
    rw [Nat.testBit_or, Nat.testBit_two_pow]
    by_cases h : k = i
    · subst h
      simp [hk]
    · simp [h]

/-- Blowing a target's pair sets the pair's lower fuse, and the upper one where both are to be blown. -/
theorem blow_eq_or (lc t : Nat) (second : Bool) :
    blow lc t second = if second then lc ||| 2 ^ (2 * t - 2) ||| 2 ^ (2 * t - 2 + 1) else lc ||| 2 ^ (2 * t - 2) := by
  have hs : ∀ n k : Nat, (if (bitsOf n k k == 0) = true then n + 2 ^ k else n) = n ||| 2 ^ k := fun n k => by
    simpa only [beq_iff_eq] using setBit_eq_or n k
  unfold blow
  dsimp only
  rw [setBit_eq_or]
  cases second
  · rfl
  · exact hs _ _

/-- Blowing clears no fuse. -/
theorem blow_keeps {lc m : Nat} (t : Nat) (second : Bool) (h : lc &&& m = m) : blow lc t second &&& m = m := by
  have ho : ∀ {n : Nat} (k : Nat), n &&& m = m → (n ||| k) &&& m = m := by
    intro n k hn
    rw [Nat.and_or_distrib_right, hn]
    refine Nat.eq_of_testBit_eq fun i => ?_
    rw [Nat.testBit_or, Nat.testBit_and]
    cases m.testBit i <;> simp
  rw [blow_eq_or]
  split
  · exact ho _ (ho _ h)
  · exact ho _ h

theorem lcOf_eq (lc : Nat) : lcOf lc =
    if lc.testBit 6 || lc.testBit 7 then 4 else if lc.testBit 4 || lc.testBit 5 then 3
    else if lc.testBit 2 || lc.testBit 3 then 2 else if lc.testBit 0 || lc.testBit 1 then 1 else 0 := by
  rw [lcOf, bitsOf_pair lc 6, bitsOf_pair lc 4, bitsOf_pair lc 2, bitsOf_pair lc 0]

theorem lcOf_le (lc : Nat) : lcOf lc ≤ 4 := by
  rw [lcOf]
  repeat' split
  all_goals omega

/-- The state's pair is the highest one with a blown fuse (R318). -/
theorem lt_lcOf_of_testBit {lc i : Nat} (h : lc.testBit i = true) (hi : i < 8) : i < 2 * lcOf lc := by
  have hne : ∀ {a b : Nat}, ¬(lc.testBit a || lc.testBit b) = true → i ≠ a ∧ i ≠ b := fun hab =>
    ⟨fun e => hab (by rw [← e, h, Bool.true_or]), fun e => hab (by rw [← e, h, Bool.or_true])⟩
  rw [lcOf_eq]
  split
  next => exact hi
  next h6 =>
    have h6 := hne h6
    split
    next => omega
    next h4 =>
      have h4 := hne h4
      split
      next => omega
      next h2 =>
        have h2 := hne h2
        split
        next => omega
        next h0 =>
          have h0 := hne h0
          omega

/-- Where no fuse above a pair is blown, the completed pair is the state's. -/
theorem lcOf_blow_pair {lc n : Nat} (hn : 1 ≤ n) (hm : n ≤ 4) (h : ∀ i, 2 * n ≤ i → i < 8 → lc.testBit i = false) :
    lcOf (blow lc n true) = n := by
  have hbit : ∀ i, (blow lc n true).testBit i = (lc.testBit i || decide (2 * n - 2 = i) || decide (2 * n - 2 + 1 = i)) := fun i => by
    rw [blow_eq_or, if_pos rfl, Nat.testBit_or, Nat.testBit_or, Nat.testBit_two_pow, Nat.testBit_two_pow]
  rw [lcOf_eq]
  simp only [hbit]
  obtain rfl | rfl | rfl | rfl : n = 1 ∨ n = 2 ∨ n = 3 ∨ n = 4 := by omega
  · simp [h]
  · simp [h]
  · simp [h]
  · simp

/-- A completed pair is the pair of the same state. -/
theorem lcOf_blow_self {lc : Nat} (h : lcOf lc ≠ 0) : lcOf (blow lc (lcOf lc) true) = lcOf lc := by
  refine lcOf_blow_pair (Nat.one_le_iff_ne_zero.mpr h) (lcOf_le lc) fun i hl hi => ?_
  cases hb : lc.testBit i with
  | false => rfl
  | true => exact absurd (lt_lcOf_of_testBit hb hi) (Nat.not_lt.mpr hl)

/-- A pair that is complete stays as it is. -/
theorem blow_blow_self (lc t : Nat) : blow (blow lc t true) t true = blow lc t true := by
  simp only [blow_eq_or, if_true]
  refine Nat.eq_of_testBit_eq fun i => ?_
  simp only [Nat.testBit_or]
  cases lc.testBit i <;> cases (2 ^ (2 * t - 2)).testBit i <;> simp

/-- The fuses of state `s` as a boot out of it may leave them. -/
def BootedFrom (s : State) (f : Nat × Nat × Nat) : Prop :=
  f.2 = (s.sec.ownerId, s.sec.ownerTamp) ∧
    (f.1 = s.sec.lc ∨ (lcOf s.sec.lc ≠ 0 ∧ f.1 = blow s.sec.lc (lcOf s.sec.lc) true))

theorem bootedFrom_self (s : State) : Fused (BootedFrom s) s := ⟨rfl, .inl rfl⟩

theorem bootFuses_of_bootedFrom {s t : State} (h : Fused (BootedFrom s) t) : bootFuses s t := by
  obtain ⟨ho, hlc⟩ := h
  exact ⟨congrArg Prod.fst ho, congrArg Prod.snd ho, hlc⟩

/-- A boot that finds the pair complete leaves it, so completing twice is completing once. -/
theorem bootedFrom_completes (s : State) : Completes (BootedFrom s) := by
  rintro lc o t h0 ⟨ho, rfl | ⟨hs, rfl⟩⟩
  · exact ⟨ho, .inr ⟨h0, rfl⟩⟩
  · refine ⟨ho, .inr ⟨hs, ?_⟩⟩
    rw [lcOf_blow_self hs, blow_blow_self]

/-- The bits `a`, `b` and `c` of the three fuse words are blown. -/
def Blown (a b c : Nat) (f : Nat × Nat × Nat) : Prop := f.1 &&& a = a ∧ f.2.1 &&& b = b ∧ f.2.2 &&& c = c

theorem blown_programs (a b c : Nat) : Programs (Blown a b c) := by
  refine ⟨?_, ?_, ?_⟩
  · rintro lc o t target second ⟨ha, hb, hc⟩
    exact ⟨blow_keeps target second ha, hb, hc⟩
  · rintro lc t v ⟨ha, hb, hc⟩
    rw [Nat.zero_and] at hb
    exact ⟨ha, hb ▸ Nat.and_zero v, hc⟩
  · rintro lc o v ⟨ha, hb, hc⟩
    rw [Nat.zero_and] at hc
    exact ⟨ha, hb, hc ▸ Nat.and_zero v⟩

theorem allows_of_programs {P : Nat × Nat × Nat → Prop} (hp : Programs P) (c : Instr) : Allows P c := by
  unfold Allows
  split
  iterate 5 exact hp
  iterate 4 exact hp.completes
  trivial

/-- What holds of the fuses and survives programming survives a step. -/
theorem step_fused {P : Nat × Nat × Nat → Prop} (hp : Programs P) {s s' : State} (e : step s = .next s') (h : Fused P s) :
    Fused P s' := by
  unfold step at e
  split at e
  · cases e
    exact h
  · rename_i c rest _
    obtain ⟨t, ht, hf⟩ := exec_yields c (allows_of_programs hp c) (s := { s with pending := rest }) h
    cases e.symm.trans ht
    exact hf

theorem exec_fused {P : Nat × Nat × Nat → Prop} {c : Instr} {s t : State} (hp : Allows P c) (e : exec c s = .next t)
    (h : Fused P s) : Fused P t := by
  obtain ⟨u, hu, hf⟩ := exec_yields c hp h
  cases e.symm.trans hu
  exact hf

theorem exec_bootFuses {c : Instr} {s t : State} (hc : Completes (BootedFrom s) → Allows (BootedFrom s) c)
    (e : exec c s = .next t) : bootFuses s t :=
  bootFuses_of_bootedFrom (exec_fused (hc (bootedFrom_completes s)) e (bootedFrom_self s))

end Sys2Proof.Machine
end

section
/-! THEOREMS. No step clears a fuse. -/
namespace Sys2Proof.Machine

/-- Settles O4: one lemma for each operation of the model says that a property of the fuses survives it; here the properties are
that bits are blown, that the fuses are what they were, and that they are what a boot leaves. -/
theorem fusesNeverClear : Obligations.FusesNeverClear := by
  refine ⟨fun s s' m e => ⟨fun h => ?_, fun h => ?_, fun h => ?_⟩, fun c s t e => ?_, fun lc => lcOf_blow_self⟩
  · exact (step_fused (blown_programs m 0 0) e ⟨h, Nat.and_zero _, Nat.and_zero _⟩).1
  · exact (step_fused (blown_programs 0 m 0) e ⟨Nat.and_zero _, h, Nat.and_zero _⟩).2.1
  · exact (step_fused (blown_programs 0 0 m) e ⟨Nat.and_zero _, Nat.and_zero _, h⟩).2.2
  · split
    iterate 5 trivial
    iterate 4 exact exec_bootFuses id e
    next hAdvance hWrite hAdmit hSlot hFeed hBoot hWake hReset hReg =>
      refine exec_fused (P := fun f => f = s.sec.fuses) ?_ e rfl
      unfold Allows
      split
      · exact (hAdvance _ _ _ _ rfl).elim
      · exact (hWrite _ _ _ _ rfl).elim
      · exact (hAdmit _ rfl).elim
      · exact (hSlot _ _ rfl).elim
      · exact (hFeed _ _ rfl).elim
      · exact (hBoot _ _ rfl).elim
      · exact (hWake _ _ rfl).elim
      · exact (hReset _ rfl).elim
      · exact (hReg _ _ _ rfl).elim
      · trivial

end Sys2Proof.Machine
end

section
/-! THEOREMS. The security commands once admitted, and the gate in front of them (R316, R350, R421). -/
namespace Sys2Proof.Machine

section
variable {r r' : CmdRef} {op op' need n : Nat} {c : HostCmd} {s u : State} {l : List (Bool × Nat × Nat × Nat)} {f : State → State}

/-! ### What the security commands read of a state, past an admission -/

@[simp] theorem admitCmd_lcState : lcState (admitCmd r op need n c s) = lcState s := admitCmd_keeps lcState

@[simp] theorem admitCmd_curSlot : curSlot (admitCmd r op need n c s) = curSlot s := admitCmd_keeps curSlot

@[simp] theorem admitCmd_nextSlot : nextSlot (admitCmd r op need n c s) = nextSlot s := admitCmd_keeps nextSlot

@[simp] theorem admitCmd_curGen : curGen (admitCmd r op need n c s) = curGen s := admitCmd_keeps curGen

@[simp] theorem admitCmd_secGate (k : Nat) : secGate (admitCmd r op need n c s) k = secGate s k :=
  admitCmd_keeps (secGate · k)

/-! ### The gate -/

/-- The gate in front of a command whose own checks are `l`: the life cycle is checked first, then TLOCK. -/
theorem checked_secGate : checked r (secGate s op ++ l) f u =
    if lcPermits (lcState s) op = false then refuse r stBadState 9 0 u
    else if s.sec.tlock = true then refuse r stTamper 9 0 u else checked r l f u := by
  cases h : lcPermits (lcState s) op <;> simp [secGate, checked, h]

/-- Checks that all pass leave the effect. -/
theorem checked_pass (h : ∀ x ∈ l, x.1 = false) : checked r l f u = f u := by
  have e := checked_append (r := r) h [] f u
  rwa [List.append_nil] at e

theorem checked_secGate_pass (hp : lcPermits (lcState s) op = true) (ht : s.sec.tlock = false) :
    checked r (secGate s op ++ l) f u = checked r l f u := by
  simp [checked_secGate, hp, ht]

/-- The refusals of a command whose meaning begins with the gate, once it is admitted. -/
theorem refused_of_secGate {i : Instr} {body : State → State} {l : State → List (Bool × Nat × Nat × Nat)} {f : State → State → State}
    (hi : exec i s = .next (body (admitCmd r op need n c s))) (hb : ∀ t, body t = checked r' (secGate t op' ++ l t) (f t) t) :
    (lcPermits (lcState s) op' = false → exec i s = .next (refuse r' stBadState 9 0 (admitCmd r op need n c s))) ∧
    (lcPermits (lcState s) op' = true → s.sec.tlock = true → exec i s = .next (refuse r' stTamper 9 0 (admitCmd r op need n c s))) := by
  rw [hi, hb, admitCmd_secGate, checked_secGate]
  exact ⟨fun hp => by rw [if_pos hp], fun hp ht => by rw [if_neg (by simp [hp]), if_pos ht]⟩

/-- The refusals of the gate leave a KEYRES record when the command is an import (R333). -/
theorem importRefused_secGate {b : List Octet} {a : Nat} : importRefused r b a (secGate s op ++ l) f u =
    if lcPermits (lcState s) op = false then refuse r stBadState 9 0 (keyres stBadState 0 (blobGen b) a u)
    else if s.sec.tlock = true then refuse r stTamper 9 0 (keyres stTamper 0 (blobGen b) a u) else importRefused r b a l f u := by
  cases h : lcPermits (lcState s) op <;> simp [secGate, importRefused, h]

/-- Checks of an import that all pass leave its effect. -/
theorem importRefused_pass {b : List Octet} {a : Nat} (h : ∀ x ∈ l, x.1 = false) : importRefused r b a l f u = f u := by
  induction l with
  | nil => rfl
  | cons x t ih =>
    rw [importRefused, h x List.mem_cons_self, if_neg (by decide)]
    exact ih (fun y hy => h y (List.mem_cons_of_mem x hy))

end

/-! ### The commands, once admitted -/

section
variable {r : CmdRef} {k g v addr ch : Nat} {b : List Octet} {ok : Bool} {s : State}

theorem exec_secIdentity (h : goes s r 0x0601 1 = true) :
    exec (.secIdentity r addr) s = .next (doSecIdentity r addr (admitCmd r 0x0601 1 0 (.secIdentity addr) s)) :=
  congrArg Host.Outcome.next (runCmd_goes _ _ _ h)

theorem exec_secAttest (h : goes s r 0x0602 1 = true) :
    exec (.secAttest r k addr ch) s = .next (doSecAttest r k addr ch (admitCmd r 0x0602 1 48 (.secAttest k addr ch) s)) :=
  congrArg Host.Outcome.next (runCmd_goes _ _ _ h)

theorem exec_secKeyImport (h : goes s r 0x0603 1 = true) :
    exec (.secKeyImport r b addr) s = .next (doSecKeyImport r b addr (admitCmd r 0x0603 1 (24 + b.length) (.secKeyImport b addr) s)) :=
  congrArg Host.Outcome.next (runCmd_goes _ _ _ h)

theorem exec_secKeygenSwitch (h : goes s r 0x0604 1 = true) :
    exec (.secKeygenSwitch r) s = .next (doSecKeygenSwitch r (admitCmd r 0x0604 1 0 .secKeygenSwitch s)) :=
  congrArg Host.Outcome.next (runCmd_goes _ _ _ h)

theorem exec_secKeyClear (h : goes s r 0x0605 1 = true) :
    exec (.secKeyClear r) s = .next (doSecKeyClear r (admitCmd r 0x0605 1 0 .secKeyClear s)) :=
  congrArg Host.Outcome.next (runCmd_goes _ _ _ h)

theorem exec_secFcAck (h : goes s r 0x0606 1 = true) :
    exec (.secFcAck r g v) s = .next (doSecFcAck r g v (admitCmd r 0x0606 1 0 (.secFcAck g v) s)) :=
  congrArg Host.Outcome.next (runCmd_goes _ _ _ h)

theorem exec_secFcRestore (h : goes s r 0x0607 1 = true) :
    exec (.secFcRestore r g v) s = .next (doSecFcRestore r g v (admitCmd r 0x0607 1 0 (.secFcRestore g v) s)) :=
  congrArg Host.Outcome.next (runCmd_goes _ _ _ h)

theorem exec_secLcAdvance (h : goes s r 0x0608 1 = true) :
    exec (.secLcAdvance r k b ok) s =
      .next (doSecLcAdvance r k b ok (admitCmd r 0x0608 1 (if k = 3 then 129 else 0) (.secLcAdvance k b ok) s)) :=
  congrArg Host.Outcome.next (runCmd_goes _ _ _ h)

theorem exec_secTamperAck (h : goes s r 0x0609 1 = true) :
    exec (.secTamperAck r) s = .next (doSecTamperAck r (admitCmd r 0x0609 1 0 .secTamperAck s)) :=
  congrArg Host.Outcome.next (runCmd_goes _ _ _ h)

theorem exec_secFuseWrite (h : goes s r 0x060A 1 = true) :
    exec (.secFuseWrite r k v ok) s = .next (doSecFuseWrite r k v ok (admitCmd r 0x060A 1 0 (.secFuseWrite k v ok) s)) :=
  congrArg Host.Outcome.next (runCmd_goes _ _ _ h)

theorem exec_romPatchLoad (h : goes s r 0x060B 1 = true) :
    exec (.romPatchLoad r b) s = .next (doRomPatchLoad r b (admitCmd r 0x060B 1 b.length (.romPatchLoad b) s)) :=
  congrArg Host.Outcome.next (runCmd_goes _ _ _ h)

end

/-- Settles O36: the gate stands in front of every command's own checks. -/
theorem securityGate : Obligations.SecurityGate := by
  intro r k addr ch g b blob tok p ok s
  simp only [List.forall_mem_cons, List.not_mem_nil, false_imp_iff, implies_true, and_true, Nat.reduceEqDiff, reduceIte]
  refine ⟨fun hg => refused_of_secGate (exec_secAttest hg) fun _ => rfl, fun hg => ?blob,
    fun hg => refused_of_secGate (exec_secKeygenSwitch hg) fun _ => rfl,
    fun hg => refused_of_secGate (exec_secKeyClear hg) fun _ => rfl,
    fun hg => refused_of_secGate (exec_secFcAck hg) fun _ => rfl,
    fun hg => refused_of_secGate (exec_secFcRestore hg) fun _ => rfl,
    fun hg => refused_of_secGate (exec_secLcAdvance hg) fun _ => rfl,
    fun hg => refused_of_secGate (exec_secFuseWrite hg) fun _ => rfl,
    fun hg => refused_of_secGate (exec_romPatchLoad hg) fun _ => rfl⟩
  rw [exec_secKeyImport hg, doSecKeyImport, admitCmd_secGate, importRefused_secGate]
  exact ⟨fun hp => by rw [if_pos hp], fun hp ht => by rw [if_neg (by simp [hp]), if_pos ht]⟩

end Sys2Proof.Machine
end

section
/-! THEOREMS. The outgoing frame counter (R334 to R338). -/
namespace Sys2Proof.Machine

/-! ### What the counter's checks change -/

section
variable {s : State} {r : CmdRef} {g b : Nat}

@[simp] theorem fcStallCheck_sec : (fcStallCheck s).sec = { s.sec with fcStalled := (fcReason s).isSome } := by simp [fcStallCheck]

@[simp] theorem fcStallCheck_regs : (fcStallCheck s).regs = s.regs := by simp [fcStallCheck]

@[simp] theorem fcStallCheck_tbl : (fcStallCheck s).tbl = s.tbl := by simp [fcStallCheck]

@[simp] theorem fcStallCheck_sch : (fcStallCheck s).sch = s.sch := by simp [fcStallCheck]

@[simp] theorem fcLowCheck_sec : (fcLowCheck s).sec = { s.sec with fcLow := s.sec.fcLow || inLow s } := by simp [fcLowCheck]

@[simp] theorem fcLowCheck_regs : (fcLowCheck s).regs = s.regs := by simp [fcLowCheck]

@[simp] theorem fcLowCheck_tbl : (fcLowCheck s).tbl = s.tbl := by simp [fcLowCheck]

/-- The midpoint of a block that is followed by another one (R335). -/
theorem fcReserveCheck_sec : (fcReserveCheck s).sec = { s.sec with
    fcRes := if s.sec.fcNext % 2 ^ 20 = 2 ^ 19 ∧ s.sec.fcNext / 2 ^ 20 < 4095 then s.sec.fcNext / 2 ^ 20 + 1 else s.sec.fcRes } := by
  simp [fcReserveCheck]

@[simp] theorem fcReserveCheck_regs : (fcReserveCheck s).regs = s.regs := by simp [fcReserveCheck]

@[simp] theorem fcReserveCheck_tbl : (fcReserveCheck s).tbl = s.tbl := by simp [fcReserveCheck]

theorem fcReason_eq_none : fcReason s = none ↔ (s.sec.fcValid = true ∧ s.sec.fcNext < 2 ^ 32 ∧ s.sec.fcNext / 2 ^ 20 ≤ s.sec.fcAck) := by
  unfold fcReason
  split
  next hv => exact iff_of_false nofun fun h => by rw [h.1] at hv; exact absurd hv (by decide)
  next hv =>
    split
    next he => exact iff_of_false nofun fun h => Nat.not_lt.mpr he h.2.1
    next he =>
      split
      next ha => exact iff_of_false nofun fun h => Nat.not_lt.mpr h.2.2 ha
      next ha =>
        rw [Bool.not_eq_true, Bool.not_eq_false'] at hv
        exact iff_of_true rfl ⟨hv, Nat.not_le.mp he, Nat.not_lt.mp ha⟩

/-! ### `SEC_FC_ACK` and `SEC_FC_RESTORE` -/

theorem doSecFcAck_of_pass (hp : lcPermits (lcState s) 0x0606 = true) (ht : s.sec.tlock = false) (hv : (curSlot s).valid = true)
    (hg : g = curGen s) (hb : b ≤ s.sec.fcRes) : doSecFcAck r g b s =
      done r (fcStallCheck { s with sec := { s.sec with fcAck := max s.sec.fcAck b } }) := by
  rw [doSecFcAck, checked_secGate_pass hp ht]
  exact checked_pass (by simp [hv, hg, hb])

theorem doSecFcAck_of_other (hp : lcPermits (lcState s) 0x0606 = true) (ht : s.sec.tlock = false) (hg : g ≠ curGen s) :
    doSecFcAck r g b s = refuse r stBadState 9 0 s := by
  rw [doSecFcAck, checked_secGate_pass hp ht]
  simp [checked, hg]

theorem doSecFcRestore_of_pass (hp : lcPermits (lcState s) 0x0607 = true) (ht : s.sec.tlock = false) (hv : (curSlot s).valid = true)
    (hg : g = curGen s) (hb : b ≤ 4095) (hup : s.sec.fcValid = true → s.sec.fcNext / 2 ^ 20 < b) : doSecFcRestore r g b s =
      done r (fcStallCheck (fcLowCheck { s with sec := { s.sec with
        fcNext := b * 2 ^ 20
        fcAck := b
        fcRes := b
        fcValid := true } })) := by
  rw [doSecFcRestore, checked_secGate_pass hp ht]
  exact checked_pass (by simpa [hv, hg, hb] using hup)

theorem doSecFcRestore_of_low (hp : lcPermits (lcState s) 0x0607 = true) (ht : s.sec.tlock = false) (hb : b ≤ 4095)
    (hv : s.sec.fcValid = true) (hlow : b ≤ s.sec.fcNext / 2 ^ 20) : doSecFcRestore r g b s = refuse r stBadState 9 0 s := by
  rw [doSecFcRestore, checked_secGate_pass hp ht]
  simp only [checked, decide_eq_false (Nat.not_lt.mpr hb), hv, decide_eq_true hlow, Bool.and_self, Bool.or_true, reduceIte]
  rfl

theorem doSecFcRestore_of_high (hp : lcPermits (lcState s) 0x0607 = true) (ht : s.sec.tlock = false) (hb : 4095 < b) :
    doSecFcRestore r g b s = refuse r stBad 9 0x000B s := by
  rw [doSecFcRestore, checked_secGate_pass hp ht]
  simp [checked, hb]

end

/-- Settles O38: the checks of each command decide, and its effect is on the counter alone. -/
theorem frameCounter : Obligations.FrameCounter := by
  refine ⟨fun _ => fcReason_eq_none, fun s => ?drawn, fun r b s hg hp ht hv hb => ?acked, fun r g b s hg hp ht ho => ?other,
    fun r b s hg hp ht hv hb hup => ?restored, fun r b s hg hp ht hb hv hlow => ?low, fun r g b s hg hp ht hb => ?high⟩
  case drawn => simp [drawFc, fcReserveCheck_sec]
  case acked =>
    refine ⟨_, (exec_secFcAck hg).trans (congrArg _ (doSecFcAck_of_pass (by simpa using hp) (by simpa using ht) (by simpa using hv)
      admitCmd_curGen.symm (by simpa using hb))), ?_⟩
    simp [SecSt.fuses]
  case other => rw [exec_secFcAck hg, doSecFcAck_of_other (by simpa using hp) (by simpa using ht) (by simpa using ho)]
  case restored =>
    refine ⟨_, (exec_secFcRestore hg).trans (congrArg _ (doSecFcRestore_of_pass (by simpa using hp) (by simpa using ht)
      (by simpa using hv) admitCmd_curGen.symm hb (by simpa using hup))), ?_⟩
    simp [SecSt.fuses]
  case low => rw [exec_secFcRestore hg, doSecFcRestore_of_low (by simpa using hp) (by simpa using ht) hb (by simpa using hv) (by simpa using hlow)]
  case high => rw [exec_secFcRestore hg, doSecFcRestore_of_high (by simpa using hp) (by simpa using ht) hb]

end Sys2Proof.Machine
end

section
/-! THEOREMS. The vault: imports, the switch and the clearing of NEXT (R328 to R334, R472). -/
namespace Sys2Proof.Machine

/-! ### What an import reads, and what it leaves -/

section
variable {r : CmdRef} {op need n g a addr m : Nat} {c : HostCmd} {b : List Octet} {s : State}

@[simp] theorem admitCmd_nextReady : nextReady (admitCmd r op need n c s) = nextReady s := admitCmd_keeps nextReady

@[simp] theorem admitCmd_placement : placement (admitCmd r op need n c s) g a = placement s g a := admitCmd_keeps (placement · g a)

@[simp] theorem admitCmd_importChecks : importChecks (admitCmd r op need n c s) b a addr = importChecks s b a addr :=
  admitCmd_keeps (importChecks · b a addr)

@[simp] theorem blobOut_sec : (blobOut b addr s).sec = s.sec := by
  unfold blobOut
  split <;> rfl

@[simp] theorem blobOut_regs : (blobOut b addr s).regs = s.regs := by
  unfold blobOut
  split <;> rfl

@[simp] theorem blobOut_tbl : (blobOut b addr s).tbl = s.tbl := by
  unfold blobOut
  split <;> rfl

@[simp] theorem blobOut_sch : (blobOut b addr s).sch = s.sch := by
  unfold blobOut
  split <;> rfl

/-- The gate and the checks of an import pass together. -/
theorem doSecKeyImport_of_pass (hp : lcPermits (lcState s) 0x0603 = true) (ht : s.sec.tlock = false)
    (hc : ∀ x ∈ importChecks s b r.asn addr, x.1 = false) : doSecKeyImport r b addr s =
      if s.pair.st = .replay then importReplay r b addr s else importPlace r b r.asn addr s := by
  refine importRefused_pass (List.forall_mem_append.mpr ⟨?_, hc⟩)
  simp [secGate, hp, ht]

theorem importPlace_of_placed (hw : (placement s (blobGen b) a).1 ≠ .refused) : importPlace r b a addr s =
    let p := placeAs (placement s (blobGen b) a) (blobMaster s.sec b) (blobGen b) a s.sec
    fcStallCheck (doneWith r (p.1 + 128 * b2n (p.1 == p.2.cur) + 256 * blobGen b) (blobOut b addr (sendPair 7 (blobGen b)
      (keyres stOk (placeCode (placement s (blobGen b) a).1) (blobGen b) a { s with sec := p.2 })))) :=
  if_neg hw

theorem importReplay_of_room (h : (s.pair.store.filter (fun e => e.1 != blobGen b)).length < 8) : importReplay r b addr s =
    doneWith r (blobGen b * 256) (blobOut b addr { s with pair := { s.pair with
      store := s.pair.store.filter (fun e => e.1 != blobGen b) ++ [(blobGen b, blobMaster s.sec b)] } }) :=
  if_neg (Nat.not_le.mpr h)

/-- Into an empty vault, a generation without activation ASN is CURRENT's (Table 11-5). -/
theorem placement_of_empty (h : (curSlot s).valid = false) : placement s g 0 = (.current, false) := by
  simp [placement, h]

end

/-! ### The switch -/

section
variable {s : State} {n i : Nat} {r : CmdRef}

theorem takeSwitch_sec : (takeSwitch s).sec = { fcRestart (modSlot (1 - s.sec.cur) (fun k => { k with pending := false })
    (modSlot s.sec.cur (fun k => { k with retired := true }) s.sec)) with
      cur := 1 - s.sec.cur, sw := none, swRef := none, fcNext := s.sec.fcPre, fcPre := 0 } := by
  unfold takeSwitch
  split <;> rfl

@[simp] theorem takeSwitch_regs : (takeSwitch s).regs = s.regs := by
  unfold takeSwitch
  split <;> rfl

@[simp] theorem takeSwitch_tbl : (takeSwitch s).tbl = s.tbl := by
  unfold takeSwitch
  split <;> rfl

/-- The two vault slots after a switch: each pointer names the other slot, and only the marks changed. -/
theorem takeSwitch_slots (hc : s.sec.cur < 2) (hl : s.sec.slots.length = 2) :
    curSlot (takeSwitch s) = { nextSlot s with pending := false } ∧ nextSlot (takeSwitch s) = { curSlot s with retired := true } := by
  have hne : s.sec.cur ≠ 1 - s.sec.cur := by omega
  have hback : 1 - (1 - s.sec.cur) = s.sec.cur := by omega
  constructor
  · simp only [curSlot, nextSlot, takeSwitch_sec, fcRestart, modSlot]
    rw [getD_modAt _ _ _ _ _ (by rw [length_modAt]; omega), if_pos rfl, getD_modAt _ _ _ _ _ (by omega), if_neg hne.symm]
  · simp only [curSlot, nextSlot, takeSwitch_sec, fcRestart, modSlot, hback]
    rw [getD_modAt _ _ _ _ _ (by rw [length_modAt]; omega), if_neg hne, getD_modAt _ _ _ _ _ (by omega), if_pos rfl]

theorem switchIfDue_of_due (h : s.sec.sw = some i) (hd : i ≤ n) : switchIfDue n s = takeSwitch s := by
  simp only [switchIfDue, h, if_pos hd]

theorem switchIfDue_of_early (h : s.sec.sw = some i) (hd : n < i) : switchIfDue n s = s := by
  simp only [switchIfDue, h, if_neg (Nat.not_le.mpr hd)]

theorem exec_keygenSwitchTake (h : coreRuns s = true) :
    exec .keygenSwitchTake s = .next (fcStallCheck (switchIfDue (asnNow s) s)) :=
  congrArg Host.Outcome.next (coreOnly_of_runs h _)

theorem doSecKeygenSwitch_of_pass (hp : lcPermits (lcState s) 0x0604 = true) (ht : s.sec.tlock = false)
    (hl : s.time.loaded = true) (hs : tooSoon s r.asn = false) (hn : nextReady s = true) (hw : s.sec.sw = none) :
    doSecKeygenSwitch r s = schedSwitch r (namedAsn s r.asn) s := by
  rw [doSecKeygenSwitch, checked_secGate_pass hp ht]
  exact checked_pass (by simp [hl, hs, hn, hw])

/-! ### `SEC_KEY_CLEAR` -/

theorem doSecKeyClear_of_free (hp : lcPermits (lcState s) 0x0605 = true) (ht : s.sec.tlock = false) (hw : s.sec.sw = none) :
    doSecKeyClear r s = done r { s with sec := fillVault (1 - s.sec.cur) KeySlot.reset s.sec } := by
  rw [doSecKeyClear, checked_secGate_pass hp ht]
  exact checked_pass (by simp [hw])

theorem doSecKeyClear_of_pending (hp : lcPermits (lcState s) 0x0605 = true) (ht : s.sec.tlock = false) (hw : s.sec.sw = some n) :
    doSecKeyClear r s = refuse r stBadState 9 0 s := by
  rw [doSecKeyClear, checked_secGate_pass hp ht]
  simp [checked, hw]

/-- NEXT is emptied, CURRENT is kept. -/
theorem fillVault_next {x : SecSt} {k : KeySlot} (hc : x.cur < 2) (hl : x.slots.length = 2) :
    (fillVault (1 - x.cur) k x).slots.getD (1 - x.cur) KeySlot.reset = k ∧
    (fillVault (1 - x.cur) k x).slots.getD x.cur KeySlot.reset = x.slots.getD x.cur KeySlot.reset := by
  have hne : x.cur ≠ 1 - x.cur := by omega
  constructor
  · exact (getD_modAt _ _ _ _ _ (by simp only [dropGen]; omega)).trans (if_pos rfl)
  · exact (getD_modAt _ _ _ _ _ (by simp only [dropGen]; omega)).trans (if_neg hne)

end

/-- Settles O37: what each command does once its checks pass, and what the vault slots then hold. -/
theorem vaultAndSwitch : Obligations.VaultAndSwitch := by
  refine ⟨fun r b addr s hg hp ht hc hr hw => ?placed, fun r b addr s hg ha hp ht hc hr hv hl => ?first,
    fun r b addr s hg hp ht hc hr hn => ?replayed, fun r s hg hp ht hl hs hn hw => ?scheduled,
    fun n s hrun hw hd hc hl => ?taken, fun n s hrun hw hd => ?early, fun r s hg hp ht hw hl hc => ?cleared,
    fun r n s hg hp ht hw => ?pending⟩
  case placed =>
    rw [exec_secKeyImport hg, doSecKeyImport_of_pass (by simpa using hp) (by simpa using ht) (by simpa using hc),
      admitCmd_pair, if_neg hr, importPlace_of_placed (by simpa using hw), admitCmd_placement, admitCmd_sec]
  case first =>
    have hcur := placement_of_empty (g := blobGen b) hv
    refine ⟨_, (exec_secKeyImport hg).trans (congrArg _ ((doSecKeyImport_of_pass (by simpa using hp) (by simpa using ht)
      (by simpa [ha] using hc)).trans ((if_neg (by simpa using hr)).trans (importPlace_of_placed (by simp [ha, hcur]))))), ?_⟩
    simp only [fcStallCheck_sec, fcStallCheck_regs, fcStallCheck_tbl, fcStallCheck_sch, curSlot]
    simp [hcur, ha, keyres, sendPair, withPair, placeAs, fcRestart, fillVault, modSlot, dropGen, hl]
  case replayed =>
    rw [exec_secKeyImport hg, doSecKeyImport_of_pass (by simpa using hp) (by simpa using ht) (by simpa using hc),
      admitCmd_pair, if_pos hr, importReplay_of_room (by simpa using hn)]
    simp only [admitCmd_pair, admitCmd_sec]
  case scheduled =>
    rw [exec_secKeygenSwitch hg, doSecKeygenSwitch_of_pass (by simpa using hp) (by simpa using ht) (by simpa using hl) (by simpa using hs)
      (by simpa using hn) (by simpa using hw)]
    simp [schedSwitch, withSec, modSlot]
  case taken =>
    obtain ⟨hcur, hnext⟩ := takeSwitch_slots hc hl
    refine ⟨_, (exec_keygenSwitchTake hrun).trans (congrArg (Host.Outcome.next ∘ fcStallCheck) (switchIfDue_of_due hw hd)), ?_⟩
    refine ⟨by simp [takeSwitch_sec], by simp [takeSwitch_sec], by simp [takeSwitch_sec], hcur ▸ by simp [curSlot], hnext ▸ by simp [nextSlot], ?_⟩
    simp [takeSwitch_sec, SecSt.fuses, fcRestart, modSlot]
  case early => rw [exec_keygenSwitchTake hrun, switchIfDue_of_early hw hd]
  case cleared =>
    obtain ⟨hnext, hcur⟩ := fillVault_next (k := KeySlot.reset) hc hl
    refine ⟨_, (exec_secKeyClear hg).trans (congrArg _ (doSecKeyClear_of_free (by simpa using hp) (by simpa using ht)
      (by simpa using hw))), ?_⟩
    simp only [admitCmd_sec, curSlot, nextSlot, done_sec, done_regs, done_tbl]
    exact ⟨hnext, hcur, rfl, rfl, by simp, by simp⟩
  case pending => rw [exec_secKeyClear hg, doSecKeyClear_of_pending (by simpa using hp) (by simpa using ht) (by simpa using hw)]

end Sys2Proof.Machine
end

section
/-! THEOREMS. Life cycle, fuses, ROM patch, identity and the tamper response (R318 to R322, R346 to R351, R423, R545). -/
namespace Sys2Proof.Machine

section
variable {r : CmdRef} {op need n k target addr ch v : Nat} {c : HostCmd} {tok p : List Octet} {ok : Bool} {s : State}

@[simp] theorem admitCmd_tampQuiet : tampQuiet (admitCmd r op need n c s) = tampQuiet s := admitCmd_keeps tampQuiet

@[simp] theorem admitCmd_tokenOk : tokenOk (admitCmd r op need n c s) tok = tokenOk s tok := admitCmd_keeps (tokenOk · tok)

@[simp] theorem admitCmd_patchOk : patchOk (admitCmd r op need n c s) p = patchOk s p := admitCmd_keeps (patchOk · p)

@[simp] theorem admitCmd_identityOut : identityOut (admitCmd r op need n c s) = identityOut s := admitCmd_keeps identityOut

@[simp] theorem admitCmd_attestOut : attestOut k ch (admitCmd r op need n c s) = attestOut k ch s := admitCmd_keeps (attestOut k ch)

@[simp] theorem admitCmd_blownPart : blownPart ok v (admitCmd r op need n c s) = blownPart ok v s := admitCmd_keeps (blownPart ok v)

/-! ### `SEC_LC_ADVANCE` -/

theorem advance_sec : (advance target ok s).sec =
    { zeroKeys s.sec with lc := blow s.sec.lc target ok, rootOk := rootHere s.sec target } := by
  unfold advance
  split <;> simp [withSec]

@[simp] theorem advance_regs : (advance target ok s).regs = s.regs := by
  unfold advance
  split <;> simp [withSec]

@[simp] theorem advance_tbl : (advance target ok s).tbl = s.tbl := by
  unfold advance
  split <;> simp [withSec]

/-- An advance to a permitted target, with VFUSE there and every slotframe inactive, is decided by its token, which RMA alone needs. -/
theorem doSecLcAdvance_of_step (hp : lcPermits (lcState s) 0x0608 = true) (ht : s.sec.tlock = false)
    (hm : mayAdvance (lcState s) target = true) (hi : allInactive s = true) (hv : s.sec.vfuseOk = true) :
    doSecLcAdvance r target tok ok s = if target = 3 ∧ tokenOk s tok = false then refuse r stAuthFail 9 0 s
      else done r (fcStallCheck (advance target ok s)) := by
  rw [doSecLcAdvance, checked_secGate_pass hp ht]
  simp [checked, hm, hi, hv]

theorem doSecLcAdvance_of_no_step (hp : lcPermits (lcState s) 0x0608 = true) (ht : s.sec.tlock = false)
    (hm : mayAdvance (lcState s) target = false) : doSecLcAdvance r target tok ok s = refuse r stBad 9 0x000B s := by
  rw [doSecLcAdvance, checked_secGate_pass hp ht]
  simp [checked, hm]

/-! ### Fuses, patch, identity -/

theorem doSecFuseWrite_id (hp : lcPermits (lcState s) 0x060A = true) (ht : s.sec.tlock = false) (hv : s.sec.vfuseOk = true)
    (ho : s.sec.ownerId = 0) : doSecFuseWrite r 0 v ok s =
      let t := { s with fresh := s.fresh + 1, sec := { s.sec with ownerId := blownPart ok (v % 2 ^ 64) s } }
      if ok then done r t else refuse r stInternal 9 0 t := by
  rw [doSecFuseWrite, checked_secGate_pass hp ht]
  exact checked_pass (by simp [ho, hv])

theorem doSecFuseWrite_tamp (hp : lcPermits (lcState s) 0x060A = true) (ht : s.sec.tlock = false) (hv : s.sec.vfuseOk = true)
    (ho : s.sec.ownerTamp = 0) : doSecFuseWrite r 1 v ok s =
      let t := { s with fresh := s.fresh + 1, sec := { s.sec with ownerTamp := blownPart ok (v % 2 ^ 16) s } }
      if ok then done r t else refuse r stInternal 9 0 t := by
  rw [doSecFuseWrite, checked_secGate_pass hp ht]
  exact checked_pass (by simp [ho, hv])

theorem doRomPatchLoad_of_form (hp : lcPermits (lcState s) 0x060B = true) (ht : s.sec.tlock = false) (hf : patchForm p = true) :
    doRomPatchLoad r p s = if patchOk s p then
      done r { s with sec := { s.sec with romRev := leOf (slice p 6 2), patchMask := (p.getD 12 0).toNat % 16 } }
    else refuse r stAuthFail 9 0 s := by
  rw [doRomPatchLoad, checked_secGate_pass hp ht]
  cases patchOk s p <;> simp [checked, hf, withSec]

theorem doSecAttest_of_pass (hp : lcPermits (lcState s) 0x0602 = true) (ht : s.sec.tlock = false) (hr : s.sec.rootOk = true)
    (hk : k = 1 ∨ (k = 2 ∧ s.pair.agree.isSome = true)) :
    doSecAttest r k addr ch s = done r (writeOut addr (attestOut k ch s) s) := by
  rw [doSecAttest, checked_secGate_pass hp ht]
  refine checked_pass ?_
  rcases hk with rfl | ⟨rfl, ha⟩
  · simp [hr]
  · simpa [hr, Option.isSome_iff_ne_none] using ha

/-! ### The tamper response -/

theorem doSecTamperAck_of_quiet (hq : tampQuiet s = true) (ht : s.sec.tlock = true) : doSecTamperAck r s =
    done r { s with sec := { s.sec with tlock := false, rootOk := rootHere s.sec (lcState s) } } := by
  simp [doSecTamperAck, hq, ht, withSec]

theorem doSecTamperAck_of_soon (hq : tampQuiet s = false) : doSecTamperAck r s = refuse r stBusy 9 0 s := by
  simp [doSecTamperAck, hq]

/-- What a tamper response leaves of the keys (R349): no slot, no cached key, no root, and the lock. -/
def Locked (x : SecSt) : Prop :=
  x.tlock = true ∧ x.rootOk = false ∧ x.slots = [KeySlot.reset, KeySlot.reset] ∧ x.cache = [] ∧ x.fcValid = false

theorem locked_tamperKeys : Locked (tamperKeys k s).sec := ⟨rfl, rfl, rfl, rfl, rfl⟩

theorem locked_tamperRun : Locked (tamperRun k s).sec := by
  rw [tamperRun, raiseErr_sec, event_sec]
  exact locked_tamperKeys

theorem locked_tampRespond (h : s.pwr.st = .run ∨ s.pwr.st = .watch) : Locked (tampRespond k s).sec := by
  have e : tampRespond k s = if 6 ≤ s.pwr.phase then tamperRun k s else tamperKeys k s := by
    rcases h with h | h <;> simp [tampRespond, h]
  rw [e]
  split
  · exact locked_tamperRun
  · exact locked_tamperKeys

end

section
variable {x : TampSrc} {hold : Nat} {s : State}

theorem exec_tamperAlarm_of_enabled (hs : tampShows s x = true) (he : tampEnabled s (tampBit x) = true) :
    exec (.tamperAlarm ⟨x, hold⟩) s = .next (tampRespond (tampBit x) (tampStands (tampBit x) hold s)) := by
  change execTamperAlarm ⟨x, hold⟩ s = _
  simp [execTamperAlarm, hs, he]

theorem exec_tamperAlarm_of_disabled (hs : tampShows s x = true) (he : tampEnabled s (tampBit x) = false) :
    exec (.tamperAlarm ⟨x, hold⟩) s = .next (tampStands (tampBit x) hold s) := by
  change execTamperAlarm ⟨x, hold⟩ s = _
  simp [execTamperAlarm, hs, he]

theorem exec_tamperAlarm_of_none (hs : tampShows s x = false) : exec (.tamperAlarm ⟨x, hold⟩) s = .next s := by
  change execTamperAlarm ⟨x, hold⟩ s = _
  simp [execTamperAlarm, hs]

end

/-- Settles O39: what each command does once its checks pass, and the tamper response. -/
theorem lifeCycle : Obligations.LifeCycle := by
  refine ⟨fun r target tok ok s hg hp ht hm hi hv h3 => ?advanced, fun r tok ok s hg hp ht hm hi hv => ?rma,
    fun r target tok ok s hg hp ht hm => ?noStep, fun r v ok s hg hp ht hv => ⟨fun ho => ?ownerId, fun ho => ?ownerTamp⟩,
    fun r p s hg hp ht hf => ?patch, fun r addr s hg => ?identity, fun r k addr ch s hg hp ht hr hk => ?attest,
    fun r s hg hq ht => ?quiet, fun r s hg hq => ?soon, fun x hold s hs he hst => ?respond,
    fun _ _ _ => exec_tamperAlarm_of_enabled, fun _ _ _ => exec_tamperAlarm_of_disabled, fun _ _ _ => exec_tamperAlarm_of_none⟩
  case advanced =>
    refine ⟨_, (exec_secLcAdvance hg).trans (congrArg _ ((doSecLcAdvance_of_step (by simpa using hp) (by simpa using ht)
      (by simpa using hm) (by simpa using hi) (by simpa using hv)).trans (if_neg (fun h => h3 h.1)))), ?_⟩
    simp [advance_sec, zeroKeys]
  case rma =>
    rw [exec_secLcAdvance hg, doSecLcAdvance_of_step (by simpa using hp) (by simpa using ht)
      (by simpa using hm) (by simpa using hi) (by simpa using hv), admitCmd_tokenOk]
    cases tokenOk s tok <;> rfl
  case noStep => rw [exec_secLcAdvance hg, doSecLcAdvance_of_no_step (by simpa using hp) (by simpa using ht) (by simpa using hm)]
  case ownerId =>
    rw [exec_secFuseWrite hg, doSecFuseWrite_id (by simpa using hp) (by simpa using ht) (by simpa using hv) (by simpa using ho)]
    simp only [admitCmd_sec, admitCmd_fresh, admitCmd_blownPart]
  case ownerTamp =>
    rw [exec_secFuseWrite hg, doSecFuseWrite_tamp (by simpa using hp) (by simpa using ht) (by simpa using hv) (by simpa using ho)]
    simp only [admitCmd_sec, admitCmd_fresh, admitCmd_blownPart]
  case patch =>
    rw [exec_romPatchLoad hg, doRomPatchLoad_of_form (by simpa using hp) (by simpa using ht) hf, admitCmd_patchOk]
    simp only [admitCmd_sec]
  case identity => exact ⟨_, exec_secIdentity hg, by simp [doSecIdentity, writeOut]⟩
  case attest =>
    refine ⟨_, (exec_secAttest hg).trans (congrArg _ (doSecAttest_of_pass (by simpa using hp) (by simpa using ht) (by simpa using hr)
      (by simpa using hk))), ?_⟩
    simp [writeOut]
  case quiet =>
    rw [exec_secTamperAck hg, doSecTamperAck_of_quiet (by simpa using hq) (by simpa using ht)]
    simp only [admitCmd_sec, admitCmd_lcState]
  case soon => rw [exec_secTamperAck hg, doSecTamperAck_of_soon (by simpa using hq)]
  case respond =>
    obtain ⟨hlock, hroot, hslots, hcache, hfc⟩ := locked_tampRespond (k := tampBit x) (s := tampStands (tampBit x) hold s) hst
    exact ⟨_, exec_tamperAlarm_of_enabled hs he, hlock, hroot, hslots, hcache, hfc,
      fused_tampRespond (P := (· = s.sec.fuses)) rfl⟩

end Sys2Proof.Machine
end

section
/-! THEOREMS. Cipher engine 3 (R340 to R344, R424, R425). -/
namespace Sys2Proof.Machine

section
variable {r : CmdRef} {op need n : Nat} {c : HostCmd} {a : CipherArgs} {q : CipherOp} {l : List CipherOp} {s : State}

@[simp] theorem admitCmd_cipherSlot : cipherSlot (admitCmd r op need n c s) a = cipherSlot s a := admitCmd_keeps (cipherSlot · a)

/-! ### Admission to engine 3 -/

theorem exec_secCipher (h : goes s r 0x0610 (if cipherStreams a then 2 else 1) = true) :
    exec (.secCipher r a) s = .next (doSecCipher r a (admitCmd r 0x0610 (if cipherStreams a then 2 else 1)
      (64 + min a.aadLen (cipherLimits a.mode).1 + min a.inLen (cipherLimits a.mode).2) (.secCipher a) s)) :=
  congrArg Host.Outcome.next (runCmd_goes _ _ _ h)

theorem doSecCipher_of_pass (hl : lcState s = 4 → a.ksrc = 0) (ht : s.sec.tlock = false) (hf : cipherForm a = true)
    (hn : a.ksrc = 1 → (nodeAt s a.karg).isSome = true) (hh : a.ksrc = 0 → s.pair.st ≠ .replay ∧ s.pair.rpNext = none)
    (hk : a.ksrc ≠ 0 → s.sec.rootOk = true ∧ (cipherSlot s a).valid = true)
    (ha : a.aadLen ≤ (cipherLimits a.mode).1) (hi : a.inLen ≤ (cipherLimits a.mode).2) : doSecCipher r a s = startCipher r a s := by
  refine checked_pass ?_
  by_cases h0 : a.ksrc = 0
  · simpa [h0, ht, hf, ha, hi] using hh h0
  · have hnode : (a.ksrc == 1 && (nodeAt s a.karg).isNone) = false := by simpa [Option.isSome_iff_ne_none] using hn
    simpa [h0, ht, hf, ha, hi, hk h0, hnode] using fun h => h0 (hl h)

theorem doSecCipher_of_form (hk : a.ksrc = 0) (ht : s.sec.tlock = false) (hf : cipherForm a = false) :
    doSecCipher r a s = refuse r stBad 9 0x000B s := by
  simp [doSecCipher, checked, hk, ht, hf]

theorem doSecCipher_of_long (hk : a.ksrc = 0) (ht : s.sec.tlock = false) (hf : cipherForm a = true) (hr : s.pair.st ≠ .replay)
    (hn : s.pair.rpNext = none) (hi : (cipherLimits a.mode).2 < a.inLen) : doSecCipher r a s = refuse r stLen 9 0 s := by
  simp [doSecCipher, checked, hk, ht, hf, hr, hn, hi]

/-- A HOST key that came with the command, on a unit without a pair link, joins engine 3 and nothing else. -/
theorem startCipher_host (hk : a.ksrc = 0) (he : s.pair.exec = false) (hl : s.pair.link = false) : startCipher r a s =
    { s with sec := { s.sec with ops := s.sec.ops ++ [⟨r, a, cipherStreams a, a.key⟩] } } := by
  have hnone : cipherKey s a = none := by simp [cipherKey, hk]
  have hoct : cipherKeyOct s a = a.key := by simp [cipherKeyOct, hk]
  simp [startCipher, hnone, hoct, hostKey, hk, he, sendPair_off _ _ _ hl, withSec]

/-! ### The end of an operation -/

theorem exec_cipherOperationDone (hu : s.up = true) (ho : s.sec.ops = q :: l) :
    exec (.cipherOperationDone 3 q.ref) s = .next (endCipher q s) := by
  change execCipherOperationDone 3 q.ref s = _
  simp [execCipherOperationDone, ho, hu]

theorem endCipher_of_written (h : q.args.outOk = true) : endCipher q s =
    let t := cipherWrites q (if q.stream then post q.ref stUntrusted 9 0 0 s else s)
    let u := { t with sec := { t.sec with ops := t.sec.ops.drop 1 } }
    if (cipherRun q).2.2 then done q.ref u else refuse q.ref stAuthFail 9 0 u := by
  simp only [endCipher, h, withSec]
  rfl

theorem endCipher_of_lost (h : q.args.outOk = false) : endCipher q s =
    let t := if q.stream then post q.ref stUntrusted 9 0 0 s else s
    refuse q.ref stInternal 11 5 { t with sec := { t.sec with ops := t.sec.ops.drop 1 } } := by
  simp only [endCipher, h, withSec]
  rfl

theorem cipherRun_ccmSeal (hm : q.args.mode = 0) (hd : q.args.dir = 0) : cipherRun q =
    ((ccmSeal q.key q.args.nonce q.args.aad q.args.input q.args.tagLen).1,
      (ccmSeal q.key q.args.nonce q.args.aad q.args.input q.args.tagLen).2, true) := by
  simp only [cipherRun, hm, hd]

/-- A sealing under CCM* writes its output and its tag. -/
theorem cipherWrites_ccmSeal (hf : s.pair.follows = false) (he : s.pair.exec = false) (hm : q.args.mode = 0) (hd : q.args.dir = 0) :
    (cipherWrites q s).hif.outBuf = [(q.args.outAddr, (ccmSeal q.key q.args.nonce q.args.aad q.args.input q.args.tagLen).1),
      (q.args.tagAddr, (ccmSeal q.key q.args.nonce q.args.aad q.args.input q.args.tagLen).2)] := by
  simp [cipherWrites, tagOut, cipherRun_ccmSeal hm hd, hf, he, hm, hd, writeOut, writeAlso]

/-- A held plaintext whose tag does not verify is not written. -/
theorem cipherWrites_of_held (hs : q.stream = false) (hm : q.args.mode ≠ 2) (hv : (cipherRun q).2.2 = false) : cipherWrites q s = s := by
  simp [cipherWrites, hs, hm, hv]

end

/-- Settles O40: the checks of `SEC_CIPHER` in their order, and the end of engine 3's oldest operation. -/
theorem cipherEngine : Obligations.CipherEngine := by
  refine ⟨fun r a s hg hl ht hf hn hh hk ha hi => ?admitted, fun _ _ _ => startCipher_host, fun r a s hg hk ht hf => ?form,
    fun r a s hg hk ht hf hr hn hi => ?long, fun q l s hu ho h => ?written, fun q l s hu ho h => ?lost,
    fun _ _ => cipherWrites_ccmSeal, fun _ _ => cipherWrites_of_held⟩
  case admitted =>
    rw [exec_secCipher hg, doSecCipher_of_pass (by simpa using hl) (by simpa using ht) hf (by simpa using hn) (by simpa using hh)
      (by simpa using hk) ha hi]
  case form => rw [exec_secCipher hg, doSecCipher_of_form hk (by simpa using ht) hf]
  case long => rw [exec_secCipher hg, doSecCipher_of_long hk (by simpa using ht) hf (by simpa using hr) (by simpa using hn) hi]
  case written => rw [exec_cipherOperationDone hu ho, endCipher_of_written h]
  case lost => rw [exec_cipherOperationDone hu ho, endCipher_of_lost h]

end Sys2Proof.Machine
end

section
/-! THEOREMS. Resets and the cold boot (R350, R497 to R503, R516, R517, R523, R531). -/
namespace Sys2Proof.Machine

/-! ### Registers past a reset -/

section
variable {s t : State} {a cause : Nat} {b : KeepBank}

/-- What a list of cells holds at `a` once only the addresses that `q` keeps are left. -/
theorem cellsGet_keep (q : Nat → Bool) (d : Word) (l : List (Nat × Word)) :
    cellsGet a d (l.filter (fun p => q p.1)) = if q a = true then cellsGet a d l else d := by
  have e := cellsGet_filter (fun x => !q x) d l a
  simp only [Bool.not_not, Bool.not_eq_true'] at e
  rw [e]
  cases q a <;> rfl

theorem reg_of_filter {q : Nat → Bool} (h : t.regs = s.regs.filter (fun p => q p.1)) :
    t.reg a = if q a = true then s.reg a else resetAt a := by
  rw [State.reg, h]
  exact cellsGet_keep q (resetAt a) s.regs

theorem powerOn_reg : (powerOn cause s).reg a = if a = 0x10020 then s.reg a else resetAt a := by
  rw [reg_of_filter (q := fun x => x == 0x10020) rfl]
  simp only [beq_iff_eq]

/-- A reset of the device keeps the registers of the always-on domain (R499). -/
theorem reg_of_alwaysOn (h : t.regs = s.regs.filter (fun p => alwaysOn p.1)) :
    (∀ a, alwaysOn a = false → t.reg a = resetAt a) ∧ ∀ a, alwaysOn a = true → t.reg a = s.reg a := by
  refine ⟨fun a ha => ?_, fun a ha => ?_⟩
  · rw [reg_of_filter h, if_neg (by simp [ha])]
  · rw [reg_of_filter h, if_pos ha]

/-! ### The inputs of a reset -/

theorem exec_perstAssert_of_on (h : s.pwr.st = .run ∨ s.pwr.st = .watch) :
    exec .perstAssert s = .next (withPwr (fun p => { p with perst := true }) (mainReset 6 s)) := by
  change execPerstAssert s = _
  rcases h with h | h <;> simp only [execPerstAssert, h]

theorem exec_perstAssert_of_keep (h : s.pwr.st = .keep) : exec .perstAssert s = .next s := by
  change execPerstAssert s = _
  simp only [execPerstAssert, h]

theorem exec_perstAssert_of_off (h : s.pwr.st = .off) :
    exec .perstAssert s = .next { s with pwr := { s.pwr with perst := true } } := by
  change execPerstAssert s = _
  simp only [execPerstAssert, h, withPwr]

theorem exec_pwrOkFall_of_on (h : s.pwr.st = .run ∨ s.pwr.st = .watch) (hb : s.pwr.bank = none) :
    exec .pwrOkFall s = .next (enterOff 5 s) := by
  change execPwrOkFall s = _
  rcases h with h | h <;> simp only [execPwrOkFall, h, hb]

theorem exec_pwrOkFall_of_waking (h : s.pwr.st = .run ∨ s.pwr.st = .watch) (hb : s.pwr.bank = some b) :
    exec .pwrOkFall s = .next (returnKeep b s) := by
  change execPwrOkFall s = _
  rcases h with h | h <;> simp only [execPwrOkFall, h, hb]

theorem exec_pwrOkFall_of_keep (h : s.pwr.st = .keep) : exec .pwrOkFall s = .next (backToKeep s) := by
  change execPwrOkFall s = _
  simp only [execPwrOkFall, h]

theorem exec_pwrOkFall_of_off (h : s.pwr.st = .off) :
    exec .pwrOkFall s = .next { s with pwr := { s.pwr with pwrOk := false } } := by
  change execPwrOkFall s = _
  simp only [execPwrOkFall, h, withPwr]

end

/-! ### The boots -/

section
variable {oks : List Bool} {x : BistIn} {v : Word} {s : State}

theorem exec_coldBoot_of_ready (h : s.pwr.st = .off ∨ (s.pwr.st = .run ∧ s.pwr.phase = 0)) :
    exec (.coldBoot oks x) s = .next (boot oks x.ok x.otpBad s) :=
  congrArg Host.Outcome.next (if_pos h)

theorem exec_coldBoot_of_else (h : ¬(s.pwr.st = .off ∨ (s.pwr.st = .run ∧ s.pwr.phase = 0))) :
    exec (.coldBoot oks x) s = .next s :=
  congrArg Host.Outcome.next (if_neg h)

theorem exec_glbResetWrite_of_other (h : v ≠ resetKey) : exec (.glbResetWrite v) s = .next s :=
  congrArg Host.Outcome.next (if_neg (by simp [h]))

theorem exec_glbResetWrite_of_key (h : bar0 s = true) : exec (.glbResetWrite resetKey) s =
    .next (boot ((List.range 6).map (fun i => bitOf (freshAt s) i)) (bitOf (freshAt s) 6) s.sec.otpBad (softReset (useFresh 1 s))) :=
  congrArg Host.Outcome.next (if_pos (by simp [h]))

/-- What a software reset leaves before its boot: the security state of a main reset, the always-on registers and the link. -/
theorem softReset_spec (s : State) : (softReset s).sec = secMain s ∧ (softReset s).regs = s.regs.filter (fun p => alwaysOn p.1) ∧
    (softReset s).hif.speed = s.hif.speed ∧ (softReset s).hif.width = s.hif.width ∧ (softReset s).time = TimeSt.reset := by
  have e := softStop_linkFrame s
  simp only [linkFrame, Prod.mk.injEq] at e
  obtain ⟨hsec, htime, hspeed, hwidth, hregs, -⟩ := e
  refine ⟨?_, ?_, hspeed, hwidth, rfl⟩
  · change secMain (softStop s) = secMain s
    simp only [secMain, alarmsLeft, hsec, htime]
  · change (softStop s).regs.filter _ = _
    rw [hregs]

/-- A condition that is over before the software reset does not stand at its boot. -/
theorem softReset_quiet (h : ∀ a ∈ s.sec.alarmAt, a.2 ≤ s.time.tb) :
    ∀ a ∈ (softReset s).sec.alarmAt, a.2 ≤ (softReset s).time.tb := by
  obtain ⟨hsec, -, -, -, htime⟩ := softReset_spec s
  rw [hsec, htime]
  simp only [secMain, alarmsLeft, List.forall_mem_map]
  exact fun a ha => Nat.le_of_eq (Nat.sub_eq_zero_of_le (h a ha))

/-- The boot after a software reset ends in phase 6, or in phase 3 where its BIST fails. -/
theorem boot_softReset (ok : Bool) (bad : List Nat) :
    let t := boot oks ok bad (softReset s)
    t.pwr.st = .run ∧ t.pwr.cause = 6 ∧ (t.pwr.phase = 6 ∨ t.pwr.phase = 3) ∧ t.hif.speed = s.hif.speed ∧ t.hif.width = s.hif.width ∧
      t.tbl = TblSt.reset ∧ t.sch = SchSt.reset ∧ t.regs = s.regs.filter (fun p => alwaysOn p.1) ∧
      ((∀ a ∈ s.sec.alarmAt, a.2 ≤ s.time.tb) → t.sec.slots = s.sec.slots ∧ t.sec.tlock = s.sec.tlock) := by
  obtain ⟨hsec, hregs, hspeed, hwidth, -⟩ := softReset_spec s
  have hkeys : (softReset s).sec.slots = s.sec.slots ∧ (softReset s).sec.tlock = s.sec.tlock := by rw [hsec]; exact ⟨rfl, rfl⟩
  cases ok with
  | true =>
    obtain ⟨x, p, j, q, w, d, k, e, -, hquiet, -⟩ := boot_ok oks bad (softReset s)
    simp only [e]
    exact ⟨trivial, rfl, .inl trivial, hspeed, hwidth, rfl, rfl, hregs, fun h => by
      rw [← hkeys.1, ← hkeys.2]; exact hquiet (softReset_quiet h)⟩
  | false =>
    obtain ⟨x, p, w, e, hquiet, -⟩ := boot_fail oks bad (softReset s)
    simp only [e]
    exact ⟨trivial, rfl, .inr trivial, hspeed, hwidth, rfl, rfl, hregs, fun h => by
      rw [← hkeys.1, ← hkeys.2]; exact hquiet (softReset_quiet h)⟩

end

/-- Settles O42: the state that each reset leaves, and the boots out of it. -/
theorem resetsAndBoot : Obligations.ResetsAndBoot := by
  refine ⟨fun s => ?powerOn, fun s hs => ?brownOut, fun s h => ?perst, fun _ => exec_perstAssert_of_keep,
    fun _ => exec_perstAssert_of_off, fun s h hb => ⟨_, exec_pwrOkFall_of_on h hb, rfl, rfl, rfl, rfl, rfl, rfl, rfl⟩,
    fun b s h hb => ⟨_, exec_pwrOkFall_of_waking h hb, rfl, rfl, rfl, rfl, rfl, rfl, rfl, rfl, rfl, rfl, rfl⟩,
    fun s h => ⟨_, exec_pwrOkFall_of_keep h, h, rfl, rfl, rfl, rfl, rfl, rfl⟩, fun _ => exec_pwrOkFall_of_off,
    fun oks bad s h => ?booted, fun oks bad s h => ?failed, fun oks ok bad s h1 h2 => ?elsewhere,
    fun _ _ => exec_glbResetWrite_of_other, fun s h => ?soft⟩
  case powerOn =>
    exact ⟨powerOn 0 s, rfl, rfl, rfl, rfl, rfl, rfl, rfl, rfl, rfl, rfl, rfl, rfl,
      fun a ha => powerOn_reg.trans (if_neg ha), powerOn_reg.trans (if_pos rfl)⟩
  case brownOut =>
    refine ⟨_, rfl, rfl, rfl, rfl, rfl, rfl, rfl, ?_⟩
    rw [reg_setReg_same _ _ (cellsWf_filter _ _ _ (wordsOk_iff.mp hs).1), powerOn_reg, if_pos rfl]
  case perst =>
    obtain ⟨hoff, hon⟩ := reg_of_alwaysOn (s := s) (t := withPwr (fun p => { p with perst := true }) (mainReset 6 s)) rfl
    exact ⟨_, exec_perstAssert_of_on h, rfl, rfl, rfl, rfl, rfl, rfl, rfl, rfl, rfl, rfl, rfl, rfl, hoff, hon⟩
  case booted =>
    obtain ⟨x, p, j, q, w, d, k, e, hp, hquiet, halarm, hroot⟩ := boot_ok oks bad s
    exact ⟨_, (exec_coldBoot_of_ready h).trans (congrArg _ e), rfl, rfl, rfl, rfl, rfl, hp, hroot, rfl, rfl, hquiet, halarm⟩
  case failed =>
    obtain ⟨x, p, w, e, -, -⟩ := boot_fail oks bad s
    exact ⟨_, (exec_coldBoot_of_ready h).trans (congrArg _ e), rfl, rfl, rfl, rfl, rfl⟩
  case elsewhere =>
    exact exec_coldBoot_of_else (not_or.mpr ⟨h1, fun h => h2.elim (absurd h.1) (absurd h.2)⟩)
  case soft =>
    obtain ⟨hst, hcause, hphase, hspeed, hwidth, htbl, hsch, hregs, hkeys⟩ :=
      boot_softReset (s := useFresh 1 s) (oks := (List.range 6).map (fun i => bitOf (freshAt s) i)) (bitOf (freshAt s) 6) s.sec.otpBad
    exact ⟨_, exec_glbResetWrite_of_key h, hst, hcause, hphase, hspeed, hwidth, htbl, hsch, (reg_of_alwaysOn (s := s) hregs).1, hkeys⟩

end Sys2Proof.Machine
end

section
/-! THEOREMS. Packet memory: a free list is the list of its cells, taken from the head (R355, R356). -/
namespace Sys2Proof.Machine

/-- The cells of a free list, in its order. -/
def freeCells (f : List (Nat × Nat)) : List Nat := f.flatMap (fun p => (List.range (p.2 - p.1)).map (p.1 + ·))

/-- The free list behind the first cell of an interval. -/
def behindHead (lo hi : Nat) (t : List (Nat × Nat)) : List (Nat × Nat) := if lo + 1 < hi then (lo + 1, hi) :: t else t

theorem length_freeCells (f : List (Nat × Nat)) : (freeCells f).length = freeCount f := by
  simp [freeCells, freeCount, sumNat, List.length_flatMap, List.sum_eq_foldl]

section
variable {lo hi : Nat} {t : List (Nat × Nat)}

/-- The first cell of a non-empty interval is its lower bound. -/
theorem freeCells_cons (h : lo < hi) : freeCells ((lo, hi) :: t) = lo :: freeCells (behindHead lo hi t) := by
  obtain ⟨k, rfl⟩ : ∃ k, hi = lo + (k + 1) := ⟨hi - lo - 1, by omega⟩
  cases k with
  | zero => simp [freeCells, behindHead]
  | succ k =>
    have hk : lo + (k + 1 + 1) - (lo + 1) = k + 1 := by omega
    simp [freeCells, behindHead, hk, List.range_succ_eq_map, Function.comp_def, Nat.add_assoc, Nat.add_comm 1]

theorem nonempty_behindHead (ht : ∀ p ∈ t, p.1 < p.2) : ∀ p ∈ behindHead lo hi t, p.1 < p.2 := by
  unfold behindHead
  split
  · rename_i h
    exact List.forall_mem_cons.mpr ⟨h, ht⟩
  · exact ht

/-- A cell more is the first one and the cells behind it. -/
theorem takeCells_succ (n : Nat) : takeCells (n + 1) ((lo, hi) :: t) =
    (takeCells n (behindHead lo hi t)).map (fun x => (lo :: x.1, x.2)) := by
  simp only [takeCells, behindHead]
  cases takeCells n (if lo + 1 < hi then (lo + 1, hi) :: t else t) <;> rfl

end

/-- A list that holds `n` cells is split behind its first `n`. -/
theorem takeCells_of_enough {n : Nat} {f : List (Nat × Nat)} (hf : ∀ p ∈ f, p.1 < p.2) (hn : n ≤ (freeCells f).length) :
    ∃ g, takeCells n f = some ((freeCells f).take n, g) ∧ freeCells g = (freeCells f).drop n ∧ ∀ p ∈ g, p.1 < p.2 := by
  induction n generalizing f with
  | zero => exact ⟨f, by rw [takeCells, List.take_zero], rfl, hf⟩
  | succ n ih =>
    cases f with
    | nil => exact absurd hn (Nat.not_succ_le_zero n)
    | cons p t =>
      obtain ⟨lo, hi⟩ := p
      obtain ⟨hp, ht⟩ := List.forall_mem_cons.mp hf
      rw [freeCells_cons hp] at hn ⊢
      obtain ⟨g, hg, hd, hne⟩ := ih (nonempty_behindHead ht) (Nat.le_of_succ_le_succ hn)
      exact ⟨g, by rw [takeCells_succ, hg]; rfl, hd, hne⟩

theorem takeCells_of_few {n : Nat} {f : List (Nat × Nat)} (hf : ∀ p ∈ f, p.1 < p.2) (hn : (freeCells f).length < n) :
    takeCells n f = none := by
  induction n generalizing f with
  | zero => exact absurd hn (Nat.not_lt_zero _)
  | succ n ih =>
    cases f with
    | nil => rfl
    | cons p t =>
      obtain ⟨lo, hi⟩ := p
      obtain ⟨hp, ht⟩ := List.forall_mem_cons.mp hf
      rw [freeCells_cons hp] at hn
      rw [takeCells_succ, ih (nonempty_behindHead ht) (Nat.lt_of_succ_lt_succ hn), Option.map_none]

/-- Settles O12: the cells of a free list, split behind the first `n`. -/
theorem cellsAreConserved : Obligations.CellsAreConserved := by
  intro n f hf
  have hlen := length_freeCells f
  rcases Nat.lt_or_ge (freeCells f).length n with hn | hn
  · have hnone := takeCells_of_few hf hn
    exact ⟨fun cs g h => (nomatch hnone.symm.trans h), iff_of_true hnone (hlen ▸ hn)⟩
  · obtain ⟨g, hg, hd, hne⟩ := takeCells_of_enough hf hn
    refine ⟨fun cs g' h => ?_, iff_of_false (by simp [hg]) (by omega)⟩
    cases hg.symm.trans h
    exact ⟨List.length_take_of_le hn, (congrArg ((freeCells f).take n ++ ·) hd).trans (List.take_append_drop n _), hne⟩

end Sys2Proof.Machine
end

section
/-! SUPPORT. What counts and registers read beside a count, an event or a set bit (R16, R370, R396). -/
namespace Sys2Proof.Machine

theorem bitOf_eq_testBit (n i : Nat) : bitOf n i = n.testBit i := by
  rw [bitOf, Nat.testBit_eq_decide_div_mod_eq, beq_eq_decide]

/-- A bit of a stored word that the store has set reads 1. -/
theorem regB_setReg_or {s : State} (a i : Nat) (v : Word) (hi : i < 32) (h : cellsWf resetAt s.regs = true) :
    (s.setReg a (v ||| BitVec.ofNat 32 (2 ^ i))).regB a i = true := by
  rw [State.regB, reg_setReg_same a _ h, bitOf_eq_testBit, BitVec.toNat_or, Nat.testBit_or, BitVec.toNat_ofNat,
    Nat.testBit_mod_two_pow, Nat.testBit_two_pow_self, decide_eq_true hi, Bool.and_true, Bool.or_true]

/-- Counts beside the counters that count one each are as before. -/
theorem cellsGet_bumpAll_of_not_mem {l : List Nat} {a : Nat} (d : Word) (c : List (Nat × Word)) (h : a ∉ l) :
    cellsGet a d (bumpAll l c) = cellsGet a d c := by
  induction l generalizing c with
  | nil => rfl
  | cons b l ih =>
    exact (ih _ (List.not_mem_of_not_mem_cons h)).trans (cellsGet_put_ne b a _ _ _ _ (List.ne_of_not_mem_cons h))

/-- A queue counts a drop in its own counter, and in the pools' where no cells were free. -/
theorem enqueue_counts {s : State} {q len : Nat} {b : EgBody} {qs : QueSt} {x : Nat} (h : x ∈ (enqueue s q len b qs).2) :
    x = 0xD00C0 + 4 * q ∨ x = 0xD0050 := by
  unfold enqueue at h
  split at h
  · exact nomatch h
  · split at h
    · exact .inl (List.mem_singleton.mp h)
    · split at h
      · exact nomatch h
      · simpa using h

/-- A record offered to a ring counts in the ring's LOST counter and in those of its queue and the pools alone. -/
theorem offerRec_count_of_ne {d a : Nat} (r : HRec) (s : State) (e : Word) (hlost : a ≠ 0xE061C + 32 * d)
    (hdrop : a ≠ 0xD00C0 + 4 * dlvQueue d) (hpool : a ≠ 0xD0050) : cellsGet a e (offerRec d r s).cnt = cellsGet a e s.cnt := by
  refine cellsGet_bumpAll_of_not_mem e s.cnt fun h => ?_
  split at h
  · split at h
    · exact (enqueue_counts h).elim hdrop hpool
    · exact nomatch h
  · exact hlost (List.mem_singleton.mp h)

theorem evtRing_lt (s : State) : evtRing s < 8 := Nat.mod_lt _ (by decide)

/-- An event leaves the crossing counts of the watermark sources. -/
theorem event_crossings (code : Nat) (l : List Nat) (s : State) {w : Nat} (hw : w < 60) :
    cellsGet (0xD010C + 16 * w) 0 (event code l s).cnt = cellsGet (0xD010C + 16 * w) 0 s.cnt := by
  have hr := evtRing_lt s
  exact offerRec_count_of_ne _ s 0 (by omega) (by unfold dlvQueue; omega) (by omega)

end Sys2Proof.Machine
end

section
/-! THEOREMS. Watermarks, flow-control pins and FIFOs (R363 to R372). -/
namespace Sys2Proof.Machine

/-! ### Watermark sources -/

section
variable {w : Nat} {s : State}

theorem wmExists_lt (h : wmExists w = true) : w < 60 := by
  simp only [wmExists, Bool.or_eq_true, Bool.and_eq_true, decide_eq_true_eq] at h
  omega

theorem exec_watermarkCrossing_of_rise (hw : wmExists w = true) (ha : s.que.above.contains w = false)
    (hl : wmHigh s w ≤ wmLevel s w) : exec (.watermarkCrossing w) s = .next (wmRise w s) := by
  change execWatermarkCrossing w s = _
  simp only [execWatermarkCrossing, hw, ha, if_pos hl]
  rfl

theorem exec_watermarkCrossing_of_fall (hw : wmExists w = true) (ha : s.que.above.contains w = true)
    (hl : wmLevel s w ≤ wmLow s w) : exec (.watermarkCrossing w) s = .next (wmFall w s) := by
  change execWatermarkCrossing w s = _
  simp only [execWatermarkCrossing, hw, ha, if_pos hl]
  rfl

theorem exec_watermarkCrossing_of_none (hw : wmExists w = false) : exec (.watermarkCrossing w) s = .next s := by
  change execWatermarkCrossing w s = _
  simp only [execWatermarkCrossing, hw]
  rfl

theorem exec_watermarkCrossing_of_below (ha : s.que.above.contains w = false) (hl : wmLevel s w < wmHigh s w) :
    exec (.watermarkCrossing w) s = .next s := by
  change execWatermarkCrossing w s = _
  simp only [execWatermarkCrossing, ha, if_neg (Nat.not_le.mpr hl), ite_self, Bool.false_eq_true, if_false]

theorem exec_watermarkCrossing_of_above (ha : s.que.above.contains w = true) (hl : wmLow s w < wmLevel s w) :
    exec (.watermarkCrossing w) s = .next s := by
  change execWatermarkCrossing w s = _
  simp only [execWatermarkCrossing, ha, if_neg (Nat.not_le.mpr hl), ite_self, if_true]

/-- A source that has risen, before its event. -/
def wmRisen (w : Nat) (s : State) : State :=
  ({ s with
    que := { s.que with
      above := s.que.above ++ [w]
      qflow := [0, 1].map (fun p => qflowNext s (s.que.above ++ [w]) p (s.que.qflow.getD p ⟨false, 0⟩))
      pauseTx := pauseOn s w true s.que.pauseTx }
    cnt := cntBump (0xD010C + 16 * w) 0 16 1 s.cnt }).setReg (0xD0104 + 16 * w) (s.reg (0xD0104 + 16 * w) ||| 1)

theorem wmRise_eq (w : Nat) (s : State) : wmRise w s = eventIf (!s.regB (0xD0104 + 16 * w) 0 && s.regB (0xD0104 + 16 * w) 8) 0x0A01
    [w, wmLevel s w, (cellsGet (0xD010C + 16 * w) 0 (cntBump (0xD010C + 16 * w) 0 16 1 s.cnt)).toNat] (wmRisen w s) := rfl

theorem wmRisen_regB (h : s.wordsOk = true) : (wmRisen w s).regB (0xD0104 + 16 * w) 0 = true :=
  regB_setReg_or _ 0 _ (by decide) (wordsOk_iff.mp h).1

theorem wmFall_regB (h : s.wordsOk = true) : (wmFall w s).regB (0xD0104 + 16 * w) 1 = true :=
  regB_setReg_or (s := s) _ 1 _ (by decide) (wordsOk_iff.mp h).1

/-- Nothing is raised again while WM_HIGH_SEEN stands, nor without EVT. -/
theorem wmRise_of_quiet (h : s.regB (0xD0104 + 16 * w) 0 = true ∨ s.regB (0xD0104 + 16 * w) 8 = false) :
    wmRise w s = wmRisen w s := by
  rw [wmRise_eq, eventIf, if_neg]
  rcases h with h | h <;> simp [h]

theorem wmRise_of_raised (hs : s.regB (0xD0104 + 16 * w) 0 = false) (he : s.regB (0xD0104 + 16 * w) 8 = true) :
    wmRise w s = event 0x0A01 [w, wmLevel s w, (cellsGet (0xD010C + 16 * w) 0 (cntBump (0xD010C + 16 * w) 0 16 1 s.cnt)).toNat]
      (wmRisen w s) := by
  rw [wmRise_eq, hs, he]
  rfl

/-- The event of a rise leaves the registers and the crossing count. -/
theorem wmRise_regs (w : Nat) (s : State) : (wmRise w s).regs = (wmRisen w s).regs := by
  rw [wmRise_eq, eventIf]
  split <;> rfl

theorem wmRise_crossings (hw : wmExists w = true) : cellsGet (0xD010C + 16 * w) 0 (wmRise w s).cnt =
    cellsGet (0xD010C + 16 * w) 0 (cntBump (0xD010C + 16 * w) 0 16 1 s.cnt) := by
  rw [wmRise_eq, eventIf]
  split
  · exact event_crossings _ _ (wmRisen w s) (wmExists_lt hw)
  · rfl

end

/-! ### Flow-control pins -/

section
variable {pin : Nat} {x : QPin} {s : State} (h : s.que.qflow[pin]? = some x)
include h

theorem exec_qflowHoldExpire_of_held (ha : x.active = true) (hw : qflowWants s s.que.above pin = false) :
    exec (.qflowHoldExpire pin) s = .next { reach (x.since + minHold s) s with
      que := { s.que with qflow := setAt s.que.qflow pin ⟨false, (reach (x.since + minHold s) s).time.tb⟩ } } := by
  change execQflowHoldExpire pin s = _
  simp only [execQflowHoldExpire, h, ha, hw]
  rfl

theorem exec_qflowHoldExpire_of_kept (hk : x.active = false ∨ qflowWants s s.que.above pin = true) :
    exec (.qflowHoldExpire pin) s = .next s := by
  change execQflowHoldExpire pin s = _
  simp only [execQflowHoldExpire, h]
  rw [if_neg]
  rcases hk with hk | hk <;> simp [hk]

end

/-! ### FIFOs -/

section
variable {f n : Nat} {put : State → State} {s : State}

theorem fifoPut_of_fit (h : fifoLevel s f + n < fifoDepth f) : fifoPut f n put s = put s := by
  simp only [fifoPut, fifoFit, if_pos h]

theorem fifoPut_of_oversize (h : fifoDepth f ≤ fifoLevel s f + n) (h0 : fifoLevel s f = 0) :
    fifoPut f n put s = bump (fcnt f 1) s := by
  simp only [fifoPut, fifoFit, if_neg (Nat.not_lt.mpr h), if_pos h0]

theorem fifoPut_of_noRoom (h : fifoDepth f ≤ fifoLevel s f + n) (h0 : fifoLevel s f ≠ 0) (hs : fifoNeverStalls f = true) :
    fifoPut f n put s = bump (fcnt f 2) s := by
  simp only [fifoPut, fifoFit, if_neg (Nat.not_lt.mpr h), if_neg h0, if_pos hs]

theorem fifoPut_of_stalled (h : fifoDepth f ≤ fifoLevel s f + n) (h0 : fifoLevel s f ≠ 0) (hs : fifoNeverStalls f = false) :
    fifoPut f n put s = s := by
  simp only [fifoPut, fifoFit, if_neg (Nat.not_lt.mpr h), if_neg h0, hs, Bool.false_eq_true, if_false]

/-- Lost frames touch no error record, table, schedule, register or clock. -/
theorem fifoLoss_frame (f : Nat) (s : State) : (fifoLoss f s).err = s.err ∧ (fifoLoss f s).tbl = s.tbl ∧ (fifoLoss f s).sch = s.sch ∧
    (fifoLoss f s).regs = s.regs ∧ (fifoLoss f s).time = s.time := by
  unfold fifoLoss
  split_ifs <;> exact ⟨rfl, rfl, rfl, rfl, rfl⟩

theorem fifoLoss_out (h : f < 16) : (fifoLoss f s).rx.out = setAt s.rx.out f [] := by
  rw [fifoLoss, if_pos h]

theorem fifoLoss_of_ingress (h1 : 31 ≤ f) (h2 : f < 33) : fifoLoss f s = modEth (f - 31) (fun x => { x with fifo := [] }) s := by
  rw [fifoLoss, if_neg (by omega), if_neg (by omega), if_neg (by omega), if_pos (by omega)]

theorem exec_fifoQueueReset (hup : s.up = true) (hf : f < 39) : exec (.fifoQueueReset f) s = .next (queueReset f 0x0301 s) := by
  change execFifoQueueReset f s = _
  simp only [execFifoQueueReset, hup, decide_eq_true hf]
  rfl

end

/-- Settles O58, row by row. -/
theorem watermarksAndQueues : Obligations.WatermarksAndQueues := by
  refine ⟨fun w s => exec_watermarkCrossing_of_rise, fun w s => exec_watermarkCrossing_of_fall, fun w s h => ?still,
    fun w s hok hw => ⟨?seen, wmRise_crossings hw, fun h => ?quiet, fun hs he => ⟨_, wmRise_of_raised hs he, rfl, rfl, rfl⟩,
      rfl, wmFall_regB hok, rfl⟩,
    fun pin x s h ha hw => ⟨_, exec_qflowHoldExpire_of_held h ha hw, rfl, rfl, rfl, rfl, rfl, rfl⟩,
    fun pin x s => exec_qflowHoldExpire_of_kept,
    fun f n put s => ⟨fifoPut_of_fit, fifoPut_of_oversize, fifoPut_of_noRoom, fifoPut_of_stalled⟩, fun f s hup hf => ?reset⟩
  case still =>
    rcases h with h | ⟨ha, hl⟩ | ⟨ha, hl⟩
    · exact exec_watermarkCrossing_of_none h
    · exact exec_watermarkCrossing_of_below ha hl
    · exact exec_watermarkCrossing_of_above ha hl
  case seen =>
    rw [State.regB, State.reg, wmRise_regs]
    exact wmRisen_regB hok
  case quiet =>
    rw [wmRise_of_quiet h]
    exact ⟨rfl, rfl, rfl⟩
  case reset =>
    obtain ⟨herr, htbl, hsch, hregs, htime⟩ := fifoLoss_frame f (bumpN (fcnt f 0) (fifoFrames s f).length s)
    exact ⟨_, exec_fifoQueueReset hup hf, rfl, herr, htbl, hsch, hregs, htime, fifoLoss_out,
      fun h1 h2 => congrArg State.eth (fifoLoss_of_ingress h1 h2)⟩

end Sys2Proof.Machine
end

section
/-! THEOREMS. The Ethernet ports: link, received frames, admission and sending (R372, R431 to R441). -/
namespace Sys2Proof.Machine

/-! ### Link -/

section
variable {p : Nat} {s : State}

theorem exec_ethLinkChange {lock : Bool} {an : Option Bool} {t : State} (hup : s.up = true) (hp : p < 2)
    (ht : t = modEth p (fun x => { x with lock := lock, anDone := an.isSome, lpPause := an.getD false }) s) :
    exec (.ethLinkChange p lock an) s = .next (ethEval p t) := by
  change execEthLinkChange p lock an s = _
  simp only [execEthLinkChange, hup, decide_eq_true hp, ht]
  rfl

theorem ethEval_of_same (h : ethUp s p = (ethPort s p).up) : ethEval p s = s := if_pos h

theorem ethEval_of_change (h : ethUp s p ≠ (ethPort s p).up) : ethEval p s =
    event 0x0C01 [p, b2n (ethUp s p), ethMode s p] (journal (.ethin p 2 (b2n (ethUp s p)) (ethMode s p) [])
      (modEth p (fun x => { x with up := ethUp s p }) (if ethUp s p then ethRise p s else ethDown p s))) := if_neg h

/-- A changed port, where there is one. -/
theorem ethPort_modEth (f : EthPort → EthPort) (h : p < s.eth.length) : ethPort (modEth p f s) p = f (ethPort s p) :=
  (getD_modAt p p f s.eth EthPort.reset h).trans (if_pos rfl)

/-- Draining a port's queues leaves its FIFOs as the link's fall left them. -/
theorem ethPort_ethDown (h : p < s.eth.length) : ethPort (ethDown p s) p = { ethPort s p with fifo := [], out := [], paused := none } :=
  ethPort_modEth _ h

end

/-! ### Received frames, row by row of Table 15-2 -/

section
variable {p : Nat} {f : List Octet} {s : State}

theorem exec_ethFrameRx (hup : s.up = true) (hp : (ethPort s p).up = true) : exec (.ethFrameRx p f) s = .next (ethRx p f s) :=
  congrArg Host.Outcome.next (if_pos (by rw [hup, hp]; rfl))

theorem exec_ethFrameRx_of_down (h : s.up = false ∨ (ethPort s p).up = false) : exec (.ethFrameRx p f) s = .next s :=
  congrArg Host.Outcome.next (if_neg (by rcases h with h | h <;> simp [h]))

theorem ethRx_of_badFcs (h : fcsGood 4 f = false) : ethRx p f s = bump (ethCnt p 1) (bump (ethCnt p 0) s) := by
  simp only [ethRx, h]
  rfl

/-- A frame below 64 octets or above the port's longest has a bad length. -/
theorem ethBadLen_of_length (h : f.length < 64 ∨ min 1522 (max 64 (s.regF (ethBase p + 0x24) 10 0)) < f.length) :
    ethBadLen s p f = true := by
  rw [ethBadLen]
  rcases h with h | h <;> simp only [decide_eq_true h, Bool.true_or, Bool.or_true]

section
variable (hf : fcsGood 4 f = true)
include hf

theorem ethRx_of_badLen (hl : ethBadLen s p f = true) : ethRx p f s = bump (ethCnt p 2) (bump (ethCnt p 0) s) := by
  simp only [ethRx, hf, hl]
  rfl

variable (hl : ethBadLen s p f = false)
include hl

theorem ethRx_of_badDa (hd : ethDaOk s p f = false) : ethRx p f s = bump (ethCnt p 3) (bump (ethCnt p 0) s) := by
  simp only [ethRx, hf, hl, hd]
  rfl

variable (hd : ethDaOk s p f = true)
include hd

theorem ethRx_of_badVlan (hv : ethBadVlan s p f = true) : ethRx p f s = bump (ethCnt p 4) (bump (ethCnt p 0) s) := by
  simp only [ethRx, hf, hl, hd, hv]
  rfl

theorem ethRx_of_good (hv : ethBadVlan s p f = false) : ethRx p f s = ethClass p f (bump (ethCnt p 0) s) := by
  simp only [ethRx, hf, hl, hd, hv]
  rfl

end

theorem ethClass_of_pause (ht : ethType f = 0x8808) (ho : beOf ((ethBody f).take 2) = 1) :
    ethClass p f s = ethPause p (beOf (slice (ethBody f) 2 2)) (bump (ethCnt p 11) s) := by
  rw [ethClass, if_pos ht, if_pos ho]

theorem ethClass_of_otherControl (ht : ethType f = 0x8808) (ho : beOf ((ethBody f).take 2) ≠ 1) :
    ethClass p f s = bump (ethCnt p 11) s := by
  rw [ethClass, if_pos ht, if_neg ho]

theorem ethClass_of_ptp (ht : ethType f ≠ 0x8808) (hq : ptpTransport f = some (ptpChosen s p)) : ethClass p f s = ethPtp p s := by
  rw [ethClass, if_neg ht, if_pos hq]

theorem ethClass_of_data (ht : ethType f ≠ 0x8808) (hq : ptpTransport f ≠ some (ptpChosen s p)) : ethClass p f s = ethData p f s := by
  rw [ethClass, if_neg ht, if_neg hq]

theorem ethPause_of_ignored {n : Nat} (h : s.regB (ethBase p) 8 = false) : ethPause p n s = s := if_neg (by simp [h])

theorem ethPause_of_taken {n : Nat} (h : s.regB (ethBase p) 8 = true) : ethPause p n s =
    modEth p (fun x => { x with paused := if n = 0 then none else some (s.time.tb + quantaNs s p n) }) s := if_pos h

theorem ethData_of_packet (ht : ethType f = 0x86DD) (hm : mgmtDst (ipDst (ethBody f)) = false) :
    ethData p f s = ethStore p false f s := by
  simp only [ethData, if_pos ht, hm]
  rfl

theorem ethData_of_mgmtPacket (ht : ethType f = 0x86DD) (hm : mgmtDst (ipDst (ethBody f)) = true) :
    ethData p f s = if s.regB (ethBase p + 0x20) 31 then ethStore p true f s else bump (ethCnt p 8) s := by
  simp only [ethData, if_pos ht, hm, if_true, ethMgmt]

theorem ethData_of_ipv4OrArp (ht : ethType f = 0x0800 ∨ ethType f = 0x0806) :
    ethData p f s = if s.regB (ethBase p + 0x20) 30 then ethStore p true f s else bump (ethCnt p 8) s := by
  rw [ethData, if_neg (by omega), if_pos ht, ethMgmt]

theorem ethData_of_other (h6 : ethType f ≠ 0x86DD) (h4 : ethType f ≠ 0x0800) (ha : ethType f ≠ 0x0806) :
    ethData p f s = bump (ethCnt p 5) s := by
  rw [ethData, if_neg h6, if_neg (not_or.mpr ⟨h4, ha⟩)]

/-! ### The ingress FIFO -/

theorem fifoDepth_ingress (hp : p < 2) : fifoDepth (31 + p) = 2048 := by
  obtain rfl | rfl : p = 0 ∨ p = 1 := by omega
  · rfl
  · rfl

theorem fifoNeverStalls_ingress (hp : p < 2) : fifoNeverStalls (31 + p) = true := by
  obtain rfl | rfl : p = 0 ∨ p = 1 := by omega
  · rfl
  · rfl

end

/-! ### Admission -/

section
variable {p : Nat} {x : EthIn} {l : List EthIn} {s : State}

theorem ethAdmit_of_held (h : 8000 * x.cost ≤ ethTokens s p) : ethAdmit p x s = ethTaken p x (modEth p (fun e => { e with
    fifo := e.fifo.drop 1
    tokens := ethTokens s p - 8000 * x.cost
    filledAt := s.time.tb }) (dropFrame false (31 + p) s)) := by
  simp only [ethAdmit, decide_eq_true h]
  rfl

theorem ethAdmit_of_short (h : ethTokens s p < 8000 * x.cost) : ethAdmit p x s = bump (ethCnt p 6) (modEth p (fun e => { e with
    fifo := e.fifo.drop 1
    tokens := ethTokens s p - 0
    filledAt := s.time.tb }) (dropFrame true (31 + p) s)) := by
  simp only [ethAdmit, decide_eq_false (Nat.not_le.mpr h)]
  rfl

/-- The head of the ingress FIFO is admitted or dropped where the bucket holds it or the port is in DROP mode. -/
theorem exec_ethAdmit_of_due (hup : s.up = true) (hp : (ethPort s p).up = true) (hl : s.pair.leads = true)
    (hf : (ethPort s p).fifo = x :: l) (h : 8000 * x.cost ≤ ethTokens s p ∨ s.regB (ethBase p + 0x1C) 31 = false) :
    exec (.ethAdmit p) s = .next (ethAdmit p x s) := by
  change execEthAdmit p s = _
  simp only [execEthAdmit, hf]
  rw [if_pos]
  rcases h with h | h <;> simp [hup, hp, hl, h]

theorem exec_ethAdmit_of_hold (hf : (ethPort s p).fifo = x :: l) (h : ethTokens s p < 8000 * x.cost)
    (hm : s.regB (ethBase p + 0x1C) 31 = true) : exec (.ethAdmit p) s = .next s := by
  change execEthAdmit p s = _
  simp only [execEthAdmit, hf, decide_eq_false (Nat.not_le.mpr h), hm, Bool.not_true, Bool.or_false, Bool.and_false, Bool.false_eq_true,
    if_false]

end

/-! ### Sending -/

section
variable {p n : Nat} {l : List Nat} {s : State}

theorem exec_ethFrameTx (hup : s.up = true) (hp : p < 2) : exec (.ethFrameTx p) s = .next (ethTx p s) :=
  congrArg Host.Outcome.next (if_pos (by rw [hup, decide_eq_true hp]; rfl))

theorem ethTx_of_down (h : (ethPort s p).up = false) : ethTx p s = drainEth p s := by
  simp only [ethTx, h]
  rfl

section
variable (hu : (ethPort s p).up = true)
include hu

theorem ethTx_of_waitingPause (hq : s.que.pauseTx.getD p [] = n :: l) : ethTx p s = sendPause p n s := by
  simp only [ethTx, hu, hq]
  rfl

variable (hq : s.que.pauseTx.getD p [] = [])
include hq

theorem ethTx_of_paused (hh : (ethPort s p).paused ≠ none) : ethTx p s = fillEth p s := by
  simp only [ethTx, hu, hq, Option.isSome_iff_ne_none.mpr hh]
  rfl

theorem ethTx_of_free (hh : (ethPort s p).paused = none) : ethTx p s = sendEgress p (fillEth p s) := by
  simp only [ethTx, hu, hq, hh]
  rfl

end

theorem sendEgress_of_cons {k : List Octet} {l : List (List Octet)} (h : (ethPort s p).out = k :: l) :
    sendEgress p s = ethSend p (ethFrameOf s p k) (modEth p (fun e => { e with out := e.out.drop 1 }) s) := by
  simp only [sendEgress, h]

theorem ethPort_sendEgress {k : List Octet} {l : List (List Octet)} (hp : p < s.eth.length) (h : (ethPort s p).out = k :: l) :
    ethPort (sendEgress p s) p = { ethPort s p with out := l, sent := some (ethFrameOf s p k) } := by
  rw [sendEgress_of_cons h]
  refine (ethPort_modEth _ (by simpa [modEth] using hp)).trans ?_
  rw [ethPort_modEth _ hp, h]
  rfl

/-! ### Pauses -/

theorem exec_ethPauseExpire_of_paused {t : Nat} (h : (ethPort s p).paused = some t) :
    exec (.ethPauseExpire p) s = .next (modEth p (fun e => { e with paused := none }) (reach t s)) := by
  change execEthPauseExpire p s = _
  simp only [execEthPauseExpire, h]

theorem exec_ethPauseExpire_of_free (h : (ethPort s p).paused = none) : exec (.ethPauseExpire p) s = .next s := by
  change execEthPauseExpire p s = _
  simp only [execEthPauseExpire, h]

theorem exec_pauseRepeat {t q : Nat} {u : State} (ht : s.que.pauseAt.getD p none = some t) (ha : s.que.above.contains (31 + p) = true)
    (hr : s.regB (0xD0A80 + 4 * p) 31 = true) (hw : s.que.pauseTx.getD p [] = []) (hq : q = max 1 (s.regF (0xD0A80 + 4 * p) 15 0))
    (hu : u = reach (t + quantaNs s p (q / 2)) s) : exec (.pauseRepeat p) s =
      .next { u with que := { u.que with pauseTx := modAt p (· ++ [q]) u.que.pauseTx, pauseAt := setAt u.que.pauseAt p none } } := by
  subst hq hu
  change execPauseRepeat p s = _
  simp only [execPauseRepeat, ht, ha, hr, hw]
  rfl

end

/-- Settles O57, row by row. -/
theorem ethernetPorts : Obligations.EthernetPorts := by
  refine ⟨fun p lock an t s hup hp ht => ?link, fun p s h => ?moved, fun p f t s hup hp ht => ?received,
    fun p m f s hp => ?stored, fun p f s => exec_ethFrameRx_of_down, fun p x l s hup hp hl hf => ?admitted,
    fun p f s => ⟨rfl, _, rfl, rfl, rfl⟩, fun p n l s hup hp => ?sent, fun p k l s hp h => ?egress,
    fun p da ty tag b s => ⟨_, rfl⟩, fun p t s => exec_ethPauseExpire_of_paused, fun p s => exec_ethPauseExpire_of_free,
    fun p t q s ht ha hr hw hq => ⟨_, exec_pauseRepeat ht ha hr hw hq rfl, rfl, rfl, rfl, rfl, rfl, rfl, rfl, rfl⟩⟩
  case link =>
    rw [exec_ethLinkChange hup hp ht]
    exact ⟨fun h => by rw [ethEval_of_same h], fun h => by rw [ethEval_of_change h]⟩
  case moved =>
    rw [ethPort_ethDown h, ethRise, ethPort_modEth _ h]
    exact ⟨rfl, rfl, rfl, rfl⟩
  case received =>
    subst ht
    rw [exec_ethFrameRx hup hp]
    refine ⟨fun hf => by rw [ethRx_of_badFcs hf], fun hf hn => by rw [ethRx_of_badLen hf (ethBadLen_of_length hn)],
      fun hf hl => by rw [ethRx_of_badLen hf hl], fun hf hl hd => by rw [ethRx_of_badDa hf hl hd],
      fun hf hl hd hv => by rw [ethRx_of_badVlan hf hl hd hv], fun hf hl hd hv => ?_⟩
    rw [ethRx_of_good hf hl hd hv]
    refine ⟨fun n ht ho hn => ?_, fun ht ho => by rw [ethClass_of_otherControl ht ho],
      fun ht hq => congrArg _ (ethClass_of_ptp ht hq), fun ht hq => ?_⟩
    · rw [ethClass_of_pause ht ho, ← hn]
      exact ⟨fun hr => congrArg _ (ethPause_of_ignored hr), fun hr => congrArg _ (ethPause_of_taken hr)⟩
    · rw [ethClass_of_data (s := bump (ethCnt p 0) s) ht hq]
      exact ⟨fun h6 hm => by rw [ethData_of_packet h6 hm], fun h6 hm => congrArg _ (ethData_of_mgmtPacket h6 hm),
        fun h4 => congrArg _ (ethData_of_ipv4OrArp h4), fun h6 h4 ha => by rw [ethData_of_other h6 h4 ha]⟩
  case stored =>
    have hd := fifoDepth_ingress hp
    exact ⟨fun h => fifoPut_of_fit (hd ▸ h), fun h h0 => fifoPut_of_noRoom (hd ▸ h) h0 (fifoNeverStalls_ingress hp)⟩
  case admitted =>
    exact ⟨fun h => by rw [exec_ethAdmit_of_due hup hp hl hf (.inl h), ethAdmit_of_held h],
      fun h hm => by rw [exec_ethAdmit_of_due hup hp hl hf (.inr hm), ethAdmit_of_short h], exec_ethAdmit_of_hold hf⟩
  case sent =>
    rw [exec_ethFrameTx hup hp]
    exact ⟨fun hu => by rw [ethTx_of_down hu], fun hu hq => by rw [ethTx_of_waitingPause hu hq],
      fun hu hq hh => by rw [ethTx_of_paused hu hq hh], fun hu hq hh => by rw [ethTx_of_free hu hq hh]⟩
  case egress =>
    rw [ethPort_sendEgress hp h, sendEgress_of_cons h]
    exact ⟨rfl, rfl, rfl, rfl⟩

end Sys2Proof.Machine
end

section
/-! THEOREMS. The queue of waiting commands, and the completion of a command (R391, R392, R402). -/
namespace Sys2Proof.Machine

/-- Settles O5: among what every command keeps is the queue. -/
theorem commandsLeaveTheQueue : Obligations.CommandsLeaveTheQueue := by
  intro c s
  obtain ⟨t, ht, hq, -⟩ := exec_answers c (Kept.refl (s := s))
  exact ⟨t, ht, hq⟩

section
variable {r : CmdRef} {a : Adm} {c st unit result detail : Nat} {s : State}

/-- The rings after the completion of a command that holds slots on ring c. -/
theorem complete_cpl_of_admOf (ha : admOf s r = some a) (hc : a.cpl = some c) :
    (complete r st unit result detail s).hif.cpl = modAt c (fun x => { x with
      slots := fillAll r (.done (mkCpl a st unit result detail s)) x.slots }) s.hif.cpl := by
  simp only [complete, postBy, ha, Option.bind_some, hc]

theorem complete_cpl_same {x : CplRing} (ha : admOf s r = some a) (hc : a.cpl = some c) (hx : s.hif.cpl[c]? = some x) :
    (complete r st unit result detail s).hif.cpl[c]? = some { x with
      slots := fillAll r (.done (mkCpl a st unit result detail s)) x.slots } := by
  rw [complete_cpl_of_admOf ha hc, getElem?_modAt, if_pos rfl, hx, Option.map_some]

theorem complete_cpl_of_ne {d : Nat} (ha : admOf s r = some a) (hc : a.cpl = some c) (hd : d ≠ c) :
    (complete r st unit result detail s).hif.cpl[d]? = s.hif.cpl[d]? := by
  rw [complete_cpl_of_admOf ha hc, getElem?_modAt, if_neg hd]

theorem complete_admitted : (complete r st unit result detail s).hif.admitted =
    s.hif.admitted.filter (fun b => !(b.ref.ring == r.ring && b.ref.dindex == r.dindex)) := rfl

end

/-- Settles O8: of the rings only the one that holds the slots changes, by one pass over its slots. -/
theorem completionFillsItsSlots : Obligations.CompletionFillsItsSlots := by
  intro s r a c x st unit result detail ha hc hx t
  exact ⟨complete_cpl_same ha hc hx, fun _ => complete_cpl_of_ne ha hc, complete_admitted, complete_regs .., complete_active ..,
    complete_time .., complete_rf .., complete_tbl .., complete_sch .., complete_tx .., complete_sec .., complete_que ..,
    complete_jrn .., complete_pair .., complete_pwr .., complete_err ..⟩

end Sys2Proof.Machine
end

section
/-! THEOREMS. One step of the queue (R15, log entry 3). -/
namespace Sys2Proof.Machine

/-- Settles O1, by the two forms of the queue. -/
theorem stepRunsTheFrontCommand : Obligations.StepRunsTheFrontCommand :=
  ⟨fun c rest s h => by rw [step, h], fun s h => by rw [step, h]⟩

end Sys2Proof.Machine
end

section
/-! THEOREMS. Journal staging, journal records and events (R48, R380, R398, R446, R447, R469). -/
namespace Sys2Proof.Machine

/-! ### Staging -/

/-- Octets of a list of records. -/
def recOctetSum (l : List JRec) : Nat := sumNat (l.map JRec.len)

theorem sumNat_eq_sum (l : List Nat) : sumNat l = l.sum := List.sum_eq_foldl.symm

theorem recOctetSum_cons (r : JRec) (l : List JRec) : recOctetSum (r :: l) = r.len + recOctetSum l := by
  simp [recOctetSum, sumNat_eq_sum]

theorem recOctetSum_append (l m : List JRec) : recOctetSum (l ++ m) = recOctetSum l + recOctetSum m := by
  simp [recOctetSum, sumNat_eq_sum]

/-- Dropping at most what stands before the newest record drops a front of it, and as many octets at least. -/
theorem dropOver_append_singleton (r : JRec) {n : Nat} {l : List JRec} (h : n ≤ recOctetSum l) :
    ∃ k, dropOver n (l ++ [r]) = l.drop k ++ [r] ∧ n + recOctetSum (l.drop k) ≤ recOctetSum l := by
  induction l generalizing n with
  | nil =>
    obtain rfl : n = 0 := Nat.le_zero.mp h
    exact ⟨0, rfl, h⟩
  | cons x l ih =>
    rw [recOctetSum_cons] at h ⊢
    cases n with
    | zero => exact ⟨0, rfl, by rw [List.drop_zero, recOctetSum_cons]; omega⟩
    | succ n =>
      obtain ⟨k, hk, hs⟩ := ih (n := n + 1 - x.len) (by omega)
      exact ⟨k + 1, hk, by rw [List.drop_succ_cons]; omega⟩

theorem stage_of_frozen {j : JrnSt} (r : JRec) (h : j.frozen = true) : j.stage r = j := if_pos h

theorem staging_stage {j : JrnSt} (r : JRec) (h : j.frozen = false) :
    (j.stage r).staging = dropOver (recOctetSum j.staging + r.len - 1_048_576) (j.staging ++ [r]) := by
  rw [JrnSt.stage, h]
  rfl

/-- Settles O10: what a new record of at most 1 MiB displaces stands before it. -/
theorem stagingHoldsOneMebibyte : Obligations.StagingHoldsOneMebibyte := by
  refine fun j r hr => ⟨stage_of_frozen r, fun hf => ?_⟩
  obtain ⟨k, hk, hs⟩ := dropOver_append_singleton r (l := j.staging) (n := recOctetSum j.staging + r.len - 1_048_576) (by omega)
  have hst := (staging_stage r hf).trans hk
  refine ⟨⟨k, hst⟩, ?_⟩
  change recOctetSum (j.stage r).staging ≤ _
  rw [hst, recOctetSum_append, recOctetSum_cons]
  change _ + (r.len + 0) ≤ _
  omega

/-! ### Records and events -/

section
variable {b : JBody} {s : State}

theorem journal_of_writes (h : jrnWrites s = true) : (journal b s).jrn.seq = s.jrn.seq + 1 ∧
    (journal b s).jrn.staging = (s.jrn.stage (nextRec false b s)).staging := by
  simp only [journal, journalMore, h, if_true, and_self]

/-- The CRC field counts as zero in its own CRC. -/
theorem recCrc_upd_crc (j : JRec) (c : Nat) : recCrc { j with crc := c } = recCrc j := rfl

theorem recCrcOk_mkRec (seq asn ofs : Nat) (more : Bool) (b : JBody) : recCrcOk (mkRec seq asn ofs more b) = true := by
  rw [mkRec, recCrcOk, recCrc_upd_crc, beq_self_eq_true]

theorem mkRec_len_mod (seq asn ofs : Nat) (more : Bool) (b : JBody) : (mkRec seq asn ofs more b).len % 8 = 0 :=
  Nat.mul_mod_right 8 _

end

section
variable {code : Nat} {fields : List Nat} {s : State}

theorem event_que_of_enabled (he : ringEn s (dlvCtl (evtRing s)) = true) (hp : s.pair.follows = false) :
    (event code fields s).que =
      (enqueue s (dlvQueue (evtRing s)) (8 * fields.length) (.record (eventRec code fields s)) s.que).1 := by
  simp only [event, offerRec, he, hp, Bool.not_false, Bool.and_self, if_true]
  rfl

/-- An event leaves the completion rings. -/
theorem event_cpl : (event code fields s).hif.cpl = s.hif.cpl := rfl

end

/-- Settles O11: a record is `mkRec` on the stamps of now, an event a record offered to its ring. -/
theorem journalAndEventRecords : Obligations.JournalAndEventRecords := by
  refine ⟨fun b s => ⟨fun h => ?_, fun h => ?_, rfl, rfl, rfl, rfl, rfl⟩,
    fun code fields s => ⟨event_que_of_enabled, fun h => ?_, rfl, rfl, rfl, rfl, rfl, event_cpl, rfl⟩⟩
  · obtain ⟨hseq, hstage⟩ := journal_of_writes (b := b) h
    exact ⟨nextRec false b s, hseq, hstage, rfl, rfl, rfl, rfl, rfl, mkRec_len_mod .., recCrcOk_mkRec ..⟩
  · rw [journal_off b s h]
    exact ⟨rfl, rfl⟩
  · obtain ⟨hq, hc, -⟩ := offerRec_off (evtRing s) (eventRec code fields s) s h
    exact ⟨hq, hc⟩

end Sys2Proof.Machine
end

section
/-! THEOREMS. Writes that are discarded (R15, R17, R529). -/
namespace Sys2Proof.Machine

/-- A ring found at an address exists, and its CTL stands there. -/
theorem ringAtCtl_some {a : Nat} {ring : RingSel} (h : ringAtCtl a = some ring) : ringExists ring = true ∧ RingSel.ctl ring = a := by
  unfold ringAtCtl at h
  split_ifs at h <;> cases h <;> simp only [ringExists, decide_eq_true_eq, RingSel.ctl, cringCtl, cplCtl, dlvCtl] <;> omega

/-- The CTL of every ring is mapped. -/
theorem regRow_ctl {ring : RingSel} (h : ringExists ring = true) : (regRow (RingSel.ctl ring)).isSome = true := by
  cases ring with
  | cmd r => exact (by decide : ∀ r < 16, (regRow (cringCtl r)).isSome = true) r (of_decide_eq_true h)
  | cpl c => exact (by decide : ∀ c < 16, (regRow (cplCtl c)).isSome = true) c (of_decide_eq_true h)
  | dlv d => exact (by decide : ∀ d < 10, (regRow (dlvCtl d)).isSome = true) d (of_decide_eq_true h)

/-- The pool registers are mapped. -/
theorem regRow_pool : ∀ k < 5, (regRow (0xD0010 + 8 * k)).isSome = true := by decide

/-- Every row of the operation table that serves a write of its own serves a mapped address. -/
theorem rowlessAddr_of_unmapped {a : Nat} (h4 : a % 4 = 0) (h : regRow a = none) : RowlessAddr a := by
  have ne {x : Nat} (hx : (regRow x).isSome = true) : a ≠ x := by
    rintro rfl
    rw [h] at hx
    cases hx
  refine ⟨h4, ne (by decide), ne (by decide), ne (by decide), fun ⟨hlo, hhi, h8⟩ => ?_, ?_⟩
  · exact ne (regRow_pool ((a - 0xD0010) / 8) (by omega)) (by omega)
  · cases hr : ringAtCtl a with
    | none => rfl
    | some ring =>
      obtain ⟨he, hc⟩ := ringAtCtl_some hr
      exact absurd hc.symm (ne (regRow_ctl he))

/-- A flag of GLB_STATUS is all that it changes. -/
theorem glbFlag_spec {bit : Word} {s : State} (h : s.wordsOk = true) : (glbFlag bit s).reg 0xC = s.reg 0xC ||| bit ∧
    (∀ b, b ≠ 0xC → (glbFlag bit s).reg b = s.reg b) ∧ { glbFlag bit s with regs := s.regs } = s :=
  ⟨reg_setReg_same 0xC _ (wordsOk_iff.mp h).1, fun _ => reg_setReg_ne _, rfl⟩

/-- Settles O48: each discarded write is a flag of GLB_STATUS. -/
theorem discardedWritesSetAFlag : Obligations.DiscardedWritesSetAFlag := by
  refine ⟨fun a w v s hb hw _ hbad => ⟨glbFlag 2 s, registerWrite_of_badWidth hb hbad, glbFlag_spec hw⟩,
    fun a v s hb hw _ h4 hr ha => ⟨glbFlag 1 s, ?_, glbFlag_spec hw⟩⟩
  rw [registerWrite_of_rowless hb (rowlessAddr_of_unmapped h4 hr), writeWord_unmapped hr ha]

end Sys2Proof.Machine
end

section
/-! THEOREMS. Errors of a subsystem that is offline (R485). -/
namespace Sys2Proof.Machine

/-! ### Counting in a list of words of any form -/

/-- A word that is stored, because it is not what an unlisted address reads as, is read back from any list. -/
theorem cellsGet_put_of_ne_default {v d : Word} (a : Nat) (e : Word) (l : List (Nat × Word)) (h : v ≠ d) :
    cellsGet a e (cellsPut a v d l) = v := by
  induction l with
  | nil => rw [cellsPut, if_neg h, cellsGet, if_pos rfl]
  | cons p t ih =>
    rw [cellsPut, if_neg h, if_neg h]
    split_ifs with hlt heq
    · rw [cellsGet, if_pos rfl]
    · rw [cellsGet, if_pos rfl]
    · rw [cellsGet, if_neg heq, ih]

/-- One more in a whole word, held at its largest value. -/
theorem cntBump_one (a : Nat) (c : List (Nat × Word)) : cntBump a 0 32 1 c =
    cellsPut a (BitVec.ofNat 32 (min ((cellsGet a 0 c).toNat + 1) (2 ^ 32 - 1))) 0 c := by
  have hx := (cellsGet a 0 c).isLt
  have hf : bitsOf (cellsGet a 0 c).toNat (0 + 32 - 1) 0 = (cellsGet a 0 c).toNat := by
    rw [bitsOf, Nat.pow_zero, Nat.div_one, Nat.mod_eq_of_lt hx]
  simp only [cntBump, hf, Nat.pow_zero, Nat.mul_one, Nat.sub_self, Nat.zero_add]

/-- What a whole word reads after one more is counted depends on what it read before alone. -/
theorem cellsGet_cntBump_one (a : Nat) (c : List (Nat × Word)) :
    cellsGet a 0 (cntBump a 0 32 1 c) = BitVec.ofNat 32 (min ((cellsGet a 0 c).toNat + 1) (2 ^ 32 - 1)) := by
  rw [cntBump_one]
  refine cellsGet_put_of_ne_default a 0 c fun h => ?_
  have h0 := congrArg BitVec.toNat h
  rw [BitVec.toNat_ofNat, Nat.mod_eq_of_lt (by omega)] at h0
  change _ = 0 at h0
  omega

/-! ### The sources -/

section
variable {s : State}

/-- The error of an offline subsystem is a count and nothing else. -/
theorem raiseErr_of_offline {unit : Nat} (code cls sub w d l : Nat) (h : s.offline unit = true) :
    raiseErr code cls unit sub w d l s = { s with cnt := cntBump 0x120018 0 32 1 s.cnt } := if_pos h

/-- Frames lost from a FIFO count in no RC register. -/
theorem fifoLoss_cnt (f : Nat) (s : State) : (fifoLoss f s).cnt = s.cnt := by
  unfold fifoLoss
  split_ifs <;> rfl

/-- FIFO `f` after its reset, before the reset is reported. -/
def fifoEmptied (f : Nat) (s : State) : State := useFresh 1 (fifoLoss f (bumpN (fcnt f 0) (fifoFrames s f).length s))

theorem queueReset_eq (f code : Nat) (s : State) : queueReset f code s = raiseErr code (fifoOwner f).1 (fifoOwner f).2
    (fifoSub f (freshAt s)) f f (fifoFrames s f).length (fifoEmptied f s) := rfl

theorem fifoEmptied_err (f : Nat) (s : State) : (fifoEmptied f s).err = s.err := (fifoLoss_frame f _).1

/-- Lost frames count in the FIFO's own counter, not in ERR_OFFLINECNT. -/
theorem fifoEmptied_offlineCount {f : Nat} (s : State) (hf : f < 39) :
    cellsGet 0x120018 0 (fifoEmptied f s).cnt = cellsGet 0x120018 0 s.cnt := by
  rw [fifoEmptied, useFresh_cnt, fifoLoss_cnt]
  exact cellsGet_put_ne _ _ _ _ _ _ (by unfold fcnt; omega)

/-- The reset of a FIFO whose owner is offline is counted beside the frames that it loses. -/
theorem queueReset_of_offline {f : Nat} (code : Nat) (hf : f < 39) (h : s.offline (fifoOwner f).2 = true) :
    (queueReset f code s).err = s.err ∧
    cellsGet 0x120018 0 (queueReset f code s).cnt = cellsGet 0x120018 0 (cntBump 0x120018 0 32 1 s.cnt) := by
  have hoff : (fifoEmptied f s).offline (fifoOwner f).2 = true := by rw [State.offline, fifoEmptied_err]; exact h
  rw [queueReset_eq, raiseErr_of_offline _ _ _ _ _ _ hoff]
  refine ⟨fifoEmptied_err f s, ?_⟩
  rw [cellsGet_cntBump_one, cellsGet_cntBump_one, fifoEmptied_offlineCount s hf]

theorem exec_errorDetect_of_fifo {e : ErrSrc} (hup : s.up = true) (hc : e.code = 0x010B ∨ e.code = 0x0301 ∨ e.code = 0x0302)
    (hd : e.detail < 39) : exec (.errorDetect e) s = .next (queueReset e.detail e.code (if e.code = 0x0302 then
      s.setReg (0xD0600 + 4 * e.detail) (s.reg (0xD0600 + 4 * e.detail) ||| 1) else s)) := by
  change execErrorDetect e s = _
  rw [execErrorDetect, hup, if_pos hc, if_pos hd]
  rfl

/-- A source other than a FIFO only counts; a failed TRNG is remembered all the same. -/
theorem exec_errorDetect_of_offline {e : ErrSrc} {c u b : Nat} (hup : s.up = true) (he : errClass e = some (c, u, b))
    (hoff : s.offline u = true) (hc : ¬ (e.code = 0x010B ∨ e.code = 0x0301 ∨ e.code = 0x0302)) :
    exec (.errorDetect e) s = .next { s with
      cnt := cntBump 0x120018 0 32 1 s.cnt
      sec := { s.sec with trngFail := s.sec.trngFail || e.code == 0x0602 } } := by
  change execErrorDetect e s = _
  rw [execErrorDetect, hup, if_neg hc, he]
  exact congrArg _ (raiseErr_of_offline (s := { s with sec := _ }) _ _ _ _ _ _ hoff)

theorem exec_watchdogExpire {p : Nat} (hup : s.up = true) (hp : p < 4) :
    exec (.watchdogExpire p) s = .next (raiseErr 0x0202 1 (procUnit p).1 (procUnit p).2 0 0 0 s) := by
  change execWatchdogExpire p s = _
  rw [execWatchdogExpire, hup, decide_eq_true hp]
  rfl

/-- The scrub at the word behind the one that it visits. -/
def scrubMoved (s : State) : State :=
  let last := decide ((scrubArrays.getD s.err.scrubArr (1, 10, 0)).1 ≤ s.err.scrubWord + 1)
  { s with err := { s.err with
    scrubArr := if last then (s.err.scrubArr + 1) % 15 else s.err.scrubArr
    scrubWord := if last then 0 else s.err.scrubWord + 1 } }

/-- The scrub has moved past the word that it found correctable when it records it. -/
theorem exec_scrubVisit_corrected (hup : s.up = true) (hen : s.regB 0x120004 1 = true) :
    exec (.scrubVisit true) s = .next (raiseErr 0x0101 0 (scrubOwner s.err.scrubArr s.err.scrubWord).1
      (scrubOwner s.err.scrubArr s.err.scrubWord).2 s.err.scrubWord (freshAt s % 256) 0 (useFresh 1 (scrubMoved s))) := by
  change execScrubVisit true s = _
  rw [execScrubVisit, hup, hen]
  rfl

end

/-- Settles O59: every source ends in `raiseErr`. -/
theorem offlineErrorsAreCounted : Obligations.OfflineErrorsAreCounted := by
  refine ⟨fun code cls unit sub w d l s => raiseErr_of_offline code cls sub w d l,
    fun e c u b s hup he hoff h1 h2 h3 h4 => ?source, fun e s hup he hoff => ?trng,
    fun f s hup hf hoff => ⟨_, exec_fifoQueueReset hup hf, queueReset_of_offline _ hf hoff⟩,
    fun e s hup hc hd hoff => ⟨_, exec_errorDetect_of_fifo hup hc hd, ?fifo⟩,
    fun p s hup hp hoff => ?watchdog, fun s hup hen hoff => ?scrub⟩
  case source =>
    rw [exec_errorDetect_of_offline hup he hoff (by simp [h1, h2, h3]), beq_eq_false_iff_ne.mpr h4, Bool.or_false]
  case trng =>
    have hcls : errClass e = some (2, 9, 9) := by simp only [errClass, he]
    rw [exec_errorDetect_of_offline hup hcls hoff (by omega), he, beq_self_eq_true, Bool.or_true]
  case fifo =>
    split
    · exact queueReset_of_offline (s := s.setReg _ _) _ hd hoff
    · exact queueReset_of_offline _ hd hoff
  case watchdog =>
    rw [exec_watchdogExpire hup hp, raiseErr_of_offline _ _ _ _ _ _ hoff]
  case scrub =>
    refine ⟨_, exec_scrubVisit_corrected hup hen, ?_⟩
    rw [raiseErr_of_offline (s := useFresh 1 (scrubMoved s)) _ _ _ _ _ _ hoff]
    exact ⟨rfl, rfl, rfl⟩

end Sys2Proof.Machine
end

section
/-! SUPPORT. The admission entries after a completion (R391, R402). -/
namespace Sys2Proof.Machine

section
variable {r : CmdRef} {s : State}

/-- A completed command has no admission entry any more. -/
theorem admOf_complete (st u res d : Nat) : admOf (complete r st u res d s) r = none := by
  simp only [admOf, complete, List.find?_eq_none, List.mem_filter]
  rintro a ⟨-, ha⟩ hr
  rw [hr] at ha
  cases ha

theorem admOf_done : admOf (done r s) r = none := admOf_complete ..

theorem admOf_doneWith (n : Nat) : admOf (doneWith r n s) r = none := admOf_complete ..

end

end Sys2Proof.Machine
end

section
/-! THEOREMS. `DIAG_NOP`, the IQ capture and the configuration snapshot (R412, R428, R429, R470). -/
namespace Sys2Proof.Machine

/-! ### `DIAG_IQ_SNAPSHOT` -/

section
variable {r : CmdRef} {w p n o : Nat} {s : State}

@[simp] theorem admitCmd_snapUnready {op need m : Nat} {c : HostCmd} (w p : Nat) :
    snapUnready (admitCmd r op need m c s) w p = snapUnready s w p := admitCmd_keeps (fun s => snapUnready s w p)

theorem exec_diagIqSnapshot (h : goes s r 0x0902 1 = true) : exec (.diagIqSnapshot r w p n o) s =
    .next (doDiagIqSnapshot r w p n o (admitCmd r 0x0902 1 0 (.diagIqSnapshot w p n o) s)) :=
  congrArg Host.Outcome.next (runCmd_goes _ _ _ h)

theorem doDiagIqSnapshot_of_bad (h : 7 < w ∨ 3 < p ∨ n = 0 ∨ 16384 < n ∨ s.time.l ≤ o) :
    doDiagIqSnapshot r w p n o s = refuse r stBad 4 0x000B s := by
  rw [doDiagIqSnapshot, checked, if_pos]
  simpa [or_assoc] using h

section
variable (hw : w ≤ 7) (hp : p ≤ 3) (h0 : 0 < n) (hn : n ≤ 16384) (ho : o < s.time.l)
include hw hp h0 hn ho

/-- Arguments in range leave the decision to the other checks. -/
theorem doDiagIqSnapshot_of_range : doDiagIqSnapshot r w p n o s = checked r [
    (snapUnready s w p, stBadState, 4, 0),
    (s.snap.isSome, stBusy, 4, 0),
    (needsTime s r.asn, stUnlocked, 4, 0),
    (r.asn != 0 && decide (s.time.at_ r.asn + o < s.time.tb), stBad, 4, 0x000B)] (fun s => { s with
      snapWin := w
      snapPorts := p
      captured := 0
      snap := some ⟨r, w, p, n, if r.asn = 0 then s.time.tb else s.time.at_ r.asn + o⟩ }) s := by
  rw [doDiagIqSnapshot, checked, if_neg]
  simp only [Bool.or_eq_true, decide_eq_true_eq]
  omega

theorem doDiagIqSnapshot_of_unready (hu : snapUnready s w p = true) :
    doDiagIqSnapshot r w p n o s = refuse r stBadState 4 0 s := by
  rw [doDiagIqSnapshot_of_range hw hp h0 hn ho, checked, if_pos hu]

variable (hu : snapUnready s w p = false)
include hu

theorem doDiagIqSnapshot_of_busy (hs : s.snap.isSome = true) : doDiagIqSnapshot r w p n o s = refuse r stBusy 4 0 s := by
  simp only [doDiagIqSnapshot_of_range hw hp h0 hn ho, checked, hu, hs, Bool.false_eq_true, if_false, if_true]

variable (hs : s.snap = none)
include hs

theorem doDiagIqSnapshot_of_unlocked (ht : needsTime s r.asn = true) :
    doDiagIqSnapshot r w p n o s = refuse r stUnlocked 4 0 s := by
  simp only [doDiagIqSnapshot_of_range hw hp h0 hn ho, checked, hu, hs, ht, Option.isSome_none, Bool.false_eq_true, if_false, if_true]

/-- A capture that is ready waits for its instant. -/
theorem doDiagIqSnapshot_of_ready {t0 : Nat} (h : r.asn = 0 ∧ t0 = s.time.tb ∨
      r.asn ≠ 0 ∧ needsTime s r.asn = false ∧ s.time.tb ≤ s.time.at_ r.asn + o ∧ t0 = s.time.at_ r.asn + o) :
    doDiagIqSnapshot r w p n o s = { s with snapWin := w, snapPorts := p, captured := 0, snap := some ⟨r, w, p, n, t0⟩ } := by
  have hpast : (r.asn != 0 && decide (s.time.at_ r.asn + o < s.time.tb)) = false := by
    rcases h with ⟨h, -⟩ | ⟨-, -, h, -⟩
    · simp [h]
    · simp [Nat.not_lt.mpr h]
  have ht : needsTime s r.asn = false := by
    rcases h with ⟨h, -⟩ | ⟨-, h, -⟩
    · simp [needsTime, h]
    · exact h
  have ht0 : (if r.asn = 0 then s.time.tb else s.time.at_ r.asn + o) = t0 := by
    rcases h with ⟨h, rfl⟩ | ⟨h, -, -, rfl⟩ <;> simp [h]
  simp only [doDiagIqSnapshot_of_range hw hp h0 hn ho, checked, hu, hs, ht, hpast, ht0, Option.isSome_none, Bool.false_eq_true,
    if_false]

end

end

/-! ### The capture -/

/-- The records of a port touch the queues, the rings, the counters and the free values' count alone. -/
theorem iqPort_eq (x : Snap) (p k i n : Nat) (s : State) :
    ∃ f c q h, iqPort x p k i n s = { s with fresh := f, cnt := c, que := q, hif := h } := by
  induction k generalizing i n s with
  | zero => exact ⟨_, _, _, _, rfl⟩
  | succ k ih =>
    unfold iqPort
    dsimp only
    split
    · exact ⟨_, _, _, _, rfl⟩
    · obtain ⟨f, c, q, h, e⟩ := ih (i + min n (iqPerRec s)) (n - min n (iqPerRec s))
        (useFresh 1 (offerRec 9 (iqRec x p i (min n (iqPerRec s)) s) s))
      exact ⟨f, c, q, h, e⟩

theorem foldl_iqPort_eq (x : Snap) (l : List Nat) (s : State) :
    ∃ f c q h, l.foldl (fun u p => iqPort x p (x.samples / iqPerRec u + 1) 0 x.samples u) s =
      { s with fresh := f, cnt := c, que := q, hif := h } := by
  induction l generalizing s with
  | nil => exact ⟨_, _, _, _, rfl⟩
  | cons p l ih =>
    obtain ⟨f, c, q, h, e⟩ := iqPort_eq x p (x.samples / iqPerRec s + 1) 0 x.samples s
    obtain ⟨f', c', q', h', e'⟩ := ih (iqPort x p (x.samples / iqPerRec s + 1) 0 x.samples s)
    exact ⟨f', c', q', h', by rw [List.foldl_cons, e', e]⟩

theorem exec_iqCapture {x : Snap} {s : State} (hup : s.up = true) (hx : s.snap = some x) :
    exec .iqCapture s = .next (iqRun x s) := by
  change execIqCapture s = _
  simp only [execIqCapture, hx, hup, if_true]

/-- The capture is over when its last sample has been taken, and its command with it. -/
theorem iqRun_spec (x : Snap) (s : State) : (iqRun x s).snap = none ∧ (iqRun x s).captured = x.samples ∧
    admOf (iqRun x s) x.ref = none ∧ (iqRun x s).regs = s.regs ∧ (iqRun x s).tbl = s.tbl ∧ (iqRun x s).sch = s.sch ∧
    (iqRun x s).rf = s.rf ∧
    (iqRun x s).time.tb = max s.time.tb (x.at_ + ceilDiv (x.samples * 1_000_000_000) (winRate s x.win)) := by
  obtain ⟨f, c, q, h, e⟩ := foldl_iqPort_eq x (selPorts x.win x.ports)
    (reach (x.at_ + ceilDiv (x.samples * 1_000_000_000) (winRate s x.win)) s)
  rw [iqRun, e]
  exact ⟨rfl, rfl, admOf_done, rfl, rfl, rfl, rfl, rfl⟩

/-! ### `DIAG_NOP` and `CFG_SNAPSHOT_READ` -/

section
variable {r : CmdRef} {addr n : Nat} {s : State}

theorem exec_diagNop (h : goes s r 0x0901 1 = true) :
    exec (.diagNop r) s = .next (doDiagNop r (admitCmd r 0x0901 1 0 .diagNop s)) :=
  congrArg Host.Outcome.next (runCmd_goes _ _ _ h)

theorem exec_cfgSnapshotRead (h : goes s r 0x0101 1 = true) : exec (.cfgSnapshotRead r addr n) s =
    .next (doCfgSnapshotRead r addr n (admitCmd r 0x0101 1 0 (.cfgSnapshotRead addr n) s)) :=
  congrArg Host.Outcome.next (runCmd_goes _ _ _ h)

theorem doCfgSnapshotRead_of_short (h : n < (snapOctets (cmdSeq r s) s).length) : doCfgSnapshotRead r addr n s =
    complete r stLen 5 (snapOctets (cmdSeq r s) s).length 0 (useFresh 1 s) := if_pos h

theorem doCfgSnapshotRead_of_room (h : (snapOctets (cmdSeq r s) s).length ≤ n) : doCfgSnapshotRead r addr n s =
    doneWith r (snapOctets (cmdSeq r s) s).length (writeOut addr (snapOctets (cmdSeq r s) s) (useFresh 1 s)) :=
  if_neg (Nat.not_lt.mpr h)

/-- An output buffer is written by a unit that executes its own commands. -/
theorem writeOut_outBuf (bs : List Octet) :
    (writeOut addr bs s).hif.outBuf = if s.pair.exec then s.hif.outBuf else [(addr, bs)] := rfl

/-- What a snapshot that is answered leaves of the state that the admission left. -/
theorem snapshotAnswered_frame (k : Nat) (bs : List Octet) (u : State) (hu : u.regs = s.regs ∧ u.tbl = s.tbl ∧ u.sch = s.sch ∧
      u.sec = s.sec ∧ u.rf = s.rf ∧ u.time = s.time) :
    let t := doneWith r k (writeOut addr bs (useFresh 1 u))
    admOf t r = none ∧ t.regs = s.regs ∧ t.tbl = s.tbl ∧ t.sch = s.sch ∧ t.sec = s.sec ∧ t.rf = s.rf ∧ t.time = s.time ∧
      t.jrn = u.jrn := by
  obtain ⟨hregs, htbl, hsch, hsec, hrf, htime⟩ := hu
  exact ⟨admOf_doneWith _, hregs, htbl, hsch, hsec, hrf, htime, rfl⟩

end

/-- Settles O50, command by command. -/
theorem diagnosticsAndSnapshot : Obligations.DiagnosticsAndSnapshot := by
  refine ⟨fun r s h => ⟨_, rfl, exec_diagNop h⟩, fun r w p n o s h => ⟨_, rfl, ?iq⟩,
    fun x s hup hx => ⟨_, exec_iqCapture hup hx, iqRun_spec x s⟩, fun r addr n s h => ⟨_, _, rfl, rfl, ?snapshot⟩⟩
  case iq =>
    rw [exec_diagIqSnapshot h]
    refine ⟨fun hb => congrArg _ (doDiagIqSnapshot_of_bad (by simpa using hb)), fun hw hp h0 hn ho => ?_⟩
    have ho' : o < (admitCmd r 0x0902 1 0 (.diagIqSnapshot w p n o) s).time.l := by rw [admitCmd_time]; exact ho
    refine ⟨fun hu => congrArg _ (doDiagIqSnapshot_of_unready hw hp h0 hn ho' (by simpa using hu)),
      fun hu hs => congrArg _ (doDiagIqSnapshot_of_busy hw hp h0 hn ho' (by simpa using hu) (by simpa using hs)),
      fun hu hs ha => congrArg _ (doDiagIqSnapshot_of_ready hw hp h0 hn ho' (by simpa using hu) (by simpa using hs) (.inl ?_)),
      fun hu hs _ ht => congrArg _ (doDiagIqSnapshot_of_unlocked hw hp h0 hn ho' (by simpa using hu) (by simpa using hs)
        (by simpa using ht)),
      fun hu hs ha ht hle => congrArg _ (doDiagIqSnapshot_of_ready hw hp h0 hn ho' (by simpa using hu) (by simpa using hs)
        (.inr ?_))⟩
    · exact ⟨ha, by rw [admitCmd_time]⟩
    · rw [admitCmd_time, admitCmd_needsTime]
      exact ⟨ha, ht, hle, rfl⟩
  case snapshot =>
    rw [exec_cfgSnapshotRead h]
    obtain ⟨hadm, hregs, htbl, hsch, hsec, hrf, htime, hjrn⟩ := snapshotAnswered_frame (r := r) (addr := addr) (s := s)
      (snapOctets _ _).length (snapOctets _ _) (admitCmd r 0x0101 1 0 (.cfgSnapshotRead addr n) s) (by simp)
    refine ⟨fun hl hx => ⟨_, congrArg _ (doCfgSnapshotRead_of_room hl), ?_, hadm, hregs, htbl, hsch, hsec, hrf, htime, hjrn⟩,
      fun hl hx => ⟨_, congrArg _ (doCfgSnapshotRead_of_room hl), ?_, hadm, hregs, htbl, hsch, hsec, hjrn⟩,
      fun hl => congrArg _ (doCfgSnapshotRead_of_short hl)⟩
    · rw [doneWith_outBuf, writeOut_outBuf, useFresh_pair, admitCmd_pair, hx]
      rfl
    · rw [doneWith_outBuf, writeOut_outBuf, useFresh_pair, admitCmd_pair, hx, useFresh_hif, admitCmd_outBuf]
      rfl

end Sys2Proof.Machine
end

section
/-! THEOREMS. `PWR_ENTER` and the commit of its change (R426, R504 to R508, R511, R513). -/
namespace Sys2Proof.Machine

/-! ### `PWR_ENTER` -/

section
variable {r : CmdRef} {n w : Nat} {s : State}

theorem exec_pwrEnter (h : goes s r 0x0701 1 = true) :
    exec (.pwrEnter r n w) s = .next (doPwrEnter r n w (admitCmd r 0x0701 1 0 (.pwrEnter n w) s)) :=
  congrArg Host.Outcome.next (runCmd_goes _ _ _ h)

/-- The command's own admission entry is not among the others that R507 counts. -/
theorem admitCmd_otherAdm {op need m : Nat} {c : HostCmd} (q : Adm → Bool) :
    (admitCmd r op need m c s).hif.admitted.any (fun a => !(a.ref.ring == r.ring && a.ref.dindex == r.dindex) && q a) =
      s.hif.admitted.any (fun a => !(a.ref.ring == r.ring && a.ref.dindex == r.dindex) && q a) := by
  obtain ⟨j, e, k, h⟩ := admitCmd_eq r op need m c s
  rw [h]
  simp [reserve]

@[simp] theorem admitCmd_pwrRefusal {op need m : Nat} {c : HostCmd} (t : PowerState) :
    pwrRefusal (admitCmd r op need m c s) r t = pwrRefusal s r t := by
  simp only [pwrRefusal, Bool.and_assoc, admitCmd_otherAdm, admitCmd_time, admitCmd_adp, admitCmd_pair, admitCmd_frozen]

@[simp] theorem admitCmd_watchSelBad {op need m : Nat} {c : HostCmd} : watchSelBad (admitCmd r op need m c s) = watchSelBad s :=
  admitCmd_keeps watchSelBad

@[simp] theorem admitCmd_retainBad {op need m : Nat} {c : HostCmd} : retainBad (admitCmd r op need m c s) = retainBad s :=
  admitCmd_keeps retainBad

theorem pwrTarget_eq_run (h : n = 0) : pwrTarget n = .run := if_pos h

theorem pwrTarget_ne_run (h : n ≠ 0) : pwrTarget n ≠ .run := by
  rw [pwrTarget, if_neg h]
  split <;> decide

theorem pwrTarget_eq_watch_iff : pwrTarget n = .watch ↔ n = 1 := by
  unfold pwrTarget
  split_ifs <;> simp_all

theorem pwrTarget_eq_keep_iff : pwrTarget n = .keep ↔ 2 ≤ n := by
  unfold pwrTarget
  split_ifs <;> simp <;> omega

theorem doPwrEnter_of_noTarget (hn : 2 < n) : doPwrEnter r n w s = refuse r stBad 5 0x000B s := by
  rw [doPwrEnter, checked, if_pos (decide_eq_true hn)]

theorem doPwrEnter_of_sameState (hn : n ≤ 2) (ht : pwrTarget n = s.pwr.st) : doPwrEnter r n w s = refuse r stBad 5 0 s := by
  rw [doPwrEnter, checked, if_neg (by simpa using hn), checked, if_pos (by simp [ht])]

section
variable (hn : n ≤ 2) (ht : pwrTarget n ≠ s.pwr.st) (hw : w = 0 ∨ n = 2) (hl : needsTime s r.asn = false)
  (ha : tooSoon s r.asn = false) (h1 : n = 1 → watchSelBad s = false) (h2 : n = 2 → retainBad s = false)
include hn ht hw hl ha h1 h2

/-- Past the checks of R506 the subsystems decide. -/
theorem doPwrEnter_of_checked : doPwrEnter r n w s = checked r [] (fun s =>
    match (if pwrTarget n = .run then none else pwrRefusal s r (pwrTarget n)) with
    | some (u, d) => pwrRefuse r u d s
    | none => pwrAccept r (pwrTarget n) w s) s := by
  have hwake : (pwrTarget n == s.pwr.st || (w != 0 && pwrTarget n != .keep)) = false := by
    rw [beq_eq_false_iff_ne.mpr ht, Bool.false_or]
    rcases hw with rfl | rfl
    · rfl
    · exact Bool.and_false _
  have hwatch : (pwrTarget n == .watch && watchSelBad s) = false := by
    rw [Bool.and_eq_false_imp, beq_iff_eq, pwrTarget_eq_watch_iff]
    exact h1
  have hkeep : (pwrTarget n == .keep && retainBad s) = false := by
    rw [Bool.and_eq_false_imp, beq_iff_eq, pwrTarget_eq_keep_iff]
    exact fun h => h2 (by omega)
  simp only [doPwrEnter, checked, decide_eq_false (Nat.not_lt.mpr hn), hwake, hl, ha, hwatch, hkeep,
    Bool.false_eq_true, if_false] <;> rfl

theorem doPwrEnter_of_refusal {x d : Nat} (h0 : n ≠ 0) (h : pwrRefusal s r (pwrTarget n) = some (x, d)) :
    doPwrEnter r n w s = pwrRefuse r x d s := by
  rw [doPwrEnter_of_checked hn ht hw hl ha h1 h2, checked, if_neg (pwrTarget_ne_run h0), h]

theorem doPwrEnter_of_accept (h : n = 0 ∨ pwrRefusal s r (pwrTarget n) = none) :
    doPwrEnter r n w s = pwrAccept r (pwrTarget n) w s := by
  have hr : (if pwrTarget n = .run then none else pwrRefusal s r (pwrTarget n)) = none := by
    rcases h with h | h
    · exact if_pos (pwrTarget_eq_run h)
    · rw [h, ite_self]
  rw [doPwrEnter_of_checked hn ht hw hl ha h1 h2, checked, hr]

end

/-- Where an accepted change goes, by the clock and its target, said of a state `u` with the clock and the power state of `s`. -/
theorem pwrAccept_cases {u : State} {c : PwrCommit} (ht : u.time = s.time) (hp : u.pwr = s.pwr)
    (hc : c = ⟨r, pwrTarget n, namedAsn s r.asn, w⟩) : pwrAccept r (pwrTarget n) w u =
    if s.time.loaded = false then pwrCommit c u
    else if n = 0 then { u with pwr :=
      if s.pwr.commit.isSome then { s.pwr with later := s.pwr.later ++ [c] } else { s.pwr with commit := some c } }
    else withPwr (fun p => { p with commit := some c, preparing := true }) (pwrWithdrawTx (pwrTarget n) (namedAsn s r.asn) u) := by
  have hn : namedAsn u r.asn = namedAsn s r.asn := by rw [namedAsn, namedAsn, asnNow, asnNow, ht]
  subst hc
  unfold pwrAccept
  rw [ht, hp, hn]
  by_cases hl : s.time.loaded = true
  · by_cases h0 : n = 0
    · cases s.pwr.commit.isSome <;> simp [hl, h0, pwrTarget, withPwr, ht, hp]
    · simp [hl, h0, pwrTarget_ne_run h0]
  · simp [Bool.eq_false_iff.mpr hl]

end

/-! ### The commit -/

section
variable {s : State} {c : PwrCommit}

theorem exec_pwrCommit_of_due (hup : s.up = true) (hc : s.pwr.commit = some c) (hd : c.asn ≤ nowFor s) :
    exec .pwrCommit s = .next (pwrCommit c s) := by
  change execPwrCommit s = _
  simp only [execPwrCommit, hup, hc, if_pos hd]
  rfl

theorem exec_pwrCommit_of_early (hc : s.pwr.commit = some c) (hd : nowFor s < c.asn) : exec .pwrCommit s = .next s := by
  change execPwrCommit s = _
  simp only [execPwrCommit, hc, if_neg (Nat.not_le.mpr hd), ite_self]

theorem exec_pwrCommit_of_none (hup : s.up = true) (hc : s.pwr.commit = none) : exec .pwrCommit s =
    .next ((s.pwr.later.filter (fun c => decide (c.asn ≤ nowFor s))).foldl (fun t c => done c.ref t)
      (withPwr (fun p => { p with later := p.later.filter (fun c => !decide (c.asn ≤ nowFor s)) }) s)) := by
  change execPwrCommit s = _
  simp only [execPwrCommit, hup, hc]
  rfl

/-- Ports and Ethernet that follow a change of state touch the radio, Ethernet, the queues, the rings and the journal alone. -/
theorem portsFollow_eq (s : State) : ∃ rf eth q j h k, ethEval 1 (ethEval 0 (returnPorts s)) =
    { s with rf := rf, eth := eth, que := q, jrn := j, hif := h, cnt := k } := by
  obtain ⟨rf, h0, k0, e0⟩ := returnPorts_eq s
  obtain ⟨x1, q1, j1, h1, k1, e1⟩ := ethEval_eq 0 (returnPorts s)
  obtain ⟨x2, q2, j2, h2, k2, e2⟩ := ethEval_eq 1 (ethEval 0 (returnPorts s))
  exact ⟨rf, x2, q2, j2, h2, k2, by rw [e2, e1, e0]⟩

theorem enterWatch_eq (s : State) : ∃ rf eth q j h k, enterWatch s = { s with
    pwr := { s.pwr with st := .watch, preparing := false, commit := none }
    rx := { s.rx with locks := s.rx.locks.filter (fun d => (watchSel s).contains d.ch) }
    rf := rf, eth := eth, que := q, jrn := j, hif := h, cnt := k } := portsFollow_eq _

theorem enterRun_eq (s : State) : ∃ rf eth q j h k, enterRun s = { s with
    pwr := { s.pwr with st := .run, commit := none }
    rf := rf, eth := eth, que := q, jrn := j, hif := h, cnt := k } := portsFollow_eq _

theorem pwrCommit_watch (s : State) (ht : c.target = .watch) : (pwrCommit c s).pwr.st = .watch ∧ (pwrCommit c s).pwr.commit = none ∧
    (pwrCommit c s).pwr.preparing = false ∧ (pwrCommit c s).rx.locks = s.rx.locks.filter (fun d => (watchSel s).contains d.ch) ∧
    (pwrCommit c s).sec = s.sec ∧ (pwrCommit c s).time = s.time ∧ (pwrCommit c s).tbl = s.tbl ∧ (pwrCommit c s).regs = s.regs := by
  obtain ⟨rf, eth, q, j, h, k, e⟩ := enterWatch_eq s
  rw [pwrCommit, ht, e]
  exact ⟨rfl, rfl, rfl, rfl, rfl, rfl, rfl, rfl⟩

theorem pwrCommit_run (s : State) (ht : c.target = .run) : (pwrCommit c s).pwr.st = .run ∧ (pwrCommit c s).pwr.commit = none ∧
    (pwrCommit c s).rx = s.rx ∧ (pwrCommit c s).sec = s.sec ∧ (pwrCommit c s).time = s.time ∧ (pwrCommit c s).tbl = s.tbl ∧
    (pwrCommit c s).regs = s.regs := by
  obtain ⟨rf, eth, q, j, h, k, e⟩ := enterRun_eq s
  rw [pwrCommit, ht, e]
  exact ⟨rfl, rfl, rfl, rfl, rfl, rfl, rfl⟩

/-- KEEP leaves no work behind, and records the timebase and the SLCK count of its edge (R84). -/
theorem pwrCommit_keep (s : State) (ht : c.target = .keep) :
    let t := pwrCommit c s
    t.pwr.st = .keep ∧ t.pwr.commit = none ∧ t.pwr.preparing = false ∧ t.pwr.mainEn = false ∧
      t.pwr.wakeAfter = c.wakeAfter ∧ t.jrn.isOpen = false ∧ t.pair.activeOut = false ∧ t.time.keepT0 = t.time.tb ∧
      t.time.keepSub = t.time.sub ∧ t.time.keepC0 = slckNow s + 1 ∧ t.pwr.slck = slckNow s + 1 ∧ s.time.tb ≤ t.time.tb ∧
      t.rx.locks = [] ∧ t.tx.txs = [] ∧ (∀ p ∈ t.rf.ports, p.st = .off ∧ p.trans = none ∧ p.carriers = []) ∧
      t.tbl.pfx = s.tbl.pfx ∧ t.sec = s.sec ∧ t.regs = s.regs ∧ t.active = s.active ∧ t.sch = s.sch := by
  rw [pwrCommit, ht]
  dsimp only
  unfold enterKeep
  obtain ⟨h, k, x, q, ns, a, j, e, hj, hx⟩ := keepWritten_eq c.ref (pwrEvent s.pwr.st .keep 0 s)
  dsimp only
  rw [e]
  refine ⟨rfl, rfl, rfl, rfl, rfl, hj, rfl, rfl, rfl, rfl, rfl, Nat.le_max_left _ _, rfl, hx, fun p hp => ?_, rfl, rfl, rfl, rfl, rfl⟩
  obtain ⟨q, -, rfl⟩ := List.mem_map.mp hp
  exact ⟨rfl, rfl, rfl⟩

end

/-- Settles O41: the checks of the command, and what its commit leaves. -/
theorem powerChanges : Obligations.PowerChanges := by
  refine ⟨fun r n w s h hn ht hw hl ha h1 h2 hr => ?accept, fun r n w s h hn => ?noTarget, fun r n w s h hn ht => ?sameState,
    fun r w x d s h ht hl ha h2 hr => ?refusal,
    fun c s hup hc ht hd => ⟨_, exec_pwrCommit_of_due hup hc hd, pwrCommit_keep s ht⟩,
    fun c s hup hc ht hd => ⟨_, exec_pwrCommit_of_due hup hc hd, pwrCommit_watch s ht⟩,
    fun c s hup hc ht hd => ⟨_, exec_pwrCommit_of_due hup hc hd, pwrCommit_run s ht⟩,
    fun c s => exec_pwrCommit_of_early, fun s => exec_pwrCommit_of_none⟩
  case accept =>
    rw [exec_pwrEnter h, doPwrEnter_of_accept hn (by simpa using ht) hw (by simpa using hl) (by simpa using ha) (by simpa using h1)
      (by simpa using h2) (by simpa using hr)]
    exact congrArg _ (pwrAccept_cases (admitCmd_time ..) (admitCmd_pwr ..) rfl)
  case noTarget => rw [exec_pwrEnter h, doPwrEnter_of_noTarget hn]
  case sameState => rw [exec_pwrEnter h, doPwrEnter_of_sameState hn (by rw [admitCmd_pwr]; exact ht)]
  case refusal =>
    have hk : pwrTarget 2 ≠ s.pwr.st := Ne.symm ht
    rw [exec_pwrEnter h, doPwrEnter_of_refusal (le_refl 2) (by simpa using hk) (.inr rfl) (by simpa using hl) (by simpa using ha)
      (by simp) (by simpa using h2) (by decide) ((admitCmd_pwrRefusal _).trans hr), pwrRefuse, admitCmd_pwr]

end Sys2Proof.Machine
end

section
/-! THEOREMS. Heartbeats, acknowledgements, takeover and the swap drill (R456, R459, R463 to R466, R468). -/
namespace Sys2Proof.Machine

/-! ### What a change of the pair state leaves -/

/-- A change of the pair state is one of the pair block and an event. -/
theorem setPair_eq (n : PairState) (trig : Nat) (x : State) : ∃ q w h, setPair n trig x =
    { x with
      pair := { x.pair with st := n, activeOut := n == .solo || n == .active }
      que := q, cnt := w, hif := h } ∧ h.admitted = x.hif.admitted := by
  unfold setPair eventIf
  split <;> exact ⟨_, _, _, rfl, rfl⟩

/-- A unit in TAKEOVER knows its trigger; admitted commands, tables, schedule, keys and registers stay. -/
theorem enterTakeover_spec (trig : Nat) (x : State) :
    (enterTakeover trig x).pair = { x.pair with st := .takeover, activeOut := false, trigger := trig } ∧
    (enterTakeover trig x).hif.admitted = x.hif.admitted ∧ (enterTakeover trig x).tbl = x.tbl ∧ (enterTakeover trig x).sch = x.sch ∧
    (enterTakeover trig x).sec = x.sec ∧ (enterTakeover trig x).regs = x.regs := by
  obtain ⟨q, w, h, e, ha⟩ := setPair_eq .takeover trig (withPair (fun p => { p with trigger := trig }) x)
  rw [enterTakeover, e]
  exact ⟨rfl, ha, rfl, rfl, rfl, rfl⟩

theorem joining_not_synced {s : State} (h : joining s = true) : s.pair.st ≠ .standbySynced := by
  intro hst
  simp [joining, hst] at h

/-! ### Heartbeats and acknowledgements -/

section
variable {s : State} (hup : s.up = true)
include hup

theorem exec_heartbeatRx {a : Nat} (hl : s.pair.link = true) (hn : s.pair.leads = false) : exec (.heartbeatRx a) s =
    .next { s with pair := { s.pair with hbSeen := true, hbMiss := 0, peerOk := true, peerAsn := a } } := by
  change execHeartbeatRx a s = _
  rw [execHeartbeatRx, hup, hl, hn]
  rfl

theorem exec_heartbeatLoss_of_synced (hm : 3 ≤ s.pair.hbMiss) (hst : s.pair.st = .standbySynced) (hr : s.regB 0x110004 0 = true) :
    exec .heartbeatLoss s = .next (enterTakeover 1 s) := by
  change execHeartbeatLoss s = _
  rw [execHeartbeatLoss, if_neg (by simp [hup, hm]), if_pos ⟨hst, hr⟩]

theorem exec_heartbeatLoss_of_joining (hm : 3 ≤ s.pair.hbMiss) (hj : joining s = true) :
    exec .heartbeatLoss s = .next (activeLost s) := by
  change execHeartbeatLoss s = _
  rw [execHeartbeatLoss, if_neg (by simp [hup, hm]), if_neg fun h => joining_not_synced hj h.1, if_pos hj]

/-- An acknowledgement raises what may be written out. -/
theorem exec_pairAckRx_of_alone {q : Nat} (hl : s.pair.link = true) (hst : s.pair.st = .active) (hj : s.pair.join = none) :
    exec (.pairAckRx q) s = .next (shadowsOut { s with pair := { s.pair with
      acked := max s.pair.acked (q + 1)
      ackSeen := true
      ackMiss := 0
      peerAsn := asnNow s
      peerOk := true } }) := by
  change execPairAckRx q s = _
  simp only [execPairAckRx, hup, hl, hst, withPair, hj]
  rfl

/-- The first acknowledgement after a join completes the `PAIR_JOIN`. -/
theorem exec_pairAckRx_of_join {q role : Nat} {r : CmdRef} (hl : s.pair.link = true) (hst : s.pair.st = .active)
    (hj : s.pair.join = some (r, role)) : exec (.pairAckRx q) s =
    .next (shadowsOut (done r (bump 0x11003C { s with pair := { s.pair with
      acked := max s.pair.acked (q + 1)
      ackSeen := true
      ackMiss := 0
      peerAsn := asnNow s
      peerOk := true
      join := none } }))) := by
  change execPairAckRx q s = _
  simp only [execPairAckRx, hup, hl, hst, withPair, hj]
  rfl

theorem exec_standbyLostTimeout (hst : s.pair.st = .active) (hp : s.pair.peerOk = true) (hm : 3 ≤ s.pair.ackMiss) :
    exec .standbyLostTimeout s = .next (standbyLost s) := by
  change execStandbyLostTimeout s = _
  rw [execStandbyLostTimeout, hup, hst, hp, decide_eq_true hm]
  rfl

/-! ### Triggers -/

theorem exec_failMessageRx (hl : s.pair.link = true) : exec .failMessageRx s =
    .next (triggered 3 (withPair (fun p => { p with failMsgs := p.failMsgs + 1 }) s)) := by
  change execFailMessageRx s = _
  rw [execFailMessageRx, hup, hl]
  rfl

theorem exec_takeoverMessageRx (hl : s.pair.link = true) (hst : s.pair.st = .active) :
    exec .takeoverMessageRx s = .next (yieldActive 3 s) := by
  change execTakeoverMessageRx s = _
  rw [execTakeoverMessageRx, hup, hl, hst]
  rfl

theorem exec_pairFailAssert_of_synced (hst : s.pair.st = .standbySynced) :
    exec .pairFailAssert s = .next (enterTakeover 2 (withPair (fun p => { p with failIn := true }) s)) := by
  change execPairFailAssert s = _
  rw [execPairFailAssert, hup, if_pos hst]
  rfl

theorem exec_pairFailAssert_of_active (hst : s.pair.st = .active) :
    exec .pairFailAssert s = .next (yieldActive 2 (withPair (fun p => { p with failIn := true }) s)) := by
  change execPairFailAssert s = _
  rw [execPairFailAssert, hup, hst]
  rfl

theorem exec_pairFailAssert_of_other (hs : s.pair.st ≠ .standbySynced) (ha : s.pair.st ≠ .active) :
    exec .pairFailAssert s = .next { s with pair := { s.pair with failIn := true } } := by
  change execPairFailAssert s = _
  rw [execPairFailAssert, hup, if_neg hs, if_neg ha]
  rfl

end

theorem exec_heartbeatLoss_of_few {s : State} (h : s.pair.hbMiss < 3) : exec .heartbeatLoss s = .next s := by
  change execHeartbeatLoss s = _
  rw [execHeartbeatLoss, if_pos (by simp [h])]

theorem exec_standbyLostTimeout_of_other {s : State} (h : s.pair.st ≠ .active ∨ s.pair.ackMiss < 3) :
    exec .standbyLostTimeout s = .next s := by
  change execStandbyLostTimeout s = _
  rw [execStandbyLostTimeout, if_neg]
  rcases h with h | h
  · simp [h]
  · simp [Nat.not_le.mpr h]

/-- A FAIL message, counted, sets off what each state answers a trigger with. -/
theorem exec_failMessageRx_of_synced {s : State} (hup : s.up = true) (hl : s.pair.link = true) (hst : s.pair.st = .standbySynced) :
    exec .failMessageRx s = .next (enterTakeover 3 (withPair (fun p => { p with failMsgs := p.failMsgs + 1 }) s)) :=
  (exec_failMessageRx hup hl).trans (congrArg _ (if_pos hst))

theorem exec_failMessageRx_of_joining {s : State} (hup : s.up = true) (hl : s.pair.link = true) (hj : joining s = true) :
    exec .failMessageRx s = .next (activeLost (withPair (fun p => { p with failMsgs := p.failMsgs + 1 }) s)) :=
  (exec_failMessageRx hup hl).trans (congrArg _ ((if_neg (joining_not_synced hj)).trans (if_pos hj)))

/-! ### `PAIR_TAKEOVER` and its activation -/

section
variable {r : CmdRef} {s : State}

theorem exec_pairTakeover (h : goes s r 0x0802 1 = true) :
    exec (.pairTakeover r) s = .next (doPairTakeover r (admitCmd r 0x0802 1 0 .pairTakeover s)) :=
  congrArg Host.Outcome.next (runCmd_goes _ _ _ h)

/-- The command stays admitted until the unit serves (R464). -/
theorem doPairTakeover_of_synced (h : s.pair.st = .standbySynced) :
    (doPairTakeover r s).pair = { s.pair with st := .takeover, activeOut := false, trigger := 0, toRef := some r } ∧
    (doPairTakeover r s).hif.admitted = s.hif.admitted ∧ (doPairTakeover r s).tbl = s.tbl ∧ (doPairTakeover r s).sch = s.sch ∧
    (doPairTakeover r s).regs = s.regs := by
  obtain ⟨hp, hadm, htbl, hsch, -, hregs⟩ := enterTakeover_spec 0 (withPair (fun p => { p with toRef := some r }) s)
  rw [doPairTakeover, if_neg (by simp [h])]
  exact ⟨hp, hadm, htbl, hsch, hregs⟩

theorem doPairTakeover_of_other (h : s.pair.st ≠ .standbySynced) : doPairTakeover r s = refuse r stPairNot 13 0 s :=
  if_pos (bne_iff_ne.mpr h)

theorem exec_takeoverActivate (hup : s.up = true) (hst : s.pair.st = .takeover) (hb : s.pair.backlog = []) (hl : s.time.loaded = true)
    (he : s.time.epochSet = true) : exec .takeoverActivate s =
    .next (takeoverAt (nextBoundary s.time) { reach (s.time.at_ (nextBoundary s.time)) s with
      time := { (reach (s.time.at_ (nextBoundary s.time)) s).time with lastAsn := some (nextBoundary s.time) } }) := by
  change execTakeoverActivate s = _
  rw [execTakeoverActivate, if_neg (by simp [hup, hst, hb, hl, he])]
  rfl

theorem exec_takeoverActivate_of_backlog (h : s.pair.backlog ≠ []) : exec .takeoverActivate s = .next s := by
  change execTakeoverActivate s = _
  simp [execTakeoverActivate, h]

/-! ### The swap drill -/

theorem exec_swapDrill {k : Nat} (h : goes s r 0x0803 1 = true) :
    exec (.swapDrill r k) s = .next (doSwapDrill r k (admitCmd r 0x0803 1 0 (.swapDrill k) s)) :=
  congrArg Host.Outcome.next (runCmd_goes _ _ _ h)

theorem doSwapDrill_of_noStandby {k : Nat} (h : s.pair.st ≠ .active ∨ s.pair.peerOk = false) :
    doSwapDrill r k s = refuse r stPairNot 13 0 s := by
  rw [doSwapDrill, checked, if_pos]
  rcases h with h | h <;> simp [h]

section
variable {k : Nat} (hst : s.pair.st = .active) (hp : s.pair.peerOk = true) (hd : s.pair.drill = none)
include hst hp hd

/-- A standby that no drill awaits leaves the decision to the slotframe. -/
theorem doSwapDrill_of_standby : doSwapDrill r k s = checked r [(decide (63 < k) || (sfActive s k).isNone, stBad, 13, 0x000B)]
    (fun s => withPair (fun p => { p with drill := some (r, k, r.asn) }) s) s := by
  rw [doSwapDrill, checked, if_neg (by simp [hst, hp, hd])]

theorem doSwapDrill_of_noSlotframe (h : 63 < k ∨ (sfActive s k).isNone = true) : doSwapDrill r k s = refuse r stBad 13 0x000B s := by
  rw [doSwapDrill_of_standby hst hp hd, checked, if_pos (by simpa using h)]

theorem doSwapDrill_of_ready (hk : k < 64) (hs : (sfActive s k).isSome = true) :
    doSwapDrill r k s = { s with pair := { s.pair with drill := some (r, k, r.asn) } } := by
  rw [doSwapDrill_of_standby hst hp hd, checked, if_neg]
  · rfl
  · simpa using ⟨Nat.lt_succ_iff.mp hk, Option.isSome_iff_ne_none.mp hs⟩

end

/-- The journaled and announced drill point, before the unit changes its state. -/
def drillPoint (b : Nat) (s : State) : State :=
  let t := sendPair 3 b (journal (.pairpt 2 b (b + 1) (devIdOf s.sec)) s)
  withPair (fun p => { p with
    own := t.jrn.owed.map (fun o => (o.1, o.2.2))
    drillB := some b
    backlog := []
    hbMiss := 0
    hbSeen := true }) t

/-- At its boundary the active unit of a drill becomes the standby. -/
theorem exec_swapDrillBoundary {b : Nat} (hup : s.up = true) (hst : s.pair.st = .active) (hb : s.time.lastAsn = some b)
    (hd : drillDue s b = true) : exec .swapDrillBoundary s = .next (setPair .standbySynced 6 (drillPoint b s)) := by
  change execSwapDrillBoundary s = _
  simp only [execSwapDrillBoundary, hb, hup, hst, hd]
  rfl

theorem drilled_spec (b : Nat) (s : State) :
    let t := setPair .standbySynced 6 (drillPoint b s)
    t.pair.st = .standbySynced ∧ t.pair.drillB = some b ∧ t.pair.backlog = [] ∧ t.pair.activeOut = false ∧ t.tbl = s.tbl ∧
      t.sch = s.sch ∧ t.time = s.time ∧ t.regs = s.regs := by
  obtain ⟨q, w, h, e, -⟩ := setPair_eq .standbySynced 6 (drillPoint b s)
  rw [e]
  exact ⟨rfl, rfl, rfl, rfl, rfl, rfl, rfl, rfl⟩

theorem exec_drillMessageRx {b : Nat} (hup : s.up = true) (hl : s.pair.link = true) (hst : s.pair.st = .standbySynced) :
    exec (.drillMessageRx b) s = .next { s with pair := { s.pair with drillB := some b } } := by
  change execDrillMessageRx b s = _
  rw [execDrillMessageRx, hup, hl, hst]
  rfl

end

/-- Settles O45, message by message and command by command. -/
theorem pairTakeover : Obligations.PairTakeover := by
  refine ⟨fun a s hup => exec_heartbeatRx hup,
    fun s hup hm hst hr => ⟨_, exec_heartbeatLoss_of_synced hup hm hst hr, ?hbSynced⟩,
    fun s hup hm hj => ⟨_, exec_heartbeatLoss_of_joining hup hm hj, activeLost_spec s⟩,
    fun s => exec_heartbeatLoss_of_few, fun q s hup => exec_pairAckRx_of_alone hup,
    fun q role r s hup => exec_pairAckRx_of_join hup, fun s hup => exec_standbyLostTimeout hup,
    fun s => exec_standbyLostTimeout_of_other,
    fun s hup hl hst => ⟨_, exec_failMessageRx_of_synced hup hl hst, ?failSynced⟩,
    fun s hup hl hj => ⟨_, exec_failMessageRx_of_joining hup hl hj, ?failJoining⟩,
    fun s hup hl hst => ⟨_, exec_takeoverMessageRx hup hl hst, ?yields⟩,
    fun s hup hst => ⟨_, exec_pairFailAssert_of_synced hup hst, ?failPinSynced⟩,
    fun s hup hst => ⟨_, exec_pairFailAssert_of_active hup hst, ?failPinActive⟩,
    fun s hup => exec_pairFailAssert_of_other hup,
    fun r s h hst => ?takeover, fun r s h hst => ?noTakeover,
    fun s => exec_takeoverActivate, fun s => exec_takeoverActivate_of_backlog,
    fun r k s h hst hp hd hk hs => ?drill, fun r k s h hn => ?drillAlone, fun r k s h hst hp hd hn => ?drillNoSlotframe,
    fun b s hup hst hb hd => ⟨_, exec_swapDrillBoundary hup hst hb hd, drilled_spec b s⟩,
    fun b s => exec_drillMessageRx, fun b s hup hst hb hq hl => ?drillActivate⟩
  case hbSynced =>
    obtain ⟨hp, -, htbl, hsch, hsec, hregs⟩ := enterTakeover_spec 1 s
    rw [hp]
    exact ⟨rfl, rfl, htbl, hsch, hsec, hregs⟩
  case failSynced =>
    obtain ⟨hp, -, htbl, hsch, -, hregs⟩ := enterTakeover_spec 3 (withPair (fun p => { p with failMsgs := p.failMsgs + 1 }) s)
    rw [hp]
    exact ⟨rfl, rfl, rfl, htbl, hsch, hregs⟩
  case failJoining =>
    obtain ⟨hw, -, htbl, hsch, hregs⟩ := activeLost_spec (withPair (fun p => { p with failMsgs := p.failMsgs + 1 }) s)
    exact ⟨hw, htbl, hsch, hregs⟩
  case yields =>
    obtain ⟨hst, ho, hp, hj, hsec, hregs, -⟩ := yieldActive_spec 3 s
    exact ⟨hst, ho, hp, hj, congrArg _ hsec, hregs⟩
  case failPinSynced =>
    obtain ⟨hp, -, htbl, hsch, -⟩ := enterTakeover_spec 2 (withPair (fun p => { p with failIn := true }) s)
    rw [hp]
    exact ⟨rfl, rfl, rfl, htbl, hsch⟩
  case failPinActive =>
    obtain ⟨hst, ho, -, hj, -, -, hf⟩ := yieldActive_spec 2 (withPair (fun p => { p with failIn := true }) s)
    exact ⟨hst, ho, hf, hj⟩
  case takeover =>
    obtain ⟨hp, hadm, htbl, hsch, hregs⟩ := doPairTakeover_of_synced (r := r) (s := admitCmd r 0x0802 1 0 .pairTakeover s)
      (by rw [admitCmd_pair]; exact hst)
    refine ⟨_, exec_pairTakeover h, ?_⟩
    rw [hp]
    exact ⟨rfl, rfl, rfl, hadm, htbl.trans (admitCmd_tbl ..), hsch.trans (admitCmd_sch ..), hregs.trans (admitCmd_regs ..)⟩
  case noTakeover => rw [exec_pairTakeover h, doPairTakeover_of_other (by rw [admitCmd_pair]; exact hst)]
  case drill =>
    rw [exec_swapDrill h, doSwapDrill_of_ready (by rw [admitCmd_pair]; exact hst) (by rw [admitCmd_pair]; exact hp)
      (by rw [admitCmd_pair]; exact hd) hk (by rw [admitCmd_sfActive]; exact hs), admitCmd_pair]
  case drillAlone => rw [exec_swapDrill h, doSwapDrill_of_noStandby (by rw [admitCmd_pair]; exact hn)]
  case drillNoSlotframe =>
    rw [exec_swapDrill h, doSwapDrill_of_noSlotframe (by rw [admitCmd_pair]; exact hst) (by rw [admitCmd_pair]; exact hp)
      (by rw [admitCmd_pair]; exact hd) (by rw [admitCmd_sfActive]; exact hn)]
  case drillActivate =>
    change execDrillActivate s = _
    simp only [execDrillActivate, hb]
    rw [if_pos (by simp [hup, hst, hq, hl])]
    rfl

end Sys2Proof.Machine
end
